-- ==== Sys2Proof/Word.lean ====
section
/-!
DEFINITION. The word types of the block: a byte, a register word and a T64 instant (R4), and their plainest reading.
-/

namespace Sys2Proof

/-- One byte of a record, an image or a memory. -/
abbrev Byte := BitVec 8

/-- One 32-bit register word (R427). -/
abbrev Word := BitVec 32

/-- An instant of Fleet Time: 0.25 ns ticks since the IEEE 1588 epoch, wrapping at 2^64 (R4). -/
abbrev T64 := BitVec 64

/-- The period number of an instant, T64 >> 18 (R5). -/
def T64.period (t : T64) : Nat := t.toNat / 2 ^ 18

/-- The path number within the period, T64[17:14] (R5). -/
def T64.path (t : T64) : Nat := t.toNat / 2 ^ 14 % 16

/-- The boundary of period p: T64 = p × 2^18 (R6). -/
def T64.boundary (p : Nat) : T64 := BitVec.ofNat 64 (p * 2 ^ 18)

/-- The two's-complement reading of the low `w` bits of `n` (R15). -/
def signed (w n : Nat) : Int :=
  if n % 2 ^ w < 2 ^ (w - 1) then (n % 2 ^ w : Nat) else (n % 2 ^ w : Nat) - (2 ^ w : Nat)

/-- The low `w` bits of an integer, in two's complement (R15). -/
def unsigned (w : Nat) (i : Int) : Nat := (i % (2 ^ w : Nat)).toNat

end Sys2Proof
end

