-- ==== Sys2Proof/Config.lean ====
section
/-!
DEFINITION. What the manual leaves open. Every constant here is opaque: it has no body, so nothing proved of the model rests on
a value of it. The rows of notes/assumptions that own each constant are named beside it.
-/

namespace Sys2Proof.Config

/-- A fresh open value: the model applies it to a counter its state holds, and reduces it into the set the manual allows
(identifiers the device chooses, choices among admissible alternatives). DESIGN CHOICE; assumption 3. -/
opaque freeNat : Nat → Nat

/-- What a counter without the word "saturating" reads after an event at its largest value; by field and instance.
DESIGN CHOICE; assumption 4. -/
opaque counterPast : Nat → Nat → Nat

/-- The timebase filter (R47): the filtered offset, in half ticks, after a measurement that is no outlier. The manual does not give
the filter. DESIGN CHOICE; assumption 9. -/
opaque timeFilter : Int → Int → Int

/-- The attributes of the data set that a TAU announces of its own (R43, R45), by number: priority1, clockClass, accuracy, variance,
priority2, identity. The manual gives no register of them. DESIGN CHOICE; assumption 39. -/
opaque ownClock : Nat → Nat

/-- The FT that a TOD_SET beyond the range of R40 would set. DESIGN CHOICE; assumption 10. -/
opaque todBeyond : Nat → BitVec 64

/-- The 64-bit digest of a finished train that two ROOTs exchange (R23): the manual names no function. DESIGN CHOICE;
assumption 19. -/
opaque trainDigest : List Byte → Nat

/-- The stream that the encoder writes at an effort (R366): the manual does not specify its bytes. DESIGN CHOICE; assumption 21. -/
opaque deflate : Nat → List (BitVec 8) → List (BitVec 8)

/-- How the Flistan reaches the TAU with a RANK_BASE: 0 over switch-core ports, j + 1 over long-haul port j. The network's shape is
outside the manual. DESIGN CHOICE; assumption 20. -/
opaque route : Nat → Nat

/-- The site of the TAU that seals under a sender id (R380, R382): the sender's SITE names its key, and an envelope does not carry
it. DESIGN CHOICE; assumption 20. -/
opaque siteOf : Nat → Nat

/-- Whether the link of a management port is up, by port and FT (R335): the manual has no command that tells it. DESIGN CHOICE;
assumption 65. -/
opaque portUp : Nat → Nat → Bool

/-- LEN of an echo on VC_T (R57, R310): the manual does not give an echo's layout. DESIGN CHOICE; assumption 65. -/
opaque echoLen : Nat

/-- Item and body of the recorder records whose CODE the manual does not give (R385, R386), by number. DESIGN CHOICE;
assumption 22. -/
opaque recItem : Nat → Nat

/-- The body of those records. DESIGN CHOICE; assumption 22. -/
opaque recBody : Nat → List (BitVec 8)

end Sys2Proof.Config
end

