-- ==== Sys2Proof/Syntax.lean ====
section
/-!
DEFINITION. The commands of the block: one constructor for each row of spec/opcode_table.json, with the row's operands.
An operand `t` is the Fleet Time of the unit that takes the command, at the instant the row names. Records, datagrams and images
arrive as raw bytes, so that every check of the manual on them is made by the model. `mem` and `img` are the bytes that the
device reads from the HBM partition or from tray-host memory while it carries the command out (assumption 6).
-/

namespace Sys2Proof

/-- The ports from which a register access can come (R427). -/
inductive Port where
  /-- Tray host of a TAU, or die host of a TDU. -/
  | host
  /-- A management port of a TAU. -/
  | mgmt (n : Fin 2)
  /-- A control core of a TAU: of section 0 to 3, or 4 the island's. -/
  | core (n : Fin 5)
  /-- The TRAY TAU's path into a TDU. -/
  | tau
  deriving DecidableEq, Repr

/-- The data set that an Announce carries into the best master clock algorithm (R43; IEEE 1588-2019 clause 9.3). -/
structure ClockSet where
  priority1 : Nat
  clockClass : Nat
  accuracy : Nat
  variance : Nat
  priority2 : Nat
  identity : Nat
  steps : Nat
  /-- sourcePortIdentity of the port that sent the Announce: clock identity, then port number. -/
  sender : Nat
  deriving DecidableEq, Repr

/-- What the TAU takes from an IEEE 1588 message (R40, R42, R43, R60): the domain, the transport (UDP over IPv6 or IEEE 802.3), the
sequence number, the timestamp and correction it carries, and the step flag. -/
structure PtpMsg where
  domain : Nat
  udp : Bool
  seq : Nat
  sec : Nat
  ns : Nat
  corr : Int
  twoStep : Bool
  deriving DecidableEq, Repr

/-- What the TAU takes from an Announce (R42, R43). -/
structure Announce where
  domain : Nat
  udp : Bool
  ptpTimescale : Bool
  utcOffset : Nat
  set : ClockSet
  deriving DecidableEq, Repr

/-- What the trace port shows in one core cycle (R105): instructions retired, their PC, and whether the code is privileged or
secure. -/
structure TraceCycle where
  ret : Nat
  pc : Nat
  priv : Bool
  sec : Bool
  deriving DecidableEq, Repr

/-- What the CORE_CLK-domain inputs of R105 show in one core cycle, but for STRETCH, whose edges are commands of their own. `low`:
the event lines that stand at 0; a line rises only by its own command. -/
structure CoreCycle where
  low : BitVec 256
  mxIssue : Bool
  expStall : Bool
  expBlk : BitVec 16
  memRd : Bool
  memWr : Bool
  eccCe : Bool
  eccUe : Bool
  throttle : Bool
  idle : Bool
  tp : TraceCycle
  deriving DecidableEq, Repr

/-- The core cycles from the last command that told of them up to this one: runs of equal cycles, oldest first, and what the trace
port shows in the three cycles after the last (R113). -/
structure CoreAct where
  runs : List (Nat × CoreCycle)
  after : List TraceCycle
  deriving DecidableEq, Repr

/-- The collective tag of a data-VC flit (R275). -/
structure FlitTag where
  tap : Bool
  result : Bool
  own : Bool
  coll : Nat
  inst : Nat
  offset : Nat
  src : Nat
  dst : Nat
  deriving DecidableEq, Repr

/-- A flow event of the trace port (R348). -/
structure FlowEvent where
  kind : Nat
  nret : Nat
  addr : Nat
  priv : Bool
  sec : Bool
  deriving DecidableEq, Repr

/-- An egress port of a TAU (R314). -/
inductive EgressPort where
  | up
  | standby
  | exporter
  | down (c : Fin 64)
  deriving DecidableEq, Repr

/-- One end of a chip-to-chip link: the TAU's of link l, or the TDU's of link A (0) or B (1) (R32). -/
inductive LinkEnd where
  | tau (l : Fin 32)
  | tdu (l : Fin 2)
  deriving DecidableEq, Repr

/-- One of the two blocks, for commands that both take. -/
inductive Block where
  | tau
  | tdu
  deriving DecidableEq, Repr

/-- Where a record comes from at a TAU (R32, R177, R180): a chip-to-chip link, an attached child TAU over the network with the
section whose parser takes it, the parent, or a TAU that is not attached, over long-haul port j or the switch core. -/
inductive Sender where
  | link (l : Fin 32)
  | child (c : Fin 64) (sec : Fin 4)
  | parent
  | other (via : Option (Fin 16))
  deriving DecidableEq, Repr

/-- What a block reads in memory for the command that a register write gives, in the order in which it reads. -/
structure Reads where
  a : List Byte
  b : List Byte
  c : List Byte
  deriving DecidableEq, Repr

/-- The commands and events of the block (spec/opcode_table.json). -/
inductive Instr where
  /-- ROLE_WRITE (R19): A write of GEN.ROLE_CFG.ROLE takes the TAU's role once, or is refused and counted. -/
  | roleWrite (t : T64) (port : Port) (v : BitVec 32)
  /-- ATTACH_GO (R451): A write of GEN.ATTACH.GO sends an attach request to the primary parent, or is refused. -/
  | attachGo (t : T64) (port : Port) (v : BitVec 32)
  /-- ATTACH_REQUEST_RX (R451): A parent receives an attach request, checks role, fan-in, range and READY offset, and answers. -/
  | attachRequestRx (t : T64) (via : Option (Fin 16)) (r : List Byte)
  /-- ATTACH_ANSWER_RX (R463): A requester receives an attach answer and writes its code to GEN.ATTACH_STAT. -/
  | attachAnswerRx (t : T64) (r : List Byte)
  /-- ADOPT_REQUEST_RX (R198): An alternate parent receives an orphan's attach request with ADOPT set, posts an ADOPT exception and passes the request to its own parent. -/
  | adoptRequestRx (t : T64) (up : Option (Fin 64)) (via : Option (Fin 16)) (r : List Byte)
  /-- ADOPT_CONFIRMATION_RX (R198): The alternate receives the grandparent's confirmation or refusal of an adoption and answers the orphan. -/
  | adoptConfirmationRx (t : T64) (r : List Byte)
  /-- PROMOTE_GO (R24): A management-port write of GEN.PROMOTE.GO arms the promotion of a standby ROOT at the named period, or is refused. -/
  | promoteGo (t : T64) (port : Port) (v : BitVec 32)
  /-- TRAIN_DIGEST_RX (R23): An active or standby ROOT receives the other's 64-bit train digest and records and counts any mismatch. -/
  | trainDigestRx (t : T64) (job consist : BitVec 16) (period : Nat) (digest : BitVec 64)
  /-- LINK_UP (R32): A die's link comes up, and queued records and time words resume on it. -/
  | linkUp (t : T64) (e : LinkEnd)
  /-- LINK_DOWN (R32): A die's link goes down; sending moves to the other link and a record cut part-way is sent again whole. -/
  | linkDown (t : T64) (e : LinkEnd) (cut : Bool)
  /-- LINK_DISCARD_REPORT (R32): A link controller reports a record lost after it took it, and the sender counts the loss. -/
  | linkDiscardReport (t : T64) (e : LinkEnd)
  /-- LINK_RETRAIN (R58): A link retrains; the TDU discards its time words until a new echo completes and counts the retraining. -/
  | linkRetrain (t : T64) (link : Fin 2)
  /-- MAIN_RAILS_LOSS (R478): PG_MAIN falls for more than 100 ns; sections are held in reset, work in flight is lost, and the island carries on. -/
  | mainRailsLoss (t : T64)
  /-- MAIN_RESET (R447): PG_MAIN rises or the host endpoint takes a PCIe fundamental reset, and GEN and every section page are reset to WAIT_FW. -/
  | mainReset (t : T64) (pcie : Bool)
  /-- COLD_RESET (R447): ISL_PG rises after the module input is applied, and the whole TAU is reset. -/
  | coldReset
  /-- ISL_PG_FALL (R477): MOD_64V drops below 40 V, ISL_PG falls and the TAU goes off. -/
  | islPgFall (t : T64)
  /-- PTP_SYNC_RX (R47): A port receives a Sync, forms an offset measurement and passes it to the timebase filter. -/
  | ptpSyncRx (t : T64) (port : Fin 18) (m : PtpMsg)
  /-- PTP_FOLLOW_UP_RX (R60): A port receives a Follow_Up carrying t1 for a two-step Sync. -/
  | ptpFollowUpRx (t : T64) (port : Fin 18) (m : PtpMsg)
  /-- PTP_DELAY_REQ_RX (R60): A master port receives a Delay_Req, stamps t4 and answers with Delay_Resp. -/
  | ptpDelayReqRx (t : T64) (port : Fin 18) (m : PtpMsg)
  /-- PTP_DELAY_RESP_RX (R60): A slave port receives a Delay_Resp and computes the mean path delay and offset. -/
  | ptpDelayRespRx (t : T64) (port : Fin 18) (m : PtpMsg)
  /-- PTP_PDELAY_REQ_RX (R43): A port receives a Pdelay_Req and answers with Pdelay_Resp. -/
  | ptpPdelayReqRx (t t3 : T64) (port : Fin 18) (m : PtpMsg)
  /-- PTP_PDELAY_RESP_RX (R60): A port receives a Pdelay_Resp for its peer-delay measurement. -/
  | ptpPdelayRespRx (t : T64) (port : Fin 18) (m : PtpMsg)
  /-- PTP_PDELAY_RESP_FOLLOW_UP_RX (R60): A port receives a Pdelay_Resp_Follow_Up and completes its peer-delay measurement. -/
  | ptpPdelayRespFollowUpRx (t : T64) (port : Fin 18) (m : PtpMsg)
  /-- PTP_ANNOUNCE_RX (R42): A port receives an Announce, qualifies or unqualifies the source by ptpTimescale and runs best master clock. -/
  | ptpAnnounceRx (t : T64) (port : Fin 18) (a : Announce)
  /-- PTP_SIGNALING_MANAGEMENT_RX (R43): A Signaling or Management message arrives and is discarded without reply. -/
  | ptpSignalingManagementRx (t : T64)
  /-- PTP_TRANSMIT_INTERVAL (R43): A port's message interval expires and it sends its Sync, Announce or delay request. -/
  | ptpTransmitInterval (t : T64) (port : Fin 18) (kind : Fin 3)
  /-- PPS_IN_EDGE (R46): A PPS_IN edge is stamped in FT, feeds PPS_OFFSET and source 18, and sets FT from an armed TOD_SET. -/
  | ppsInEdge (t : T64) (inTol : Bool)
  /-- REF10M_IN_QUALIFIED (R482): REF10M_IN has held within 1 ppm for 1 s, becomes qualified and the island PLL locks to it. -/
  | ref10mInQualified (t : T64)
  /-- REF10M_IN_DISQUALIFIED (R482): REF10M_IN misses an edge or leaves its limit for 1 ms and is disqualified. -/
  | ref10mInDisqualified (t : T64)
  /-- TOD_SET (R52): A write of TIME.TOD_SET_LO arms setting FT at the next PPS_IN edge, or is ignored and counted outside UNSET. -/
  | todSet (t : T64) (port : Port) (v : BitVec 32)
  /-- JUMP_ACCEPT (R50): A write of TIME.JUMP_ACCEPT with GO accepts a refused offer for slewing at the next boundary, or counts a write without effect. -/
  | jumpAccept (t : T64) (port : Port) (v : BitVec 32)
  /-- TIME_WORD_TX (R54): At every multiple of 2^12 ticks the TAU sends a time word on every up link. -/
  | timeWordTx (t : T64)
  /-- TIME_WORD_RX (R65): A TDU receives a time word, checks it and steers, locks, re-acquires or discards it. -/
  | timeWordRx (t : T64) (link : Fin 2) (w : List Byte)
  /-- ECHO_RX (R57): The TAU receives an echo, stamps t2 and sends a reply within 1,024 ticks. -/
  | echoRx (t : T64) (link : Fin 32)
  /-- ECHO_REPLY_RX (R57): The TDU receives an echo reply and computes the link delay. -/
  | echoReplyRx (t : T64) (link : Fin 2) (t2 t3 : T64)
  /-- TW_LOST_TIMEOUT (R66): No valid word arrives on either link for TW_LOST word intervals and the TDU enters HOLDOVER. -/
  | twLostTimeout (t : T64)
  /-- TDU_GATE_ASSERT (R479): TDU_GATE is asserted; the region is gated, counters go into retention and the trace ring is lost. -/
  | tduGateAssert (t : T64) (act : CoreAct)
  /-- TDU_GATE_RELEASE (R479): The gated region restarts and the TDU re-acquires with a gap record. -/
  | tduGateRelease (t : T64)
  /-- VDD_TDU_LOSS (R479): VDD_TDU falls without TDU_GATE; retained state is cleared and re-acquisition follows with CAUSE 3. -/
  | vddTduLoss (t : T64)
  /-- TDU_REFIN_STOP (R483): TDU_REFIN stops, which stops the reference time clock and leads to REACQUIRE. -/
  | tduRefinStop (t : T64)
  /-- TDU_POR (R447): TDU_POR_N rises and all TDU state is reset to ROM. -/
  | tduPor (lc : Fin 8) (dieId : BitVec 64)
  /-- STRETCH_ASSERT (R139): STRETCH is asserted and the TDU stamps the start of a core-clock stretch. -/
  | stretchAssert (t : T64) (act : CoreAct)
  /-- STRETCH_DEASSERT (R139): STRETCH is deasserted and the TDU stamps the end of the stretch. -/
  | stretchDeassert (t : T64) (act : CoreAct)
  /-- STRETCH_MERGE_EXPIRY (R139): STRETCH_MERGE ticks pass after an end with no new start and a CORE_STRETCH event coach is queued. -/
  | stretchMergeExpiry (t : T64)
  /-- TEV_EDGE (R70): A timed event output reaches an instant of its grid and produces an edge. -/
  | tevEdge (t : T64) (k : Fin 4)
  /-- PPS_OUT_EDGE (R69): PPS_OUT rises at each whole second of FT. -/
  | ppsOutEdge (t : T64)
  /-- TAU_PERIOD_BOUNDARY (R30): At each period boundary the TAU commits pending groups and opens, releases and judges contexts. -/
  | tauPeriodBoundary (t : T64) (upset : List (Nat × Nat × Nat))
  /-- TDU_PERIOD_BOUNDARY (R111): At each period boundary the TDU freezes the snapshot, evaluates detectors and commits pending groups. -/
  | tduPeriodBoundary (t : T64) (act : CoreAct) (upset : List (Nat × Nat))
  /-- TDU_PATH_BOUNDARY (R76): At each path boundary the TDU enters due coaches and serves its queues within allowance B. -/
  | tduPathBoundary (t : T64)
  /-- TAU_PATH_BOUNDARY (R322): At each path boundary the TAU samples its queues and flushes IPFIX messages. -/
  | tauPathBoundary (t : T64) (reach : Bool)
  /-- TRIGGER_FIRE (R88): A trigger generator fires, pulses TRIG_OUT and acts by its KIND. -/
  | triggerFire (t : T64) (k : Fin 8)
  /-- MARKER_PRESENT (R91): The step sideband presents a marker, which is stamped, queued and checked for order. -/
  | markerPresent (t : T64) (code : Fin 8) (step : BitVec 32) (coll : BitVec 16) (slot : BitVec 8)
  /-- PHASE_PRESENT (R122): The phase sideband presents a collective phase, which is stamped, queued and checked. -/
  | phasePresent (t : T64) (code : Fin 8) (coll : BitVec 16)
  /-- SENSOR_RESULT (R119): The sensor hub presents a result, which is stored, tagged or dropped. -/
  | sensorResult (t : T64) (ch : Fin 64) (val : BitVec 32) (err : Bool)
  /-- LINK_RETRY_STROBE (R106): An LK_RETRY strobe is counted, stamped and may give a retry-interval sample. -/
  | linkRetryStrobe (t : T64) (link : Fin 2)
  /-- COUNTER_OVERFLOW (R112): A sampling counter overflows, reloads and captures an overflow sample. -/
  | counterOverflow (t : T64) (act : CoreAct)
  /-- PRG_HI_WRITE (R110): A write of TPMU.PRG_HI writes all 48 bits of a programmable counter. -/
  | prgHiWrite (t : T64) (port : Port) (k : Fin 64) (v : BitVec 32) (act : CoreAct)
  /-- TDU_INTR_WINDOW (R99): A new FT second starts and one interrupt is raised for all pending TDU causes. -/
  | tduIntrWindow (t : T64)
  /-- TAU_INTR_WINDOW (R101): A new FT second starts and one interrupt is raised for all pending TAU causes. -/
  | tauIntrWindow (t : T64)
  /-- COACH_ARRIVAL (R183): A DATA coach, PULSE coach or train arrives, is metered, checked and merged or dropped. -/
  | coachArrival (t : T64) (from_ : Sender) (r : List Byte)
  /-- EVENT_COACH_RX (R178): An EVENT or GAP coach is checked, recorded and forwarded upward by severity. -/
  | eventCoachRx (t : T64) (from_ : Sender) (r : List Byte)
  /-- CONTEXT_ADMIT (R181): At ADMIT a context releases its held arrivals and starts collecting. -/
  | contextAdmit (t : T64)
  /-- CONTEXT_CLOSE (R181): At CLOSE a context stops merging and starts its build. -/
  | contextClose (t : T64)
  /-- TRAIN_BUILD_COMPLETE (R181): A train's build completes with coverage, header and trailer, and the train is queued. -/
  | trainBuildComplete (t : T64) (job consist : BitVec 16) (period : Nat) (reach : Bool)
  /-- EXC_ACK (R210): Firmware acknowledges an exception through SCB.EXC_ACK, accepting or refusing an ADOPT. -/
  | excAck (t : T64) (port : Port) (sec : Fin 4) (v : BitVec 32)
  /-- EXC_DEADLINE_EXPIRY (R210): An unacknowledged exception becomes stuck, takes its default and may fail the section. -/
  | excDeadlineExpiry (t : T64) (sec : Fin 4)
  /-- SURVEY_ISSUE (R217): A write of SRV.ISSUE.GO admits and forwards the survey in the descriptor buffer, or refuses it. -/
  | surveyIssue (t : T64) (port : Port) (v : BitVec 32)
  /-- SURVEY_DESCRIPTOR_RX (R219): A child TAU receives a survey-descriptor record, admits it and forwards it, or answers BUSY. -/
  | surveyDescriptorRx (t : T64) (r : List Byte)
  /-- TDU_SURVEY_RX (R220): A TDU receives a survey, fetch or arm and takes a slot or answers BUSY. -/
  | tduSurveyRx (t : T64) (r : List Byte)
  /-- SURVEY_CANCEL (R224): A write of SRV.CANCEL.GO cancels a survey at its issuer. -/
  | surveyCancel (t : T64) (port : Port) (v : BitVec 32)
  /-- SURVEY_CANCEL_RX (R224): A child TAU receives a survey-cancel record and passes it down. -/
  | surveyCancelRx (t : T64) (r : List Byte)
  /-- TDU_SURVEY_CANCEL_RX (R220): A TDU receives a cancel, frees the survey slot and stops answering. -/
  | tduSurveyCancelRx (t : T64) (r : List Byte)
  /-- SURVEY_ANSWER_RX (R222): A TAU receives a MATCH or DIGEST answer and folds it, passes it up or stores it. -/
  | surveyAnswerRx (t : T64) (from_ : Sender) (r : List Byte)
  /-- SURVEY_END_RX (R222): A TAU receives a child's END and adds its counts. -/
  | surveyEndRx (t : T64) (from_ : Sender) (r : List Byte)
  /-- SURVEY_DEADLINE (R222): At the deadline boundary pending children are counted as TIMEOUT and the END is sent. -/
  | surveyDeadline (t : T64)
  /-- STRAGGLER_WINDOW_TIMEOUT (R226): A straggler window open for ST_MAXWIN periods is closed unjudged. -/
  | stragglerWindowTimeout (t : T64) (unit : Fin 8)
  /-- BACKUP_WAIT_EXPIRY (R231): A copy missing ST_MAXWIN periods after close posts BACKUP_FIRST with AUX 2. -/
  | backupWaitExpiry (t : T64) (pair : Fin 16)
  /-- DRIFT_CAPTURE (R233): A write of DR_CAP.GO captures the next window as baseline. -/
  | driftCapture (t : T64) (port : Port) (k : Fin 16) (v : BitVec 32)
  /-- PULSE_ACK_RX (R236): A child TAU receives a pulse acknowledgement and takes its bound and holdover flag. -/
  | pulseAckRx (t : T64) (port : Option (Fin 18)) (r : List Byte)
  /-- PROBE_RX_TDU (R239): A TDU answers a probe on the link it came in on with flit counts and state. -/
  | probeRxTdu (t : T64) (link : Fin 2) (r : List Byte)
  /-- CHILD_PROBE_RX (R461): A child TAU's island answers a probe with its service state and pulse counts. -/
  | childProbeRx (t : T64) (r : List Byte)
  /-- PROBE_ANSWER_RX (R239): The probing TAU receives a probe answer. -/
  | probeAnswerRx (t : T64) (from_ : Sender) (r : List Byte)
  /-- PROBE_CLASSIFY (R240): At boundary q + 2 the probe is classified and a LIVENESS verdict posted. -/
  | probeClassify (t : T64) (child : Fin 64) (upA upB dataA dataB : Bool)
  /-- LIVENESS_REPROBE (R235): LV_REPROBE periods after the last probe a CONTESTED child is probed again. -/
  | livenessReprobe (t : T64) (child : Fin 64)
  /-- VECTOR_SCORED (R261): A formed vector's trees are walked and its outputs compared and acted on. -/
  | vectorScored (t : T64) (sec : Fin 4)
  /-- FILL_CUTOFF (R270): At CLOSE plus 16,128 ticks fills stop, and unfilled scores are counted. -/
  | fillCutoff (t : T64)
  /-- HOST_VECTOR_SUBMIT (R264): A write of TREE.HV_CMD.GO queues a host vector, or is refused. -/
  | hostVectorSubmit (t : T64) (port : Port) (sec : Fin 4) (v : BitVec 32) (mem : List Byte)
  /-- HOST_VECTOR_COMPLETE (R264): A host vector is scored and its result written to HV_RES and HV_STAT. -/
  | hostVectorComplete (t : T64) (sec : Fin 4)
  /-- FENCE_ACK (R269): A write of TREE.FENCE_ACK.GO records an acknowledgement and posts FENCE_ACK. -/
  | fenceAck (t : T64) (port : Port) (v : BitVec 32)
  /-- TAP_FLIT (R283): A TDU link tap sees a data-VC flit, counts it and hashes it into a slot or filter. -/
  | tapFlit (t : T64) (link dir : Fin 2) (tag : Option FlitTag) (payload : List Byte)
  /-- CHUNK_FETCH_RX (R290): A TDU answers a CHUNK_FETCH from its chunk store, freezing or releasing it. -/
  | chunkFetchRx (t : T64) (r : List Byte)
  /-- CHUNK_FREEZE_TIMEOUT (R286): CH_HOLD periods after a freeze the chunk store unfreezes. -/
  | chunkFreezeTimeout (t : T64)
  /-- TAP_ARM_RX (R290): A TDU arms a filter from a TAP_ARM request. -/
  | tapArmRx (t : T64) (r : List Byte)
  /-- FILTER_DEADLINE (R288): A filter still ARMED or OPEN at its deadline closes NEVER_SEEN or DEADLINE. -/
  | filterDeadline (t : T64) (f : Fin 2)
  /-- TAP_UNIT_ARM (R288): A write of AGR.T_CTRL.GO arms a gateway tap unit, or is refused. -/
  | tapUnitArm (t : T64) (port : Port) (k : Fin 8) (v : BitVec 32)
  /-- TAP_UNIT_DISARM (R288): A write of AGR.T_CTRL.DISARM closes a tap unit CANCELLED. -/
  | tapUnitDisarm (t : T64) (port : Port) (k : Fin 8) (v : BitVec 32)
  /-- TAP_UNIT_FLIT (R287): A tap unit sees a flit at its point, hashes it or closes DONE_NEXT. -/
  | tapUnitFlit (t : T64) (unit : Fin 8) (tag : Option FlitTag) (payload : List Byte)
  /-- TAP_UNIT_IDLE_TIMEOUT (R288): An open tap unit with no flit for TAP_IDLE periods closes DONE_IDLE. -/
  | tapUnitIdleTimeout (t : T64) (unit : Fin 8)
  /-- TAP_UNIT_DEADLINE (R288): A tap unit reaching T_DEADLINE closes NEVER_SEEN or DEADLINE and posts HOP_DIGEST. -/
  | tapUnitDeadline (t : T64) (unit : Fin 8)
  /-- SLICE_REQUEST (R299): A ready slice with enough credit asserts SCR_REQ, or is refused. -/
  | sliceRequest (t : T64)
  /-- SLICE_GRANT (R299): SCR_GNT arrives; credit is debited and the margin point requested. -/
  | sliceGrant (t : T64)
  /-- SLICE_REQUEST_TIMEOUT (R299): REQ_TMO periods without a grant withdraw the request. -/
  | sliceRequestTimeout (t : T64)
  /-- MARGIN_ACK (R299): MG_ACK starts the first pattern, or in RESTORE ends the slice and queues SCREEN_SUM. -/
  | marginAck (t : T64)
  /-- MARGIN_NAK (R299): MG_NAK leaves the slice's patterns NOT_RUN and restores index 0. -/
  | marginNak (t : T64)
  /-- MARGIN_SETTLE_TIMEOUT (R299): No margin answer within MG_SETTLE acts as a refusal. -/
  | marginSettleTimeout (t : T64)
  /-- PATTERN_WORD (R300): PT_VALID presents a result word, which is hashed. -/
  | patternWord (t : T64) (w : BitVec 64)
  /-- PATTERN_DONE (R299): PT_DONE judges the pattern and starts the next or restores. -/
  | patternDone (t : T64)
  /-- SLICE_REVOKE (R299): SCR_REVOKE aborts the pattern and restores, or ends RESTORE. -/
  | sliceRevoke (t : T64)
  /-- SLICE_OVERRUN (R299): The slice end is reached while running and the pattern is aborted. -/
  | sliceOverrun (t : T64)
  /-- SCREEN_SUM_RX (R301): A TRAY TAU adds a SCREEN_SUM into its tally and updates the die's pending run. -/
  | screenSumRx (t : T64) (from_ : Sender) (r : List Byte)
  /-- SCREEN_FAIL_RX (R302): A SCREEN_FAIL coach is forwarded under the cap or posted as a verdict at FAIL_TOP. -/
  | screenFailRx (t : T64) (from_ : Sender) (r : List Byte)
  /-- TALLY_SEND (R301): Every 2^TALLY_DIV periods a TAU sends TALLY coaches of changes to its parent. -/
  | tallySend (t : T64)
  /-- TALLY_RX (R301): A parent adds a TALLY's changes, or drops and counts it. -/
  | tallyRx (t : T64) (from_ : Sender) (r : List Byte)
  /-- VC_CREDIT_RETURN (R307): VC_T credit returns to a link sender and held flits may go. -/
  | vcCreditReturn (t : T64) (e : LinkEnd) (n : Nat)
  /-- EGRESS_TRANSMIT_START (R316): When the shaper permits, fair queueing picks the next record and the shaper is charged. -/
  | egressTransmitStart (t : T64) (port : EgressPort) (reach : Bool)
  /-- MGMT_READ (R324): A management READ command reads one word and replies. -/
  | mgmtRead (t : T64) (port : Fin 2) (src : BitVec 128) (sport : BitVec 16) (env : List Byte) (dup : Nat)
  /-- MGMT_WRITE (R324): A management WRITE command writes one word, records MGMT_WRITE and replies. -/
  | mgmtWrite (t : T64) (port : Fin 2) (src : BitVec 128) (sport : BitVec 16) (env : List Byte) (dup : Nat) (m : Reads)
  /-- MGMT_READ_BLOCK (R324): A management READ_BLOCK command reads 1 to 256 words and replies. -/
  | mgmtReadBlock (t : T64) (port : Fin 2) (src : BitVec 128) (sport : BitVec 16) (env : List Byte) (dup : Nat)
  /-- MGMT_INVALID_OP (R324): A management command with another OP completes REFUSED_FIT. -/
  | mgmtInvalidOp (t : T64) (port : Fin 2) (src : BitVec 128) (sport : BitVec 16) (env : List Byte) (dup : Nat)
  /-- ICMPV6_ECHO_REQUEST (R323): A management port answers an ICMPv6 echo request. -/
  | icmpv6EchoRequest (t : T64) (port : Fin 2) (src : BitVec 128) (r : List Byte)
  /-- NEIGHBOR_DISCOVERY (R323): A management port handles a Neighbor Discovery message. -/
  | neighborDiscovery (t : T64) (port : Fin 2) (src target : BitVec 128) (adv : Bool)
  /-- TEMPLATE_REFRESH (R327): Every TPL_REFRESH seconds the IPFIX templates are sent again. -/
  | templateRefresh (t : T64)
  /-- RELAY_PAYLOAD_RX (R333): A relay TAU receives an export payload and sends it unchanged to its collector. -/
  | relayPayloadRx (t : T64) (child : Option (Fin 64)) (e : List Byte)
  /-- FREEZE_START (R344): A write of FRZ_CMD.GO pins the ring's records and starts the copy, or is refused. -/
  | freezeStart (t : T64) (port : Port) (ring : Fin 5) (v : BitVec 32)
  /-- FREEZE_COPY_COMPLETE (R345): A FREEZE copy completes, sets FRZ_STAT and raises FREEZE_DONE. -/
  | freezeCopyComplete (t : T64) (ring : Fin 5)
  /-- WINDOW_DATA_READ (R345): A read of WIN_DATA returns the next word of the freeze window. -/
  | windowDataRead (t : T64) (port : Port) (ring : Fin 5)
  /-- WINDOW_DONE (R345): A write of WIN_DONE closes the window and unpins remaining records. -/
  | windowDone (t : T64) (port : Port) (ring : Fin 5) (v : BitVec 32)
  /-- WINDOW_TIMEOUT (R345): WIN_TMO periods after GO the window closes. -/
  | windowTimeout (t : T64) (ring : Fin 5)
  /-- SNAPSHOT_READ (R347): A write of REC.SNAP_SEQ copies one record into SNAP_BUF. -/
  | snapshotRead (t : T64) (port : Port) (sec : Fin 4) (v : BitVec 32)
  /-- FLOW_EVENT (R348): The trace port presents a flow event, which is coded into packets in the ring. -/
  | flowEvent (t : T64) (full : Bool) (e : FlowEvent)
  /-- TRACE_TRIGGER_GO (R357): A write of TTRC.CMD.TRIG_GO fires trigger source 0. -/
  | traceTriggerGo (t : T64) (port : Port) (v : BitVec 32)
  /-- TRACE_ARM (R356): A write of TTRC.CMD.ARM re-arms the trace from STOPPED. -/
  | traceArm (t : T64) (port : Port) (v : BitVec 32)
  /-- AUTH_REVOKE (R354): A write of TTRC.AUTH_REVOKE ends the debug authorisation. -/
  | authRevoke (t : T64) (port : Port) (v : BitVec 32)
  /-- DEBUG_AUTH_START (R354): FT reaches NOT_BEFORE and a loaded authorisation starts admitting. -/
  | debugAuthStart (t : T64)
  /-- DEBUG_AUTH_EXPIRY (R354): FT reaches NOT_AFTER, the authorisation ends and EXCL is written. -/
  | debugAuthExpiry (t : T64)
  /-- TRACE_GRANT_RX (R465): A TDU receives a trace grant and adds to TTRC.GRANT. -/
  | traceGrantRx (t : T64) (r : List Byte)
  /-- SIDING_POST (R360): A write of REC.SD_POST.GO posts a siding to a trace channel, or is refused. -/
  | sidingPost (t : T64) (port : Port) (v : BitVec 32) (mem : List Byte)
  /-- TRACE_BULK_RX (R361): A TRAY TAU writes a TRACE BULK record into the channel's siding. -/
  | traceBulkRx (t : T64) (from_ : Sender) (r : List Byte)
  /-- CMP_JOB_POST (R376): A write of CMP.JOB_POST.GO queues a host compression job, or is refused. -/
  | cmpJobPost (t : T64) (port : Port) (sec : Fin 4) (v : BitVec 32) (m : Reads)
  /-- CMP_BUFFER_POST (R372): A write of CMP.BUF_POST.GO posts a buffer and resumes a waiting context. -/
  | cmpBufferPost (t : T64) (port : Port) (sec : Fin 4) (v : BitVec 32) (mem : List Byte)
  /-- CMP_JOB_ABORT (R375): A write of CMP.JOB_ABORT ends the named job ABORTED_DISABLE. -/
  | cmpJobAbort (t : T64) (port : Port) (sec : Fin 4) (v : BitVec 32)
  /-- CMP_JOB_COMPLETE (R375): A compression job ends, writes its completion and raises CMP_DONE. -/
  | cmpJobComplete (t : T64) (sec : Fin 4) (ctx : Fin 24)
  /-- CMP_FLUSH_IDLE (R375): A streaming context idle for FLUSH_IDLE periods closes its CBLK. -/
  | cmpFlushIdle (t : T64)
  /-- FRAME_SEAL_TIMEOUT (R378): FRAME_WAIT ticks after a frame's first record, the frame is sealed and sent. -/
  | frameSealTimeout (t : T64) (port : Fin 16) (dup : Nat)
  /-- LH_FRAME_RX (R384): A long-haul frame is opened, checked for epoch, replay and tag, and its records passed on. -/
  | lhFrameRx (t : T64) (port : Fin 16) (from_ : Sender) (e : List Byte) (dup : Nat)
  /-- IMG_LOAD (R381): A write of GEN.IMG_LOAD.GO checks and loads a key grant, debug authorisation or lifecycle order. -/
  | imgLoad (t : T64) (port : Port) (v : BitVec 32) (mem : List Byte)
  /-- NOTICE_ISSUE (R394): A write of MNT.ISSUE.GO issues a notice from the HBM partition. -/
  | noticeIssue (t : T64) (port : Port) (v : BitVec 32) (mem : List Byte)
  /-- NOTICE_JOB_START (R401): A JOB_START notice is checked, reserved as PROVISIONAL and forwarded. -/
  | noticeJobStart (t : T64) (r : List Byte)
  /-- NOTICE_JOB_ABORT (R402): A JOB_ABORT frees provisional reservations and returns the handle to FREE. -/
  | noticeJobAbort (t : T64) (r : List Byte)
  /-- NOTICE_JOB_TEARDOWN (R404): A JOB_TEARDOWN stops the job from its EFFECT. -/
  | noticeJobTeardown (t : T64) (r : List Byte)
  /-- NOTICE_RELEASE (R405): A RELEASE frees the resources of a HELD job. -/
  | noticeRelease (t : T64) (r : List Byte)
  /-- NOTICE_JOB_VIEW (R237): A JOB_VIEW sets the job's view of a rank range from its EFFECT. -/
  | noticeJobView (t : T64) (r : List Byte)
  /-- NOTICE_EPOCH_ADVANCE (R395): An EPOCH_ADVANCE opens a new epoch and key at its EFFECT. -/
  | noticeEpochAdvance (t : T64) (r : List Byte)
  /-- NOTICE_COMMIT (R84): A COMMIT notice takes a scheduled commit slot, or is refused BUSY. -/
  | noticeCommit (t : T64) (r : List Byte)
  /-- NOTICE_CANCEL (R85): A CANCEL notice empties a matching scheduled commit slot. -/
  | noticeCancel (t : T64) (r : List Byte)
  /-- NOTICE_DISABLE (R407): A DISABLE notice disables a consist, ensemble, binding or pack at its EFFECT. -/
  | noticeDisable (t : T64) (r : List Byte)
  /-- NOTICE_IMAGE (R171): An IMAGE notice loads a consist, timetable, feature map, model or pack. -/
  | noticeImage (t : T64) (r : List Byte)
  /-- NOTICE_PACK_RUN (R420): A PACK_RUN notice orders runs of a pack on the dies in range. -/
  | noticePackRun (t : T64) (r : List Byte)
  /-- NOTICE_RANK_MAP (R395): A RANK_MAP notice rewrites ranges and parents and ends adoptions at EFFECT. -/
  | noticeRankMap (t : T64) (r : List Byte)
  /-- NOTICE_ACK_RX (R396): A TAU merges a child's acknowledgement and sends its own when all have answered. -/
  | noticeAckRx (t : T64) (child : Fin 64) (r : List Byte)
  /-- NOTICE_ACK_DEADLINE (R397): At the acknowledgement deadline silent children are counted unreached. -/
  | noticeAckDeadline (t : T64)
  /-- REPLAY_REQUEST_RX (R398): A parent replays logged notices above each NID and passes a resync upward. -/
  | replayRequestRx (t : T64) (child : Fin 64) (r : List Byte)
  /-- RESYNC_RX (R398): A TAU forwards a resync, and the ROOT counts recovered ranks. -/
  | resyncRx (t : T64) (child : Fin 64) (r : List Byte)
  /-- FORCE_RELEASE (R405): A management-port write of MNT.FORCE_RELEASE.GO makes the ROOT release a job. -/
  | forceRelease (t : T64) (port : Port) (v : BitVec 32)
  /-- TOKEN_REQUEST (R409): A write of MNT.TOK_REQ.GO grants a token or reports the conflicting holder. -/
  | tokenRequest (t : T64) (port : Port) (v : BitVec 32)
  /-- TOKEN_RELEASE (R409): A write of MNT.TOK_REL.GO with FORCE 0 releases an owned token. -/
  | tokenRelease (t : T64) (port : Port) (v : BitVec 32)
  /-- TOKEN_FORCE_RELEASE (R409): A management-port write of TOK_REL with FORCE 1 force-releases a token. -/
  | tokenForceRelease (t : T64) (port : Port) (v : BitVec 32)
  /-- SECTION_DRAIN (R413): A write of MNT.DRAIN.GO drains a section at its commit period, or is refused. -/
  | sectionDrain (t : T64) (port : Port) (v : BitVec 32)
  /-- SECTION_DRAIN_COMPLETE (R413): A draining section's last work ends and it goes OUT. -/
  | sectionDrainComplete (t : T64)
  /-- SECTION_RETURN (R413): A write of MNT.RETURN.GO copies models and returns a section at the next boundary, or is refused. -/
  | sectionReturn (t : T64) (port : Port) (v : BitVec 32)
  /-- GUARD_KICK (R415): A section's control core writes MNT.GUARD_KICK and restarts its guard. -/
  | guardKick (t : T64) (port : Port) (sec : Fin 4) (v : BitVec 32)
  /-- GUARD_EXPIRY (R415): A section's guard expires and the section is declared failed. -/
  | guardExpiry (t : T64) (sec : Fin 4)
  /-- ISLAND_GUARD_EXPIRY (R415): The island guard expires and the island core restarts. -/
  | islandGuardExpiry (t : T64)
  /-- BIST_START (R416): A write of BIST_CTRL.GO starts BIST on an OUT or FAILED section, or is refused. -/
  | bistStart (t : T64) (port : Port) (sec : Fin 4) (v : BitVec 32)
  /-- BIST_ABORT (R417): A write of BIST_CTRL.ABORT ends BIST at the next slice boundary. -/
  | bistAbort (t : T64) (port : Port) (sec : Fin 4) (v : BitVec 32)
  /-- BIST_SLICE (R417): A BIST slice completes and logs failing bits. -/
  | bistSlice (t : T64) (sec : Fin 4) (bad : List (Fin 16384 × Fin 72)) (pat : Option Word) (last : Bool)
  /-- BIST_REPAIR (R418): A write of REPAIR.GO maps failures onto spares and tests again. -/
  | bistRepair (t : T64) (port : Port) (sec : Fin 4) (v : BitVec 32)
  /-- FW_LOAD (R419): A write of MNT.FW_LOAD.GO checks an image and stages it in the idle bank. -/
  | fwLoad (t : T64) (port : Port) (v : BitVec 32) (mem : List Byte)
  /-- FW_SWITCH_ARM (R419): A write of MNT.FW_SWITCH.GO arms the switch at the named period. -/
  | fwSwitchArm (t : T64) (port : Port) (v : BitVec 32)
  /-- FW_CONFIRM (R419): A write of MNT.FW_CONFIRM confirms the new bank. -/
  | fwConfirm (t : T64) (port : Port) (v : BitVec 32)
  /-- FW_TRIAL_TIMEOUT (R419): An unconfirmed trial ends, or a guard expires, and every core returns to the old bank. -/
  | fwTrialTimeout (t : T64)
  /-- PACK_RUN_GRACE_EXPIRY (R420): A run still pending GRACE periods after EFFECT is declared overdue. -/
  | packRunGraceExpiry (t : T64)
  /-- UPDATE_STROBE (R435): A write of UPD_STROBE commits immediate groups or marks groups for the next boundary. -/
  | updateStrobe (t : T64) (b : Block) (port : Port) (v : BitVec 32) (act : CoreAct)
  /-- PAGE_LOCK (R440): A write setting PG_LOCK locks the page's writable configuration. -/
  | pageLock (t : T64) (b : Block) (port : Port) (page : Fin 64) (sec : Fin 4)
  /-- PG_ERR_COUNT_CLEAR (R433): A write of PG_ERR.CNT_CLR clears the page error count. -/
  | pgErrCountClear (t : T64) (b : Block) (port : Port) (page : Fin 64) (sec : Fin 4)
  /-- REGISTER_WRITE (R432): A write to a register without a row of its own updates fields by access code or is refused. -/
  | registerWrite (t : T64) (b : Block) (port : Port) (a len : Nat) (v : BitVec 32) (m : Reads)
  /-- BOOT_GO (R449): A write of GEN.BOOT.GO starts reading firmware from tray-host memory, or completes BUSY. -/
  | bootGo (t : T64) (port : Port) (v : BitVec 32)
  /-- BOOT_READ_COMPLETE (R449): The firmware read completes and is checked, loaded and started, or refused. -/
  | bootReadComplete (t : T64) (mem : Option (List Byte))
  /-- UCODE_LOAD (R452): A write of GEN.UCODE_LOAD.GO checks and holds a TDU microcode image. -/
  | ucodeLoad (t : T64) (port : Port) (v : BitVec 32) (mem : List Byte)
  /-- HELLO_SEND (R453): A TDU in ROM sends a HELLO on every trained link every 2^20 cycles. -/
  | helloSend (t : T64)
  /-- HELLO_RX (R453): A TRAY TAU receives a HELLO and downloads microcode or marks a miswired die. -/
  | helloRx (t : T64) (link : Fin 32) (r : List Byte)
  /-- TDU_ATTACH (R455): A RUN die whose TTIME is LOCKED is given its rank, meter and timetable and the active jobs' records. -/
  | tduAttach (t : T64) (die : Fin 16) (locked : Bool)
  /-- TDU_ACCESS (R466): A write of GEN.TDU_ACC.GO sends a proxied read or write to a TDU. -/
  | tduAccess (t : T64) (port : Port) (v : BitVec 32)
  /-- TDU_READ_RESPONSE_RX (R466): The TAU receives a TDU read response and completes TDU_ACC_STAT. -/
  | tduReadResponseRx (t : T64) (die : Fin 16) (r : List Byte)
  /-- TDU_WRITE_BATCH_RX (R466): A TDU applies a write batch as one unit and answers. -/
  | tduWriteBatchRx (t : T64) (r : List Byte) (act : CoreAct)
  /-- TDU_IMAGE_FRAGMENT_RX (R467): A TDU collects an image fragment and checks the image once whole. -/
  | tduImageFragmentRx (t : T64) (r : List Byte)
  /-- TDU_KEY_RX (R468): A TDU takes a job tap key effective at a boundary. `ret`: the RET_KEY of each consist of the job (R215), whose
  carriage no record lays down (assumption 11). -/
  | tduKeyRx (t : T64) (r : List Byte) (ret : List (BitVec 16 × BitVec 8))
  /-- TDU_CMD_RUN_PACK (R469): A TDU command orders a pack run from EFFECT. -/
  | tduCmdRunPack (t : T64) (r : List Byte)
  /-- TDU_CMD_TEST_OVERDUE (R469): A TDU command raises interrupt cause TEST_OVERDUE. -/
  | tduCmdTestOverdue (t : T64) (r : List Byte)
  /-- TDU_CMD_JOB_END (R469): A TDU command ends a job's entries, slots and key at EFFECT. -/
  | tduCmdJobEnd (t : T64) (r : List Byte)
  /-- TDU_CMD_SCHED_COMMIT (R469): A TDU command holds a scheduled commit of MASK. -/
  | tduCmdSchedCommit (t : T64) (r : List Byte)
  /-- TDU_CMD_SCHED_CANCEL (R469): A TDU command cancels a scheduled commit. -/
  | tduCmdSchedCancel (t : T64) (r : List Byte)
  /-- TDU_CMD_CONSIST_DISABLE (R469): A TDU command stops a consist from EFFECT. -/
  | tduCmdConsistDisable (t : T64) (r : List Byte)
  /-- TDU_CMD_PACK_DISABLE (R469): A TDU command stops a pack and removes it when idle. -/
  | tduCmdPackDisable (t : T64) (r : List Byte)
  /-- TDU_CMD_UNKNOWN (R469): A TDU command with another CMD is refused and counted. -/
  | tduCmdUnknown (t : T64) (r : List Byte)
  /-- ANNOUNCE_RECEIPT_TIMEOUT (R52): An IEEE 1588 source whose messages stop arriving loses its qualification, and with no source left the timebase enters HOLDOVER. -/
  | announceReceiptTimeout (t : T64) (port : Fin 18)
  /-- PPS_IN_MISSING (R46): PPS_IN edges stop arriving once per second within 1 µs of the predicted second, and source 18 loses its qualification. -/
  | ppsInMissing (t : T64)
  /-- TDU_PLL_LOCK (R483): After TDU_REFIN returns, or after POR, the TDU PLL locks within 50 µs and REFCLK runs again, which ends the reference-clock stop. -/
  | tduPllLock (t : T64)
  /-- VDD_TDU_RETURN (R479): VDD_TDU returns after falling without TDU_GATE; the TDU restarts with cleared counters, histograms and detectors and re-acquires with GAP CAUSE 3. -/
  | vddTduReturn (t : T64)
  /-- TDU_POR_N_FALL (R487): TDU_POR_N goes low when VDD_TDU_AON leaves its range, and the whole TDU, always-on part included, is off. -/
  | tduPorNFall
  /-- EVENT_LINE_RISE (R357): An event line rises and, with TTRC.TRIG.SRC 3 naming it, fires the trace trigger. -/
  | eventLineRise (t : T64) (line : Fin 256) (act : CoreAct)
  /-- LOW_WORD_READ (R431): A read of the low word of a register pair latches the high word in the reading port's own latch. -/
  | lowWordRead (t : T64) (b : Block) (port : Port) (a len : Nat) (act : CoreAct)
  /-- MGMT_DATAGRAM_DISCARD (R324): A management-port frame or datagram that is tagged, fails authentication or repeats a counter gets no reply and is counted. -/
  | mgmtDatagramDiscard (t : T64) (port : Fin 2) (env : Option (List Byte)) (dup : Nat)
  /-- NOTICE_FRAGMENT_RX (R391): A notice fragment arrives, is checked by its trailer, forwarded within 8,192 ticks and held until every fragment of the notice is present; a damaged fragment leads to a replay request. -/
  | noticeFragmentRx (t : T64) (r : List Byte)
  /-- ISLAND_CORE_RESTART_DONE (R415): The island control core finishes restarting from its current bank, and management commands stop completing BUSY. -/
  | islandCoreRestartDone (t : T64)
  deriving DecidableEq, Repr

end Sys2Proof
end

