-- ==== Sys2Proof/Machine/Bytes.lean ====
section
/-!
DEFINITION. Bytes of records and images: little-endian fields (R15), the CRC-32C trailer (R148), and the sparse stores in
one canonical form.
-/

namespace Sys2Proof.Machine

/-- The little-endian value of a list of bytes (R15). -/
def leNat : List Byte → Nat
  | [] => 0
  | b :: bs => b.toNat + 256 * leNat bs

/-- `n` as `w` little-endian bytes, modulo 2^(8w) (R15). -/
def leBytes : Nat → Nat → List Byte
  | 0, _ => []
  | w + 1, n => BitVec.ofNat 8 n :: leBytes w (n / 256)

/-- `n` as `w` big-endian bytes (R15: standard protocols keep network order). -/
def beBytes (w n : Nat) : List Byte := (leBytes w n).reverse

/-- The big-endian value of a list of bytes. -/
def beNat (bs : List Byte) : Nat := leNat bs.reverse

/-- The `w`-byte little-endian field at byte `o`. Bytes beyond the end read zero. -/
def fieldAt (bs : List Byte) (o w : Nat) : Nat := leNat ((bs.drop o).take w)

/-- The bits [lo + w − 1 : lo] of `n` (R11). -/
def bits (n lo w : Nat) : Nat := n / 2 ^ lo % 2 ^ w

/-- `b` as 0 or 1. -/
def bit (b : Bool) : Nat := if b then 1 else 0

/-- `n` zero bytes. -/
def zeros (n : Nat) : List Byte := List.replicate n 0

/-- Whether every byte is zero. -/
def allZero (bs : List Byte) : Bool := bs.all (· == 0)

/-- One step of the reflected CRC-32C register (R148). -/
def crcStep (c : Nat) : Nat := if c % 2 = 1 then Nat.xor (c / 2) 0x82F63B78 else c / 2

/-- The CRC-32C register after one byte (R148). -/
def crcByte (c : Nat) (b : Byte) : Nat :=
  crcStep (crcStep (crcStep (crcStep (crcStep (crcStep (crcStep (crcStep (Nat.xor c b.toNat))))))))

/-- CRC-32C: Castagnoli, reflected, initial value and final XOR 0xFFFF_FFFF (R148). -/
def crc32c (bs : List Byte) : Nat := Nat.xor (bs.foldl crcByte 0xFFFFFFFF) 0xFFFFFFFF

/-- A body with its little-endian CRC-32C trailer (R148). -/
def withCrc (body : List Byte) : List Byte := body ++ leBytes 4 (crc32c body)

/-- Whether the last four bytes are the CRC-32C of the bytes before them (R148). -/
def crcOk (r : List Byte) : Bool :=
  decide (4 ≤ r.length) && fieldAt r (r.length - 4) 4 == crc32c (r.take (r.length - 4))

/-- Bytes padded with zeros to a multiple of `k`. -/
def padTo (k : Nat) (bs : List Byte) : List Byte := bs ++ zeros ((k - bs.length % k) % k)

/-- Bytes padded with zeros up to length `n`. -/
def padLen (n : Nat) (bs : List Byte) : List Byte := bs ++ zeros (n - bs.length)

/-- Round `a / 2` to the nearest integer, ties to even. -/
def halfEven (a : Int) : Int :=
  if a % 2 = 0 then a / 2 else if (a / 2) % 2 = 0 then a / 2 else a / 2 + 1

/-- Round `a / d` to the nearest integer with ties to even, for d > 0 (R40, R164). -/
def divEven (a : Int) (d : Nat) : Int :=
  let q := a / (d : Int)
  let r := a % (d : Int)
  if 2 * r < d then q else if (d : Int) < 2 * r then q + 1 else if q % 2 = 0 then q else q + 1

/-- The ceiling of `a / d`. -/
def ceilDiv (a d : Nat) : Nat := (a + d - 1) / d

/-- An integer clipped to the signed range of `w` bits. -/
def clipS (w : Nat) (a : Int) : Int :=
  if a < -(2 ^ (w - 1) : Nat) then -(2 ^ (w - 1) : Nat) else if (2 ^ (w - 1) : Nat) - 1 < a then (2 ^ (w - 1) : Nat) - 1 else a

/-- A number clipped to `w` bits. -/
def clipU (w n : Nat) : Nat := if n < 2 ^ w then n else 2 ^ w - 1

/-- An error bound in ticks, carried in units of 4 ns: rounded up and saturated at 0xFFFF (R488). -/
def ebUnits (ticks : Nat) : Nat := clipU 16 (ceilDiv ticks 16)

/-! ## Sparse stores: a list of keys and values in rising order of key -/

/-- The value held under a key. -/
def Store.find (k : Nat) : List (Nat × Nat) → Option Nat
  | [] => none
  | (a, v) :: r => if a = k then some v else Store.find k r

/-- The store with nothing under a key. -/
def Store.erase (k : Nat) : List (Nat × Nat) → List (Nat × Nat)
  | [] => []
  | (a, v) :: r => if a = k then Store.erase k r else (a, v) :: Store.erase k r

/-- An entry in its place: before the first key above it. -/
def Store.place (k v : Nat) : List (Nat × Nat) → List (Nat × Nat)
  | [] => [(k, v)]
  | (a, w) :: r => if k < a then (k, v) :: (a, w) :: r else (a, w) :: Store.place k v r

/-- The store with a value under a key. -/
def Store.insert (k v : Nat) (s : List (Nat × Nat)) : List (Nat × Nat) := Store.place k v (Store.erase k s)

/-- The store with a value under a key, where `d` is what an absent key reads as: the canonical form lists no entry equal to
it. -/
def Store.put (k v d : Nat) (s : List (Nat × Nat)) : List (Nat × Nat) :=
  if v = d then Store.erase k s else Store.insert k v s

/-- The keys rise strictly. -/
def Store.sorted : List (Nat × Nat) → Bool
  | [] => true
  | [_] => true
  | (a, _) :: (b, w) :: r => decide (a < b) && Store.sorted ((b, w) :: r)

/-- The list with `f` applied to entry `i`. -/
def modifyAt {α : Type} (f : α → α) : Nat → List α → List α
  | _, [] => []
  | 0, a :: r => f a :: r
  | n + 1, a :: r => a :: modifyAt f n r

/-- Fold a state over the indices 0 to n − 1, in ascending order. -/
def forIdx {α : Type} (n : Nat) (f : Nat → α → α) (a : α) : α := (List.range n).foldl (fun s i => f i s) a

/-- Fold a state over a list, in order. -/
def forEach {α β : Type} (l : List β) (f : β → α → α) (a : α) : α := l.foldl (fun s b => f b s) a

/-- The first index of a list that satisfies `p`. -/
def firstIdx {α : Type} (p : α → Bool) : List α → Option Nat
  | [] => none
  | a :: r => if p a then some 0 else (firstIdx p r).map (· + 1)

/-- `a` put in its place in a sorted list: before the first element it is `le` of. -/
def insertBy {α : Type} (le : α → α → Bool) (a : α) : List α → List α
  | [] => [a]
  | b :: r => if le a b then a :: b :: r else b :: insertBy le a r

/-- A list sorted by `le`. -/
def isort {α : Type} (le : α → α → Bool) (l : List α) : List α := l.foldr (insertBy le) []

end Sys2Proof.Machine
end

