-- ==== Sys2Proof/Machine/Crypto.lean ====
section
/-!
DEFINITION. The arithmetic of digests: GF(2^64) (R278, R279) and SHA-384 (R379, R441).
-/

namespace Sys2Proof.Machine

/-! ## GF(2^64) (R278) -/

/-- Multiply by x, reduced by x^64 + x^4 + x^3 + x + 1 (R278). -/
def gfDouble (a : Nat) : Nat := if a < 2 ^ 63 then 2 * a else Nat.xor (2 * a - 2 ^ 64) 0x1B

/-- The carry-less product of `a` with the low `n` bits of `b`, reduced (R278). -/
def gfMulAux : Nat → Nat → Nat → Nat
  | 0, _, _ => 0
  | n + 1, a, b => Nat.xor (if b % 2 = 1 then a else 0) (gfMulAux n (gfDouble a) (b / 2))

/-- The product in GF(2^64) (R278). -/
def gfMul (a b : Nat) : Nat := gfMulAux 64 a b

/-- h to a power of at most `n` bits, by repeated squaring. -/
def gfPow : Nat → Nat → Nat → Nat
  | 0, _, _ => 1
  | n + 1, h, e => gfMul (if e % 2 = 1 then h else 1) (gfPow n (gfMul h h) (e / 2))

/-- Σ w · h^(o + 1) over words at consecutive offsets, where `p` is h^(o + 1) for the first of them (R279). -/
def gfTerms (h : Nat) : Nat → List Nat → Nat
  | _, [] => 0
  | p, w :: ws => Nat.xor (gfMul w p) (gfTerms h (gfMul p h) ws)

/-- Σ w · h^(o + 1) over words at offsets `o` onward (R279). Offsets have 37 bits (R275). -/
def gfSum (h o : Nat) (ws : List Nat) : Nat := gfTerms h (gfPow 38 h (o + 1)) ws

/-! ## SHA-384 (FIPS 180-4), on words that are numbers below 2^64 -/

/-- Round constants 0 to 7, the first of them highest. -/
def shaConst0 : Nat :=
  0x428a2f98d728ae227137449123ef65cdb5c0fbcfec4d3b2fe9b5dba58189dbbc3956c25bf348b53859f111f1b605d019923f82a4af194f9bab1c5ed5da6d8118

/-- Round constants 8 to 15, the first of them highest. -/
def shaConst1 : Nat :=
  0xd807aa98a303024212835b0145706fbe243185be4ee4b28c550c7dc3d5ffb4e272be5d74f27b896f80deb1fe3b1696b19bdc06a725c71235c19bf174cf692694

/-- Round constants 16 to 23, the first of them highest. -/
def shaConst2 : Nat :=
  0xe49b69c19ef14ad2efbe4786384f25e30fc19dc68b8cd5b5240ca1cc77ac9c652de92c6f592b02754a7484aa6ea6e4835cb0a9dcbd41fbd476f988da831153b5

/-- Round constants 24 to 31, the first of them highest. -/
def shaConst3 : Nat :=
  0x983e5152ee66dfaba831c66d2db43210b00327c898fb213fbf597fc7beef0ee4c6e00bf33da88fc2d5a79147930aa72506ca6351e003826f142929670a0e6e70

/-- Round constants 32 to 39, the first of them highest. -/
def shaConst4 : Nat :=
  0x27b70a8546d22ffc2e1b21385c26c9264d2c6dfc5ac42aed53380d139d95b3df650a73548baf63de766a0abb3c77b2a881c2c92e47edaee692722c851482353b

/-- Round constants 40 to 47, the first of them highest. -/
def shaConst5 : Nat :=
  0xa2bfe8a14cf10364a81a664bbc423001c24b8b70d0f89791c76c51a30654be30d192e819d6ef5218d69906245565a910f40e35855771202a106aa07032bbd1b8

/-- Round constants 48 to 55, the first of them highest. -/
def shaConst6 : Nat :=
  0x19a4c116b8d2d0c81e376c085141ab532748774cdf8eeb9934b0bcb5e19b48a8391c0cb3c5c95a634ed8aa4ae3418acb5b9cca4f7763e373682e6ff3d6b2b8a3

/-- Round constants 56 to 63, the first of them highest. -/
def shaConst7 : Nat :=
  0x748f82ee5defb2fc78a5636f43172f6084c87814a1f0ab728cc702081a6439ec90befffa23631e28a4506cebde82bde9bef9a3f7b2c67915c67178f2e372532b

/-- Round constants 64 to 71, the first of them highest. -/
def shaConst8 : Nat :=
  0xca273eceea26619cd186b8c721c0c207eada7dd6cde0eb1ef57d4f7fee6ed17806f067aa72176fba0a637dc5a2c898a6113f9804bef90dae1b710b35131c471b

/-- Round constants 72 to 79, the first of them highest. -/
def shaConst9 : Nat :=
  0x28db77f523047d8432caab7b40c724933c9ebe0a15c9bebc431d67c49c100d4c4cc5d4becb3e42b6597f299cfc657e2a5fcb6fab3ad6faec6c44198c4a475817

/-- The initial hash value, its first word highest. -/
def shaInit : Nat :=
  0xcbbb9d5dc1059ed8629a292a367cd5079159015a3070dd17152fecd8f70e593967332667ffc00b318eb44a8768581511db0c2e0d64f98fa747b5481dbefa4fa4

/-- Word `i` of eight that one number holds, the first of them highest. -/
def shaWord (n i : Nat) : Nat := n / 2 ^ (64 * (7 - i)) % 2 ^ 64

/-- The round constants in order. -/
def shaConsts : List Nat :=
  [shaConst0, shaConst1, shaConst2, shaConst3, shaConst4, shaConst5, shaConst6, shaConst7, shaConst8, shaConst9].flatMap fun n => (List.range 8).map (shaWord n)

/-- A word rotated right. -/
def shaTurn (n w : Nat) : Nat := w / 2 ^ n + w * 2 ^ (64 - n) % 2 ^ 64

/-- The schedule: the word of this round, then from the sixteen words at hand, oldest first, the one that joins them. -/
def shaNext (w : List Nat) : List Nat :=
  let x := w.getD 1 0
  let y := w.getD 14 0
  let small := Nat.xor (Nat.xor (shaTurn 1 x) (shaTurn 8 x)) (x / 2 ^ 7)
  let large := Nat.xor (Nat.xor (shaTurn 19 y) (shaTurn 61 y)) (y / 2 ^ 6)
  w.drop 1 ++ [(w.headD 0 + small + w.getD 9 0 + large) % 2 ^ 64]

/-- The working variables after a round: `v` holds a to h, and `kw` is the round's constant with its schedule word. -/
def shaMixIn (kw : Nat) (v : List Nat) : List Nat :=
  let at_ (i : Nat) : Nat := v.getD i 0
  let turned (w i j k : Nat) : Nat := Nat.xor (Nat.xor (shaTurn i w) (shaTurn j w)) (shaTurn k w)
  let choice := Nat.xor (at_ 6) (Nat.land (at_ 4) (Nat.xor (at_ 5) (at_ 6)))
  let most := Nat.lor (Nat.land (at_ 0) (at_ 1)) (Nat.land (at_ 2) (Nat.lor (at_ 0) (at_ 1)))
  let t := at_ 7 + turned (at_ 4) 14 18 41 + choice + kw
  (t + turned (at_ 0) 28 34 39 + most) % 2 ^ 64 :: v.take 3 ++ (at_ 3 + t) % 2 ^ 64 :: (v.drop 4).take 3

/-- The rounds that the constants `ks` call for, from the schedule `w` and the working variables `v` on. -/
def shaRounds : List Nat → List Nat → List Nat → List Nat
  | [], _, v => v
  | k :: ks, w, v => shaRounds ks (shaNext w) (shaMixIn (k + w.headD 0) v)

/-- The digests of `n` blocks, each chained to the one before. -/
def shaChain : Nat → List Nat → List Byte → List Nat
  | 0, h, _ => h
  | n + 1, h, m =>
    let w := (List.range 16).map fun i => beNat ((m.drop (8 * i)).take 8)
    shaChain n ((h.zip (shaRounds shaConsts w h)).map fun p => (p.1 + p.2) % 2 ^ 64) (m.drop 128)

/-- SHA-384 of a message: 48 bytes. -/
def sha384 (m : List Byte) : List Byte :=
  let full := ceilDiv (m.length + 17) 128
  let p := m ++ (0x80 : Byte) :: zeros (128 * full - m.length - 17) ++ beBytes 16 (8 * m.length)
  ((shaChain full ((List.range 8).map (shaWord shaInit)) p).take 6).flatMap (beBytes 8)

end Sys2Proof.Machine
end

