-- ==== Sys2Proof/Machine/Aes.lean ====
section
/-!
DEFINITION. The cipher's algorithms: AES-256 (FIPS 197), GCM (NIST SP 800-38D) with 96-bit IVs and 128-bit tags, HMAC-SHA-384
and the counter-mode KDF of R380. Bytes, words of four bytes and blocks of sixteen are big-endian numbers.
-/

namespace Sys2Proof.Machine

/-! ## Evaluation in order

What keeps an evaluation of the algorithms in Lean's kernel short: a number, or a list of numbers, is evaluated before it is used. -/

/-- `f n`, with `n` evaluated first. -/
def strictNat {α : Type} (f : Nat → α) : Nat → α
  | 0 => f 0
  | n + 1 => f (n + 1)

@[simp] theorem strictNat_eq {α : Type} (f : Nat → α) (n : Nat) : strictNat f n = f n := by cases n <;> rfl

/-- `f l`, with every element of `l` evaluated first. -/
def strictList {α : Type} : (List Nat → α) → List Nat → α
  | f, [] => f []
  | f, a :: l => strictNat (fun a => strictList (fun l => f (a :: l)) l) a

@[simp] theorem strictList_eq {α : Type} (l : List Nat) : ∀ f : List Nat → α, strictList f l = f l := by
  induction l with
  | nil => intro f; rfl
  | cons a l ih => intro f; simp [strictList, ih]

/-! ## AES-256 -/

/-- Multiply by x in GF(2^8). -/
def aesX (a : Nat) : Nat := if a < 128 then 2 * a else Nat.xor (2 * a - 256) 0x1B

/-- The product in GF(2^8), over the low `n` bits of `b`. -/
def aesMul : Nat → Nat → Nat → Nat
  | 0, _, _ => 0
  | n + 1, a, b => Nat.xor (if b % 2 = 1 then a else 0) (aesMul n (aesX a) (b / 2))

/-- a^254: the inverse in GF(2^8), and 0 for 0. -/
def aesInv (a : Nat) : Nat :=
  let sq (b : Nat) : Nat := aesMul 8 b b
  let a2 := sq a
  let a3 := aesMul 8 a2 a
  let a12 := sq (sq a3)
  let a15 := aesMul 8 a12 a3
  let a240 := sq (sq (sq (sq a15)))
  aesMul 8 (aesMul 8 a240 a12) a2

/-- A byte rotated left. -/
def rotByte (n b : Nat) : Nat := (b * 2 ^ n) % 256 + b / 2 ^ (8 - n)

/-- An entry of the S-box. -/
def sboxOf (b : Nat) : Nat :=
  let i := aesInv b
  Nat.xor (Nat.xor (Nat.xor (Nat.xor (Nat.xor i (rotByte 1 i)) (rotByte 2 i)) (rotByte 3 i)) (rotByte 4 i)) 0x63

/-- The S-box as FIPS 197 tabulates it, entry `b` at byte `b` of the number. -/
def sbox : Nat :=
  0x75b227ebe28012079a059618c323c7041531d871f1e5a534ccf73f362693fdb7c072a49cafa2d4adf04759fa7dc982ca76abd7fe2b670130c56f6bf27b777c63 +
  0xd2f3ff1021dab6bcf5389d928f40a351a89f3c507f02f94585334d43fbaaefd0cf584c4a39becb6a5bb1fc20ed00d153842fe329b3d63b52a05a6e1b1a2c8309 * (2 ^ 256) ^ 2 +
  0x8ae7a65eaf4566ca94ed58d6d37c8e779e4959162acd3c25c2406490a3a32e0db0b5ede14b8ee4688902a22dc4f816073195d643d7ea7c41744975fec130ccd * (2 ^ 256) ^ 4 +
  0x16bb54b00f2d99416842e6bf0d89a18cdf2855cee9871e9b948ed9691198f8e19e1dc186b95735610ef6034866b53e708a8bbd4b1f74dde8c6b4a61c2e2578ba * (2 ^ 256) ^ 6

/-- The table is the one that the inverse and the affine map give. -/
theorem sbox_eq : sbox = (List.range 256).foldl (fun n b => n + sboxOf b * 256 ^ b) 0 := by decide +kernel

/-- SubBytes of one byte. -/
def subByte (b : Nat) : Nat := sbox / 256 ^ b % 256

/-- XOR of lists of bytes. -/
def xorL (a b : List Nat) : List Nat := List.zipWith Nat.xor a b

/-- Extend the key schedule: `n` more words, `i` the index of the next; `w` holds the words so far, newest first. -/
def aesExpand : Nat → Nat → Nat → List (List Nat) → List (List Nat)
  | 0, _, _, w => w
  | n + 1, i, rcon, w =>
    let t := w.headD []
    let (t, rcon) :=
      if i % 8 = 0 then
        let r := (t.drop 1 ++ t.take 1).map subByte
        (xorL r [rcon, 0, 0, 0], aesX rcon)
      else if i % 8 = 4 then (t.map subByte, rcon)
      else (t, rcon)
    strictList (fun v => aesExpand n (i + 1) rcon (v :: w)) (xorL (w.getD 7 []) t)

/-- The fifteen round keys of a 32-byte key. -/
def aesKeys (key : List Nat) : List (List Nat) :=
  let w := strictList (fun key => ((List.range 8).map fun i => (key.drop (4 * i)).take 4).reverse) key
  let w := (aesExpand 52 8 1 w).reverse
  (List.range 15).map fun r => ((w.drop (4 * r)).take 4).flatten

/-- ShiftRows of a state held column by column. -/
def shiftRows (s : List Nat) : List Nat := (List.range 16).map fun i => s.getD ((i + 4 * (i % 4)) % 16) 0

/-- MixColumns of one column. -/
def mixColumn (c : List Nat) : List Nat :=
  let a (i : Nat) : Nat := c.getD (i % 4) 0
  (List.range 4).map fun i => Nat.xor (Nat.xor (aesX (a i)) (Nat.xor (aesX (a (i + 1))) (a (i + 1)))) (Nat.xor (a (i + 2)) (a (i + 3)))

/-- One AES round; the last omits MixColumns. -/
def aesRound (last : Bool) (s k : List Nat) : List Nat :=
  let t := shiftRows (s.map subByte)
  let t := if last then t else (List.range 4).flatMap fun c => mixColumn ((t.drop (4 * c)).take 4)
  xorL t k

/-- AES-256 of one block under its round keys. -/
def aesBlock (ks : List (List Nat)) (b : List Nat) : List Nat :=
  let s := xorL b (ks.headD [])
  let s := ((ks.drop 1).take 13).foldl (fun s k => strictList (fun s => aesRound false s k) s) s
  strictList (fun s => aesRound true s (ks.getD 14 [])) s

/-! ## GCM -/

/-- Bytes as numbers, and back. -/
def nats (b : List Byte) : List Nat := b.map (·.toNat)
def bytesOf (l : List Nat) : List Byte := l.map (BitVec.ofNat 8)

/-- A big-endian number from bytes. -/
def beNum (l : List Nat) : Nat := l.foldl (fun n b => 256 * n + b) 0

/-- `n` as `w` big-endian bytes. -/
def beList (w n : Nat) : List Nat := ((List.range w).map fun i => n / 256 ^ i % 256).reverse

/-- The product of GCM's field, over the low `n` bits of `a` from bit `n` − 1 down; `v` is the multiplicand so far. -/
def ghashMul : Nat → Nat → Nat → Nat → Nat
  | 0, _, _, z => z
  | n + 1, a, v, z =>
    ghashMul n a (if v % 2 = 1 then Nat.xor (v / 2) (0xE1 * 2 ^ 120) else v / 2) (if a.testBit n then Nat.xor z v else z)

/-- The blocks of a list of bytes, the last padded with zeros. -/
def blocks16 : Nat → List Nat → List (List Nat)
  | 0, _ => []
  | n + 1, l => if l.isEmpty then [] else (l.take 16 ++ List.replicate (16 - (l.take 16).length) 0) :: blocks16 n (l.drop 16)

/-- GHASH of the additional data and the ciphertext. -/
def ghash (h : Nat) (a c : List Nat) : Nat :=
  let bs := blocks16 (a.length + 1) a ++ blocks16 (c.length + 1) c ++ [beList 8 (8 * a.length) ++ beList 8 (8 * c.length)]
  strictNat (fun h => bs.foldl (fun y b => strictNat (fun a => ghashMul 128 a h 0) (Nat.xor y (beNum b))) 0) h

/-- The key stream applied from counter `n` on. -/
def gctr (ks : List (List Nat)) (iv : List Nat) : Nat → List (List Nat) → List Nat
  | _, [] => []
  | n, b :: r => xorL b (aesBlock ks (iv ++ beList 4 n)) ++ gctr ks iv (n + 1) r

/-- GCM's ciphertext or plaintext: its stream is its own inverse. -/
def gcmStream (key iv p : List Nat) : List Nat := (gctr (aesKeys key) iv 2 (blocks16 (p.length + 1) p)).take p.length

/-- GCM's tag over additional data and ciphertext. -/
def gcmTag (key iv a c : List Nat) : List Nat :=
  let ks := aesKeys key
  let h := beNum (aesBlock ks (List.replicate 16 0))
  xorL (beList 16 (ghash h a c)) (aesBlock ks (iv ++ beList 4 1))

/-! ## HMAC and the KDF (R380) -/

/-- HMAC-SHA-384 under a key of at most 128 bytes. -/
def hmac384 (key m : List Byte) : List Byte :=
  let k := padLen 128 key
  let pad (v : Byte) : List Byte := k.map fun b => b ^^^ v
  sha384 (pad 0x5C ++ sha384 (pad 0x36 ++ m))

/-- The CONTEXT of a derived key (R380). -/
def kdfContext (fleet site purpose extra epoch : Nat) : List Byte :=
  leBytes 4 fleet ++ leBytes 1 site ++ leBytes 1 purpose ++ leBytes 2 extra ++ leBytes 4 epoch ++ zeros 4

/-- The key that the KDF derives from `kin`: `l` bits (R380). -/
def kdf (kin ctx : List Byte) (l : Nat) : List Byte :=
  let label : List Byte := [0x54, 0x41, 0x4C, 0x4F, 0x4C, 0x4F]
  (hmac384 kin (beBytes 4 1 ++ label ++ zeros 1 ++ ctx ++ beBytes 4 l)).take (l / 8)

end Sys2Proof.Machine
end

