-- ==== Sys2Proof/Machine/Deflate.lean ====
section
/-!
DEFINITION. Compressed blocks (R365 to R371): the decoder of RFC 1951 streams with the outcomes of R370, and the encoder, whose
exact bytes the manual leaves open.
-/

namespace Sys2Proof.Machine

/-! ## Bits and codes -/

/-- Bit `p` of the data, bits of a byte from the least significant up (RFC 1951). -/
def dataBit (d : Array Byte) (p : Nat) : Nat := bit ((d.getD (p / 8) 0).toNat.testBit (p % 8))

/-- `n` bits from position `p`, the first the least significant. -/
def dataBits (d : Array Byte) (p : Nat) : Nat → Nat
  | 0 => 0
  | n + 1 => dataBit d p + 2 * dataBits d (p + 1) n

/-- A canonical code: for each length from 1 up, its symbols in order. -/
abbrev HuffCode := List (List Nat)

/-- The canonical code of a list of lengths (RFC 1951 3.2.2). -/
def huffCode (lens : List Nat) : HuffCode :=
  (List.range 15).map fun l => (List.range lens.length).filter fun i => lens.getD i 0 == l + 1

/-- The code space left unused, in units of 2^−15; negative when over-subscribed. -/
def codeSpace (lens : List Nat) : Int :=
  lens.foldl (fun s l => if l = 0 then s else s - (2 ^ (15 - l) : Nat)) 32768

/-- The symbol whose code stands at position `p`, and the position after it; none where no code of at most 15 bits fits. -/
def huffRead (d : Array Byte) : HuffCode → Nat → Nat → Nat → Option (Nat × Nat)
  | [], _, _, _ => none
  | syms :: rest, p, code, first =>
    let code := 2 * code + dataBit d p
    let first := 2 * first
    if code < first + syms.length then
      if first ≤ code then some (syms.getD (code - first) 0, p + 1) else none
    else huffRead d rest (p + 1) code (first + syms.length)

/-- Base and extra bits of length symbols 257 to 285. -/
def lenBase : List (Nat × Nat) :=
  [(3, 0), (4, 0), (5, 0), (6, 0), (7, 0), (8, 0), (9, 0), (10, 0), (11, 1), (13, 1), (15, 1), (17, 1), (19, 2), (23, 2), (27, 2),
    (31, 2), (35, 3), (43, 3), (51, 3), (59, 3), (67, 4), (83, 4), (99, 4), (115, 4), (131, 5), (163, 5), (195, 5), (227, 5),
    (258, 0)]

/-- Base and extra bits of distance symbols 0 to 29. -/
def distBase (s : Nat) : Nat × Nat :=
  if s < 4 then (s + 1, 0) else ((2 + s % 2) * 2 ^ (s / 2 - 1) + 1, s / 2 - 1)

/-- Lengths of the fixed codes (RFC 1951 3.2.6). -/
def fixedLitLens : List Nat := List.replicate 144 8 ++ List.replicate 112 9 ++ List.replicate 24 7 ++ List.replicate 8 8
def fixedDistLens : List Nat := List.replicate 32 5

/-- The fixed codes. -/
def fixedLit : HuffCode := huffCode fixedLitLens
def fixedDist : HuffCode := huffCode fixedDistLens

/-! ## Decoding (R370, R371) -/

/-- How a stream ends: the completion code and DETAIL. -/
structure Ended where
  code : Nat
  detail : Nat

/-- A symbol of a compressed block: a literal, or a match of `n` bytes from `dist` back. -/
inductive Tok where
  | lit (b : Nat)
  | copy (n dist : Nat)
  deriving DecidableEq, Repr

/-- A block of a stream: its BTYPE, the bits it takes, where its first bit and its first byte of output stand, the bytes of output, and
the symbols of a compressed one, in reverse. -/
structure Blk where
  kind : Nat
  bits : Nat
  start : Nat
  at_ : Nat
  len : Nat
  toks : List Tok

/-- A decoder between two symbols: the position in bits, the output so far, the symbols of the running block and the blocks read, both
newest first. -/
structure Inflate where
  pos : Nat
  out : Array Byte
  toks : List Tok := []
  blks : List Blk := []

/-- Copy a match of `n` bytes from `dist` back, up to `olen` bytes of output. -/
def copyMatch (olen dist : Nat) : Nat → Array Byte → Array Byte
  | 0, o => o
  | n + 1, o => if olen ≤ o.size then o else copyMatch olen dist n (o.push (o.getD (o.size - dist) 0))

/-- Copy `n` bytes of a stored block. -/
def copyStored (d : Array Byte) (olen : Nat) : Nat → Nat → Array Byte → Nat × Array Byte
  | 0, p, o => (p, o)
  | n + 1, p, o =>
    if d.size * 8 < p + 8 ∨ olen ≤ o.size then (p, o) else copyStored d olen n (p + 8) (o.push (d.getD (p / 8) 0))

/-- The symbols of a compressed block until its end (256), at most `fuel` of them. -/
def inflateCodes (d : Array Byte) (olen : Nat) (lit dist : HuffCode) : Nat → Inflate → Inflate × Option Ended
  | 0, s => (s, some ⟨0x0B, 1⟩)
  | fuel + 1, s =>
    let size := d.size * 8
    match huffRead d lit s.pos 0 0 with
    | none => (s, some (if size < s.pos + 15 then ⟨0x0B, 1⟩ else ⟨0x0C, 8⟩))
    | some (sym, p) =>
      if size < p then (s, some ⟨0x0B, 1⟩)
      else if sym < 256 then
        if olen ≤ s.out.size then ({ s with pos := p }, some ⟨0x0A, 0⟩)
        else inflateCodes d olen lit dist fuel { s with pos := p, out := s.out.push (BitVec.ofNat 8 sym), toks := .lit sym :: s.toks }
      else if sym = 256 then ({ s with pos := p }, none)
      else if 285 < sym then ({ s with pos := p }, some ⟨0x0C, 8⟩)
      else
        let (lb, le) := lenBase.getD (sym - 257) (0, 0)
        let n := lb + dataBits d p le
        match huffRead d dist (p + le) 0 0 with
        | none => ({ s with pos := p }, some (if size < p + le + 15 then ⟨0x0B, 1⟩ else ⟨0x0C, 8⟩))
        | some (ds, q) =>
          if size < q then (s, some ⟨0x0B, 1⟩)
          else if 29 < ds then ({ s with pos := q }, some ⟨0x0C, 8⟩)
          else
            let (db, de) := distBase ds
            if size < q + de then (s, some ⟨0x0B, 1⟩)
            else
              let dd := db + dataBits d q de
              if s.out.size < dd then ({ s with pos := q + de }, some ⟨0x0D, 0⟩)
              else
                let o := copyMatch olen dd n s.out
                let s' := { s with pos := q + de, out := o, toks := .copy n dd :: s.toks }
                if olen < s.out.size + n then (s', some ⟨0x0A, 0⟩)
                else inflateCodes d olen lit dist fuel s'

/-- The code lengths of a dynamic block: `want` of them, `ls` so far, newest first; or a fault, with the position up to which it has
read. -/
def readLens (d : Array Byte) (cl : HuffCode) (want : Nat) : Nat → Nat → List Nat → Except (Nat × Ended) (Nat × List Nat)
  | 0, p, _ => .error (p, ⟨0x0B, 1⟩)
  | fuel + 1, p, ls =>
    if want ≤ ls.length then .ok (p, ls.reverse)
    else match huffRead d cl p 0 0 with
      | none => .error (p + 7, if d.size * 8 < p + 7 then ⟨0x0B, 1⟩ else ⟨0x0C, 4⟩)
      | some (sym, p) =>
        if d.size * 8 < p then .error (p, ⟨0x0B, 1⟩)
        else if sym < 16 then readLens d cl want fuel p (sym :: ls)
        else
          let (base, extra) := if sym = 16 then (3, 2) else if sym = 17 then (3, 3) else (11, 7)
          let n := base + dataBits d p extra
          if d.size * 8 < p + extra then .error (p + extra, ⟨0x0B, 1⟩)
          else if (sym = 16 ∧ ls.isEmpty) ∨ want < ls.length + n then .error (p + extra, ⟨0x0C, 5⟩)
          else readLens d cl want fuel (p + extra) (List.replicate n (if sym = 16 then ls.headD 0 else 0) ++ ls)

/-- The order in which code-length codes stand (RFC 1951 3.2.7). -/
def clOrder : List Nat := [16, 17, 18, 0, 8, 7, 9, 6, 10, 5, 11, 4, 12, 3, 13, 2, 14, 1, 15]

/-- The codes of a dynamic block whose header starts at `p` (R371); or a fault, with the position up to which it has read. -/
def dynCodes (d : Array Byte) (p : Nat) : Except (Nat × Ended) (Nat × HuffCode × HuffCode) :=
  let size := d.size * 8
  if size < p + 14 then .error (size, ⟨0x0B, 1⟩)
  else
    let hlit := dataBits d p 5
    let hdist := dataBits d (p + 5) 5
    let hclen := dataBits d (p + 10) 4
    if 29 < hlit ∨ 29 < hdist then .error (p + 14, ⟨0x0C, 3⟩)
    else if size < p + 14 + 3 * (hclen + 4) then .error (size, ⟨0x0B, 1⟩)
    else
      let raw := (List.range (hclen + 4)).map fun i => (clOrder.getD i 0, dataBits d (p + 14 + 3 * i) 3)
      let cls := (List.range 19).map fun s => ((raw.find? (·.1 == s)).map (·.2)).getD 0
      if codeSpace cls ≠ 0 then .error (p + 14 + 3 * (hclen + 4), ⟨0x0C, 4⟩)
      else
        let want := hlit + 257 + hdist + 1
        match readLens d (huffCode cls) want (want + 1) (p + 14 + 3 * (hclen + 4)) [] with
        | .error e => .error e
        | .ok (p, ls) =>
          let lit := ls.take (hlit + 257)
          let dist := ls.drop (hlit + 257)
          let used := dist.countP (0 < ·)
          if codeSpace lit ≠ 0 then .error (p, ⟨0x0C, 6⟩)
          else if codeSpace dist < 0 ∨ (codeSpace dist ≠ 0 ∧ 1 < used) then .error (p, ⟨0x0C, 7⟩)
          else if lit.getD 256 0 = 0 then .error (p, ⟨0x0C, 8⟩)
          else .ok (p, huffCode lit, huffCode dist)

/-- The blocks of a stream, at most `fuel` of them (R370). -/
def inflateBlocks (d : Array Byte) (olen : Nat) : Nat → Inflate → Inflate × Ended
  | 0, s => (s, ⟨0x0B, 1⟩)
  | fuel + 1, s =>
    let size := d.size * 8
    if size < s.pos + 3 then (s, ⟨0x0B, 1⟩)
    else
      let final := dataBit d s.pos == 1
      let p := s.pos + 3
      let b := s
      let s := { s with toks := [] }
      let (s, e) : Inflate × Option Ended :=
        match dataBits d (s.pos + 1) 2 with
        | 0 =>
          let p := (p + 7) / 8 * 8
          if size < p + 32 then (s, some ⟨0x0B, 1⟩)
          else
            let n := dataBits d p 16
            if n + dataBits d (p + 16) 16 ≠ 65535 then ({ s with pos := p + 32 }, some ⟨0x0C, 2⟩)
            else
              let (q, o) := copyStored d olen n (p + 32) s.out
              let s' := { s with pos := q, out := o }
              if s.out.size + n ≤ o.size then (s', none)
              else if size < q + 8 then (s', some ⟨0x0B, 1⟩)
              else (s', some ⟨0x0A, 0⟩)
        | 1 => inflateCodes d olen fixedLit fixedDist (8 * d.size + 1) { s with pos := p }
        | 2 => match dynCodes d p with
          | .error (p, e) => ({ s with pos := p }, some e)
          | .ok (p, lit, dist) => inflateCodes d olen lit dist (8 * d.size + 1) { s with pos := p }
        | _ => ({ s with pos := p }, some ⟨0x0C, 1⟩)
      match e with
      | some e => (s, e)
      | none =>
        let s := { s with
          blks := ⟨dataBits d (b.pos + 1) 2, s.pos - b.pos, b.pos, b.out.size, s.out.size - b.out.size, s.toks⟩ :: s.blks }
        if !final then inflateBlocks d olen fuel s
        else if s.out.size < olen then (s, ⟨0x0B, 0⟩)
        else if (s.pos + 7) / 8 < d.size then (s, ⟨0x0A, 1⟩)
        else (s, ⟨0x00, 0⟩)

/-- What decoding a CBLK gives (R370). -/
structure Decoded where
  code : Nat
  detail : Nat
  out : List Byte
  /-- Data bytes consumed: all of them where they end before the final block does (R370). -/
  inLen : Nat
  crc : Nat
  crcOk : Bool

/-- Decode a CBLK as one of `olen` bytes of output (R365, R370, R371). -/
def decodeTo (b : List Byte) (olen : Nat) : Decoded :=
  let clen := fieldAt b 0 4
  let ocrc := fieldAt b 8 4
  let flags := fieldAt b 13 1
  if fieldAt b 12 1 ≠ 1 ∨ 2 ≤ flags ∨ fieldAt b 14 2 ≠ 0 then ⟨0x0C, 9, [], 0, crc32c [], false⟩
  else
    let data := padLen clen ((b.drop 16).take clen)
    let (out, n, e) : List Byte × Nat × Ended :=
      if flags = 1 then
        (data.take olen, Nat.min clen olen, if olen < clen then ⟨0x0A, 2⟩ else if clen < olen then ⟨0x0B, 2⟩ else ⟨0, 0⟩)
      else
        let d := data.toArray
        let (s, e) := inflateBlocks d olen (8 * d.size + 1) { pos := 0, out := #[] }
        (s.out.toList, if e.code = 0x0B ∧ e.detail = 1 then clen else Nat.min clen ((s.pos + 7) / 8), e)
    let crc := crc32c out
    if e.code = 0 ∧ crc ≠ ocrc then ⟨0x0E, 0, out, n, crc, false⟩
    else ⟨e.code, e.detail, out, n, crc, (e.code == 0 || e.code == 0x0A) && crc == ocrc⟩

/-- Decode a CBLK. -/
def decodeCblk (b : List Byte) : Decoded := decodeTo b (fieldAt b 4 4)

/-- The blocks of a stream of `n` original bytes that follows 16 bytes: the byte from which each stands, and the original up to its
end. -/
def blockEnds (d : List Byte) (n : Nat) : List (Nat × Nat) :=
  (inflateBlocks d.toArray n (8 * d.length + 1) { pos := 0, out := #[] }).1.blks.reverse.map fun b => (16 + b.start / 8, b.at_ + b.len)

/-! ## The codes of a block (RFC 1951 3.2) -/

/-- The low `w` bits of `n`, the least significant first. -/
def lowBits (n w : Nat) : List Bool := (List.range w).map n.testBit

/-- The canonical code of symbol `s` under a list of lengths, its first bit first (RFC 1951 3.2.2). -/
def codeBits (lens : List Nat) (s : Nat) : List Bool :=
  let l := lens.getD s 0
  let first := lens.foldl (fun n k => if 0 < k ∧ k < l then n + 2 ^ (l - k) else n) 0
  (lowBits (first + (lens.take s).countP (· == l)) l).reverse

/-- The entry of a match length, and the index of a distance symbol. -/
def lenSym (n : Nat) : Nat := (lenBase.countP fun e => decide (e.1 ≤ n)) - 1
def distSym (d : Nat) : Nat := (List.range 30).countP (fun s => decide ((distBase s).1 ≤ d)) - 1

/-- The literal/length symbol of a token, and its distance symbol. -/
def Tok.lit? : Tok → Nat
  | .lit b => b
  | .copy n _ => 257 + lenSym n
def Tok.dist? : Tok → Option Nat
  | .lit _ => none
  | .copy _ d => some (distSym d)

/-- The bits of a token under two codes. -/
def Tok.code (ll dl : List Nat) : Tok → List Bool
  | .lit b => codeBits ll b
  | .copy n d =>
    let (lb, le) := lenBase.getD (lenSym n) (0, 0)
    let (db, de) := distBase (distSym d)
    codeBits ll (257 + lenSym n) ++ lowBits (n - lb) le ++ codeBits dl (distSym d) ++ lowBits (d - db) de

/-- The body of a compressed block: its tokens and the end symbol. -/
def blockBody (ll dl : List Nat) (l : List Tok) : List Bool := l.flatMap (Tok.code ll dl) ++ codeBits ll 256

/-- A package of symbols goes among those no lighter. -/
def insertCoin (c : Nat × List Nat) : List (Nat × List Nat) → List (Nat × List Nat)
  | [] => [c]
  | d :: l => if c.1 ≤ d.1 then c :: d :: l else d :: insertCoin c l

/-- Neighbors, two by two. -/
def pairUp : List (Nat × List Nat) → List (Nat × List Nat)
  | a :: b :: l => (a.1 + b.1, a.2 ++ b.2) :: pairUp l
  | _ => []

/-- The packages that `n` rounds over the coins give. -/
def packages (coins : List (Nat × List Nat)) : Nat → List (Nat × List Nat)
  | 0 => coins
  | n + 1 => (pairUp (packages coins n)).foldr insertCoin coins

/-- The lengths, of at most `limit` bits, of a best code for symbols that occur so often; the symbols that do not occur have none. A lone
symbol has one bit. -/
def bestLens (limit : Nat) (freqs : List Nat) : List Nat :=
  let used := (List.range freqs.length).filter fun s => decide (0 < freqs.getD s 0)
  if used.length < 2 then freqs.map fun f => if 0 < f then 1 else 0
  else
    let coins := (used.map fun s => (freqs.getD s 0, [s])).foldr insertCoin []
    let top := ((packages coins (limit - 1)).take (2 * used.length - 2)).flatMap (·.2)
    (List.range freqs.length).map fun s => top.countP (· == s)

/-- How often each of `n` symbols occurs. -/
def freqsOf (n : Nat) (l : List Nat) : List Nat := (List.range n).map fun s => l.countP (· == s)

/-- A list of lengths in the symbols of the code-length code: symbol, extra bits and their number (RFC 1951 3.2.7). -/
def runsOf : Nat → List Nat → List (Nat × Nat × Nat)
  | 0, _ => []
  | _, [] => []
  | n + 1, v :: l =>
    let k := (l.takeWhile (· == v)).length
    if v = 0 ∧ 2 ≤ k then
      let m := Nat.min (k + 1) 138
      (if m ≤ 10 then (17, m - 3, 3) else (18, m - 11, 7)) :: runsOf n (l.drop (m - 1))
    else if 3 ≤ k then (v, 0, 0) :: (16, Nat.min k 6 - 3, 2) :: runsOf n (l.drop (Nat.min k 6))
    else (v, 0, 0) :: runsOf n l

/-- A list without its trailing zeros, but of at least `n` entries. -/
def trimLens (n : Nat) (l : List Nat) : List Nat :=
  l.take (Nat.max n (l.length - (l.reverse.takeWhile (· == 0)).length))

/-- A dynamic block of tokens, after its three header bits. -/
def dynForm (l : List Tok) : List Bool :=
  let lits := l.map Tok.lit? ++ [256]
  let ll := trimLens 257 (bestLens 15 (freqsOf 286 (if l.isEmpty then 0 :: lits else lits)))
  let dl := trimLens 1 (bestLens 15 (freqsOf 30 (l.filterMap Tok.dist?)))
  let runs := runsOf (ll.length + dl.length) (ll ++ dl)
  let cl := bestLens 7 (freqsOf 19 (runs.map (·.1)))
  let sent := trimLens 4 (clOrder.map fun s => cl.getD s 0)
  lowBits (ll.length - 257) 5 ++ lowBits (dl.length - 1) 5 ++ lowBits (sent.length - 4) 4 ++ sent.flatMap (fun n => lowBits n 3) ++
    runs.flatMap (fun (s, v, w) => codeBits cl s ++ lowBits v w) ++ blockBody ll dl l

/-- A fixed-code block of tokens, after its three header bits. -/
def fixedForm (l : List Tok) : List Bool := blockBody fixedLitLens fixedDistLens l

/-- The bits of a stored block of `n` bytes whose first bit stands at `p`. -/
def storedBits (p n : Nat) : Nat := (p + 3 + 7) / 8 * 8 - p + 32 + 8 * n

/-! ## Encoding (R366 to R368) -/

/-- How far the bytes from `i` agree with those from `dist` back, up to `n`. -/
def matchLen (o : Array Byte) (i dist : Nat) : Nat → Nat → Nat
  | 0, k => k
  | n + 1, k => if o.getD (i + k) 0 = o.getD (i + k - dist) 0 then matchLen o i dist n (k + 1) else k

/-- The longest match at position `i` of at most `n` bytes, the nearest of equals, among the `most` nearest positions that hold the same
three bytes (assumption 21): length and distance. -/
def bestMatch (o : Array Byte) (most i n : Nat) : Nat × Nat :=
  let tries := (((List.range (Nat.min i 32768)).map (· + 1)).filter fun d => matchLen o i d 3 0 == 3).take most
  tries.foldl (fun b d =>
    let k := matchLen o i d (Nat.min n 258) 0
    if b.1 < k then (k, d) else b) (0, 0)

/-- The tokens of the `n` bytes from position `i`, each the best match there or a literal. -/
def parse (o : Array Byte) (most : Nat) : Nat → Nat → Nat → List Tok
  | 0, _, _ => []
  | fuel + 1, i, n =>
    if n = 0 then []
    else
      let (k, d) := bestMatch o most i n
      if 3 ≤ k then .copy k d :: parse o most fuel (i + k) (n - k)
      else .lit (o.getD i 0).toNat :: parse o most fuel (i + 1) (n - 1)

/-- A block whose first bit stands at `p` is no longer than a stored one of its `n` bytes. -/
def noLonger (bits p n : Nat) : Bool := decide (65535 < n) || decide (bits ≤ storedBits p n)

/-- A match at output position `i` from `dist` back is one that the encoder tries: fewer than `most` nearer positions hold the same
three bytes (R366; the nearest are tried first, assumption 21). -/
def tried (o : Array Byte) (most i dist : Nat) : Bool :=
  let same (j : Nat) : Bool := (List.range 3).all fun k => o.getD (j + k) 0 == o.getD (i + k) 0
  decide (((List.range dist).filter fun k => decide (0 < k) && same (i - k)).length < most)

/-- Every match of a block, whose symbols are given in order from output position `i`, is one that the encoder tries. -/
def allTried (o : Array Byte) (most : Nat) : Nat → List Tok → Bool
  | _, [] => true
  | i, .lit _ :: l => allTried o most (i + 1) l
  | i, .copy n dist :: l => tried o most i dist && allTried o most (i + n) l

/-- A block that the encoder may write (R366): at most 65,536 original bytes, in the shortest of the three forms, with matches that the
effort reaches. A stored block is held against the forms that the tokens of `parse` have, and a compressed one against those of its
own tokens (assumption 21). -/
def Blk.ok (effort : Nat) (o : Array Byte) (b : Blk) : Bool :=
  let own := b.toks.reverse
  let best := parse o (2 ^ effort) b.len b.at_ b.len
  decide (b.len ≤ 65536) && allTried o (2 ^ effort) b.at_ own && (match b.kind with
    | 0 => decide (b.bits ≤ 3 + (fixedForm best).length) && decide (b.bits ≤ 3 + (dynForm best).length)
    | 1 => noLonger b.bits b.start b.len && decide (b.bits ≤ 3 + (dynForm own).length)
    | _ => noLonger b.bits b.start b.len && decide (b.bits ≤ 3 + (fixedForm own).length))

/-- Bits into bytes, at most `fuel` of them. -/
def packBits : Nat → List Bool → List Byte
  | 0, _ => []
  | n + 1, l => if l.isEmpty then [] else BitVec.ofNat 8 (boolsNat (l.take 8)) :: packBits n (l.drop 8)
where
  boolsNat : List Bool → Nat
    | [] => 0
    | b :: l => bit b + 2 * boolsNat l

/-- A stream of the `len` bytes from position `i`, its first bit at `p`: blocks of at most 65,535 bytes, each in the shortest form. -/
def plainStream (o : Array Byte) (most : Nat) : Nat → Nat → Nat → Nat → List Bool
  | 0, _, _, _ => []
  | fuel + 1, p, i, len =>
    let n := Nat.min len 65535
    let l := parse o most n i n
    let fixed := fixedForm l
    let dyn := dynForm l
    let stored := List.replicate ((p + 10) / 8 * 8 - p - 3) false ++ lowBits n 16 ++ lowBits (65535 - n) 16 ++
      (List.range n).flatMap fun k => lowBits (o.getD (i + k) 0).toNat 8
    let blk := (n == len) :: (
      if stored.length ≤ fixed.length ∧ stored.length ≤ dyn.length then false :: false :: stored
      else if fixed.length ≤ dyn.length then true :: false :: fixed
      else false :: true :: dyn)
    if n = len then blk else blk ++ plainStream o most fuel (p + blk.length) (i + n) (len - n)

/-- The DEFLATE stream of an original. Its exact bytes are open (R366): the choice is taken where it is a valid stream of the original
in blocks that R366 allows, and otherwise one of the best matches at each position (assumption 21). -/
def deflate (effort : Nat) (o : List Byte) : List Byte :=
  let d := Config.deflate effort o
  let (s, e) := inflateBlocks d.toArray o.length (8 * d.length + 1) { pos := 0, out := #[] }
  if e.code = 0 ∧ s.out.toList = o ∧ s.blks.all (·.ok effort s.out) then d
  else
    let l := plainStream o.toArray (2 ^ effort) (o.length + 1) 0 0 o.length
    packBits (l.length + 1) l

/-- A CBLK of data. -/
def cblkOf (raw : Bool) (o data : List Byte) : List Byte :=
  leBytes 4 data.length ++ leBytes 4 o.length ++ leBytes 4 (crc32c o) ++ leBytes 1 1 ++ leBytes 1 (bit raw) ++ zeros 2 ++ data

/-- What encoding a CBLK gives: the block, none for INCOMPRESSIBLE, whether it is RAW, and the original bytes taken. -/
structure Encoded where
  block : Option (List Byte)
  raw : Bool
  taken : Nat

/-- The most original bytes, at most `n`, whose stream keeps within `lim` bytes. -/
def fitTake (effort lim : Nat) (o : List Byte) : Nat → Nat
  | 0 => 0
  | n + 1 => if (deflate effort (o.take (n + 1))).length ≤ lim then n + 1 else fitTake effort lim o n

/-- Encode a CBLK (R367, R368): `error` selects ERROR mode, `climit` bounds the CBLK where it is not zero. -/
def encodeCblk (effort climit : Nat) (error : Bool) (o : List Byte) : Encoded :=
  let n := if climit = 0 then o.length else fitTake effort (climit - 16) o o.length
  let part := o.take n
  let d := deflate effort part
  if 0 < n ∧ d.length < n then ⟨some (cblkOf false part d), false, n⟩
  else if error then ⟨none, false, 0⟩
  else
    let k := if climit = 0 then o.length else Nat.min o.length (climit - 16)
    ⟨some (cblkOf true (o.take k) (o.take k)), true, k⟩

end Sys2Proof.Machine
end

