-- ==== Sys2Proof/Machine/RegMap.lean ====
section
/-!
DEFINITION. The register fields of every page, one definition for each row of the manual's register tables (R433, R72, R73,
R103, R104, R142 to R145, R211, R212, R243, R274, R303 to R305, R334, R335, R363, R364, R389, R390, R424 to R426, R473, R474).
A field knows its page, its byte offset, the spacing and number of its instances, its bits, its access code (R12), its reset
values and whether it is held once for the whole TAU.
-/

namespace Sys2Proof.Machine

/-- The access codes of R12. -/
inductive Access where
  | rw | rws | ro | w1c | wo | set | msk
  deriving DecidableEq, Repr

/-- One field of a register table. -/
structure Fld where
  id : Nat
  page : Nat
  off : Nat
  stride : Nat
  count : Nat
  lsb : Nat
  width : Nat
  acc : Access
  resets : List Nat
  wide : Bool
  sat : Bool
  deriving DecidableEq, Repr

/-- The reset value of instance `i`; where the table gives one value for all instances, that one. -/
def Fld.resetAt (f : Fld) (i : Nat) : Nat :=
  match f.resets with
  | [] => 0
  | [v] => v
  | vs => vs.getD i 0

/-- The name under which a store holds instance `i` of the field in section `s` (R428: a TAU-wide field is held once). -/
def Fld.key (f : Fld) (i s : Nat) : Nat :=
  ((f.id * 64 + f.page) * 4 + (if f.wide then 0 else s % 4)) * 1024 + i % 1024

/-- What tells two fields of the tables apart. -/
def Fld.tag (f : Fld) : Nat := f.id * 64 + f.page

/-- A field that a table gives with one instance. -/
def Fld.one (id page off lsb width : Nat) (acc : Access) (reset : Nat) (wide sat : Bool) : Fld :=
  ⟨id, page, off, 0, 1, lsb, width, acc, [reset], wide, sat⟩

/-- A field that a table gives with several instances at a fixed spacing. -/
def Fld.many (id page off stride count lsb width : Nat) (acc : Access) (reset : Nat) (wide sat : Bool) : Fld :=
  ⟨id, page, off, stride, count, lsb, width, acc, [reset], wide, sat⟩

namespace Reg

def TIME_TIME_STATE_STATE : Fld := .one 0 0x1 0x40 0 3 .ro 0 false false
def TIME_TIME_STATE_SRC : Fld := .one 1 0x1 0x40 3 5 .ro 31 false false
def TIME_TIME_STATE_SLEWING : Fld := .one 2 0x1 0x40 8 1 .ro 0 false false
def TIME_TIME_STATE_EXT10M : Fld := .one 3 0x1 0x40 9 1 .ro 0 false false
def TIME_FT_LO : Fld := .one 4 0x1 0x44 0 32 .ro 0 false false
def TIME_FT_HI : Fld := .one 5 0x1 0x48 0 32 .ro 0 false false
def TIME_JUMP_THR : Fld := .one 6 0x1 0x4c 0 32 .rws 4000 false false
def TIME_SLEW_PPM : Fld := .one 7 0x1 0x50 0 6 .rws 50 false false
def TIME_HO_RATE_EXT : Fld := .one 8 0x1 0x54 0 16 .rws 4000 false false
def TIME_HO_RATE_INT : Fld := .one 9 0x1 0x54 16 16 .rws 40000 false false
def TIME_ERR_BOUND : Fld := .one 10 0x1 0x58 0 16 .ro 0 false true
def TIME_SRC_EN : Fld := .one 11 0x1 0x5c 0 19 .rws 0 false false
def TIME_SRC_CFG_PIN_FIRST : Fld := .one 12 0x1 0x60 0 1 .rws 0 false false
def TIME_TOD_SET_LO : Fld := .one 13 0x1 0x64 0 32 .wo 0 false false
def TIME_TOD_SET_HI : Fld := .one 14 0x1 0x68 0 16 .wo 0 false false
def TIME_JUMP_OFFER_LO : Fld := .one 15 0x1 0x6c 0 32 .ro 0 false false
def TIME_JUMP_OFFER_HI : Fld := .one 16 0x1 0x70 0 32 .ro 0 false false
def TIME_JUMP_PORT : Fld := .one 17 0x1 0x74 0 5 .ro 31 false false
def TIME_JUMP_ACCEPT_PORT : Fld := .one 18 0x1 0x78 0 5 .wo 0 false false
def TIME_JUMP_ACCEPT_GO : Fld := .one 19 0x1 0x78 31 1 .wo 0 false false
def TIME_JUMP_REFUSED_CNT : Fld := .one 20 0x1 0x7c 0 32 .ro 0 false false
def TIME_OUTLIER_CNT : Fld := .one 21 0x1 0x80 0 32 .ro 0 false false
def TIME_CFG_REFUSED_CNT : Fld := .one 22 0x1 0x84 0 32 .ro 0 false false
def TIME_PPS_OFFSET : Fld := .one 23 0x1 0x88 0 32 .ro 0 false false
def TIME_PTP_CFG_DOMAIN : Fld := .one 24 0x1 0x8c 0 8 .rws 0 false false
def TIME_PTP_CFG_LOG_SYNC : Fld := .one 25 0x1 0x8c 8 4 .rws 13 false false
def TIME_PTP_CFG_TWO_STEP : Fld := .one 26 0x1 0x8c 12 1 .rws 0 false false
def TIME_PTP_CFG_UTC_OFFSET : Fld := .one 27 0x1 0x8c 16 16 .ro 37 false false
def TIME_PIN_CFG_PPS_OUT_EN : Fld := .one 28 0x1 0x90 0 1 .rws 1 false false
def TIME_PIN_CFG_REF10M_OUT_EN : Fld := .one 29 0x1 0x90 1 1 .rws 1 false false
def TIME_PIN_STAT_FLAGGED : Fld := .one 30 0x1 0x94 0 1 .w1c 0 false false
def TIME_P_CFG_EN : Fld := .many 31 0x1 0x100 32 18 0 1 .rws 0 false false
def TIME_P_CFG_MODE : Fld := .many 32 0x1 0x100 32 18 1 2 .rws 0 false false
def TIME_P_CFG_TRANSPORT : Fld := .many 33 0x1 0x100 32 18 3 1 .rws 0 false false
def TIME_P_CFG_DELAY_MECH : Fld := .many 34 0x1 0x100 32 18 4 1 .rws 0 false false
def TIME_P_CFG_LH : Fld := .many 35 0x1 0x100 32 18 5 1 .ro 0 false false
def TIME_P_TX_FIX : Fld := .many 36 0x1 0x104 32 18 0 24 .rws 0 false false
def TIME_P_RX_FIX : Fld := .many 37 0x1 0x108 32 18 0 24 .rws 0 false false
def TIME_P_ASYM : Fld := .many 38 0x1 0x10c 32 18 0 32 .rws 0 false false
def TIME_P_LH_ALLOW : Fld := .many 39 0x1 0x110 32 18 0 32 .rws 0 false false
def TIME_P_MEAN_DELAY : Fld := .many 40 0x1 0x114 32 18 0 32 .ro 0 false false
def TIME_P_OFFSET : Fld := .many 41 0x1 0x118 32 18 0 32 .ro 0 false true
def TIME_P_STAT_FLAGGED : Fld := .many 42 0x1 0x11c 32 18 0 1 .w1c 0 false false
def TIME_P_STAT_ALLOW_EXCEEDED : Fld := .many 43 0x1 0x11c 32 18 1 1 .w1c 0 false false
def TIME_P_STAT_ALLOW_EXC_CNT : Fld := .many 44 0x1 0x11c 32 18 16 16 .ro 0 false true
def TIME_TEV_CTRL_EN : Fld := .many 45 0x1 0x400 32 4 0 1 .rws 0 false false
def TIME_TEV_CTRL_POL : Fld := .many 46 0x1 0x400 32 4 1 1 .rws 0 false false
def TIME_TEV_CTRL_MODE : Fld := .many 47 0x1 0x400 32 4 2 1 .rws 0 false false
def TIME_TEV_START_LO : Fld := .many 48 0x1 0x404 32 4 0 32 .rws 0 false false
def TIME_TEV_START_HI : Fld := .many 49 0x1 0x408 32 4 0 32 .rws 0 false false
def TIME_TEV_PERIOD : Fld := .many 50 0x1 0x40c 32 4 0 32 .rws 4000 false false
def TIME_TEV_WIDTH : Fld := .many 51 0x1 0x410 32 4 0 32 .rws 40 false false
def TIME_TEV_COUNT : Fld := .many 52 0x1 0x414 32 4 0 32 .rws 0 false false
def TIME_TEV_FIRED_CNT : Fld := .many 53 0x1 0x418 32 4 0 32 .ro 0 false false
def TIME_TEV_MISS_CNT : Fld := .many 54 0x1 0x41c 32 4 0 32 .ro 0 false false
def TTIME_TT_STATE_STATE : Fld := .one 55 0x21 0x40 0 2 .ro 0 false false
def TTIME_TT_STATE_SRC_LINK : Fld := .one 56 0x21 0x40 2 1 .ro 0 false false
def TTIME_TT_STATE_PARENT_HO : Fld := .one 57 0x21 0x40 3 1 .ro 0 false false
def TTIME_FT_LO : Fld := .one 58 0x21 0x44 0 32 .ro 0 false false
def TTIME_FT_HI : Fld := .one 59 0x21 0x48 0 32 .ro 0 false false
def TTIME_TW_TOL : Fld := .one 60 0x21 0x4c 0 16 .rws 40 false false
def TTIME_TW_LOST : Fld := .one 61 0x21 0x50 0 16 .rws 64 false false
def TTIME_HO_PPB : Fld := .one 62 0x21 0x54 0 16 .rws 2000 false false
def TTIME_ERR_BOUND : Fld := .one 63 0x21 0x58 0 16 .ro 0 false true
def TTIME_LNK_ASYM_A : Fld := .one 64 0x21 0x5c 0 32 .rws 0 false false
def TTIME_LNK_ASYM_B : Fld := .one 65 0x21 0x60 0 32 .rws 0 false false
def TTIME_LNK_DELAY_A : Fld := .one 66 0x21 0x64 0 32 .ro 0 false false
def TTIME_LNK_DELAY_B : Fld := .one 67 0x21 0x68 0 32 .ro 0 false false
def TTIME_ECHO_INTV : Fld := .one 68 0x21 0x6c 0 4 .rws 10 false false
def TTIME_TW_DISCARD_CNT : Fld := .one 69 0x21 0x70 0 32 .ro 0 false false
def TTIME_TW_CRC_CNT : Fld := .one 70 0x21 0x74 0 32 .ro 0 false false
def TTIME_GAP_CNT : Fld := .one 71 0x21 0x78 0 32 .ro 0 false false
def TTIME_GAP_LAST_LO : Fld := .one 72 0x21 0x7c 0 32 .ro 0 false false
def TTIME_GAP_LAST_HI : Fld := .one 73 0x21 0x80 0 32 .ro 0 false false
def TTIME_GAP_FIRST_LO : Fld := .one 74 0x21 0x84 0 32 .ro 0 false false
def TTIME_GAP_FIRST_HI : Fld := .one 75 0x21 0x88 0 32 .ro 0 false false
def TTIME_STRETCH_CNT : Fld := .one 76 0x21 0x8c 0 32 .ro 0 false false
def TTIME_TT_CTRL_LINK_PREF : Fld := .one 77 0x21 0x90 0 1 .rws 0 false false
def TTB_GUARD : Fld := .one 78 0x2 0x40 0 24 .rws 32000 true false
def TTB_LEVEL_BUDGET : Fld := .one 79 0x2 0x44 0 32 .rws 64000000 true false
def TTB_DEPTH_REFUSED_CNT : Fld := .one 80 0x2 0x48 0 32 .ro 0 true false
def TTB_SCHED_LEAD : Fld := .one 81 0x2 0x4c 0 16 .rws 1024 true false
def TTB_SCHED_PEND : Fld := .one 82 0x2 0x50 0 16 .ro 0 true false
def TTB_SCHED_BUSY_CNT : Fld := .one 83 0x2 0x54 0 32 .ro 0 true false
def TTB_SCHED_LATE_CNT : Fld := .one 84 0x2 0x58 0 32 .ro 0 true false
def TTB_SCHED_REFUSED_CNT : Fld := .one 85 0x2 0x5c 0 32 .ro 0 true false
def TTB_PATH_LOAD_MAX : Fld := .one 86 0x2 0x60 0 16 .ro 0 true false
def TTB_HBM_QUOTA : Fld := .one 87 0x2 0x64 0 9 .rws 64 true false
def TTB_HBM_RSV_SUMMARY : Fld := .one 88 0x2 0x68 0 8 .rws 0 true false
def TTB_HBM_RSV_SIDING : Fld := .one 89 0x2 0x68 8 8 .rws 0 true false
def TTB_HBM_RSV_RECORDER : Fld := .one 90 0x2 0x68 16 8 .rws 0 true false
def TTB_HBM_RSV_EXPORT : Fld := .one 91 0x2 0x68 24 8 .rws 0 true false
def TTB_HBM_PART : Fld := .one 92 0x2 0x6c 0 7 .rws 16 true false
def TTB_HBM_USED : Fld := .one 93 0x2 0x70 0 32 .ro 0 false false
def TTB_HBM_HWM : Fld := .one 94 0x2 0x74 0 32 .ro 0 false false
def TTB_HBM_REF_CNT0 : Fld := .one 95 0x2 0x78 0 32 .ro 0 false false
def TTB_HBM_REF_CNT1 : Fld := .one 96 0x2 0x7c 0 32 .ro 0 false false
def TTB_HBM_REF_CNT2 : Fld := .one 97 0x2 0x80 0 32 .ro 0 false false
def TTB_HBM_REF_CNT3 : Fld := .one 98 0x2 0x84 0 32 .ro 0 false false
def TTB_HOST_INTR_CAP : Fld := .one 99 0x2 0x88 0 16 .rws 10000 true false
def TTB_HOST_INTR_REF_CNT : Fld := .one 100 0x2 0x8c 0 32 .ro 0 true false
def TTB_HOST_INTR_PEND : Fld := .one 101 0x2 0x90 0 16 .ro 0 true false
def TTB_SC_PER_LO : Fld := .many 102 0x2 0x100 16 4 0 32 .ro 0 false false
def TTB_SC_PER_HI : Fld := .many 103 0x2 0x104 16 4 0 14 .ro 0 false false
def TTB_SC_MASK : Fld := .many 104 0x2 0x108 16 4 0 16 .ro 0 false false
def TTB_SC_STATE_PENDING : Fld := .many 105 0x2 0x10c 16 4 0 1 .ro 0 false false
def TEMIT_RATE : Fld := .one 106 0x29 0x40 0 6 .rws 8 false false
def TEMIT_PATH_MASK : Fld := .one 107 0x29 0x44 0 16 .rws 0 false false
def TEMIT_PATH_BYTES : Fld := .one 108 0x29 0x48 0 13 .ro 1024 false false
def TEMIT_EMIT_FIT_REFUSED_CNT : Fld := .one 109 0x29 0x4c 0 32 .ro 0 false false
def TEMIT_DEFER_CNT : Fld := .one 110 0x29 0x50 0 32 .ro 0 false false
def TEMIT_LATE_EMIT_CNT : Fld := .one 111 0x29 0x54 0 32 .ro 0 false false
def TEMIT_QUEUE_DROP_CNT : Fld := .one 112 0x29 0x58 0 32 .ro 0 false false
def TEMIT_BYTES_LAST : Fld := .one 113 0x29 0x5c 0 32 .ro 0 false false
def TEMIT_POWER_CAP : Fld := .one 114 0x29 0x60 0 11 .rws 1500 false false
def TEMIT_POWER_RSV : Fld := .one 115 0x29 0x64 0 11 .ro 420 false false
def TEMIT_POWER_REFUSED_CNT : Fld := .one 116 0x29 0x68 0 32 .ro 0 false false
def TEMIT_MEMBW_CAP : Fld := .one 117 0x29 0x6c 0 19 .rws 65536 false false
def TEMIT_MEMBW_REFUSED_CNT : Fld := .one 118 0x29 0x70 0 32 .ro 0 false false
def TEMIT_INTR_CAP : Fld := .one 119 0x29 0x74 0 16 .rws 1000 false false
def TEMIT_INTR_REFUSED_CNT : Fld := .one 120 0x29 0x78 0 32 .ro 0 false false
def TEMIT_INTR_PEND : Fld := .one 121 0x29 0x7c 0 16 .ro 0 false false
def TEMIT_SCR_PPM : Fld := .one 122 0x29 0x80 0 8 .rws 20 false false
def TEMIT_SCR_MAX : Fld := .one 123 0x29 0x84 0 32 .rws 800000 false false
def TEMIT_SCR_CREDIT : Fld := .one 124 0x29 0x88 0 32 .ro 0 false false
def TEMIT_SCR_REFUSED_CNT : Fld := .one 125 0x29 0x8c 0 32 .ro 0 false false
def TEMIT_HOST_WR_REFUSED_CNT : Fld := .one 126 0x29 0x90 0 32 .ro 0 false false
def TEMIT_MARK_CNT : Fld := .one 127 0x29 0x94 0 32 .ro 0 false false
def TEMIT_MARK_DROP_CNT : Fld := .one 128 0x29 0x98 0 32 .ro 0 false false
def TEMIT_MARK_ORDER_CNT : Fld := .one 129 0x29 0x9c 0 32 .ro 0 false false
def TEMIT_MARK_GAP_CNT : Fld := .one 130 0x29 0xa0 0 32 .ro 0 false false
def TEMIT_LINK_DROP_CNT : Fld := .one 131 0x29 0xa4 0 32 .ro 0 false false
def TEMIT_ENT_CONSIST : Fld := .many 132 0x29 0x100 4 16 0 16 .rws 0 false false
def TEMIT_ENT_DIV : Fld := .many 133 0x29 0x100 4 16 16 3 .rws 0 false false
def TEMIT_ENT_PHASE : Fld := .many 134 0x29 0x100 4 16 19 7 .rws 0 false false
def TEMIT_ENT_PATH : Fld := .many 135 0x29 0x100 4 16 26 4 .rws 0 false false
def TEMIT_ENT_EN : Fld := .many 136 0x29 0x100 4 16 31 1 .rws 0 false false
def TEMIT_TRG_CTRL_EN : Fld := .many 137 0x29 0x200 16 8 0 1 .rws 0 false false
def TEMIT_TRG_CTRL_KIND : Fld := .many 138 0x29 0x200 16 8 1 2 .rws 0 false false
def TEMIT_TRG_CTRL_DIV : Fld := .many 139 0x29 0x200 16 8 4 4 .rws 0 false false
def TEMIT_TRG_CTRL_PHASE : Fld := .many 140 0x29 0x200 16 8 8 16 .rws 0 false false
def TEMIT_TRG_OFFSET : Fld := .many 141 0x29 0x204 16 8 0 18 .rws 0 false false
def TEMIT_TRG_FIRED_CNT : Fld := .many 142 0x29 0x208 16 8 0 32 .ro 0 false false
def TEMIT_TRG_MISS_CNT : Fld := .many 143 0x29 0x20c 16 8 0 32 .ro 0 false false
def TCAP_SH_CH_EN_LO : Fld := .one 144 0x22 0x40 0 32 .rws 0 false false
def TCAP_SH_CH_EN_HI : Fld := .one 145 0x22 0x44 0 32 .rws 0 false false
def TCAP_SH_TRGCH0_0 : Fld := .one 146 0x22 0x48 0 6 .rws 0 false false
def TCAP_SH_TRGCH0_1 : Fld := .one 147 0x22 0x48 8 6 .rws 0 false false
def TCAP_SH_TRGCH0_2 : Fld := .one 148 0x22 0x48 16 6 .rws 0 false false
def TCAP_SH_TRGCH0_3 : Fld := .one 149 0x22 0x48 24 6 .rws 0 false false
def TCAP_SH_TRGCH1_0 : Fld := .one 150 0x22 0x4c 0 6 .rws 0 false false
def TCAP_SH_TRGCH1_1 : Fld := .one 151 0x22 0x4c 8 6 .rws 0 false false
def TCAP_SH_TRGCH1_2 : Fld := .one 152 0x22 0x4c 16 6 .rws 0 false false
def TCAP_SH_TRGCH1_3 : Fld := .one 153 0x22 0x4c 24 6 .rws 0 false false
def TCAP_SH_SEL : Fld := .one 154 0x22 0x50 0 6 .rw 0 false false
def TCAP_SH_VAL : Fld := .one 155 0x22 0x54 0 32 .ro 0 false false
def TCAP_SH_STAMP_LO : Fld := .one 156 0x22 0x58 0 32 .ro 0 false false
def TCAP_SH_STAMP_HI : Fld := .one 157 0x22 0x5c 0 32 .ro 0 false false
def TCAP_SH_TAG_LO : Fld := .one 158 0x22 0x60 0 32 .ro 0 false false
def TCAP_SH_TAG_HI : Fld := .one 159 0x22 0x64 0 32 .ro 0 false false
def TCAP_SH_INFO_TAGGED : Fld := .one 160 0x22 0x68 0 1 .ro 0 false false
def TCAP_SH_INFO_ERR : Fld := .one 161 0x22 0x68 1 1 .ro 0 false false
def TCAP_SH_INFO_HO : Fld := .one 162 0x22 0x68 2 1 .ro 0 false false
def TCAP_SH_INFO_SAMPLES : Fld := .one 163 0x22 0x68 16 16 .ro 0 false true
def TCAP_SH_DROP_CNT : Fld := .one 164 0x22 0x6c 0 32 .ro 0 false false
def TCAP_SH_TRG_OVR_CNT : Fld := .one 165 0x22 0x70 0 32 .ro 0 false false
def TCAP_SIG_CFG_TEMP_CH : Fld := .one 166 0x22 0x74 0 6 .rws 0 false false
def TCAP_STRETCH_MERGE : Fld := .one 167 0x22 0x78 0 16 .rws 4000 false false
def TCAP_STRETCH_STATE_ACTIVE : Fld := .one 168 0x22 0x7c 0 1 .ro 0 false false
def TCAP_EXP_CFG_THR : Fld := .one 169 0x22 0x80 0 16 .rws 16384 false false
def TCAP_EXP_CFG_N : Fld := .one 170 0x22 0x80 16 8 .rws 4 false false
def TCAP_EXP_STATE_LAG : Fld := .one 171 0x22 0x84 0 1 .ro 0 false false
def TCAP_EXP_STATE_EXP_EVT_CNT : Fld := .one 172 0x22 0x84 16 16 .ro 0 false true
def TCAP_PH_CNT : Fld := .one 173 0x22 0x88 0 32 .ro 0 false false
def TCAP_PH_DROP_CNT : Fld := .one 174 0x22 0x8c 0 32 .ro 0 false false
def TCAP_PH_ORDER_CNT : Fld := .one 175 0x22 0x90 0 32 .ro 0 false false
def TCAP_PH_GAP_CNT : Fld := .one 176 0x22 0x94 0 32 .ro 0 false false
def TPMU_FIX_EN : Fld := .one 177 0x23 0x40 0 16 .rws 65535 false false
def TPMU_PRG_EN_LO : Fld := .one 178 0x23 0x44 0 32 .rws 0 false false
def TPMU_PRG_EN_HI : Fld := .one 179 0x23 0x48 0 32 .rws 0 false false
def TPMU_SMP_CNT : Fld := .one 180 0x23 0x4c 0 32 .ro 0 false false
def TPMU_SMP_DROP_CNT : Fld := .one 181 0x23 0x50 0 32 .ro 0 false false
def TPMU_SMP_FILL : Fld := .one 182 0x23 0x54 0 7 .ro 0 false false
def TPMU_MIR_BASE_LO : Fld := .one 183 0x23 0x58 12 20 .rws 0 false false
def TPMU_MIR_BASE_HI : Fld := .one 184 0x23 0x5c 0 32 .rws 0 false false
def TPMU_MIR_CFG_EN : Fld := .one 185 0x23 0x60 0 1 .rws 0 false false
def TPMU_MIR_CFG_OPEN : Fld := .one 186 0x23 0x60 1 5 .rws 0 false false
def TPMU_MIR_CFG_DIV : Fld := .one 187 0x23 0x60 8 4 .rws 0 false false
def TPMU_MIR_SEQ : Fld := .one 188 0x23 0x64 0 32 .ro 0 false false
def TPMU_MIR_SKIP_CNT : Fld := .one 189 0x23 0x68 0 32 .ro 0 false false
def TPMU_FIX_LO : Fld := .many 190 0x23 0x100 8 16 0 32 .ro 0 false false
def TPMU_FIX_HI : Fld := .many 191 0x23 0x104 8 16 0 16 .ro 0 false false
def TPMU_PRG_LO : Fld := .many 192 0x23 0x200 8 64 0 32 .rw 0 false false
def TPMU_PRG_HI : Fld := .many 193 0x23 0x204 8 64 0 16 .rw 0 false false
def TPMU_CFG_SEL : Fld := .many 194 0x23 0x400 4 64 0 8 .rws 0 false false
def TPMU_CFG_QUAL : Fld := .many 195 0x23 0x400 4 64 8 8 .rws 0 false false
def TPMU_CFG_MODE : Fld := .many 196 0x23 0x400 4 64 16 2 .rws 0 false false
def TPMU_CFG_QUAL_EN : Fld := .many 197 0x23 0x400 4 64 18 1 .rws 0 false false
def TPMU_CFG_QUAL_INV : Fld := .many 198 0x23 0x400 4 64 19 1 .rws 0 false false
def TPMU_CFG_OVF_SMP : Fld := .many 199 0x23 0x400 4 64 20 1 .rws 0 false false
def TPMU_CFG_OVF_INTR : Fld := .many 200 0x23 0x400 4 64 21 1 .rws 0 false false
def THIST_BKT_SEL : Fld := .one 201 0x24 0x40 0 4 .rw 0 false false
def THIST_SLOT_THR : Fld := .one 202 0x24 0x44 0 32 .rws 200000000 false false
def THIST_H_GAPDROP_CNT : Fld := .one 203 0x24 0x48 0 32 .ro 0 false false
def THIST_H_FLAG_CNT : Fld := .one 204 0x24 0x4c 0 32 .ro 0 false false
def THIST_H_PAIR_DROP_CNT : Fld := .one 205 0x24 0x50 0 32 .ro 0 false false
def THIST_H_CTRL_EN : Fld := .many 206 0x24 0x100 32 16 0 1 .rws 0 false false
def THIST_H_CTRL_SRC : Fld := .many 207 0x24 0x100 32 16 1 3 .rws 0 false false
def THIST_H_CTRL_CUM : Fld := .many 208 0x24 0x100 32 16 4 1 .rws 0 false false
def THIST_H_CTRL_E : Fld := .many 209 0x24 0x100 32 16 5 6 .rws 0 false false
def THIST_H_ARG : Fld := .many 210 0x24 0x104 32 16 0 16 .rws 0 false false
def THIST_H_UNDER : Fld := .many 211 0x24 0x108 32 16 0 32 .ro 0 false false
def THIST_H_OVER : Fld := .many 212 0x24 0x10c 32 16 0 32 .ro 0 false false
def THIST_H_COUNT : Fld := .many 213 0x24 0x110 32 16 0 32 .ro 0 false true
def THIST_H_MIN : Fld := .many 214 0x24 0x114 32 16 0 32 .ro 0 false true
def THIST_H_MAX : Fld := .many 215 0x24 0x118 32 16 0 32 .ro 0 false true
def THIST_H_DROP_CNT : Fld := .many 216 0x24 0x11c 32 16 0 32 .ro 0 false false
def THIST_BKT : Fld := .many 217 0x24 0x400 4 128 0 32 .ro 0 false false
def THIST_H_SUM_LO : Fld := .one 218 0x24 0x600 0 32 .ro 0 false false
def THIST_H_SUM_HI : Fld := .one 219 0x24 0x604 0 32 .ro 0 false false
def THIST_SL_COUNT : Fld := .many 220 0x24 0x800 8 256 0 16 .ro 0 false false
def THIST_SL_OVER : Fld := .many 221 0x24 0x800 8 256 16 16 .ro 0 false false
def THIST_SL_MAX : Fld := .many 222 0x24 0x804 8 256 0 32 .ro 0 false false
def TDET_FLAGS_LO : Fld := .one 223 0x25 0x40 0 32 .ro 0 false false
def TDET_FLAGS_HI : Fld := .one 224 0x25 0x44 0 32 .ro 0 false false
def TDET_EVAL_CNT : Fld := .one 225 0x25 0x48 0 32 .ro 0 false false
def TDET_SKIP_CNT : Fld := .one 226 0x25 0x4c 0 32 .ro 0 false false
def TDET_SAT_CNT : Fld := .one 227 0x25 0x50 0 32 .ro 0 false false
def TDET_CFG_REFUSED_CNT : Fld := .one 228 0x25 0x54 0 32 .ro 0 false false
def TDET_D_CTRL_EN : Fld := .many 229 0x25 0x100 32 32 0 1 .rws 0 false false
def TDET_D_CTRL_KIND : Fld := .many 230 0x25 0x100 32 32 1 2 .rws 0 false false
def TDET_D_CTRL_SRC : Fld := .many 231 0x25 0x100 32 32 3 4 .rws 0 false false
def TDET_D_CTRL_SH : Fld := .many 232 0x25 0x100 32 32 7 5 .rws 0 false false
def TDET_D_CTRL_A : Fld := .many 233 0x25 0x100 32 32 12 4 .rws 0 false false
def TDET_D_CTRL_EVT_EN : Fld := .many 234 0x25 0x100 32 32 16 1 .rws 0 false false
def TDET_D_CTRL_INTR_EN : Fld := .many 235 0x25 0x100 32 32 17 1 .rws 0 false false
def TDET_D_CTRL_SEV : Fld := .many 236 0x25 0x100 32 32 18 3 .rws 0 false false
def TDET_D_CTRL_INV : Fld := .many 237 0x25 0x100 32 32 21 1 .rws 0 false false
def TDET_D_ARG : Fld := .many 238 0x25 0x104 32 32 0 16 .rws 0 false false
def TDET_D_P0 : Fld := .many 239 0x25 0x108 32 32 0 32 .rws 0 false false
def TDET_D_P1 : Fld := .many 240 0x25 0x10c 32 32 0 32 .rws 0 false false
def TDET_D_P2 : Fld := .many 241 0x25 0x110 32 32 0 32 .rws 0 false false
def TDET_D_STATE_A : Fld := .many 242 0x25 0x114 32 32 0 32 .ro 0 false true
def TDET_D_STATE_B : Fld := .many 243 0x25 0x118 32 32 0 32 .ro 0 false true
def TDET_D_FLAG_UPPER : Fld := .many 244 0x25 0x11c 32 32 0 1 .ro 0 false false
def TDET_D_FLAG_LOWER : Fld := .many 245 0x25 0x11c 32 32 1 1 .ro 0 false false
def TDET_D_FLAG_FLAG_CNT : Fld := .many 246 0x25 0x11c 32 32 16 16 .ro 0 false true
def SCB_CTX_USED : Fld := .one 247 0x3 0x40 0 12 .ro 0 false false
def SCB_CTX_HWM : Fld := .one 248 0x3 0x44 0 12 .ro 0 false false
def SCB_EMIT_OFS : Fld := .one 249 0x3 0x48 0 32 .rws 262144 true false
def SCB_SHIFT : Fld := .one 250 0x3 0x4c 0 32 .ro 0 true false
def SCB_CLOSE_OFS : Fld := .one 251 0x3 0x50 0 32 .ro 507136 true false
def SCB_RANK_BASE : Fld := .one 252 0x3 0x54 0 24 .rws 16777215 true false
def SCB_RANK_SPAN : Fld := .one 253 0x3 0x58 0 24 .rws 0 true false
def SCB_HOLD_BYTES : Fld := .one 254 0x3 0x5c 0 24 .ro 0 true false
def SCB_HOLD_DROP_CNT : Fld := .one 255 0x3 0x60 0 32 .ro 0 true false
def SCB_XFWD_CNT : Fld := .one 256 0x3 0x64 0 32 .ro 0 false false
def SCB_STALE_CNT : Fld := .one 257 0x3 0x68 0 32 .ro 0 false false
def SCB_DMG_LEN_CNT : Fld := .one 258 0x3 0x6c 0 32 .ro 0 false false
def SCB_DMG_CRC_CNT : Fld := .one 259 0x3 0x70 0 32 .ro 0 false false
def SCB_DMG_ID_CNT : Fld := .one 260 0x3 0x74 0 32 .ro 0 false false
def SCB_DMG_CST_CNT : Fld := .one 261 0x3 0x78 0 32 .ro 0 false false
def SCB_LATE_CNT : Fld := .one 262 0x3 0x7c 0 32 .ro 0 false false
def SCB_DUP_CNT : Fld := .one 263 0x3 0x80 0 32 .ro 0 false false
def SCB_EARLY_CNT : Fld := .one 264 0x3 0x84 0 32 .ro 0 false false
def SCB_UNEXP_CNT : Fld := .one 265 0x3 0x88 0 32 .ro 0 false false
def SCB_EARLY_CLOSE_CNT : Fld := .one 266 0x3 0x8c 0 32 .ro 0 false false
def SCB_QUOTA_REF_CNT : Fld := .one 267 0x3 0x90 0 32 .ro 0 false false
def SCB_ADOPT_REF_CNT : Fld := .one 268 0x3 0x94 0 32 .ro 0 true false
def SCB_ADOPT_NUM : Fld := .one 269 0x3 0x98 0 5 .ro 0 true false
def SCB_ORPHAN_DROP_CNT : Fld := .one 270 0x3 0x9c 0 32 .ro 0 true false
def SCB_EXC_DEADLINE : Fld := .one 271 0x3 0xa0 0 4 .rws 2 false false
def SCB_STUCK_LIMIT : Fld := .one 272 0x3 0xa4 0 4 .rws 4 false false
def SCB_STUCK_CNT : Fld := .one 273 0x3 0xa8 0 32 .ro 0 false false
def SCB_EXC_HEAD_ID : Fld := .one 274 0x3 0xac 0 6 .ro 0 false false
def SCB_EXC_HEAD_KIND : Fld := .one 275 0x3 0xac 8 3 .ro 0 false false
def SCB_EXC_HEAD_VALID : Fld := .one 276 0x3 0xac 16 1 .ro 0 false false
def SCB_EXC_INFO0 : Fld := .one 277 0x3 0xb0 0 32 .ro 0 false false
def SCB_EXC_INFO1 : Fld := .one 278 0x3 0xb4 0 32 .ro 0 false false
def SCB_EXC_ACK_ID : Fld := .one 279 0x3 0xb8 0 6 .wo 0 false false
def SCB_EXC_ACK_ACCEPT : Fld := .one 280 0x3 0xb8 8 1 .wo 0 false false
def SCB_EXC_DROP_CNT : Fld := .one 281 0x3 0xbc 0 32 .ro 0 false false
def SCB_JQ_SEL : Fld := .one 282 0x3 0xc0 0 16 .rw 0 false false
def SCB_JQ_RSV : Fld := .one 283 0x3 0xc4 0 13 .ro 0 true false
def SCB_JQ_USED : Fld := .one 284 0x3 0xc8 0 13 .ro 0 false false
def SCB_POOL_FREE : Fld := .one 285 0x3 0xcc 0 13 .ro 6144 true false
def SCB_EVT_FWD_SEV : Fld := .one 286 0x3 0xd0 0 4 .rws 5 true false
def SCB_EVT_CNT : Fld := .one 287 0x3 0xd4 0 32 .ro 0 false false
def SCB_EVT_FWD_CNT : Fld := .one 288 0x3 0xd8 0 32 .ro 0 false false
def SCB_CH_BASE : Fld := .many 289 0x3 0x100 16 64 0 24 .ro 16777215 true false
def SCB_CH_SPAN : Fld := .many 290 0x3 0x104 16 64 0 24 .ro 0 true false
def SCB_CH_EXP : Fld := .many 291 0x3 0x108 16 64 0 24 .ro 0 true false
def SCB_CH_STAT_ATT : Fld := .many 292 0x3 0x10c 16 64 0 1 .ro 0 true false
def SCB_CH_STAT_ADOPTED : Fld := .many 293 0x3 0x10c 16 64 1 1 .ro 0 true false
def SCB_CH_STAT_MISS_LAST : Fld := .many 294 0x3 0x10c 16 64 2 1 .ro 0 true false
def SCB_CH_STAT_LATE_LAST : Fld := .many 295 0x3 0x10c 16 64 3 1 .ro 0 true false
def RED_UNIT_EN : Fld := .one 296 0x4 0x40 0 4 .ro 15 false false
def RED_MERGE_CNT : Fld := .one 297 0x4 0x44 0 32 .ro 0 false false
def RED_TRAIN_CNT : Fld := .one 298 0x4 0x48 0 32 .ro 0 false false
def RED_TRAIN_BYTES_LAST : Fld := .one 299 0x4 0x4c 0 32 .ro 0 false false
def RED_BUILD_LATE_CNT : Fld := .one 300 0x4 0x50 0 32 .ro 0 false false
def RED_BUILD_LOAD_MAX : Fld := .one 301 0x4 0x54 0 18 .ro 0 true false
def RED_TRAIN_IN_MAX : Fld := .one 302 0x4 0x58 0 18 .ro 0 true false
def RED_TRAIN_MAXLEN : Fld := .one 303 0x4 0x5c 0 13 .ro 4096 false false
def RED_SUM_NARROW_CNT : Fld := .one 304 0x4 0x60 0 32 .ro 0 false false
def RED_TOPK_TRUNC_CNT : Fld := .one 305 0x4 0x64 0 32 .ro 0 false false
def RED_AGREE_SPLIT_CNT : Fld := .one 306 0x4 0x68 0 32 .ro 0 false false
def RED_AGREE_MIX_CNT : Fld := .one 307 0x4 0x6c 0 32 .ro 0 false false
def RED_COV_MIN : Fld := .one 308 0x4 0x70 0 16 .rws 65280 true false
def RED_COV_LOW_CNT : Fld := .one 309 0x4 0x74 0 32 .ro 0 false false
def RED_ADOPT_NET_CNT : Fld := .one 310 0x4 0x78 0 32 .ro 0 false false
def RED_LOST_CTX_CNT : Fld := .one 311 0x4 0x7c 0 32 .ro 0 false false
def SRV_ACTIVE : Fld := .one 312 0x5 0x40 0 7 .ro 0 true false
def SRV_ISSUED_CNT : Fld := .one 313 0x5 0x44 0 32 .ro 0 true false
def SRV_ADMIT_REF_CNT : Fld := .one 314 0x5 0x48 0 32 .ro 0 true false
def SRV_FWD_CNT : Fld := .one 315 0x5 0x4c 0 32 .ro 0 false false
def SRV_DETAIL_CNT : Fld := .one 316 0x5 0x50 0 32 .ro 0 false false
def SRV_DETAIL_LATE_CNT : Fld := .one 317 0x5 0x54 0 32 .ro 0 false false
def SRV_ANS_DROP_CNT : Fld := .one 318 0x5 0x58 0 32 .ro 0 true false
def SRV_TIMEOUT_CNT : Fld := .one 319 0x5 0x5c 0 32 .ro 0 false false
def SRV_RET_MISS_CNT : Fld := .one 320 0x5 0x60 0 32 .ro 0 false false
def SRV_HOP_MARGIN : Fld := .one 321 0x5 0x64 0 8 .rws 2 true false
def SRV_ANS_BASE_LO : Fld := .one 322 0x5 0x68 12 20 .rws 0 true false
def SRV_ANS_BASE_HI : Fld := .one 323 0x5 0x6c 0 4 .rws 0 true false
def SRV_ANS_SIZE : Fld := .one 324 0x5 0x70 0 16 .rws 0 true false
def SRV_ANS_WR : Fld := .one 325 0x5 0x74 0 32 .ro 0 true false
def SRV_ANS_RD : Fld := .one 326 0x5 0x78 0 32 .rw 0 true false
def SRV_ISSUE_GO : Fld := .one 327 0x5 0x80 0 1 .wo 0 true false
def SRV_ISSUE_STAT_CODE : Fld := .one 328 0x5 0x84 0 8 .ro 0 false false
def SRV_ISSUE_STAT_SLOT : Fld := .one 329 0x5 0x84 8 6 .ro 0 false false
def SRV_ISSUE_STAT_VALID : Fld := .one 330 0x5 0x84 16 1 .ro 0 false false
def SRV_ISSUE_SID : Fld := .one 331 0x5 0x88 0 32 .ro 0 false false
def SRV_SLOT_SEL : Fld := .one 332 0x5 0x8c 0 6 .rw 0 false false
def SRV_SLOT_STAT_STATE : Fld := .one 333 0x5 0x90 0 2 .ro 0 false false
def SRV_SLOT_STAT_STANDING : Fld := .one 334 0x5 0x90 8 1 .ro 0 false false
def SRV_SLOT_SID : Fld := .one 335 0x5 0x94 0 32 .ro 0 false false
def SRV_SLOT_MATCH : Fld := .one 336 0x5 0x98 0 32 .ro 0 false false
def SRV_SLOT_PEND : Fld := .one 337 0x5 0x9c 0 7 .ro 0 false false
def SRV_CANCEL_SLOT : Fld := .one 338 0x5 0xa0 0 6 .wo 0 false false
def SRV_CANCEL_GO : Fld := .one 339 0x5 0xa0 31 1 .wo 0 false false
def SRV_RET_SEL_JOB : Fld := .one 340 0x5 0xa4 0 16 .rw 0 false false
def SRV_RET_SEL_CONSIST : Fld := .one 341 0x5 0xa4 16 16 .rw 0 false false
def SRV_RET_KEY : Fld := .one 342 0x5 0xa8 0 8 .rws 254 false false
def SRV_LV_CFG_SUSPECT : Fld := .one 343 0x5 0xb0 0 8 .rws 3 false false
def SRV_LV_CFG_ABSENT : Fld := .one 344 0x5 0xb0 8 8 .rws 16 false false
def SRV_LV_CFG_RETURN : Fld := .one 345 0x5 0xb0 16 8 .rws 2 false false
def SRV_LV_REPROBE : Fld := .one 346 0x5 0xb4 0 16 .rws 256 false false
def SRV_SUSPECT_CNT : Fld := .one 347 0x5 0xb8 0 32 .ro 0 false false
def SRV_ABSENT_CNT : Fld := .one 348 0x5 0xbc 0 32 .ro 0 false false
def SRV_CONTEST_CNT : Fld := .one 349 0x5 0xc0 0 32 .ro 0 false false
def SRV_PROBE_CNT : Fld := .one 350 0x5 0xc4 0 32 .ro 0 false false
def SRV_PSEQ_GAP_CNT : Fld := .one 351 0x5 0xc8 0 32 .ro 0 false false
def SRV_PARENT_STATE : Fld := .one 352 0x5 0xcc 0 2 .ro 0 true false
def SRV_PARENT_MISS : Fld := .one 353 0x5 0xcc 8 8 .ro 0 true false
def SRV_JV_REF_CNT : Fld := .one 354 0x5 0xd0 0 32 .ro 0 true false
def SRV_LV_STATE : Fld := .many 355 0x5 0x100 16 64 0 2 .ro 0 true false
def SRV_LV_PULSE : Fld := .many 356 0x5 0x100 16 64 2 2 .ro 0 true false
def SRV_LV_MISS : Fld := .many 357 0x5 0x100 16 64 8 8 .ro 0 true true
def SRV_LV_CLASS : Fld := .many 358 0x5 0x100 16 64 16 4 .ro 0 true false
def SRV_LV_PROBE_PEND : Fld := .many 359 0x5 0x100 16 64 20 1 .ro 0 true false
def SRV_JV_ALIVE : Fld := .many 360 0x5 0x104 16 64 0 24 .ro 0 true false
def SRV_JV_DEAD : Fld := .many 361 0x5 0x108 16 64 0 24 .ro 0 true false
def SRV_LV_LAST : Fld := .many 362 0x5 0x10c 16 64 0 32 .ro 0 true false
def SRV_ST_CTRL_EN : Fld := .many 363 0x5 0x500 64 8 0 1 .rws 0 true false
def SRV_ST_CTRL_AUTO_OVF : Fld := .many 364 0x5 0x500 64 8 1 1 .rws 0 true false
def SRV_ST_CTRL_TBL_USED : Fld := .many 365 0x5 0x500 64 8 16 11 .ro 0 true false
def SRV_ST_STREAM_JOB : Fld := .many 366 0x5 0x504 64 8 0 16 .rws 0 true false
def SRV_ST_STREAM_CONSIST : Fld := .many 367 0x5 0x504 64 8 16 16 .rws 0 true false
def SRV_ST_FIELDS : Fld := .many 368 0x5 0x508 64 8 0 32 .rws 0 true false
def SRV_ST_ABS : Fld := .many 369 0x5 0x50c 64 8 0 32 .rws 400000 true false
def SRV_ST_REL : Fld := .many 370 0x5 0x510 64 8 0 16 .rws 0 true false
def SRV_ST_PERS_N : Fld := .many 371 0x5 0x514 64 8 0 7 .rws 3 true false
def SRV_ST_PERS_M : Fld := .many 372 0x5 0x514 64 8 8 7 .rws 8 true false
def SRV_ST_MAXWIN : Fld := .many 373 0x5 0x518 64 8 0 32 .rws 4194304 true false
def SRV_ST_STEP : Fld := .many 374 0x5 0x51c 64 8 0 32 .ro 0 true false
def SRV_ST_MIN_LO : Fld := .many 375 0x5 0x520 64 8 0 32 .ro 0 true false
def SRV_ST_MIN_HI : Fld := .many 376 0x5 0x524 64 8 0 32 .ro 0 true false
def SRV_ST_THR : Fld := .many 377 0x5 0x528 64 8 0 32 .ro 0 true true
def SRV_ST_CNT : Fld := .many 378 0x5 0x52c 64 8 0 32 .ro 0 true false
def SRV_ST_PERSIST_CNT : Fld := .many 379 0x5 0x530 64 8 0 32 .ro 0 true false
def SRV_ST_OVF_CNT : Fld := .many 380 0x5 0x534 64 8 0 32 .ro 0 true false
def SRV_ST_EVICT_CNT : Fld := .many 381 0x5 0x538 64 8 0 32 .ro 0 true false
def SRV_ST_SKIP_CNT : Fld := .many 382 0x5 0x53c 64 8 0 32 .ro 0 true false
def SRV_DR_CTRL_EN : Fld := .many 383 0x5 0x700 32 16 0 1 .rws 0 true false
def SRV_DR_CTRL_KIND : Fld := .many 384 0x5 0x700 32 16 1 1 .rws 0 true false
def SRV_DR_CTRL_MODE : Fld := .many 385 0x5 0x700 32 16 2 1 .rws 0 true false
def SRV_DR_CTRL_WL : Fld := .many 386 0x5 0x700 32 16 3 5 .rws 0 true false
def SRV_DR_CTRL_FIELD : Fld := .many 387 0x5 0x700 32 16 8 8 .rws 0 true false
def SRV_DR_STREAM : Fld := .many 388 0x5 0x704 32 16 0 32 .rws 0 true false
def SRV_DR_THR : Fld := .many 389 0x5 0x708 32 16 0 32 .rws 0 true false
def SRV_DR_SCORE : Fld := .many 390 0x5 0x70c 32 16 0 17 .ro 0 true false
def SRV_DR_WIN_CNT : Fld := .many 391 0x5 0x710 32 16 0 32 .ro 0 true false
def SRV_DR_FLAG_CNT : Fld := .many 392 0x5 0x714 32 16 0 32 .ro 0 true false
def SRV_DR_SKIP_CNT : Fld := .many 393 0x5 0x718 32 16 0 32 .ro 0 true false
def SRV_DR_CAP_GO : Fld := .many 394 0x5 0x71c 32 16 0 1 .wo 0 true false
def SRV_BK_PRIM : Fld := .many 395 0x5 0x900 16 16 0 24 .rws 16777215 true false
def SRV_BK_BACK : Fld := .many 396 0x5 0x904 16 16 0 24 .rws 16777215 true false
def SRV_BK_CTRL_EN : Fld := .many 397 0x5 0x908 16 16 0 1 .rws 0 true false
def SRV_BK_CTRL_UNIT : Fld := .many 398 0x5 0x908 16 16 1 3 .rws 0 true false
def SRV_BK_STAT_LAST : Fld := .many 399 0x5 0x90c 16 16 0 2 .ro 0 true false
def SRV_BK_STAT_REPORTS : Fld := .many 400 0x5 0x90c 16 16 16 16 .ro 0 true true
def SRV_FS_STREAM : Fld := .one 401 0x5 0xa00 0 32 .rws 0 false false
def SRV_FS_EN : Fld := .one 402 0x5 0xa04 0 16 .rws 0 false false
def SRV_FS_RESET_CNT : Fld := .one 403 0x5 0xa08 0 32 .ro 0 false false
def SRV_FS_FIELD : Fld := .many 404 0x5 0xa10 4 16 0 8 .rws 0 true false
def TREE_SHUNT_EN : Fld := .one 405 0x6 0x40 0 16 .ro 65535 false false
def TREE_ENS_USED : Fld := .one 406 0x6 0x44 0 8 .ro 0 true false
def TREE_NODE_FREE : Fld := .one 407 0x6 0x48 0 18 .ro 131072 true false
def TREE_SET_FREE : Fld := .one 408 0x6 0x4c 0 13 .ro 4096 true false
def TREE_CAL_FREE : Fld := .one 409 0x6 0x50 0 5 .ro 16 true false
def TREE_VISIT_LOAD_MAX : Fld := .one 410 0x6 0x54 0 17 .ro 0 true false
def TREE_VISIT_CNT_LO : Fld := .one 411 0x6 0x58 0 32 .ro 0 false false
def TREE_VISIT_CNT_HI : Fld := .one 412 0x6 0x5c 0 32 .ro 0 false false
def TREE_VEC_CNT : Fld := .one 413 0x6 0x60 0 32 .ro 0 false false
def TREE_VEC_DROP_CNT : Fld := .one 414 0x6 0x64 0 32 .ro 0 false false
def TREE_VEC_SKIP_CNT : Fld := .one 415 0x6 0x68 0 32 .ro 0 false false
def TREE_VEC_LOST_CNT : Fld := .one 416 0x6 0x6c 0 32 .ro 0 false false
def TREE_SCORE_LATE_CNT : Fld := .one 417 0x6 0x70 0 32 .ro 0 false false
def TREE_FILL_MISS_CNT : Fld := .one 418 0x6 0x74 0 32 .ro 0 false false
def TREE_MAP_SAT_CNT : Fld := .one 419 0x6 0x78 0 32 .ro 0 false false
def TREE_ACT_EVENT_CNT : Fld := .one 420 0x6 0x7c 0 32 .ro 0 false false
def TREE_ACT_SURVEY_CNT : Fld := .one 421 0x6 0x80 0 32 .ro 0 false false
def TREE_ACT_REF_CNT : Fld := .one 422 0x6 0x84 0 32 .ro 0 false false
def TREE_HOLDOFF_CNT : Fld := .one 423 0x6 0x88 0 32 .ro 0 false false
def TREE_HOLDOFF_EVICT_CNT : Fld := .one 424 0x6 0x8c 0 32 .ro 0 false false
def TREE_FENCE_REQ_CNT : Fld := .one 425 0x6 0x90 0 32 .ro 0 true false
def TREE_FENCE_ACK_CNT : Fld := .one 426 0x6 0x94 0 32 .ro 0 true false
def TREE_FENCE_ACK_ID : Fld := .one 427 0x6 0x98 0 24 .wo 0 true false
def TREE_FENCE_ACK_DECISION : Fld := .one 428 0x6 0x98 24 1 .wo 0 false false
def TREE_FENCE_ACK_GO : Fld := .one 429 0x6 0x98 31 1 .wo 0 false false
def TREE_VEC_QDEPTH : Fld := .one 430 0x6 0x9c 0 7 .ro 0 false false
def TREE_OUT_SEL_ENS : Fld := .one 431 0x6 0xa0 0 3 .rw 0 false false
def TREE_OUT_SEL_OUT : Fld := .one 432 0x6 0xa0 8 4 .rw 0 false false
def TREE_OUT_RAW_LO : Fld := .one 433 0x6 0xa4 0 32 .ro 0 false false
def TREE_OUT_RAW_HI : Fld := .one 434 0x6 0xa8 0 32 .ro 0 false false
def TREE_OUT_FINAL : Fld := .one 435 0x6 0xac 0 32 .ro 0 false true
def TREE_OUT_FIRE_CNT : Fld := .one 436 0x6 0xb0 0 32 .ro 0 false false
def TREE_OUT_LAST_RANK : Fld := .one 437 0x6 0xb4 0 24 .ro 16777215 false false
def TREE_ENS_MODEL_ID : Fld := .many 438 0x6 0x100 32 8 0 16 .ro 0 true false
def TREE_ENS_MODEL_LOADED : Fld := .many 439 0x6 0x100 32 8 16 1 .ro 0 true false
def TREE_ENS_SHAPE_NOUT : Fld := .many 440 0x6 0x104 32 8 0 5 .ro 0 true false
def TREE_ENS_SHAPE_NFEAT : Fld := .many 441 0x6 0x104 32 8 16 11 .ro 0 true false
def TREE_ENS_NTREES : Fld := .many 442 0x6 0x108 32 8 0 12 .ro 0 true false
def TREE_ENS_NODES : Fld := .many 443 0x6 0x10c 32 8 0 18 .ro 0 true false
def TREE_ENS_WMAX : Fld := .many 444 0x6 0x110 32 8 0 17 .ro 0 true false
def TREE_ENS_VEC_CNT : Fld := .many 445 0x6 0x114 32 8 0 32 .ro 0 true false
def TREE_ENS_LATE_CNT : Fld := .many 446 0x6 0x118 32 8 0 32 .ro 0 true false
def TREE_ENS_LAST_PER : Fld := .many 447 0x6 0x11c 32 8 0 32 .ro 0 true false
def TREE_MAP_BIND_JOB : Fld := .many 448 0x6 0x200 16 16 0 16 .ro 65535 true false
def TREE_MAP_BIND_CONSIST : Fld := .many 449 0x6 0x200 16 16 16 16 .ro 0 true false
def TREE_MAP_CTRL_MAP_ID : Fld := .many 450 0x6 0x204 16 16 0 16 .ro 0 true false
def TREE_MAP_CTRL_ENS : Fld := .many 451 0x6 0x204 16 16 16 3 .ro 0 true false
def TREE_MAP_CTRL_SCOPE : Fld := .many 452 0x6 0x204 16 16 19 1 .ro 0 true false
def TREE_MAP_CTRL_ACTIVE : Fld := .many 453 0x6 0x204 16 16 20 1 .ro 0 true false
def TREE_MAP_VEC_CNT : Fld := .many 454 0x6 0x208 16 16 0 32 .ro 0 true false
def TREE_MAP_FIRST_PER : Fld := .many 455 0x6 0x20c 16 16 0 32 .ro 0 true false
def TREE_HV_ADDR_LO : Fld := .one 456 0x6 0x300 0 32 .rw 0 false false
def TREE_HV_ADDR_HI : Fld := .one 457 0x6 0x304 0 32 .rw 0 false false
def TREE_HV_RES_LO : Fld := .one 458 0x6 0x308 0 32 .rw 0 false false
def TREE_HV_RES_HI : Fld := .one 459 0x6 0x30c 0 32 .rw 0 false false
def TREE_HV_CMD_ENS : Fld := .one 460 0x6 0x310 0 3 .wo 0 false false
def TREE_HV_CMD_TAG : Fld := .one 461 0x6 0x310 8 8 .wo 0 false false
def TREE_HV_CMD_GO : Fld := .one 462 0x6 0x310 31 1 .wo 0 false false
def TREE_HV_STAT_CODE : Fld := .one 463 0x6 0x314 0 8 .ro 0 false false
def TREE_HV_STAT_TAG : Fld := .one 464 0x6 0x314 8 8 .ro 0 false false
def TREE_HV_STAT_VALID : Fld := .one 465 0x6 0x314 16 1 .ro 0 false false
def TREE_HV_STAT_HELD : Fld := .one 466 0x6 0x314 17 4 .ro 0 false false
def TREE_HV_CNT : Fld := .one 467 0x6 0x318 0 32 .ro 0 false false
def TREE_HV_REF_CNT : Fld := .one 468 0x6 0x31c 0 32 .ro 0 false false
def TTAP_LINK_EN : Fld := .one 469 0x26 0x40 0 2 .rws 0 false false
def TTAP_KEY_STATE_LOADED : Fld := .one 470 0x26 0x44 0 1 .ro 0 false false
def TTAP_KEY_STATE_EPOCH_LO : Fld := .one 471 0x26 0x44 16 16 .ro 0 false false
def TTAP_FLIT_A_TX : Fld := .one 472 0x26 0x48 0 32 .ro 0 false false
def TTAP_FLIT_A_RX : Fld := .one 473 0x26 0x4c 0 32 .ro 0 false false
def TTAP_FLIT_B_TX : Fld := .one 474 0x26 0x50 0 32 .ro 0 false false
def TTAP_FLIT_B_RX : Fld := .one 475 0x26 0x54 0 32 .ro 0 false false
def TTAP_TAG_ERR_CNT : Fld := .one 476 0x26 0x58 0 32 .ro 0 false false
def TTAP_UNWATCHED_CNT : Fld := .one 477 0x26 0x5c 0 32 .ro 0 false false
def TTAP_INST_MISMATCH_CNT : Fld := .one 478 0x26 0x60 0 32 .ro 0 false false
def TTAP_ABANDON_CNT : Fld := .one 479 0x26 0x64 0 32 .ro 0 false false
def TTAP_UNHASHED_CNT : Fld := .one 480 0x26 0x68 0 32 .ro 0 false false
def TTAP_RES_SEL : Fld := .one 481 0x26 0x6c 0 2 .rw 0 false false
def TTAP_RES_STATE_STATE : Fld := .one 482 0x26 0x70 0 2 .ro 0 false false
def TTAP_RES_STATE_COLL : Fld := .one 483 0x26 0x70 8 16 .ro 0 false false
def TTAP_RES_STATE_INST : Fld := .one 484 0x26 0x70 24 8 .ro 0 false false
def TTAP_RES_DIG_LO : Fld := .one 485 0x26 0x74 0 32 .ro 0 false false
def TTAP_RES_DIG_HI : Fld := .one 486 0x26 0x78 0 32 .ro 0 false false
def TTAP_RES_WORDS : Fld := .one 487 0x26 0x7c 0 32 .ro 0 false false
def TTAP_CH_SLOT : Fld := .one 488 0x26 0x80 0 2 .rws 0 false false
def TTAP_CH_STATE_VALID : Fld := .one 489 0x26 0x84 0 1 .ro 0 false false
def TTAP_CH_STATE_FROZEN : Fld := .one 490 0x26 0x84 1 1 .ro 0 false false
def TTAP_CH_STATE_INST : Fld := .one 491 0x26 0x84 8 8 .ro 0 false false
def TTAP_CH_PERIOD : Fld := .one 492 0x26 0x88 0 32 .ro 0 false false
def TTAP_CH_HOLD : Fld := .one 493 0x26 0x8c 0 20 .rws 65536 false false
def TTAP_CH_SKIP_CNT : Fld := .one 494 0x26 0x90 0 32 .ro 0 false false
def TTAP_CH_IDX : Fld := .one 495 0x26 0x94 0 10 .rw 0 false false
def TTAP_CH_DIG_LO : Fld := .one 496 0x26 0x98 0 32 .ro 0 false false
def TTAP_CH_DIG_HI : Fld := .one 497 0x26 0x9c 0 32 .ro 0 false false
def TTAP_RES_JOB : Fld := .one 498 0x26 0xa0 0 16 .ro 65535 false false
def TTAP_F_CTRL_STATE : Fld := .many 499 0x26 0x100 32 2 0 2 .ro 0 false false
def TTAP_F_CTRL_LINK : Fld := .many 500 0x26 0x100 32 2 2 1 .ro 0 false false
def TTAP_F_CTRL_DIR : Fld := .many 501 0x26 0x100 32 2 3 1 .ro 0 false false
def TTAP_F_CTRL_RESULT_ONLY : Fld := .many 502 0x26 0x100 32 2 4 1 .ro 0 false false
def TTAP_F_CTRL_STATUS : Fld := .many 503 0x26 0x100 32 2 8 3 .ro 0 false false
def TTAP_F_MATCH_COLL : Fld := .many 504 0x26 0x104 32 2 0 16 .ro 0 false false
def TTAP_F_MATCH_INST : Fld := .many 505 0x26 0x104 32 2 16 8 .ro 0 false false
def TTAP_F_CHUNK_LO : Fld := .many 506 0x26 0x108 32 2 0 10 .ro 0 false false
def TTAP_F_CHUNK_COUNT : Fld := .many 507 0x26 0x108 32 2 16 11 .ro 0 false false
def TTAP_F_SRC : Fld := .many 508 0x26 0x10c 32 2 0 24 .ro 16777215 false false
def TTAP_F_DST : Fld := .many 509 0x26 0x110 32 2 0 24 .ro 16777215 false false
def TTAP_F_DIG_LO : Fld := .many 510 0x26 0x114 32 2 0 32 .ro 0 false false
def TTAP_F_DIG_HI : Fld := .many 511 0x26 0x118 32 2 0 32 .ro 0 false false
def TTAP_F_WORDS : Fld := .many 512 0x26 0x11c 32 2 0 32 .ro 0 false false
def TSCR_EN : Fld := .one 513 0x27 0x40 0 1 .rws 0 false false
def TSCR_STATE : Fld := .one 514 0x27 0x44 0 3 .ro 0 false false
def TSCR_STAGE_BASE_LO : Fld := .one 515 0x27 0x48 12 20 .rws 0 false false
def TSCR_STAGE_BASE_HI : Fld := .one 516 0x27 0x4c 0 32 .rws 0 false false
def TSCR_STAGE_SIZE : Fld := .one 517 0x27 0x50 0 8 .rws 0 false false
def TSCR_SLICE_MAX : Fld := .one 518 0x27 0x54 0 32 .rws 200000 false false
def TSCR_MG_SETTLE : Fld := .one 519 0x27 0x58 0 24 .rws 20000 false false
def TSCR_REQ_TMO : Fld := .one 520 0x27 0x5c 0 24 .rws 15259 false false
def TSCR_STORE_FREE : Fld := .one 521 0x27 0x60 0 20 .ro 524288 false false
def TSCR_SLICE_CNT : Fld := .one 522 0x27 0x64 0 32 .ro 0 false false
def TSCR_PASS_CNT : Fld := .one 523 0x27 0x68 0 32 .ro 0 false false
def TSCR_FAIL_CNT : Fld := .one 524 0x27 0x6c 0 32 .ro 0 false false
def TSCR_NOTRUN_CNT : Fld := .one 525 0x27 0x70 0 32 .ro 0 false false
def TSCR_REVOKE_CNT : Fld := .one 526 0x27 0x74 0 32 .ro 0 false false
def TSCR_MG_NAK_CNT : Fld := .one 527 0x27 0x78 0 32 .ro 0 false false
def TSCR_OVERRUN_CNT : Fld := .one 528 0x27 0x7c 0 32 .ro 0 false false
def TSCR_WITHDRAW_CNT : Fld := .one 529 0x27 0x80 0 32 .ro 0 false false
def TSCR_PK_REFUSED_CNT : Fld := .one 530 0x27 0x84 0 32 .ro 0 false false
def TSCR_FAIL_COACH_DROP : Fld := .one 531 0x27 0x88 0 32 .ro 0 false false
def TSCR_PK_ID_ID : Fld := .many 532 0x27 0x100 16 4 0 16 .ro 65535 false false
def TSCR_PK_ID_VER : Fld := .many 533 0x27 0x100 16 4 16 16 .ro 0 false false
def TSCR_PK_INFO_NPAT : Fld := .many 534 0x27 0x104 16 4 0 9 .ro 0 false false
def TSCR_PK_INFO_NMARGIN : Fld := .many 535 0x27 0x104 16 4 16 3 .ro 0 false false
def TSCR_PK_POS_MARGIN : Fld := .many 536 0x27 0x108 16 4 0 3 .ro 0 false false
def TSCR_PK_POS_PAT : Fld := .many 537 0x27 0x108 16 4 8 8 .ro 0 false false
def TSCR_PK_LAST : Fld := .many 538 0x27 0x10c 16 4 0 32 .ro 0 false false
def AGR_UNIT_ACTIVE : Fld := .one 539 0x7 0x40 0 8 .ro 0 true false
def AGR_SPLIT_VERD_CNT : Fld := .one 540 0x7 0x44 0 32 .ro 0 false false
def AGR_SRV_REF_CNT : Fld := .one 541 0x7 0x48 0 32 .ro 0 false false
def AGR_TALLY_DIV : Fld := .one 542 0x7 0x4c 0 5 .rws 14 true false
def AGR_FAIL_TOP : Fld := .one 543 0x7 0x50 0 1 .rws 0 true false
def AGR_FAIL_CAP : Fld := .one 544 0x7 0x54 0 16 .rws 100 true false
def AGR_FAIL_FWD_CNT : Fld := .one 545 0x7 0x58 0 32 .ro 0 true false
def AGR_FAIL_DROP_CNT : Fld := .one 546 0x7 0x5c 0 32 .ro 0 true false
def AGR_TALLY_SENT_CNT : Fld := .one 547 0x7 0x60 0 32 .ro 0 true false
def AGR_TALLY_REF_CNT : Fld := .one 548 0x7 0x64 0 32 .ro 0 true false
def AGR_PACK_SEL : Fld := .one 549 0x7 0x68 0 2 .rw 0 true false
def AGR_TAL_IDX : Fld := .one 550 0x7 0x6c 0 9 .rw 0 true false
def AGR_TAL_A : Fld := .one 551 0x7 0x70 0 32 .ro 0 true true
def AGR_TAL_B : Fld := .one 552 0x7 0x74 0 32 .ro 0 true true
def AGR_CORR_SKIP_CNT : Fld := .one 553 0x7 0x78 0 32 .ro 0 true false
def AGR_TAP_IDLE : Fld := .one 554 0x7 0x7c 0 16 .rws 64 true false
def AGR_AU_CTRL_EN : Fld := .many 555 0x7 0x100 32 8 0 1 .rws 0 true false
def AGR_AU_CTRL_AUTO_SRV : Fld := .many 556 0x7 0x100 32 8 1 1 .rws 0 true false
def AGR_AU_CTRL_FIELD : Fld := .many 557 0x7 0x100 32 8 8 8 .rws 0 true false
def AGR_AU_STREAM_JOB : Fld := .many 558 0x7 0x104 32 8 0 16 .rws 0 true false
def AGR_AU_STREAM_CONSIST : Fld := .many 559 0x7 0x104 32 8 16 16 .rws 0 true false
def AGR_AU_MAXANS : Fld := .many 560 0x7 0x108 32 8 0 16 .rws 65535 true false
def AGR_AU_DEADLINE : Fld := .many 561 0x7 0x10c 32 8 0 16 .rws 64 true false
def AGR_AU_SPLIT_CNT : Fld := .many 562 0x7 0x110 32 8 0 32 .ro 0 true false
def AGR_AU_MIN_LO : Fld := .many 563 0x7 0x114 32 8 0 32 .ro 0 true false
def AGR_AU_MIN_HI : Fld := .many 564 0x7 0x118 32 8 0 32 .ro 0 true false
def AGR_AU_MIN_CNT : Fld := .many 565 0x7 0x11c 32 8 0 32 .ro 0 true false
def AGR_T_CTRL_GO : Fld := .many 566 0x7 0x200 64 8 0 1 .wo 0 true false
def AGR_T_CTRL_DISARM : Fld := .many 567 0x7 0x200 64 8 1 1 .wo 0 true false
def AGR_T_POINT_POINT : Fld := .many 568 0x7 0x204 64 8 0 3 .rws 0 true false
def AGR_T_POINT_PORT : Fld := .many 569 0x7 0x204 64 8 8 5 .rws 0 true false
def AGR_T_POINT_RESULT_ONLY : Fld := .many 570 0x7 0x204 64 8 16 1 .rws 0 true false
def AGR_T_JOB : Fld := .many 571 0x7 0x208 64 8 0 16 .rws 0 true false
def AGR_T_MATCH_COLL : Fld := .many 572 0x7 0x20c 64 8 0 16 .rws 0 true false
def AGR_T_MATCH_INST : Fld := .many 573 0x7 0x20c 64 8 16 8 .rws 0 true false
def AGR_T_CHUNK_LO : Fld := .many 574 0x7 0x210 64 8 0 10 .rws 0 true false
def AGR_T_CHUNK_COUNT : Fld := .many 575 0x7 0x210 64 8 16 11 .rws 0 true false
def AGR_T_SRC : Fld := .many 576 0x7 0x214 64 8 0 24 .rws 16777215 true false
def AGR_T_DST : Fld := .many 577 0x7 0x218 64 8 0 24 .rws 16777215 true false
def AGR_T_DEADLINE : Fld := .many 578 0x7 0x21c 64 8 0 32 .rws 0 true false
def AGR_T_STAT_STATE : Fld := .many 579 0x7 0x220 64 8 0 2 .ro 0 true false
def AGR_T_STAT_STATUS : Fld := .many 580 0x7 0x220 64 8 8 3 .ro 0 true false
def AGR_T_STAT_CODE : Fld := .many 581 0x7 0x220 64 8 16 8 .ro 0 true false
def AGR_T_DIG_LO : Fld := .many 582 0x7 0x224 64 8 0 32 .ro 0 true false
def AGR_T_DIG_HI : Fld := .many 583 0x7 0x228 64 8 0 32 .ro 0 true false
def AGR_T_WORDS : Fld := .many 584 0x7 0x22c 64 8 0 32 .ro 0 true false
def AGR_T_FLITS : Fld := .many 585 0x7 0x230 64 8 0 32 .ro 0 true false
def AGR_T_TAGERR : Fld := .many 586 0x7 0x234 64 8 0 32 .ro 0 true false
def AGR_PK_ID_ID : Fld := .many 587 0x7 0x400 16 4 0 16 .ro 65535 true false
def AGR_PK_ID_VER : Fld := .many 588 0x7 0x400 16 4 16 16 .ro 0 true false
def AGR_PK_BYTES : Fld := .many 589 0x7 0x404 16 4 0 32 .ro 0 true false
def SHP_UP_RATE : Fld := .one 590 0x8 0x40 0 10 .rws 64 true false
def SHP_SB_RATE : Fld := .one 591 0x8 0x44 0 10 .rws 64 true false
def SHP_EXP_RATE : Fld := .one 592 0x8 0x48 0 10 .rws 4 true false
def SHP_DN_RATE : Fld := .one 593 0x8 0x4c 0 10 .rws 4 true false
def SHP_UP_CREDIT : Fld := .one 594 0x8 0x50 0 32 .ro 0 true false
def SHP_SB_CREDIT : Fld := .one 595 0x8 0x54 0 32 .ro 0 true false
def SHP_EXP_CREDIT : Fld := .one 596 0x8 0x58 0 32 .ro 0 true false
def SHP_SH_FLOOR_CNT : Fld := .one 597 0x8 0x5c 0 32 .ro 0 true false
def SHP_SH_MAXREC : Fld := .one 598 0x8 0x60 0 14 .ro 4096 true false
def SHP_UP_FIT_LOAD : Fld := .one 599 0x8 0x64 0 18 .ro 0 true false
def SHP_TC_MIN_SW : Fld := .one 600 0x8 0x68 0 10 .rws 100 true false
def SHP_TC_MAX_SW : Fld := .one 601 0x8 0x6c 0 10 .rws 400 true false
def SHP_TC_MIN_LH : Fld := .one 602 0x8 0x70 0 10 .rws 80 true false
def SHP_TC_MAX_LH : Fld := .one 603 0x8 0x74 0 10 .rws 160 true false
def SHP_CFG_REF_CNT : Fld := .one 604 0x8 0x78 0 32 .ro 0 true false
def SHP_VC_STALL_CNT : Fld := .one 605 0x8 0x7c 0 32 .ro 0 true false
def SHP_DN_FULL_CNT : Fld := .one 606 0x8 0x80 0 32 .ro 0 true false
def SHP_DN_LINK_DROP_CNT : Fld := .one 607 0x8 0x84 0 32 .ro 0 true false
def SHP_Q_W : Fld := ⟨608, 0x8, 0x100, 16, 8, 0, 8, .rws, [16, 16, 16, 8, 32, 16, 128, 24], true, false⟩
def SHP_Q_LIM : Fld := ⟨609, 0x8, 0x100, 16, 8, 8, 11, .rws, [32, 64, 128, 32, 256, 128, 768, 128], true, false⟩
def SHP_Q_YEL : Fld := ⟨610, 0x8, 0x100, 16, 8, 19, 11, .rws, [16, 32, 64, 16, 128, 64, 384, 64], true, false⟩
def SHP_Q_DROP_CNT : Fld := .many 611 0x8 0x104 16 8 0 32 .ro 0 true false
def SHP_Q_YDROP_CNT : Fld := .many 612 0x8 0x108 16 8 0 32 .ro 0 true false
def SHP_SB_DROP_CNT : Fld := .many 613 0x8 0x10c 16 8 0 32 .ro 0 true false
def SHP_EXQ_W : Fld := ⟨614, 0x8, 0x180, 16, 4, 0, 8, .rws, [128, 64, 16, 48], true, false⟩
def SHP_EXQ_LIM : Fld := .many 615 0x8 0x184 16 4 0 10 .rws 16 true false
def SHP_EXQ_DROP_CNT : Fld := .many 616 0x8 0x188 16 4 0 32 .ro 0 true false
def SHP_CIR : Fld := .many 617 0x8 0x200 16 64 0 10 .rws 64 true false
def SHP_PIR : Fld := .many 618 0x8 0x200 16 64 16 10 .rws 256 true false
def SHP_CBS : Fld := .many 619 0x8 0x204 16 64 0 16 .rws 16384 true false
def SHP_PBS : Fld := .many 620 0x8 0x204 16 64 16 16 .rws 65535 true false
def SHP_POL_YEL_CNT : Fld := .many 621 0x8 0x208 16 64 0 32 .ro 0 true false
def SHP_POL_RED_CNT : Fld := .many 622 0x8 0x20c 16 64 0 32 .ro 0 true false
def SHP_QS_DEPTH_LAST : Fld := .many 623 0x8 0x600 16 21 0 32 .ro 0 true false
def SHP_QS_DELAY_LAST : Fld := .many 624 0x8 0x604 16 21 0 32 .ro 0 true false
def SHP_QS_DEPTH_MAX : Fld := .many 625 0x8 0x608 16 21 0 32 .ro 0 true false
def SHP_QS_DELAY_MAX : Fld := .many 626 0x8 0x60c 16 21 0 32 .ro 0 true false
def MGMT_PORT_STAT_UP0 : Fld := .one 627 0xf 0x40 0 1 .ro 0 false false
def MGMT_PORT_STAT_UP1 : Fld := .one 628 0xf 0x40 1 1 .ro 0 false false
def MGMT_PORT_STAT_RAILS : Fld := .one 629 0xf 0x40 2 1 .ro 0 false false
def MGMT_PORT_CFG_EN : Fld := .one 630 0xf 0x44 0 2 .rws 3 false false
def MGMT_PORT_CFG_FEC : Fld := .one 631 0xf 0x44 2 2 .rws 3 false false
def MGMT_MTU : Fld := .one 632 0xf 0x48 0 14 .rws 1500 false false
def MGMT_MAC_LO : Fld := .one 633 0xf 0x4c 0 32 .ro 0 false false
def MGMT_MAC_HI : Fld := .one 634 0xf 0x50 0 16 .ro 0 false false
def MGMT_ADDR0 : Fld := .many 635 0xf 0x60 4 4 0 32 .rws 0 false false
def MGMT_ADDR1 : Fld := .many 636 0xf 0x70 4 4 0 32 .rws 0 false false
def MGMT_ROUTER : Fld := .many 637 0xf 0x80 4 4 0 32 .rws 0 false false
def MGMT_CMD_PORT : Fld := .one 638 0xf 0x90 0 16 .rws 49400 false false
def MGMT_CMD_CNT : Fld := .one 639 0xf 0x94 0 32 .ro 0 false false
def MGMT_CMD_REF_CNT : Fld := .one 640 0xf 0x98 0 32 .ro 0 false false
def MGMT_CMD_RAILS_CNT : Fld := .one 641 0xf 0x9c 0 32 .ro 0 false false
def MGMT_RX_DROP_CNT : Fld := .one 642 0xf 0xa0 0 32 .ro 0 false false
def MGMT_COLL_ADDR : Fld := .many 643 0xf 0xb0 4 4 0 32 .rws 0 false false
def MGMT_COLL_PORT : Fld := .one 644 0xf 0xc0 0 16 .rws 4739 false false
def MGMT_COLL_DSCP : Fld := .one 645 0xf 0xc0 16 6 .rws 0 false false
def MGMT_EXP_CTRL_EN : Fld := .one 646 0xf 0xc4 0 1 .rws 0 false false
def MGMT_EXP_CTRL_VIA : Fld := .one 647 0xf 0xc4 1 2 .rws 0 false false
def MGMT_EXP_CTRL_QUEUE : Fld := .one 648 0xf 0xc4 3 1 .rws 0 false false
def MGMT_EXP_CTRL_DEFLATE : Fld := .one 649 0xf 0xc4 4 1 .rws 0 false false
def MGMT_EXP_CTRL_REC_SEV : Fld := .one 650 0xf 0xc4 8 3 .rws 5 false false
def MGMT_TPL_REFRESH : Fld := .one 651 0xf 0xc8 0 16 .rws 10 false false
def MGMT_OBS_DOMAIN : Fld := .one 652 0xf 0xcc 0 32 .rws 0 false false
def MGMT_PEN : Fld := .one 653 0xf 0xd0 0 32 .ro 58731 false false
def MGMT_RELAY_BASE : Fld := .one 654 0xf 0xd4 0 24 .rws 16777215 false false
def MGMT_EXP_SEQ : Fld := .one 655 0xf 0xd8 0 32 .ro 0 false false
def MGMT_EXP_MSG_CNT : Fld := .one 656 0xf 0xdc 0 32 .ro 0 false false
def MGMT_EXP_REC_CNT : Fld := .one 657 0xf 0xe0 0 32 .ro 0 false false
def MGMT_EXP_REF_CNT : Fld := .one 658 0xf 0xe4 0 32 .ro 0 false false
def MGMT_RELAY_CNT : Fld := .one 659 0xf 0xe8 0 32 .ro 0 false false
def MGMT_EX_STREAM_JOB : Fld := .many 660 0xf 0x200 32 16 0 16 .rws 0 false false
def MGMT_EX_STREAM_CONSIST : Fld := .many 661 0xf 0x200 32 16 16 16 .rws 0 false false
def MGMT_EX_CTRL_EN : Fld := .many 662 0xf 0x204 32 16 0 1 .rws 0 false false
def MGMT_EX_CTRL_FORM : Fld := .many 663 0xf 0x204 32 16 1 1 .rws 0 false false
def MGMT_EX_CTRL_DIV : Fld := .many 664 0xf 0x204 32 16 4 4 .rws 0 false false
def MGMT_EX_CTRL_NFIELD : Fld := .many 665 0xf 0x204 32 16 8 5 .rws 0 false false
def MGMT_EX_FIELDS0 : Fld := .many 666 0xf 0x208 32 16 0 32 .rws 0 false false
def MGMT_EX_FIELDS1 : Fld := .many 667 0xf 0x20c 32 16 0 32 .rws 0 false false
def MGMT_EX_FIELDS2 : Fld := .many 668 0xf 0x210 32 16 0 32 .rws 0 false false
def MGMT_EX_FIELDS3 : Fld := .many 669 0xf 0x214 32 16 0 32 .rws 0 false false
def MGMT_EX_REC_CNT : Fld := .many 670 0xf 0x218 32 16 0 32 .ro 0 false false
def MGMT_EX_DROP_CNT : Fld := .many 671 0xf 0x21c 32 16 0 32 .ro 0 false false
def REC_RING_USED : Fld := .one 672 0x9 0x40 0 21 .ro 0 false false
def REC_SEQ_LO : Fld := .one 673 0x9 0x44 0 32 .ro 0 false false
def REC_SEQ_HI : Fld := .one 674 0x9 0x48 0 32 .ro 0 false false
def REC_WR_CNT : Fld := .one 675 0x9 0x4c 0 32 .ro 0 false false
def REC_DROP_CNT : Fld := .one 676 0x9 0x50 0 32 .ro 0 false false
def REC_EVICT_CNT : Fld := .one 677 0x9 0x54 0 32 .ro 0 false false
def REC_LOG_BASE_LO : Fld := .one 678 0x9 0x58 12 20 .rws 0 true false
def REC_LOG_BASE_HI : Fld := .one 679 0x9 0x5c 0 4 .rws 0 true false
def REC_LOG_SIZE : Fld := .one 680 0x9 0x60 0 13 .rws 0 true false
def REC_LOG_CTRL_HOLD : Fld := .one 681 0x9 0x64 0 1 .rws 0 true false
def REC_LOG_CTRL_DEFLATE : Fld := .one 682 0x9 0x64 1 1 .rws 0 true false
def REC_LOG_WR : Fld := .one 683 0x9 0x68 0 32 .ro 0 false false
def REC_LOG_WRAP_CNT : Fld := .one 684 0x9 0x6c 0 32 .ro 0 false false
def REC_SPILL_LOST_CNT : Fld := .one 685 0x9 0x70 0 32 .ro 0 false false
def REC_LOG_FULL_CNT : Fld := .one 686 0x9 0x74 0 32 .ro 0 false false
def REC_FRZ_CMD_GO : Fld := .one 687 0x9 0x80 0 1 .wo 0 false false
def REC_FRZ_CMD_DEST : Fld := .one 688 0x9 0x80 1 2 .wo 0 false false
def REC_FRZ_CMD_MIN_SEV : Fld := .one 689 0x9 0x80 3 3 .wo 0 false false
def REC_FRZ_FROM_LO : Fld := .one 690 0x9 0x84 0 32 .rw 0 false false
def REC_FRZ_FROM_HI : Fld := .one 691 0x9 0x88 0 32 .rw 0 false false
def REC_FRZ_DEST_LO : Fld := .one 692 0x9 0x8c 0 32 .rw 0 false false
def REC_FRZ_DEST_HI : Fld := .one 693 0x9 0x90 0 32 .rw 0 false false
def REC_FRZ_MAX : Fld := .one 694 0x9 0x94 0 21 .rw 1048576 false false
def REC_FRZ_STAT_CODE : Fld := .one 695 0x9 0x98 0 8 .ro 0 false false
def REC_FRZ_STAT_ACTIVE : Fld := .one 696 0x9 0x98 8 1 .ro 0 false false
def REC_FRZ_STAT_VALID : Fld := .one 697 0x9 0x98 9 1 .ro 0 false false
def REC_FRZ_NREC : Fld := .one 698 0x9 0x9c 0 32 .ro 0 false false
def REC_WIN_DATA : Fld := .one 699 0x9 0xa0 0 32 .ro 0 false false
def REC_WIN_DONE : Fld := .one 700 0x9 0xa4 0 1 .wo 0 false false
def REC_WIN_TMO : Fld := .one 701 0x9 0xa8 0 16 .rws 15259 false false
def REC_FRZ_DROP_CNT : Fld := .one 702 0x9 0xac 0 32 .ro 0 false false
def REC_SNAP_SEQ : Fld := .one 703 0x9 0xb0 0 31 .rw 0 false false
def REC_SNAP_STAT_VALID : Fld := .one 704 0x9 0xb4 0 1 .ro 0 false false
def REC_SNAP_STAT_GONE : Fld := .one 705 0x9 0xb4 1 1 .ro 0 false false
def REC_SNAP_STAT_LEN8 : Fld := .one 706 0x9 0xb4 8 8 .ro 0 false false
def REC_SNAP_SEQ_OUT : Fld := .one 707 0x9 0xb8 0 31 .ro 0 false false
def REC_FRZ_REF_CNT : Fld := .one 708 0x9 0xbc 0 32 .ro 0 false false
def REC_SD_OFS_LO : Fld := .one 709 0x9 0xc0 5 27 .rw 0 true false
def REC_SD_OFS_HI : Fld := .one 710 0x9 0xc4 0 4 .rw 0 true false
def REC_SD_POST_CH : Fld := .one 711 0x9 0xc8 0 4 .wo 0 true false
def REC_SD_POST_GO : Fld := .one 712 0x9 0xc8 31 1 .wo 0 true false
def REC_SD_POST_STAT_CODE : Fld := .one 713 0x9 0xcc 0 8 .ro 0 true false
def REC_SD_WIN : Fld := .one 714 0x9 0xd0 0 21 .rws 65536 true false
def REC_SNAP_BUF : Fld := .many 715 0x9 0x400 4 256 0 32 .ro 0 false false
def REC_SD_CTRL_EN : Fld := .many 716 0x9 0x800 32 16 0 1 .rws 0 false false
def REC_SD_CTRL_DEFLATE : Fld := .many 717 0x9 0x800 32 16 1 1 .rws 0 false false
def REC_SD_STAT_POSTED : Fld := .many 718 0x9 0x804 32 16 0 5 .ro 0 false false
def REC_SD_STAT_DRY : Fld := .many 719 0x9 0x804 32 16 8 1 .ro 0 false false
def REC_SD_BYTES : Fld := .many 720 0x9 0x808 32 16 0 32 .ro 0 false false
def REC_SD_DONE_CNT : Fld := .many 721 0x9 0x80c 32 16 0 32 .ro 0 false false
def REC_SD_GAP_CNT : Fld := .many 722 0x9 0x810 32 16 0 32 .ro 0 false false
def REC_SD_DRY_CNT : Fld := .many 723 0x9 0x814 32 16 0 32 .ro 0 false false
def REC_SD_GRANT : Fld := .many 724 0x9 0x818 32 16 0 21 .ro 0 false false
def REC_SD_OFS_NEXT : Fld := .many 725 0x9 0x81c 32 16 0 32 .ro 0 false false
def TTRC_CTRL_EN : Fld := .one 726 0x28 0x40 0 1 .rws 0 false false
def TTRC_CTRL_MODE : Fld := .one 727 0x28 0x40 1 1 .rws 0 false false
def TTRC_CMD_ARM : Fld := .one 728 0x28 0x44 0 1 .wo 0 false false
def TTRC_CMD_TRIG_GO : Fld := .one 729 0x28 0x44 1 1 .wo 0 false false
def TTRC_STATE : Fld := .one 730 0x28 0x48 0 3 .ro 0 false false
def TTRC_PRE : Fld := .one 731 0x28 0x4c 0 4 .rws 0 false false
def TTRC_POST : Fld := .one 732 0x28 0x50 0 21 .rws 524288 false false
def TTRC_TRIG_SRC : Fld := .one 733 0x28 0x54 0 3 .rws 0 false false
def TTRC_TRIG_ARG : Fld := .one 734 0x28 0x54 8 8 .rws 0 false false
def TTRC_TRIG_ADDR_LO : Fld := .one 735 0x28 0x58 0 32 .rws 0 false false
def TTRC_TRIG_ADDR_HI : Fld := .one 736 0x28 0x5c 0 32 .rws 0 false false
def TTRC_TS_GRAN : Fld := .one 737 0x28 0x60 0 16 .rws 4000 false false
def TTRC_SYNC_INTV : Fld := .one 738 0x28 0x64 0 4 .rws 4 false false
def TTRC_RING_FILL : Fld := .one 739 0x28 0x68 0 21 .ro 0 false false
def TTRC_WR_OFS_LO : Fld := .one 740 0x28 0x6c 0 32 .ro 0 false false
def TTRC_WR_OFS_HI : Fld := .one 741 0x28 0x70 0 32 .ro 0 false false
def TTRC_TRIG_T64_LO : Fld := .one 742 0x28 0x74 0 32 .ro 0 false false
def TTRC_TRIG_T64_HI : Fld := .one 743 0x28 0x78 0 32 .ro 0 false false
def TTRC_OVF_PKT_CNT : Fld := .one 744 0x28 0x7c 0 32 .ro 0 false false
def TTRC_OVW_PKT_CNT : Fld := .one 745 0x28 0x80 0 32 .ro 0 false false
def TTRC_EVT_CNT : Fld := .one 746 0x28 0x84 0 32 .ro 0 false false
def TTRC_EXCL_CNT : Fld := .one 747 0x28 0x88 0 32 .ro 0 false false
def TTRC_TRIG_IGN_CNT : Fld := .one 748 0x28 0x8c 0 32 .ro 0 false false
def TTRC_BULK_CNT : Fld := .one 749 0x28 0x90 0 32 .ro 0 false false
def TTRC_GRANT : Fld := .one 750 0x28 0x94 0 21 .ro 0 false false
def TTRC_GAP_LOST_CNT : Fld := .one 751 0x28 0x98 0 32 .ro 0 false false
def TTRC_CFG_REF_CNT : Fld := .one 752 0x28 0x9c 0 32 .ro 0 false false
def TTRC_AUTH_STATE : Fld := .one 753 0x28 0xa0 0 2 .ro 0 false false
def TTRC_AUTH_ADMIT : Fld := .one 754 0x28 0xa0 2 2 .ro 0 false false
def TTRC_AUTH_ID : Fld := .one 755 0x28 0xa4 0 32 .ro 0 false false
def TTRC_AUTH_NOT_AFTER_LO : Fld := .one 756 0x28 0xa8 0 32 .ro 0 false false
def TTRC_AUTH_NOT_AFTER_HI : Fld := .one 757 0x28 0xac 0 32 .ro 0 false false
def TTRC_AUTH_REF_CNT : Fld := .one 758 0x28 0xb0 0 32 .ro 0 false false
def TTRC_AUTH_REVOKE : Fld := .one 759 0x28 0xb4 0 1 .wo 0 false false
def CMP_CTX_USED : Fld := .one 760 0xa 0x40 0 5 .ro 0 false false
def CMP_CTX_RSV : Fld := .one 761 0xa 0x44 0 5 .ro 0 false false
def CMP_EFFORT : Fld := .one 762 0xa 0x48 0 4 .rws 4 true false
def CMP_BLK_OLEN : Fld := .one 763 0xa 0x4c 0 25 .rws 65536 true false
def CMP_FLUSH_IDLE : Fld := .one 764 0xa 0x50 0 16 .rws 15259 true false
def CMP_JOB_OFS_LO : Fld := .one 765 0xa 0x54 0 32 .rw 0 false false
def CMP_JOB_OFS_HI : Fld := .one 766 0xa 0x58 0 4 .rw 0 false false
def CMP_JOB_POST_GO : Fld := .one 767 0xa 0x5c 0 1 .wo 0 false false
def CMP_JOB_POST_STAT_CODE : Fld := .one 768 0xa 0x60 0 8 .ro 0 false false
def CMP_JOB_POST_STAT_QUEUED : Fld := .one 769 0xa 0x60 8 5 .ro 0 false false
def CMP_BUF_OFS_LO : Fld := .one 770 0xa 0x64 0 32 .rw 0 false false
def CMP_BUF_OFS_HI : Fld := .one 771 0xa 0x68 0 4 .rw 0 false false
def CMP_BUF_POST_CTX : Fld := .one 772 0xa 0x6c 0 5 .wo 0 false false
def CMP_BUF_POST_GO : Fld := .one 773 0xa 0x6c 31 1 .wo 0 false false
def CMP_JOB_ABORT : Fld := .one 774 0xa 0x70 0 32 .wo 0 false false
def CMP_CTX_SEL : Fld := .one 775 0xa 0x74 0 5 .rw 0 false false
def CMP_CTX_STAT_STATE : Fld := .one 776 0xa 0x78 0 3 .ro 0 false false
def CMP_CTX_STAT_USER : Fld := .one 777 0xa 0x78 8 3 .ro 0 false false
def CMP_CTX_STAT_BUFS : Fld := .one 778 0xa 0x78 16 5 .ro 0 false false
def CMP_CTX_IN : Fld := .one 779 0xa 0x7c 0 32 .ro 0 false false
def CMP_CTX_OUT : Fld := .one 780 0xa 0x80 0 32 .ro 0 false false
def CMP_ENC_KIB : Fld := .one 781 0xa 0x84 0 32 .ro 0 false false
def CMP_DEC_KIB : Fld := .one 782 0xa 0x88 0 32 .ro 0 false false
def CMP_RAW_CNT : Fld := .one 783 0xa 0x8c 0 32 .ro 0 false false
def CMP_INC_CNT : Fld := .one 784 0xa 0x90 0 32 .ro 0 false false
def CMP_ILL_CNT : Fld := .one 785 0xa 0x94 0 32 .ro 0 false false
def CMP_DIST_CNT : Fld := .one 786 0xa 0x98 0 32 .ro 0 false false
def CMP_OVR_CNT : Fld := .one 787 0xa 0x9c 0 32 .ro 0 false false
def CMP_SHORT_CNT : Fld := .one 788 0xa 0xa0 0 32 .ro 0 false false
def CMP_CHK_CNT : Fld := .one 789 0xa 0xa4 0 32 .ro 0 false false
def CMP_WAIT_OUT_CNT : Fld := .one 790 0xa 0xa8 0 32 .ro 0 false false
def CMP_POST_REF_CNT : Fld := .one 791 0xa 0xac 0 32 .ro 0 false false
def CMP_CTX_REF_CNT : Fld := .one 792 0xa 0xb0 0 32 .ro 0 false false
def CMP_ABORT_CNT : Fld := .one 793 0xa 0xb4 0 32 .ro 0 false false
def CMP_LOST_CNT : Fld := .one 794 0xa 0xb8 0 32 .ro 0 false false
def CIP_KEY_STATE_GRANT : Fld := .one 795 0xb 0x40 0 1 .ro 0 true false
def CIP_KEY_STATE_STAGED : Fld := .one 796 0xb 0x40 1 1 .ro 0 true false
def CIP_KEY_STATE_PREV : Fld := .one 797 0xb 0x40 2 1 .ro 0 true false
def CIP_FLEET_ID : Fld := .one 798 0xb 0x44 0 32 .ro 0 true false
def CIP_SITE : Fld := .one 799 0xb 0x48 0 8 .ro 255 true false
def CIP_SENDER_BASE : Fld := .one 800 0xb 0x4c 0 32 .ro 0 true false
def CIP_KEY_EPOCH : Fld := .one 801 0xb 0x50 0 32 .ro 0 true false
def CIP_PREV_EPOCH : Fld := .one 802 0xb 0x54 0 32 .ro 0 true false
def CIP_OVERLAP : Fld := .one 803 0xb 0x58 0 24 .rws 15259 true false
def CIP_FRAME_WAIT : Fld := .one 804 0xb 0x5c 0 16 .rws 2048 true false
def CIP_DUP_LIMIT : Fld := .one 805 0xb 0x60 0 4 .rws 4 true false
def CIP_GRANT_REF_CNT : Fld := .one 806 0xb 0x64 0 32 .ro 0 true false
def CIP_SIG_FAIL_CNT : Fld := .one 807 0xb 0x68 0 32 .ro 0 true false
def CIP_SIG_OK_CNT : Fld := .one 808 0xb 0x6c 0 32 .ro 0 true false
def CIP_CTR_SEL : Fld := .one 809 0xb 0x70 0 3 .rw 0 false false
def CIP_CTR_LO : Fld := .one 810 0xb 0x74 0 32 .ro 1 false false
def CIP_CTR_HI : Fld := .one 811 0xb 0x78 0 32 .ro 0 false false
def CIP_SEAL_CNT : Fld := .one 812 0xb 0x7c 0 32 .ro 0 false false
def CIP_OPEN_CNT : Fld := .one 813 0xb 0x80 0 32 .ro 0 false false
def CIP_AUTH_FAIL_CNT : Fld := .one 814 0xb 0x84 0 32 .ro 0 false false
def CIP_EPOCH_MISS_CNT : Fld := .one 815 0xb 0x88 0 32 .ro 0 false false
def CIP_REPLAY_CNT : Fld := .one 816 0xb 0x8c 0 32 .ro 0 false false
def CIP_REPLAY_FULL_CNT : Fld := .one 817 0xb 0x90 0 32 .ro 0 false false
def CIP_CTR_EXH_CNT : Fld := .one 818 0xb 0x94 0 32 .ro 0 false false
def CIP_DUP_MISMATCH_CNT : Fld := .one 819 0xb 0x98 0 32 .ro 0 false false
def CIP_DUP_REF_CNT : Fld := .one 820 0xb 0x9c 0 32 .ro 0 false false
def CIP_LH_SENDERS : Fld := .one 821 0xb 0xa0 0 7 .ro 0 false false
def CIP_LH_PORTS : Fld := .one 822 0xb 0xa4 0 5 .ro 0 false false
def CIP_ISL_SEAL_CNT : Fld := .one 823 0xb 0xb0 0 32 .ro 0 true false
def CIP_ISL_OPEN_CNT : Fld := .one 824 0xb 0xb4 0 32 .ro 0 true false
def CIP_ISL_AUTH_FAIL_CNT : Fld := .one 825 0xb 0xb8 0 32 .ro 0 true false
def CIP_ISL_DUP_MISMATCH_CNT : Fld := .one 826 0xb 0xbc 0 32 .ro 0 true false
def MNT_NTC_SEL_JOB : Fld := .one 827 0xc 0x40 0 16 .rw 65535 true false
def MNT_NTC_EPOCH : Fld := .one 828 0xc 0x44 0 32 .ro 0 true false
def MNT_NTC_NSEQ : Fld := .one 829 0xc 0x48 0 32 .ro 0 true false
def MNT_NTC_JSTATE : Fld := .one 830 0xc 0x4c 0 3 .ro 0 true false
def MNT_NTC_RX_CNT : Fld := .one 831 0xc 0x50 0 32 .ro 0 true false
def MNT_NTC_DUP_CNT : Fld := .one 832 0xc 0x54 0 32 .ro 0 true false
def MNT_NTC_STALE_CNT : Fld := .one 833 0xc 0x58 0 32 .ro 0 true false
def MNT_NTC_GAP_CNT : Fld := .one 834 0xc 0x5c 0 32 .ro 0 true false
def MNT_NTC_TMO_CNT : Fld := .one 835 0xc 0x60 0 32 .ro 0 true false
def MNT_NTC_REPLAY_CNT : Fld := .one 836 0xc 0x64 0 32 .ro 0 true false
def MNT_NTC_LOG_SIZE : Fld := .one 837 0xc 0x68 0 13 .rws 256 true false
def MNT_NTC_LOG_USED : Fld := .one 838 0xc 0x6c 0 32 .ro 0 true false
def MNT_NTC_LOG_DROP_CNT : Fld := .one 839 0xc 0x70 0 32 .ro 0 true false
def MNT_ACK_MARGIN : Fld := .one 840 0xc 0x74 0 8 .rws 2 true false
def MNT_ACK_TMO : Fld := .one 841 0xc 0x78 0 16 .rws 64 true false
def MNT_START_MARGIN : Fld := .one 842 0xc 0x7c 0 16 .rws 16 true false
def MNT_ISSUE_OFS_LO : Fld := .one 843 0xc 0x80 0 32 .rw 0 true false
def MNT_ISSUE_OFS_HI : Fld := .one 844 0xc 0x84 0 4 .rw 0 true false
def MNT_ISSUE_GO : Fld := .one 845 0xc 0x88 0 1 .wo 0 true false
def MNT_ISSUE_STAT_CODE : Fld := .one 846 0xc 0x8c 0 8 .ro 0 true false
def MNT_ISSUE_STAT_VALID : Fld := .one 847 0xc 0x8c 16 1 .ro 0 true false
def MNT_ISSUE_NSEQ : Fld := .one 848 0xc 0x90 0 32 .ro 0 true false
def MNT_FORCE_RELEASE_JOB : Fld := .one 849 0xc 0x94 0 16 .wo 0 true false
def MNT_FORCE_RELEASE_GO : Fld := .one 850 0xc 0x94 31 1 .wo 0 true false
def MNT_NS_SEL : Fld := .one 851 0xc 0x98 0 6 .rw 0 true false
def MNT_NS_JOB : Fld := .one 852 0xc 0x9c 0 16 .ro 0 true false
def MNT_NS_KIND : Fld := .one 853 0xc 0x9c 16 8 .ro 0 true false
def MNT_NS_EPOCH : Fld := .one 854 0xc 0xa0 0 32 .ro 0 true false
def MNT_NS_NSEQ : Fld := .one 855 0xc 0xa4 0 32 .ro 0 true false
def MNT_NS_APPLIED : Fld := .one 856 0xc 0xa8 0 32 .ro 0 true false
def MNT_NS_REFUSED : Fld := .one 857 0xc 0xac 0 32 .ro 0 true false
def MNT_NS_UNREACH : Fld := .one 858 0xc 0xb0 0 32 .ro 0 true false
def MNT_NS_RECOV : Fld := .one 859 0xc 0xb4 0 32 .ro 0 true false
def MNT_NS_CODE : Fld := .one 860 0xc 0xb8 0 8 .ro 0 true false
def MNT_NS_CODE_RANK : Fld := .one 861 0xc 0xb8 8 24 .ro 0 true false
def MNT_TOK_REQ_CLASS : Fld := .one 862 0xc 0xc0 0 3 .wo 0 true false
def MNT_TOK_REQ_GO : Fld := .one 863 0xc 0xc0 31 1 .wo 0 true false
def MNT_TOK_TARGET : Fld := .one 864 0xc 0xc4 0 32 .wo 0 true false
def MNT_TOK_STAT_CODE : Fld := .one 865 0xc 0xc8 0 8 .ro 0 true false
def MNT_TOK_STAT_ID : Fld := .one 866 0xc 0xc8 8 8 .ro 0 true false
def MNT_TOK_STAT_VALID : Fld := .one 867 0xc 0xc8 16 1 .ro 0 true false
def MNT_HOLDER_ID : Fld := .one 868 0xc 0xcc 0 8 .ro 0 true false
def MNT_HOLDER_CLASS : Fld := .one 869 0xc 0xcc 8 3 .ro 0 true false
def MNT_HOLDER_OWNER : Fld := .one 870 0xc 0xcc 12 3 .ro 0 true false
def MNT_HOLDER_TARGET : Fld := .one 871 0xc 0xd0 0 32 .ro 0 true false
def MNT_TOK_REL_ID : Fld := .one 872 0xc 0xd4 0 8 .wo 0 true false
def MNT_TOK_REL_FORCE : Fld := .one 873 0xc 0xd4 30 1 .wo 0 true false
def MNT_TOK_REL_GO : Fld := .one 874 0xc 0xd4 31 1 .wo 0 true false
def MNT_TOK_HELD : Fld := .one 875 0xc 0xd8 0 6 .ro 0 true false
def MNT_TOK_REF_CNT : Fld := .one 876 0xc 0xdc 0 32 .ro 0 true false
def MNT_SEC_STATE : Fld := .one 877 0xc 0xe0 0 8 .ro 0 true false
def MNT_SEC_CAUSE : Fld := .one 878 0xc 0xe4 0 16 .ro 0 true false
def MNT_DRAIN_SECTION : Fld := .one 879 0xc 0xe8 0 2 .wo 0 true false
def MNT_DRAIN_GO : Fld := .one 880 0xc 0xe8 31 1 .wo 0 true false
def MNT_DRAIN_PER : Fld := .one 881 0xc 0xec 0 32 .rw 0 true false
def MNT_RETURN_SECTION : Fld := .one 882 0xc 0xf0 0 2 .wo 0 true false
def MNT_RETURN_GO : Fld := .one 883 0xc 0xf0 31 1 .wo 0 true false
def MNT_RETURN_STAT_CODE : Fld := .one 884 0xc 0xf4 0 8 .ro 0 true false
def MNT_DRAIN_STAT_CODE : Fld := .one 885 0xc 0xf8 0 8 .ro 0 true false
def MNT_GUARD_TMO : Fld := .one 886 0xc 0x100 0 8 .rws 4 true false
def MNT_GUARD_KICK : Fld := .one 887 0xc 0x104 0 1 .wo 0 false false
def MNT_GUARD_CNT : Fld := .one 888 0xc 0x108 0 32 .ro 0 false false
def MNT_ISL_GUARD_CNT : Fld := .one 889 0xc 0x10c 0 32 .ro 0 true false
def MNT_FW_STATE_STATE : Fld := .one 890 0xc 0x120 0 2 .ro 0 true false
def MNT_FW_STATE_BANK : Fld := .one 891 0xc 0x120 3 1 .ro 0 true false
def MNT_FW_LOAD_OFS_LO : Fld := .one 892 0xc 0x124 0 32 .rw 0 true false
def MNT_FW_LOAD_OFS_HI : Fld := .one 893 0xc 0x128 0 4 .rw 0 true false
def MNT_FW_LOAD_GO : Fld := .one 894 0xc 0x12c 0 1 .wo 0 true false
def MNT_FW_STAT_CODE : Fld := .one 895 0xc 0x130 0 8 .ro 0 true false
def MNT_FW_SWITCH_PER : Fld := .one 896 0xc 0x134 0 32 .rw 0 true false
def MNT_FW_SWITCH_GO : Fld := .one 897 0xc 0x138 0 1 .wo 0 true false
def MNT_FW_TRIAL : Fld := .one 898 0xc 0x13c 0 16 .rws 256 true false
def MNT_FW_CONFIRM : Fld := .one 899 0xc 0x140 0 1 .wo 0 true false
def MNT_FW_VER_A : Fld := .one 900 0xc 0x144 0 32 .ro 0 true false
def MNT_FW_VER_B : Fld := .one 901 0xc 0x148 0 32 .ro 0 true false
def MNT_FW_ROLLBACK_CNT : Fld := .one 902 0xc 0x14c 0 32 .ro 0 true false
def MNT_TST_PEND : Fld := .one 903 0xc 0x160 0 16 .ro 0 true false
def MNT_TST_OVER : Fld := .one 904 0xc 0x164 0 16 .ro 0 true false
def MNT_TST_DONE_CNT : Fld := .one 905 0xc 0x168 0 32 .ro 0 true false
def MNT_TST_OVERDUE_CNT : Fld := .one 906 0xc 0x16c 0 32 .ro 0 true false
def MNT_AGE_MASK : Fld := .one 907 0xc 0x180 0 16 .rws 0 true false
def MNT_AGE_HORIZON : Fld := .one 908 0xc 0x184 0 8 .rws 8 true false
def MNT_AGE_GAIN : Fld := .one 909 0xc 0x188 0 32 .rws 65536 true false
def MNT_AGE_ALERT : Fld := .one 910 0xc 0x18c 0 16 .rws 4 true false
def MNT_AGE_VERD_CNT : Fld := .one 911 0xc 0x190 0 32 .ro 0 true false
def BIST_BIST_CTRL_GO : Fld := .one 912 0xd 0x40 0 1 .wo 0 false false
def BIST_BIST_CTRL_MODE : Fld := .one 913 0xd 0x40 1 2 .wo 0 false false
def BIST_BIST_CTRL_ABORT : Fld := .one 914 0xd 0x40 3 1 .wo 0 false false
def BIST_STATE : Fld := .one 915 0xd 0x44 0 3 .ro 0 false false
def BIST_SLICE_LEN : Fld := .one 916 0xd 0x48 0 18 .rws 65536 false false
def BIST_DUTY : Fld := .one 917 0xd 0x4c 0 4 .rws 4 false false
def BIST_PROGRESS : Fld := .one 918 0xd 0x50 0 16 .ro 0 false false
def BIST_FAIL_CNT : Fld := .one 919 0xd 0x54 0 32 .ro 0 false false
def BIST_LOG_SEL : Fld := .one 920 0xd 0x58 0 6 .rw 0 false false
def BIST_LOG_INST : Fld := .one 921 0xd 0x5c 0 7 .ro 0 false false
def BIST_LOG_ADDR : Fld := .one 922 0xd 0x60 0 14 .ro 0 false false
def BIST_LOG_BIT : Fld := .one 923 0xd 0x64 0 7 .ro 0 false false
def BIST_REPAIR_GO : Fld := .one 924 0xd 0x68 0 1 .wo 0 false false
def BIST_REPAIR_STAT_ROWS : Fld := .one 925 0xd 0x6c 0 8 .ro 0 false false
def BIST_REPAIR_STAT_COLS : Fld := .one 926 0xd 0x6c 8 8 .ro 0 false false
def BIST_REPAIR_STAT_UNREP : Fld := .one 927 0xd 0x6c 16 1 .ro 0 false false
def BIST_LBIST_PAT : Fld := .one 928 0xd 0x70 0 32 .ro 0 false false
def BIST_RUN_CNT : Fld := .one 929 0xd 0x74 0 32 .ro 0 false false
def BIST_REF_CNT : Fld := .one 930 0xd 0x78 0 32 .ro 0 false false
def SEC_LC_STATE : Fld := .one 931 0xe 0x40 0 3 .ro 0 true false
def SEC_DEV_ID_LO : Fld := .one 932 0xe 0x44 0 32 .ro 0 true false
def SEC_DEV_ID_HI : Fld := .one 933 0xe 0x48 0 32 .ro 0 true false
def SEC_SLOT_VALID : Fld := .one 934 0xe 0x4c 0 4 .ro 0 true false
def SEC_SLOT_SEL : Fld := .one 935 0xe 0x50 0 2 .rw 0 true false
def SEC_SLOT_HASH : Fld := .many 936 0xe 0x54 4 12 0 32 .ro 0 true false
def SEC_FW_MIN_VER : Fld := .one 937 0xe 0x84 0 16 .ro 0 true false
def SEC_KD_FUSED : Fld := .one 938 0xe 0x88 0 1 .ro 0 true false
def GEN_ROLE_CFG_ROLE : Fld := .one 965 0x10 0x40 0 3 .rw 0 false false
def GEN_ROLE_CFG_SET : Fld := .one 966 0x10 0x40 3 1 .ro 0 false false
def GEN_ROLE_CFG_STANDBY : Fld := .one 967 0x10 0x40 4 1 .rw 0 false false
def GEN_ROLE_CFG_CODE : Fld := .one 968 0x10 0x40 8 8 .ro 0 false false
def GEN_BOOT_STATE : Fld := .one 969 0x10 0x44 0 3 .ro 0 false false
def GEN_BOOT_ADDR_LO : Fld := .one 970 0x10 0x48 0 32 .rw 0 false false
def GEN_BOOT_ADDR_HI : Fld := .one 971 0x10 0x4c 0 32 .rw 0 false false
def GEN_BOOT_LEN : Fld := .one 972 0x10 0x50 0 25 .rw 0 false false
def GEN_BOOT_GO : Fld := .one 973 0x10 0x54 0 1 .wo 0 false false
def GEN_BOOT_STAT_CODE : Fld := .one 974 0x10 0x58 0 8 .ro 0 false false
def GEN_BOOT_STAT_REF_CNT : Fld := .one 975 0x10 0x58 16 16 .ro 0 false true
def GEN_UPD_STROBE_MASK : Fld := .one 976 0x10 0x60 0 16 .wo 0 false false
def GEN_UPD_STROBE_IMM : Fld := .one 977 0x10 0x60 16 1 .wo 0 false false
def GEN_UPD_PEND : Fld := .one 978 0x10 0x64 0 16 .ro 0 false false
def GEN_UPD_STAT_CODE : Fld := .one 979 0x10 0x68 0 8 .ro 0 false false
def GEN_UPD_STAT_PAGE : Fld := .one 980 0x10 0x68 8 8 .ro 0 false false
def GEN_UPD_STAT_VALID : Fld := .one 981 0x10 0x68 16 1 .ro 0 false false
def GEN_ACC_ERR_CNT : Fld := .one 982 0x10 0x6c 0 32 .ro 0 false false
def GEN_INTR_STAT : Fld := .one 983 0x10 0x70 0 8 .w1c 0 false false
def GEN_INTR_EN : Fld := .one 984 0x10 0x74 0 16 .msk 0 false false
def GEN_LOAD_REFUSED_CNT : Fld := .one 985 0x10 0x78 0 32 .ro 0 false false
def GEN_REHOME_CNT : Fld := .one 986 0x10 0x7c 0 32 .ro 0 false false
def GEN_SECTION_LOSS_CNT : Fld := .one 987 0x10 0x80 0 32 .ro 0 false false
def GEN_ROOT_DIVERGE_CNT : Fld := .one 988 0x10 0x84 0 32 .ro 0 false false
def GEN_IMG_OFS_LO : Fld := .one 989 0x10 0x88 0 32 .rw 0 false false
def GEN_IMG_OFS_HI : Fld := .one 990 0x10 0x8c 0 4 .rw 0 false false
def GEN_IMG_LOAD_GO : Fld := .one 991 0x10 0x90 0 1 .wo 0 false false
def GEN_IMG_LOAD_TARGET : Fld := .one 992 0x10 0x90 8 24 .wo 0 false false
def GEN_IMG_STAT_CODE : Fld := .one 993 0x10 0x94 0 8 .ro 0 false false
def GEN_IMG_STAT_TYPE : Fld := .one 994 0x10 0x94 8 8 .ro 0 false false
def GEN_IMG_STAT_VALID : Fld := .one 995 0x10 0x94 16 1 .ro 0 false false
def GEN_PRI_PARENT : Fld := .one 996 0x10 0x98 0 24 .rws 16777215 false false
def GEN_ALT_PARENT : Fld := .one 997 0x10 0x9c 0 24 .rws 16777215 false false
def GEN_STANDBY_ROOT : Fld := .one 998 0x10 0xa0 0 24 .rws 16777215 false false
def GEN_ATTACH_GO : Fld := .one 999 0x10 0xa4 0 1 .wo 0 false false
def GEN_ATTACH_STAT_STATE : Fld := .one 1000 0x10 0xa8 0 2 .ro 0 false false
def GEN_ATTACH_STAT_CODE : Fld := .one 1001 0x10 0xa8 8 8 .ro 0 false false
def GEN_PROMOTE_PER : Fld := .one 1002 0x10 0xac 0 32 .rw 0 false false
def GEN_PROMOTE_GO : Fld := .one 1003 0x10 0xb0 31 1 .wo 0 false false
def GEN_BASE_TT : Fld := .one 1004 0x10 0xb4 0 16 .rws 65535 false false
def GEN_UCODE_OFS_LO : Fld := .one 1005 0x10 0xb8 0 32 .rw 0 false false
def GEN_UCODE_OFS_HI : Fld := .one 1006 0x10 0xbc 0 4 .rw 0 false false
def GEN_UCODE_LOAD_GO : Fld := .one 1007 0x10 0xc0 0 1 .wo 0 false false
def GEN_UCODE_STAT_CODE : Fld := .one 1008 0x10 0xc4 0 8 .ro 0 false false
def GEN_UCODE_STAT_VER : Fld := .one 1009 0x10 0xc4 16 16 .ro 0 false false
def GEN_UCODE_DL_CNT : Fld := .one 1010 0x10 0xc8 0 32 .ro 0 false false
def GEN_UCODE_REF_CNT : Fld := .one 1011 0x10 0xcc 0 32 .ro 0 false false
def GEN_TDU_ACC_DIE : Fld := .one 1012 0x10 0xd0 0 4 .wo 0 false false
def GEN_TDU_ACC_WRITE : Fld := .one 1013 0x10 0xd0 4 1 .wo 0 false false
def GEN_TDU_ACC_GO : Fld := .one 1014 0x10 0xd0 31 1 .wo 0 false false
def GEN_TDU_ACC_ADDR : Fld := .one 1015 0x10 0xd4 0 18 .rw 0 false false
def GEN_TDU_ACC_DATA : Fld := .one 1016 0x10 0xd8 0 32 .rw 0 false false
def GEN_TDU_ACC_STAT_CODE : Fld := .one 1017 0x10 0xdc 0 8 .ro 0 false false
def GEN_TDU_ACC_STAT_VALID : Fld := .one 1018 0x10 0xdc 8 1 .ro 0 false false
def GEN_PROMOTE_STAT_CODE : Fld := .one 1019 0x10 0xe0 0 8 .ro 0 false false
def GEN_CTL_DMG_CNT : Fld := .one 1020 0x10 0xe4 0 32 .ro 0 false false
def GEN_TDU_STATE_STATE : Fld := .many 1021 0x10 0x100 4 16 0 3 .ro 0 false false
def GEN_TDU_STATE_LINKS : Fld := .many 1022 0x10 0x100 4 16 3 2 .ro 0 false false
def GEN_TDU_STATE_REL : Fld := .many 1023 0x10 0x100 4 16 8 8 .ro 0 false false
def GEN_TDU_STATE_LC : Fld := .many 1024 0x10 0x100 4 16 16 3 .ro 0 false false
def TGEN_BOOT_STATE : Fld := .one 1025 0x20 0x40 0 2 .ro 0 false false
def TGEN_RANK : Fld := .one 1026 0x20 0x44 0 24 .rw 16777215 false false
def TGEN_DIE_ID_LO : Fld := .one 1027 0x20 0x48 0 32 .ro 0 false false
def TGEN_DIE_ID_HI : Fld := .one 1028 0x20 0x4c 0 32 .ro 0 false false
def TGEN_LC_STATE : Fld := .one 1029 0x20 0x50 0 3 .ro 0 false false
def TGEN_UCODE_VER : Fld := .one 1030 0x20 0x54 0 16 .ro 0 false false
def TGEN_UPD_STROBE_MASK : Fld := .one 1031 0x20 0x58 0 16 .wo 0 false false
def TGEN_UPD_STROBE_IMM : Fld := .one 1032 0x20 0x58 16 1 .wo 0 false false
def TGEN_UPD_PEND : Fld := .one 1033 0x20 0x5c 0 16 .ro 0 false false
def TGEN_UPD_STAT_CODE : Fld := .one 1034 0x20 0x60 0 8 .ro 0 false false
def TGEN_UPD_STAT_PAGE : Fld := .one 1035 0x20 0x60 8 8 .ro 0 false false
def TGEN_INTR_STAT : Fld := .one 1036 0x20 0x64 0 4 .w1c 0 false false
def TGEN_INTR_EN : Fld := .one 1037 0x20 0x68 0 16 .msk 0 false false
def TGEN_CST_USED : Fld := .one 1038 0x20 0x6c 0 6 .ro 0 false false
def TGEN_CST_REFUSED_CNT : Fld := .one 1039 0x20 0x70 0 32 .ro 0 false false
def TGEN_CONV_SAT_CNT : Fld := .one 1040 0x20 0x74 0 32 .ro 0 false false
def TGEN_SRV_ANS_CNT : Fld := .one 1041 0x20 0x78 0 32 .ro 0 false false
def TGEN_SRV_BUSY_CNT : Fld := .one 1042 0x20 0x7c 0 32 .ro 0 false false
def TGEN_SCHED_BUSY_CNT : Fld := .one 1043 0x20 0x80 0 32 .ro 0 false false
def TGEN_SCHED_LATE_CNT : Fld := .one 1044 0x20 0x84 0 32 .ro 0 false false
def TGEN_SCHED_PEND : Fld := .one 1045 0x20 0x88 0 16 .ro 0 false false
def TGEN_HOST_WR_REF_CNT : Fld := .one 1046 0x20 0x8c 0 32 .ro 0 false false
def TGEN_ACC_ERR_CNT : Fld := .one 1047 0x20 0x90 0 32 .ro 0 false false
def TGEN_HELLO_CNT : Fld := .one 1048 0x20 0x94 0 32 .ro 0 false false
def TGEN_CTL_DMG_CNT : Fld := .one 1049 0x20 0x98 0 32 .ro 0 false false
def SRV_DESC : Fld := .many 1050 0x5 0xc00 4 48 0 32 .rw 0 true false
def TREE_TPL : Fld := .many 1051 0x6 0x800 4 384 0 32 .rw 0 true false
def TGEN_SC_PER_LO : Fld := .many 1052 0x20 0x100 16 4 0 32 .ro 0 false false
def TGEN_SC_PER_HI : Fld := .many 1053 0x20 0x104 16 4 0 14 .ro 0 false false
def TGEN_SC_MASK : Fld := .many 1054 0x20 0x108 16 4 0 16 .ro 0 false false
def TGEN_SC_STATE_PENDING : Fld := .many 1055 0x20 0x10c 16 4 0 1 .ro 0 false false
def MGMT_I_FRZ_CMD_GO : Fld := .one 1056 0xf 0x400 0 1 .wo 0 false false
def MGMT_I_FRZ_CMD_DEST : Fld := .one 1057 0xf 0x400 1 2 .wo 0 false false
def MGMT_I_FRZ_CMD_MIN_SEV : Fld := .one 1058 0xf 0x400 3 3 .wo 0 false false
def MGMT_I_FRZ_FROM_LO : Fld := .one 1059 0xf 0x404 0 32 .rw 0 false false
def MGMT_I_FRZ_FROM_HI : Fld := .one 1060 0xf 0x408 0 32 .rw 0 false false
def MGMT_I_FRZ_DEST_LO : Fld := .one 1061 0xf 0x40c 0 32 .rw 0 false false
def MGMT_I_FRZ_DEST_HI : Fld := .one 1062 0xf 0x410 0 32 .rw 0 false false
def MGMT_I_FRZ_MAX : Fld := .one 1063 0xf 0x414 0 21 .rw 1048576 false false
def MGMT_I_FRZ_STAT_CODE : Fld := .one 1064 0xf 0x418 0 8 .ro 0 false false
def MGMT_I_FRZ_STAT_ACTIVE : Fld := .one 1065 0xf 0x418 8 1 .ro 0 false false
def MGMT_I_FRZ_STAT_VALID : Fld := .one 1066 0xf 0x418 9 1 .ro 0 false false
def MGMT_I_FRZ_NREC : Fld := .one 1067 0xf 0x41c 0 32 .ro 0 false false
def MGMT_I_WIN_DATA : Fld := .one 1068 0xf 0x420 0 32 .ro 0 false false
def MGMT_I_WIN_DONE : Fld := .one 1069 0xf 0x424 0 1 .wo 0 false false
def MGMT_I_WIN_TMO : Fld := .one 1070 0xf 0x428 0 16 .rws 15259 false false
def MGMT_I_FRZ_DROP_CNT : Fld := .one 1071 0xf 0x42c 0 32 .ro 0 false false
def MGMT_ISEQ_LO : Fld := .one 1072 0xf 0x430 0 32 .ro 0 false false
def MGMT_ISEQ_HI : Fld := .one 1073 0xf 0x434 0 32 .ro 0 false false
def MGMT_IDROP_CNT : Fld := .one 1074 0xf 0x438 0 32 .ro 0 false false
def MGMT_IEVICT_CNT : Fld := .one 1075 0xf 0x43c 0 32 .ro 0 false false
def MGMT_IFRZ_REF_CNT : Fld := .one 1076 0xf 0x440 0 32 .ro 0 false false

/-! The common page header (R433): the same fields at the start of every page. -/

def PG_ID_PAGE (page : Nat) : Fld := .one 939 page 0x0 0 8 .ro 0 false false
def PG_ID_PVER (page : Nat) : Fld := .one 940 page 0x0 8 8 .ro 1 false false
def PG_ID_REV (page : Nat) : Fld := .one 941 page 0x0 16 8 .ro 0 false false
def PG_ID_BLOCK (page : Nat) : Fld := .one 942 page 0x0 24 8 .ro 0 false false
def PG_CAP_SECTION (page : Nat) : Fld := .one 943 page 0x4 0 4 .ro 0 false false
def PG_CAP_ISLAND (page : Nat) : Fld := .one 944 page 0x4 4 1 .ro 0 false false
def PG_CAP_SHADOWED (page : Nat) : Fld := .one 945 page 0x4 5 1 .ro 0 false false
def PG_STATUS_SAFE (page : Nat) : Fld := .one 946 page 0x8 0 1 .ro 0 false false
def PG_STATUS_LOCKED (page : Nat) : Fld := .one 947 page 0x8 1 1 .ro 0 false false
def PG_STATUS_SHADOW_DIFF (page : Nat) : Fld := .one 948 page 0x8 2 1 .ro 0 false false
def PG_STATUS_SCHED (page : Nat) : Fld := .one 949 page 0x8 3 1 .ro 0 false false
def PG_STATUS_SECTION_OUT (page : Nat) : Fld := .one 950 page 0x8 4 1 .ro 0 false false
def PG_ERR_CFG_PARITY (page : Nat) : Fld := .one 951 page 0xc 0 1 .w1c 0 false false
def PG_ERR_RANGE (page : Nat) : Fld := .one 952 page 0xc 1 1 .w1c 0 false false
def PG_ERR_FROZEN (page : Nat) : Fld := .one 953 page 0xc 2 1 .w1c 0 false false
def PG_ERR_LOCK_WR (page : Nat) : Fld := .one 954 page 0xc 3 1 .w1c 0 false false
def PG_ERR_HOST_WR (page : Nat) : Fld := .one 955 page 0xc 4 1 .w1c 0 false false
def PG_ERR_CNT_CLR (page : Nat) : Fld := .one 956 page 0xc 15 1 .wo 0 false false
def PG_ERR_CNT (page : Nat) : Fld := .one 957 page 0xc 16 16 .ro 0 false true
def PG_ERR_MASK (page : Nat) : Fld := .one 958 page 0x10 0 5 .rw 0 false false
def PG_STROBE_GRP (page : Nat) : Fld := .one 959 page 0x14 0 4 .ro 0 false false
def PG_LOCK (page : Nat) : Fld := .one 960 page 0x18 0 1 .set 0 false false
def PG_PARITY_FIRST (page : Nat) : Fld := .one 961 page 0x1c 0 10 .ro 0 false false
def PG_PARITY_CNT (page : Nat) : Fld := .one 962 page 0x1c 16 8 .ro 0 false true
def PG_PARITY_INJECT (page : Nat) : Fld := .one 963 page 0x1c 31 1 .rw 0 false false
def PG_SCRATCH (page : Nat) : Fld := .one 964 page 0x20 0 32 .rw 0 false false

/-- The header fields of a page (R433). -/
def hdrFields (page : Nat) : List Fld :=
  [PG_ID_PAGE page, PG_ID_PVER page, PG_ID_REV page, PG_ID_BLOCK page, PG_CAP_SECTION page, PG_CAP_ISLAND page, PG_CAP_SHADOWED page, PG_STATUS_SAFE page, PG_STATUS_LOCKED page, PG_STATUS_SHADOW_DIFF page, PG_STATUS_SCHED page, PG_STATUS_SECTION_OUT page, PG_ERR_CFG_PARITY page, PG_ERR_RANGE page, PG_ERR_FROZEN page, PG_ERR_LOCK_WR page, PG_ERR_HOST_WR page, PG_ERR_CNT_CLR page, PG_ERR_CNT page, PG_ERR_MASK page, PG_STROBE_GRP page, PG_LOCK page, PG_PARITY_FIRST page, PG_PARITY_CNT page, PG_PARITY_INJECT page, PG_SCRATCH page]

/-- The functional fields of the TIME page. -/
def TIME_fields : List Fld :=
  [TIME_TIME_STATE_STATE, TIME_TIME_STATE_SRC, TIME_TIME_STATE_SLEWING, TIME_TIME_STATE_EXT10M, TIME_FT_LO, TIME_FT_HI, TIME_JUMP_THR, TIME_SLEW_PPM, TIME_HO_RATE_EXT, TIME_HO_RATE_INT, TIME_ERR_BOUND, TIME_SRC_EN, TIME_SRC_CFG_PIN_FIRST, TIME_TOD_SET_LO, TIME_TOD_SET_HI, TIME_JUMP_OFFER_LO, TIME_JUMP_OFFER_HI, TIME_JUMP_PORT, TIME_JUMP_ACCEPT_PORT, TIME_JUMP_ACCEPT_GO, TIME_JUMP_REFUSED_CNT, TIME_OUTLIER_CNT, TIME_CFG_REFUSED_CNT, TIME_PPS_OFFSET] ++
  [TIME_PTP_CFG_DOMAIN, TIME_PTP_CFG_LOG_SYNC, TIME_PTP_CFG_TWO_STEP, TIME_PTP_CFG_UTC_OFFSET, TIME_PIN_CFG_PPS_OUT_EN, TIME_PIN_CFG_REF10M_OUT_EN, TIME_PIN_STAT_FLAGGED, TIME_P_CFG_EN, TIME_P_CFG_MODE, TIME_P_CFG_TRANSPORT, TIME_P_CFG_DELAY_MECH, TIME_P_CFG_LH, TIME_P_TX_FIX, TIME_P_RX_FIX, TIME_P_ASYM, TIME_P_LH_ALLOW, TIME_P_MEAN_DELAY, TIME_P_OFFSET, TIME_P_STAT_FLAGGED, TIME_P_STAT_ALLOW_EXCEEDED, TIME_P_STAT_ALLOW_EXC_CNT, TIME_TEV_CTRL_EN, TIME_TEV_CTRL_POL, TIME_TEV_CTRL_MODE] ++
  [TIME_TEV_START_LO, TIME_TEV_START_HI, TIME_TEV_PERIOD, TIME_TEV_WIDTH, TIME_TEV_COUNT, TIME_TEV_FIRED_CNT, TIME_TEV_MISS_CNT]

/-- The functional fields of the TTIME page. -/
def TTIME_fields : List Fld :=
  [TTIME_TT_STATE_STATE, TTIME_TT_STATE_SRC_LINK, TTIME_TT_STATE_PARENT_HO, TTIME_FT_LO, TTIME_FT_HI, TTIME_TW_TOL, TTIME_TW_LOST, TTIME_HO_PPB, TTIME_ERR_BOUND, TTIME_LNK_ASYM_A, TTIME_LNK_ASYM_B, TTIME_LNK_DELAY_A, TTIME_LNK_DELAY_B, TTIME_ECHO_INTV, TTIME_TW_DISCARD_CNT, TTIME_TW_CRC_CNT, TTIME_GAP_CNT, TTIME_GAP_LAST_LO, TTIME_GAP_LAST_HI, TTIME_GAP_FIRST_LO, TTIME_GAP_FIRST_HI, TTIME_STRETCH_CNT, TTIME_TT_CTRL_LINK_PREF]

/-- The functional fields of the TTB page. -/
def TTB_fields : List Fld :=
  [TTB_GUARD, TTB_LEVEL_BUDGET, TTB_DEPTH_REFUSED_CNT, TTB_SCHED_LEAD, TTB_SCHED_PEND, TTB_SCHED_BUSY_CNT, TTB_SCHED_LATE_CNT, TTB_SCHED_REFUSED_CNT, TTB_PATH_LOAD_MAX, TTB_HBM_QUOTA, TTB_HBM_RSV_SUMMARY, TTB_HBM_RSV_SIDING, TTB_HBM_RSV_RECORDER, TTB_HBM_RSV_EXPORT, TTB_HBM_PART, TTB_HBM_USED, TTB_HBM_HWM, TTB_HBM_REF_CNT0, TTB_HBM_REF_CNT1, TTB_HBM_REF_CNT2, TTB_HBM_REF_CNT3, TTB_HOST_INTR_CAP, TTB_HOST_INTR_REF_CNT, TTB_HOST_INTR_PEND] ++
  [TTB_SC_PER_LO, TTB_SC_PER_HI, TTB_SC_MASK, TTB_SC_STATE_PENDING]

/-- The functional fields of the TEMIT page. -/
def TEMIT_fields : List Fld :=
  [TEMIT_RATE, TEMIT_PATH_MASK, TEMIT_PATH_BYTES, TEMIT_EMIT_FIT_REFUSED_CNT, TEMIT_DEFER_CNT, TEMIT_LATE_EMIT_CNT, TEMIT_QUEUE_DROP_CNT, TEMIT_BYTES_LAST, TEMIT_POWER_CAP, TEMIT_POWER_RSV, TEMIT_POWER_REFUSED_CNT, TEMIT_MEMBW_CAP, TEMIT_MEMBW_REFUSED_CNT, TEMIT_INTR_CAP, TEMIT_INTR_REFUSED_CNT, TEMIT_INTR_PEND, TEMIT_SCR_PPM, TEMIT_SCR_MAX, TEMIT_SCR_CREDIT, TEMIT_SCR_REFUSED_CNT, TEMIT_HOST_WR_REFUSED_CNT, TEMIT_MARK_CNT, TEMIT_MARK_DROP_CNT, TEMIT_MARK_ORDER_CNT] ++
  [TEMIT_MARK_GAP_CNT, TEMIT_LINK_DROP_CNT, TEMIT_ENT_CONSIST, TEMIT_ENT_DIV, TEMIT_ENT_PHASE, TEMIT_ENT_PATH, TEMIT_ENT_EN, TEMIT_TRG_CTRL_EN, TEMIT_TRG_CTRL_KIND, TEMIT_TRG_CTRL_DIV, TEMIT_TRG_CTRL_PHASE, TEMIT_TRG_OFFSET, TEMIT_TRG_FIRED_CNT, TEMIT_TRG_MISS_CNT]

/-- The functional fields of the TCAP page. -/
def TCAP_fields : List Fld :=
  [TCAP_SH_CH_EN_LO, TCAP_SH_CH_EN_HI, TCAP_SH_TRGCH0_0, TCAP_SH_TRGCH0_1, TCAP_SH_TRGCH0_2, TCAP_SH_TRGCH0_3, TCAP_SH_TRGCH1_0, TCAP_SH_TRGCH1_1, TCAP_SH_TRGCH1_2, TCAP_SH_TRGCH1_3, TCAP_SH_SEL, TCAP_SH_VAL, TCAP_SH_STAMP_LO, TCAP_SH_STAMP_HI, TCAP_SH_TAG_LO, TCAP_SH_TAG_HI, TCAP_SH_INFO_TAGGED, TCAP_SH_INFO_ERR, TCAP_SH_INFO_HO, TCAP_SH_INFO_SAMPLES, TCAP_SH_DROP_CNT, TCAP_SH_TRG_OVR_CNT, TCAP_SIG_CFG_TEMP_CH, TCAP_STRETCH_MERGE] ++
  [TCAP_STRETCH_STATE_ACTIVE, TCAP_EXP_CFG_THR, TCAP_EXP_CFG_N, TCAP_EXP_STATE_LAG, TCAP_EXP_STATE_EXP_EVT_CNT, TCAP_PH_CNT, TCAP_PH_DROP_CNT, TCAP_PH_ORDER_CNT, TCAP_PH_GAP_CNT]

/-- The functional fields of the TPMU page. -/
def TPMU_fields : List Fld :=
  [TPMU_FIX_EN, TPMU_PRG_EN_LO, TPMU_PRG_EN_HI, TPMU_SMP_CNT, TPMU_SMP_DROP_CNT, TPMU_SMP_FILL, TPMU_MIR_BASE_LO, TPMU_MIR_BASE_HI, TPMU_MIR_CFG_EN, TPMU_MIR_CFG_OPEN, TPMU_MIR_CFG_DIV, TPMU_MIR_SEQ, TPMU_MIR_SKIP_CNT, TPMU_FIX_LO, TPMU_FIX_HI, TPMU_PRG_LO, TPMU_PRG_HI, TPMU_CFG_SEL, TPMU_CFG_QUAL, TPMU_CFG_MODE, TPMU_CFG_QUAL_EN, TPMU_CFG_QUAL_INV, TPMU_CFG_OVF_SMP, TPMU_CFG_OVF_INTR]

/-- The functional fields of the THIST page. -/
def THIST_fields : List Fld :=
  [THIST_BKT_SEL, THIST_SLOT_THR, THIST_H_GAPDROP_CNT, THIST_H_FLAG_CNT, THIST_H_PAIR_DROP_CNT, THIST_H_CTRL_EN, THIST_H_CTRL_SRC, THIST_H_CTRL_CUM, THIST_H_CTRL_E, THIST_H_ARG, THIST_H_UNDER, THIST_H_OVER, THIST_H_COUNT, THIST_H_MIN, THIST_H_MAX, THIST_H_DROP_CNT, THIST_BKT, THIST_H_SUM_LO, THIST_H_SUM_HI, THIST_SL_COUNT, THIST_SL_OVER, THIST_SL_MAX]

/-- The functional fields of the TDET page. -/
def TDET_fields : List Fld :=
  [TDET_FLAGS_LO, TDET_FLAGS_HI, TDET_EVAL_CNT, TDET_SKIP_CNT, TDET_SAT_CNT, TDET_CFG_REFUSED_CNT, TDET_D_CTRL_EN, TDET_D_CTRL_KIND, TDET_D_CTRL_SRC, TDET_D_CTRL_SH, TDET_D_CTRL_A, TDET_D_CTRL_EVT_EN, TDET_D_CTRL_INTR_EN, TDET_D_CTRL_SEV, TDET_D_CTRL_INV, TDET_D_ARG, TDET_D_P0, TDET_D_P1, TDET_D_P2, TDET_D_STATE_A, TDET_D_STATE_B, TDET_D_FLAG_UPPER, TDET_D_FLAG_LOWER, TDET_D_FLAG_FLAG_CNT]

/-- The functional fields of the SCB page. -/
def SCB_fields : List Fld :=
  [SCB_CTX_USED, SCB_CTX_HWM, SCB_EMIT_OFS, SCB_SHIFT, SCB_CLOSE_OFS, SCB_RANK_BASE, SCB_RANK_SPAN, SCB_HOLD_BYTES, SCB_HOLD_DROP_CNT, SCB_XFWD_CNT, SCB_STALE_CNT, SCB_DMG_LEN_CNT, SCB_DMG_CRC_CNT, SCB_DMG_ID_CNT, SCB_DMG_CST_CNT, SCB_LATE_CNT, SCB_DUP_CNT, SCB_EARLY_CNT, SCB_UNEXP_CNT, SCB_EARLY_CLOSE_CNT, SCB_QUOTA_REF_CNT, SCB_ADOPT_REF_CNT, SCB_ADOPT_NUM, SCB_ORPHAN_DROP_CNT] ++
  [SCB_EXC_DEADLINE, SCB_STUCK_LIMIT, SCB_STUCK_CNT, SCB_EXC_HEAD_ID, SCB_EXC_HEAD_KIND, SCB_EXC_HEAD_VALID, SCB_EXC_INFO0, SCB_EXC_INFO1, SCB_EXC_ACK_ID, SCB_EXC_ACK_ACCEPT, SCB_EXC_DROP_CNT, SCB_JQ_SEL, SCB_JQ_RSV, SCB_JQ_USED, SCB_POOL_FREE, SCB_EVT_FWD_SEV, SCB_EVT_CNT, SCB_EVT_FWD_CNT, SCB_CH_BASE, SCB_CH_SPAN, SCB_CH_EXP, SCB_CH_STAT_ATT, SCB_CH_STAT_ADOPTED, SCB_CH_STAT_MISS_LAST] ++
  [SCB_CH_STAT_LATE_LAST]

/-- The functional fields of the RED page. -/
def RED_fields : List Fld :=
  [RED_UNIT_EN, RED_MERGE_CNT, RED_TRAIN_CNT, RED_TRAIN_BYTES_LAST, RED_BUILD_LATE_CNT, RED_BUILD_LOAD_MAX, RED_TRAIN_IN_MAX, RED_TRAIN_MAXLEN, RED_SUM_NARROW_CNT, RED_TOPK_TRUNC_CNT, RED_AGREE_SPLIT_CNT, RED_AGREE_MIX_CNT, RED_COV_MIN, RED_COV_LOW_CNT, RED_ADOPT_NET_CNT, RED_LOST_CTX_CNT]

/-- The functional fields of the SRV page. -/
def SRV_fields : List Fld :=
  [SRV_ACTIVE, SRV_ISSUED_CNT, SRV_ADMIT_REF_CNT, SRV_FWD_CNT, SRV_DETAIL_CNT, SRV_DETAIL_LATE_CNT, SRV_ANS_DROP_CNT, SRV_TIMEOUT_CNT, SRV_RET_MISS_CNT, SRV_HOP_MARGIN, SRV_ANS_BASE_LO, SRV_ANS_BASE_HI, SRV_ANS_SIZE, SRV_ANS_WR, SRV_ANS_RD, SRV_ISSUE_GO, SRV_ISSUE_STAT_CODE, SRV_ISSUE_STAT_SLOT, SRV_ISSUE_STAT_VALID, SRV_ISSUE_SID, SRV_SLOT_SEL, SRV_SLOT_STAT_STATE, SRV_SLOT_STAT_STANDING, SRV_SLOT_SID] ++
  [SRV_SLOT_MATCH, SRV_SLOT_PEND, SRV_CANCEL_SLOT, SRV_CANCEL_GO, SRV_RET_SEL_JOB, SRV_RET_SEL_CONSIST, SRV_RET_KEY, SRV_LV_CFG_SUSPECT, SRV_LV_CFG_ABSENT, SRV_LV_CFG_RETURN, SRV_LV_REPROBE, SRV_SUSPECT_CNT, SRV_ABSENT_CNT, SRV_CONTEST_CNT, SRV_PROBE_CNT, SRV_PSEQ_GAP_CNT, SRV_PARENT_STATE, SRV_PARENT_MISS, SRV_JV_REF_CNT, SRV_LV_STATE, SRV_LV_PULSE, SRV_LV_MISS, SRV_LV_CLASS, SRV_LV_PROBE_PEND] ++
  [SRV_JV_ALIVE, SRV_JV_DEAD, SRV_LV_LAST, SRV_ST_CTRL_EN, SRV_ST_CTRL_AUTO_OVF, SRV_ST_CTRL_TBL_USED, SRV_ST_STREAM_JOB, SRV_ST_STREAM_CONSIST, SRV_ST_FIELDS, SRV_ST_ABS, SRV_ST_REL, SRV_ST_PERS_N, SRV_ST_PERS_M, SRV_ST_MAXWIN, SRV_ST_STEP, SRV_ST_MIN_LO, SRV_ST_MIN_HI, SRV_ST_THR, SRV_ST_CNT, SRV_ST_PERSIST_CNT, SRV_ST_OVF_CNT, SRV_ST_EVICT_CNT, SRV_ST_SKIP_CNT, SRV_DR_CTRL_EN] ++
  [SRV_DR_CTRL_KIND, SRV_DR_CTRL_MODE, SRV_DR_CTRL_WL, SRV_DR_CTRL_FIELD, SRV_DR_STREAM, SRV_DR_THR, SRV_DR_SCORE, SRV_DR_WIN_CNT, SRV_DR_FLAG_CNT, SRV_DR_SKIP_CNT, SRV_DR_CAP_GO, SRV_BK_PRIM, SRV_BK_BACK, SRV_BK_CTRL_EN, SRV_BK_CTRL_UNIT, SRV_BK_STAT_LAST, SRV_BK_STAT_REPORTS, SRV_FS_STREAM, SRV_FS_EN, SRV_FS_RESET_CNT, SRV_FS_FIELD, SRV_DESC]

/-- The functional fields of the TREE page. -/
def TREE_fields : List Fld :=
  [TREE_SHUNT_EN, TREE_ENS_USED, TREE_NODE_FREE, TREE_SET_FREE, TREE_CAL_FREE, TREE_VISIT_LOAD_MAX, TREE_VISIT_CNT_LO, TREE_VISIT_CNT_HI, TREE_VEC_CNT, TREE_VEC_DROP_CNT, TREE_VEC_SKIP_CNT, TREE_VEC_LOST_CNT, TREE_SCORE_LATE_CNT, TREE_FILL_MISS_CNT, TREE_MAP_SAT_CNT, TREE_ACT_EVENT_CNT, TREE_ACT_SURVEY_CNT, TREE_ACT_REF_CNT, TREE_HOLDOFF_CNT, TREE_HOLDOFF_EVICT_CNT, TREE_FENCE_REQ_CNT, TREE_FENCE_ACK_CNT, TREE_FENCE_ACK_ID, TREE_FENCE_ACK_DECISION] ++
  [TREE_FENCE_ACK_GO, TREE_VEC_QDEPTH, TREE_OUT_SEL_ENS, TREE_OUT_SEL_OUT, TREE_OUT_RAW_LO, TREE_OUT_RAW_HI, TREE_OUT_FINAL, TREE_OUT_FIRE_CNT, TREE_OUT_LAST_RANK, TREE_ENS_MODEL_ID, TREE_ENS_MODEL_LOADED, TREE_ENS_SHAPE_NOUT, TREE_ENS_SHAPE_NFEAT, TREE_ENS_NTREES, TREE_ENS_NODES, TREE_ENS_WMAX, TREE_ENS_VEC_CNT, TREE_ENS_LATE_CNT, TREE_ENS_LAST_PER, TREE_MAP_BIND_JOB, TREE_MAP_BIND_CONSIST, TREE_MAP_CTRL_MAP_ID, TREE_MAP_CTRL_ENS, TREE_MAP_CTRL_SCOPE] ++
  [TREE_MAP_CTRL_ACTIVE, TREE_MAP_VEC_CNT, TREE_MAP_FIRST_PER, TREE_HV_ADDR_LO, TREE_HV_ADDR_HI, TREE_HV_RES_LO, TREE_HV_RES_HI, TREE_HV_CMD_ENS, TREE_HV_CMD_TAG, TREE_HV_CMD_GO, TREE_HV_STAT_CODE, TREE_HV_STAT_TAG, TREE_HV_STAT_VALID, TREE_HV_STAT_HELD, TREE_HV_CNT, TREE_HV_REF_CNT, TREE_TPL]

/-- The functional fields of the TTAP page. -/
def TTAP_fields : List Fld :=
  [TTAP_LINK_EN, TTAP_KEY_STATE_LOADED, TTAP_KEY_STATE_EPOCH_LO, TTAP_FLIT_A_TX, TTAP_FLIT_A_RX, TTAP_FLIT_B_TX, TTAP_FLIT_B_RX, TTAP_TAG_ERR_CNT, TTAP_UNWATCHED_CNT, TTAP_INST_MISMATCH_CNT, TTAP_ABANDON_CNT, TTAP_UNHASHED_CNT, TTAP_RES_SEL, TTAP_RES_STATE_STATE, TTAP_RES_STATE_COLL, TTAP_RES_STATE_INST, TTAP_RES_DIG_LO, TTAP_RES_DIG_HI, TTAP_RES_WORDS, TTAP_CH_SLOT, TTAP_CH_STATE_VALID, TTAP_CH_STATE_FROZEN, TTAP_CH_STATE_INST, TTAP_CH_PERIOD] ++
  [TTAP_CH_HOLD, TTAP_CH_SKIP_CNT, TTAP_CH_IDX, TTAP_CH_DIG_LO, TTAP_CH_DIG_HI, TTAP_RES_JOB, TTAP_F_CTRL_STATE, TTAP_F_CTRL_LINK, TTAP_F_CTRL_DIR, TTAP_F_CTRL_RESULT_ONLY, TTAP_F_CTRL_STATUS, TTAP_F_MATCH_COLL, TTAP_F_MATCH_INST, TTAP_F_CHUNK_LO, TTAP_F_CHUNK_COUNT, TTAP_F_SRC, TTAP_F_DST, TTAP_F_DIG_LO, TTAP_F_DIG_HI, TTAP_F_WORDS]

/-- The functional fields of the TSCR page. -/
def TSCR_fields : List Fld :=
  [TSCR_EN, TSCR_STATE, TSCR_STAGE_BASE_LO, TSCR_STAGE_BASE_HI, TSCR_STAGE_SIZE, TSCR_SLICE_MAX, TSCR_MG_SETTLE, TSCR_REQ_TMO, TSCR_STORE_FREE, TSCR_SLICE_CNT, TSCR_PASS_CNT, TSCR_FAIL_CNT, TSCR_NOTRUN_CNT, TSCR_REVOKE_CNT, TSCR_MG_NAK_CNT, TSCR_OVERRUN_CNT, TSCR_WITHDRAW_CNT, TSCR_PK_REFUSED_CNT, TSCR_FAIL_COACH_DROP, TSCR_PK_ID_ID, TSCR_PK_ID_VER, TSCR_PK_INFO_NPAT, TSCR_PK_INFO_NMARGIN, TSCR_PK_POS_MARGIN] ++
  [TSCR_PK_POS_PAT, TSCR_PK_LAST]

/-- The functional fields of the AGR page. -/
def AGR_fields : List Fld :=
  [AGR_UNIT_ACTIVE, AGR_SPLIT_VERD_CNT, AGR_SRV_REF_CNT, AGR_TALLY_DIV, AGR_FAIL_TOP, AGR_FAIL_CAP, AGR_FAIL_FWD_CNT, AGR_FAIL_DROP_CNT, AGR_TALLY_SENT_CNT, AGR_TALLY_REF_CNT, AGR_PACK_SEL, AGR_TAL_IDX, AGR_TAL_A, AGR_TAL_B, AGR_CORR_SKIP_CNT, AGR_TAP_IDLE, AGR_AU_CTRL_EN, AGR_AU_CTRL_AUTO_SRV, AGR_AU_CTRL_FIELD, AGR_AU_STREAM_JOB, AGR_AU_STREAM_CONSIST, AGR_AU_MAXANS, AGR_AU_DEADLINE, AGR_AU_SPLIT_CNT] ++
  [AGR_AU_MIN_LO, AGR_AU_MIN_HI, AGR_AU_MIN_CNT, AGR_T_CTRL_GO, AGR_T_CTRL_DISARM, AGR_T_POINT_POINT, AGR_T_POINT_PORT, AGR_T_POINT_RESULT_ONLY, AGR_T_JOB, AGR_T_MATCH_COLL, AGR_T_MATCH_INST, AGR_T_CHUNK_LO, AGR_T_CHUNK_COUNT, AGR_T_SRC, AGR_T_DST, AGR_T_DEADLINE, AGR_T_STAT_STATE, AGR_T_STAT_STATUS, AGR_T_STAT_CODE, AGR_T_DIG_LO, AGR_T_DIG_HI, AGR_T_WORDS, AGR_T_FLITS, AGR_T_TAGERR] ++
  [AGR_PK_ID_ID, AGR_PK_ID_VER, AGR_PK_BYTES]

/-- The functional fields of the SHP page. -/
def SHP_fields : List Fld :=
  [SHP_UP_RATE, SHP_SB_RATE, SHP_EXP_RATE, SHP_DN_RATE, SHP_UP_CREDIT, SHP_SB_CREDIT, SHP_EXP_CREDIT, SHP_SH_FLOOR_CNT, SHP_SH_MAXREC, SHP_UP_FIT_LOAD, SHP_TC_MIN_SW, SHP_TC_MAX_SW, SHP_TC_MIN_LH, SHP_TC_MAX_LH, SHP_CFG_REF_CNT, SHP_VC_STALL_CNT, SHP_DN_FULL_CNT, SHP_DN_LINK_DROP_CNT, SHP_Q_W, SHP_Q_LIM, SHP_Q_YEL, SHP_Q_DROP_CNT, SHP_Q_YDROP_CNT, SHP_SB_DROP_CNT] ++
  [SHP_EXQ_W, SHP_EXQ_LIM, SHP_EXQ_DROP_CNT, SHP_CIR, SHP_PIR, SHP_CBS, SHP_PBS, SHP_POL_YEL_CNT, SHP_POL_RED_CNT, SHP_QS_DEPTH_LAST, SHP_QS_DELAY_LAST, SHP_QS_DEPTH_MAX, SHP_QS_DELAY_MAX]

/-- The functional fields of the MGMT page. -/
def MGMT_fields : List Fld :=
  [MGMT_PORT_STAT_UP0, MGMT_PORT_STAT_UP1, MGMT_PORT_STAT_RAILS, MGMT_PORT_CFG_EN, MGMT_PORT_CFG_FEC, MGMT_MTU, MGMT_MAC_LO, MGMT_MAC_HI, MGMT_ADDR0, MGMT_ADDR1, MGMT_ROUTER, MGMT_CMD_PORT, MGMT_CMD_CNT, MGMT_CMD_REF_CNT, MGMT_CMD_RAILS_CNT, MGMT_RX_DROP_CNT, MGMT_COLL_ADDR, MGMT_COLL_PORT, MGMT_COLL_DSCP, MGMT_EXP_CTRL_EN, MGMT_EXP_CTRL_VIA, MGMT_EXP_CTRL_QUEUE, MGMT_EXP_CTRL_DEFLATE, MGMT_EXP_CTRL_REC_SEV] ++
  [MGMT_TPL_REFRESH, MGMT_OBS_DOMAIN, MGMT_PEN, MGMT_RELAY_BASE, MGMT_EXP_SEQ, MGMT_EXP_MSG_CNT, MGMT_EXP_REC_CNT, MGMT_EXP_REF_CNT, MGMT_RELAY_CNT, MGMT_EX_STREAM_JOB, MGMT_EX_STREAM_CONSIST, MGMT_EX_CTRL_EN, MGMT_EX_CTRL_FORM, MGMT_EX_CTRL_DIV, MGMT_EX_CTRL_NFIELD, MGMT_EX_FIELDS0, MGMT_EX_FIELDS1, MGMT_EX_FIELDS2, MGMT_EX_FIELDS3, MGMT_EX_REC_CNT, MGMT_EX_DROP_CNT, MGMT_I_FRZ_CMD_GO, MGMT_I_FRZ_CMD_DEST, MGMT_I_FRZ_CMD_MIN_SEV] ++
  [MGMT_I_FRZ_FROM_LO, MGMT_I_FRZ_FROM_HI, MGMT_I_FRZ_DEST_LO, MGMT_I_FRZ_DEST_HI, MGMT_I_FRZ_MAX, MGMT_I_FRZ_STAT_CODE, MGMT_I_FRZ_STAT_ACTIVE, MGMT_I_FRZ_STAT_VALID, MGMT_I_FRZ_NREC, MGMT_I_WIN_DATA, MGMT_I_WIN_DONE, MGMT_I_WIN_TMO, MGMT_I_FRZ_DROP_CNT, MGMT_ISEQ_LO, MGMT_ISEQ_HI, MGMT_IDROP_CNT, MGMT_IEVICT_CNT, MGMT_IFRZ_REF_CNT]

/-- The functional fields of the REC page. -/
def REC_fields : List Fld :=
  [REC_RING_USED, REC_SEQ_LO, REC_SEQ_HI, REC_WR_CNT, REC_DROP_CNT, REC_EVICT_CNT, REC_LOG_BASE_LO, REC_LOG_BASE_HI, REC_LOG_SIZE, REC_LOG_CTRL_HOLD, REC_LOG_CTRL_DEFLATE, REC_LOG_WR, REC_LOG_WRAP_CNT, REC_SPILL_LOST_CNT, REC_LOG_FULL_CNT, REC_FRZ_CMD_GO, REC_FRZ_CMD_DEST, REC_FRZ_CMD_MIN_SEV, REC_FRZ_FROM_LO, REC_FRZ_FROM_HI, REC_FRZ_DEST_LO, REC_FRZ_DEST_HI, REC_FRZ_MAX, REC_FRZ_STAT_CODE] ++
  [REC_FRZ_STAT_ACTIVE, REC_FRZ_STAT_VALID, REC_FRZ_NREC, REC_WIN_DATA, REC_WIN_DONE, REC_WIN_TMO, REC_FRZ_DROP_CNT, REC_SNAP_SEQ, REC_SNAP_STAT_VALID, REC_SNAP_STAT_GONE, REC_SNAP_STAT_LEN8, REC_SNAP_SEQ_OUT, REC_FRZ_REF_CNT, REC_SD_OFS_LO, REC_SD_OFS_HI, REC_SD_POST_CH, REC_SD_POST_GO, REC_SD_POST_STAT_CODE, REC_SD_WIN, REC_SNAP_BUF, REC_SD_CTRL_EN, REC_SD_CTRL_DEFLATE, REC_SD_STAT_POSTED, REC_SD_STAT_DRY] ++
  [REC_SD_BYTES, REC_SD_DONE_CNT, REC_SD_GAP_CNT, REC_SD_DRY_CNT, REC_SD_GRANT, REC_SD_OFS_NEXT]

/-- The functional fields of the TTRC page. -/
def TTRC_fields : List Fld :=
  [TTRC_CTRL_EN, TTRC_CTRL_MODE, TTRC_CMD_ARM, TTRC_CMD_TRIG_GO, TTRC_STATE, TTRC_PRE, TTRC_POST, TTRC_TRIG_SRC, TTRC_TRIG_ARG, TTRC_TRIG_ADDR_LO, TTRC_TRIG_ADDR_HI, TTRC_TS_GRAN, TTRC_SYNC_INTV, TTRC_RING_FILL, TTRC_WR_OFS_LO, TTRC_WR_OFS_HI, TTRC_TRIG_T64_LO, TTRC_TRIG_T64_HI, TTRC_OVF_PKT_CNT, TTRC_OVW_PKT_CNT, TTRC_EVT_CNT, TTRC_EXCL_CNT, TTRC_TRIG_IGN_CNT, TTRC_BULK_CNT] ++
  [TTRC_GRANT, TTRC_GAP_LOST_CNT, TTRC_CFG_REF_CNT, TTRC_AUTH_STATE, TTRC_AUTH_ADMIT, TTRC_AUTH_ID, TTRC_AUTH_NOT_AFTER_LO, TTRC_AUTH_NOT_AFTER_HI, TTRC_AUTH_REF_CNT, TTRC_AUTH_REVOKE]

/-- The functional fields of the CMP page. -/
def CMP_fields : List Fld :=
  [CMP_CTX_USED, CMP_CTX_RSV, CMP_EFFORT, CMP_BLK_OLEN, CMP_FLUSH_IDLE, CMP_JOB_OFS_LO, CMP_JOB_OFS_HI, CMP_JOB_POST_GO, CMP_JOB_POST_STAT_CODE, CMP_JOB_POST_STAT_QUEUED, CMP_BUF_OFS_LO, CMP_BUF_OFS_HI, CMP_BUF_POST_CTX, CMP_BUF_POST_GO, CMP_JOB_ABORT, CMP_CTX_SEL, CMP_CTX_STAT_STATE, CMP_CTX_STAT_USER, CMP_CTX_STAT_BUFS, CMP_CTX_IN, CMP_CTX_OUT, CMP_ENC_KIB, CMP_DEC_KIB, CMP_RAW_CNT] ++
  [CMP_INC_CNT, CMP_ILL_CNT, CMP_DIST_CNT, CMP_OVR_CNT, CMP_SHORT_CNT, CMP_CHK_CNT, CMP_WAIT_OUT_CNT, CMP_POST_REF_CNT, CMP_CTX_REF_CNT, CMP_ABORT_CNT, CMP_LOST_CNT]

/-- The functional fields of the CIP page. -/
def CIP_fields : List Fld :=
  [CIP_KEY_STATE_GRANT, CIP_KEY_STATE_STAGED, CIP_KEY_STATE_PREV, CIP_FLEET_ID, CIP_SITE, CIP_SENDER_BASE, CIP_KEY_EPOCH, CIP_PREV_EPOCH, CIP_OVERLAP, CIP_FRAME_WAIT, CIP_DUP_LIMIT, CIP_GRANT_REF_CNT, CIP_SIG_FAIL_CNT, CIP_SIG_OK_CNT, CIP_CTR_SEL, CIP_CTR_LO, CIP_CTR_HI, CIP_SEAL_CNT, CIP_OPEN_CNT, CIP_AUTH_FAIL_CNT, CIP_EPOCH_MISS_CNT, CIP_REPLAY_CNT, CIP_REPLAY_FULL_CNT, CIP_CTR_EXH_CNT] ++
  [CIP_DUP_MISMATCH_CNT, CIP_DUP_REF_CNT, CIP_LH_SENDERS, CIP_LH_PORTS, CIP_ISL_SEAL_CNT, CIP_ISL_OPEN_CNT, CIP_ISL_AUTH_FAIL_CNT, CIP_ISL_DUP_MISMATCH_CNT]

/-- The functional fields of the MNT page. -/
def MNT_fields : List Fld :=
  [MNT_NTC_SEL_JOB, MNT_NTC_EPOCH, MNT_NTC_NSEQ, MNT_NTC_JSTATE, MNT_NTC_RX_CNT, MNT_NTC_DUP_CNT, MNT_NTC_STALE_CNT, MNT_NTC_GAP_CNT, MNT_NTC_TMO_CNT, MNT_NTC_REPLAY_CNT, MNT_NTC_LOG_SIZE, MNT_NTC_LOG_USED, MNT_NTC_LOG_DROP_CNT, MNT_ACK_MARGIN, MNT_ACK_TMO, MNT_START_MARGIN, MNT_ISSUE_OFS_LO, MNT_ISSUE_OFS_HI, MNT_ISSUE_GO, MNT_ISSUE_STAT_CODE, MNT_ISSUE_STAT_VALID, MNT_ISSUE_NSEQ, MNT_FORCE_RELEASE_JOB, MNT_FORCE_RELEASE_GO] ++
  [MNT_NS_SEL, MNT_NS_JOB, MNT_NS_KIND, MNT_NS_EPOCH, MNT_NS_NSEQ, MNT_NS_APPLIED, MNT_NS_REFUSED, MNT_NS_UNREACH, MNT_NS_RECOV, MNT_NS_CODE, MNT_NS_CODE_RANK, MNT_TOK_REQ_CLASS, MNT_TOK_REQ_GO, MNT_TOK_TARGET, MNT_TOK_STAT_CODE, MNT_TOK_STAT_ID, MNT_TOK_STAT_VALID, MNT_HOLDER_ID, MNT_HOLDER_CLASS, MNT_HOLDER_OWNER, MNT_HOLDER_TARGET, MNT_TOK_REL_ID, MNT_TOK_REL_FORCE, MNT_TOK_REL_GO] ++
  [MNT_TOK_HELD, MNT_TOK_REF_CNT, MNT_SEC_STATE, MNT_SEC_CAUSE, MNT_DRAIN_SECTION, MNT_DRAIN_GO, MNT_DRAIN_PER, MNT_RETURN_SECTION, MNT_RETURN_GO, MNT_RETURN_STAT_CODE, MNT_DRAIN_STAT_CODE, MNT_GUARD_TMO, MNT_GUARD_KICK, MNT_GUARD_CNT, MNT_ISL_GUARD_CNT, MNT_FW_STATE_STATE, MNT_FW_STATE_BANK, MNT_FW_LOAD_OFS_LO, MNT_FW_LOAD_OFS_HI, MNT_FW_LOAD_GO, MNT_FW_STAT_CODE, MNT_FW_SWITCH_PER, MNT_FW_SWITCH_GO, MNT_FW_TRIAL] ++
  [MNT_FW_CONFIRM, MNT_FW_VER_A, MNT_FW_VER_B, MNT_FW_ROLLBACK_CNT, MNT_TST_PEND, MNT_TST_OVER, MNT_TST_DONE_CNT, MNT_TST_OVERDUE_CNT, MNT_AGE_MASK, MNT_AGE_HORIZON, MNT_AGE_GAIN, MNT_AGE_ALERT, MNT_AGE_VERD_CNT]

/-- The functional fields of the BIST page. -/
def BIST_fields : List Fld :=
  [BIST_BIST_CTRL_GO, BIST_BIST_CTRL_MODE, BIST_BIST_CTRL_ABORT, BIST_STATE, BIST_SLICE_LEN, BIST_DUTY, BIST_PROGRESS, BIST_FAIL_CNT, BIST_LOG_SEL, BIST_LOG_INST, BIST_LOG_ADDR, BIST_LOG_BIT, BIST_REPAIR_GO, BIST_REPAIR_STAT_ROWS, BIST_REPAIR_STAT_COLS, BIST_REPAIR_STAT_UNREP, BIST_LBIST_PAT, BIST_RUN_CNT, BIST_REF_CNT]

/-- The functional fields of the SEC page. -/
def SEC_fields : List Fld :=
  [SEC_LC_STATE, SEC_DEV_ID_LO, SEC_DEV_ID_HI, SEC_SLOT_VALID, SEC_SLOT_SEL, SEC_SLOT_HASH, SEC_FW_MIN_VER, SEC_KD_FUSED]

/-- The functional fields of the GEN page. -/
def GEN_fields : List Fld :=
  [GEN_ROLE_CFG_ROLE, GEN_ROLE_CFG_SET, GEN_ROLE_CFG_STANDBY, GEN_ROLE_CFG_CODE, GEN_BOOT_STATE, GEN_BOOT_ADDR_LO, GEN_BOOT_ADDR_HI, GEN_BOOT_LEN, GEN_BOOT_GO, GEN_BOOT_STAT_CODE, GEN_BOOT_STAT_REF_CNT, GEN_UPD_STROBE_MASK, GEN_UPD_STROBE_IMM, GEN_UPD_PEND, GEN_UPD_STAT_CODE, GEN_UPD_STAT_PAGE, GEN_UPD_STAT_VALID, GEN_ACC_ERR_CNT, GEN_INTR_STAT, GEN_INTR_EN, GEN_LOAD_REFUSED_CNT, GEN_REHOME_CNT, GEN_SECTION_LOSS_CNT, GEN_ROOT_DIVERGE_CNT] ++
  [GEN_IMG_OFS_LO, GEN_IMG_OFS_HI, GEN_IMG_LOAD_GO, GEN_IMG_LOAD_TARGET, GEN_IMG_STAT_CODE, GEN_IMG_STAT_TYPE, GEN_IMG_STAT_VALID, GEN_PRI_PARENT, GEN_ALT_PARENT, GEN_STANDBY_ROOT, GEN_ATTACH_GO, GEN_ATTACH_STAT_STATE, GEN_ATTACH_STAT_CODE, GEN_PROMOTE_PER, GEN_PROMOTE_GO, GEN_BASE_TT, GEN_UCODE_OFS_LO, GEN_UCODE_OFS_HI, GEN_UCODE_LOAD_GO, GEN_UCODE_STAT_CODE, GEN_UCODE_STAT_VER, GEN_UCODE_DL_CNT, GEN_UCODE_REF_CNT, GEN_TDU_ACC_DIE] ++
  [GEN_TDU_ACC_WRITE, GEN_TDU_ACC_GO, GEN_TDU_ACC_ADDR, GEN_TDU_ACC_DATA, GEN_TDU_ACC_STAT_CODE, GEN_TDU_ACC_STAT_VALID, GEN_PROMOTE_STAT_CODE, GEN_CTL_DMG_CNT, GEN_TDU_STATE_STATE, GEN_TDU_STATE_LINKS, GEN_TDU_STATE_REL, GEN_TDU_STATE_LC]

/-- The functional fields of the TGEN page. -/
def TGEN_fields : List Fld :=
  [TGEN_BOOT_STATE, TGEN_RANK, TGEN_DIE_ID_LO, TGEN_DIE_ID_HI, TGEN_LC_STATE, TGEN_UCODE_VER, TGEN_UPD_STROBE_MASK, TGEN_UPD_STROBE_IMM, TGEN_UPD_PEND, TGEN_UPD_STAT_CODE, TGEN_UPD_STAT_PAGE, TGEN_INTR_STAT, TGEN_INTR_EN, TGEN_CST_USED, TGEN_CST_REFUSED_CNT, TGEN_CONV_SAT_CNT, TGEN_SRV_ANS_CNT, TGEN_SRV_BUSY_CNT, TGEN_SCHED_BUSY_CNT, TGEN_SCHED_LATE_CNT, TGEN_SCHED_PEND, TGEN_HOST_WR_REF_CNT, TGEN_ACC_ERR_CNT, TGEN_HELLO_CNT] ++
  [TGEN_CTL_DMG_CNT, TGEN_SC_PER_LO, TGEN_SC_PER_HI, TGEN_SC_MASK, TGEN_SC_STATE_PENDING]

/-- The functional fields of the page with a code of R428 or R429. -/
def functional : Nat → List Fld
  | 0x1 => TIME_fields
  | 0x21 => TTIME_fields
  | 0x2 => TTB_fields
  | 0x29 => TEMIT_fields
  | 0x22 => TCAP_fields
  | 0x23 => TPMU_fields
  | 0x24 => THIST_fields
  | 0x25 => TDET_fields
  | 0x3 => SCB_fields
  | 0x4 => RED_fields
  | 0x5 => SRV_fields
  | 0x6 => TREE_fields
  | 0x26 => TTAP_fields
  | 0x27 => TSCR_fields
  | 0x7 => AGR_fields
  | 0x8 => SHP_fields
  | 0xf => MGMT_fields
  | 0x9 => REC_fields
  | 0x28 => TTRC_fields
  | 0xa => CMP_fields
  | 0xb => CIP_fields
  | 0xc => MNT_fields
  | 0xd => BIST_fields
  | 0xe => SEC_fields
  | 0x10 => GEN_fields
  | 0x20 => TGEN_fields
  | _ => []

/-- Every field of a page, header first. -/
def ofPage (page : Nat) : List Fld := hdrFields page ++ functional page

/-- The page codes of the TAU window (R428). -/
def tauPages : List Nat := [0x10, 1, 15, 2, 3, 4, 5, 6, 7, 8, 9, 10, 11, 12, 13, 14]

/-- The page codes of the TDU window (R429). -/
def tduPages : List Nat := [0x20, 0x21, 0x22, 0x23, 0x24, 0x25, 0x26, 0x27, 0x28, 0x29]

end Reg

end Sys2Proof.Machine
end

