-- ==== Sys2Proof/Machine/State.lean ====
section
/-!
DEFINITION. The state of the two blocks as plain data: one TAU and one TDU, and the queue of the commands that wait. Registers
of the manual's tables are held in `RegFile`; everything else the manual gives the blocks stands in the structures below, one
for each chapter.
-/

namespace Sys2Proof.Machine

/-- Why a command stops the model. The model needs none: every command of the table is given an effect by the manual. -/
inductive Fault where
  /-- Raised by no meaning; it keeps the type inhabited. Safe. -/
  | unreachable
  deriving DecidableEq, Repr

/-- Why the model has no meaning for a command. -/
inductive Refusal where
  /-- A row whose meaning is not modelled, by its mnemonic. Safe. -/
  | notModelled (mnemonic : String)
  deriving DecidableEq, Repr

/-! ## Registers (R12, R427 to R440) -/

/-- The register file of a block. `cur` holds the values the block acts on, `shd` the shadows of RWS fields; both list only
what differs from reset. `bad` names the words whose shadow carries inverted parity (R433, R439). `latch` holds, for each port
and register pair, the high word latched by a read of the low word (R431). -/
structure RegFile where
  cur : List (Nat × Nat)
  shd : List (Nat × Nat)
  bad : List Nat
  latch : List (Nat × Nat)
  deriving DecidableEq, Repr

/-! ## What leaves a block -/

/-- Everything a block emits. The model keeps what was emitted in order, newest first. -/
inductive Output where
  /-- A record on VC_T of link `l`: from the TAU down to a die, or from the TDU up (R306). -/
  | vct (l : Nat) (r : List Byte)
  /-- A record from an egress port: 0 UP, 1 STANDBY, 2 EXPORT, 3 + c DOWN c of a role other than TRAY (R314). -/
  | egress (port : Nat) (r : List Byte)
  /-- A time word on link `l` (R54). -/
  | timeWord (l : Nat) (r : List Byte)
  /-- An echo on link `l`, sent at `t` (R57). -/
  | echo (l t : Nat)
  /-- The reply to an echo on link `l`, with the stamps t2 and t3 (R57). -/
  | echoReply (l t2 t3 : Nat)
  /-- An IEEE 1588 message of kind `kind` on source port `port` to the multicast address `dst` of its transport (R43): 0 Sync,
  1 Follow_Up, 2 Delay_Req, 3 Delay_Resp, 4 Pdelay_Req, 5 Pdelay_Resp, 6 Pdelay_Resp_Follow_Up. -/
  | ptp (port kind dst : Nat) (m : PtpMsg)
  /-- An Announce on source port `port` to the address `dst`, with its sequence number (R43). -/
  | announce (port dst seq : Nat) (a : Announce)
  /-- A UDP payload (`dport` above 0) or an ICMPv6 message (`dport` 0) sent on a management port to an IPv6 address, with its DSCP,
  by way of the next hop `hop` (R323, R335). -/
  | mgmt (port dst dport dscp hop : Nat) (r : List Byte)
  /-- VC_T credits returned to the die on link `l`, in 64-byte units (R307). -/
  | credit (l n : Nat)
  /-- A record sent past the queues over the switch core to the TAU with RANK_BASE `base`: one that is neither the current parent
  nor a child of this TAU (R198, R451, R463). -/
  | ctlTo (base : Nat) (r : List Byte)
  /-- A write into the TAU's HBM partition at an offset (R101). -/
  | hbm (ofs : Nat) (r : List Byte)
  /-- A write into tray-host memory. -/
  | host (addr : Nat) (r : List Byte)
  /-- A write into die memory (R98). -/
  | die (addr : Nat) (r : List Byte)
  /-- An interrupt raised for the causes of the mask (R99, R101). -/
  | intr (causes : Nat)
  /-- An edge of a pin or of a die-facing signal: the pin, its level, and the instant. -/
  | pin (p : Nat) (level : Bool) (t : Nat)
  /-- `n` pulses of a pin: the first rises at `t`, one follows every `per` ticks, and each is high for `high` (R485). -/
  | pulses (p t per high n : Nat)
  /-- A die-facing screening signal (R295) and its operands: 0 SCR_REQ, 1 MG_REQ, 2 PT_GO, 3 PT_ABORT. -/
  | screen (sig : Nat) (args : List Nat)
  /-- A sealed frame on long-haul port `port` to the TAU with RANK_BASE `peer` (R378). -/
  | frame (port peer : Nat) (e : List Byte)
  /-- A record sent to another section through the switch core (R33). -/
  | xfwd (sec : Nat) (r : List Byte)
  /-- The digest of a finished train, from one ROOT to the other (R23). -/
  | trainDigest (job consist period digest : Nat)
  /-- A fragment of a notice that a ROOT issues, for its standby (R23). -/
  | noticeCopy (r : List Byte)
  /-- Data returned to a register port: 0 host, 1 management, 2 control core, 3 TAU path (R427). -/
  | read (port : Nat) (b : List Byte)
  /-- A record that the manual has a TDU write (R87, R439); a TDU has no recorder, and how it travels is not laid down. -/
  | note (sev code : Nat) (body : List Byte)
  deriving DecidableEq, Repr

/-! ## Fleet Time (chapter 2) -/

/-- One time source of the TAU (R44): what its port holds of the exchanges in progress, and what the timebase filter holds of
its measurements. Offsets are held in half ticks (R60). -/
structure Source where
  /-- Announced with ptpTimescale set, and not lost since (R42). -/
  announced : Bool
  /-- The latest Announce lacked ptpTimescale (R42). -/
  barred : Bool
  set : ClockSet
  /-- Sequence number, corrected receive stamp and correctionField of a two-step Sync that waits for its Follow_Up. -/
  sync : Option (Nat × Int × Int)
  /-- Corrected t1 and t2 of the latest Sync. -/
  t12 : Option (Int × Int)
  /-- The latest Sync has given no measurement yet. -/
  owed : Bool
  /-- Sequence number and corrected t3 of the Delay_Req or t1 of the Pdelay_Req in flight. -/
  req : Option (Nat × Int)
  /-- Corrected stamps t2 and t4 of a two-step Pdelay_Resp that waits for its Follow_Up. -/
  presp : Option (Nat × Int × Int)
  /-- Mean path delay, in half ticks. -/
  mpd : Option Int
  /-- Sequence number of the port's next message. -/
  seq : Nat
  /-- Filtered offset, source minus FT, in half ticks (R47). -/
  filt : Int
  /-- The latest consecutive outliers, newest first, at most eight (R47). -/
  outl : List Int
  /-- The refused offer outstanding, in ticks (R49). -/
  refused : Option Int
  /-- Consecutive measurements within the threshold since the refusal (R49). -/
  back : Nat
  /-- An accepted offer of this source is being slewed away (R50). -/
  accepted : Bool
  deriving DecidableEq, Repr

/-- A timed event output (R70, R71): the edges it has produced and the instant of its next edge. -/
structure Tev where
  done : Nat
  next : Option Nat
  deriving DecidableEq, Repr

/-- The timebase of the TAU (R47 to R71). -/
structure TimeSt where
  src : List Source
  /-- Correction still to be slewed, in half ticks × 10^6. -/
  slew : Int
  /-- ERR_BOUND in holdover, in ticks × 3,600 × 4 × 10^9 (R51, R56). -/
  hold : Nat
  /-- EB and HO of the tree parent's latest acknowledgement (R56), and the source index of the port it came in on. -/
  parentEb : Nat
  parentHo : Bool
  parentPort : Option Nat
  /-- A TOD_SET waits for its PPS_IN edge (R52). -/
  todArmed : Option Nat
  todHi : Nat
  todKnown : Bool
  /-- Stamp of the latest PPS_IN edge, and whether edges arrive as R46 requires. -/
  ppsLast : Option Nat
  ppsOk : Bool
  /-- An accepted offer waits for the next boundary (R50). -/
  accept : Option Nat
  tev : List Tev
  deriving DecidableEq, Repr

/-- What the TDU knows of one of its two links (R57 to R59). -/
structure DieLink where
  up : Bool
  /-- Delay in half ticks, when valid. -/
  d2 : Option Int
  /-- Departure stamp of the echo in flight. -/
  echo : Option Nat
  /-- The link has trained and no echo has been sent on it since. -/
  fresh : Bool
  /-- VC_T credits left towards the TAU, in 64-byte units (R307). -/
  credit : Nat
  deriving DecidableEq, Repr

/-- The TDU's Fleet Time (R65 to R68) and its power and clock inputs (R479, R483, R487). -/
structure DieTime where
  link : List DieLink
  /-- FT runs half a tick ahead of its T64 (R57). -/
  half : Bool
  /-- Difference still to be steered away, in half ticks × 10^6 (R65). -/
  steer : Int
  /-- FT at the arrival of the latest valid word, and that word's EB. -/
  lastT : Nat
  lastEb : Nat
  discards : Nat
  /-- Last valid T64 and cause of the gap in progress (R67). -/
  gapLast : Nat
  gapCause : Nat
  /-- Holdover flag and bound of that last valid T64 (R151). -/
  gapHo : Bool
  gapEb : Nat
  /-- FT at the latest word, on either link, that passed every check and the tolerance (R66). -/
  heard : Nat
  lostEvt : Nat
  lostSmp : Nat
  /-- First and last period touched by each recent gap (R151). -/
  gapSpans : List (Nat × Nat)
  /-- Flag and bound at the boundary that began the running period, and at the one that began the last closed period (R151). -/
  startHo : Bool
  startEb : Nat
  startHoPrev : Bool
  startEbPrev : Nat
  /-- Holdover seen and largest bound held in the running period, and the same frozen for the last closed period (R151). -/
  hoSeen : Bool
  ebMax : Nat
  hoPrev : Bool
  ebPrev : Nat
  /-- REFCLK's run since its latest cycle that fixed counter 14 has counted, in half ticks × 10^6 (R107). -/
  refFrac : Int
  /-- Reference time clock running (R483); region gated (R479); VDD_TDU present; TDU_POR_N high. -/
  clock : Bool
  gated : Bool
  vdd : Bool
  por : Bool
  deriving DecidableEq, Repr

/-! ## Emission (chapter 3) -/

/-- A coach in an emission queue. `period` is the data period of a coach that an entry built. -/
structure Queued where
  bytes : List Byte
  period : Option Nat
  deriving DecidableEq, Repr

/-- A scheduled commit (R84): the period and the mask of groups. -/
structure SchedSlot where
  period : Nat
  mask : Nat
  deriving DecidableEq, Repr

/-- The TDU's emission (R74 to R104). -/
structure EmitSt where
  sched : List Queued
  unsched : List Queued
  /-- The gap records that go first in the next permitted path, oldest first (R76). -/
  gap : List (List Byte)
  /-- Allowance left in the running path, and the run of paced bytes in it: the tick of its first byte, and its bytes (R75). -/
  left : Nat
  busy : Nat
  paced : Nat
  /-- Bytes sent in the running period. -/
  sent : Nat
  /-- The record cut off by its link going down, to be sent again whole (R32), and the last record started on a link, with
  that link and the instant at which its last byte leaves. -/
  resend : Option (List Byte)
  last : Option (Nat × Nat × List Byte)
  /-- Job handle that owns each entry (R454); none for a base entry. -/
  jobs : List (Option Nat)
  /-- Next PSEQ, and the loss counters as the previous pulse saw them (R167). -/
  pseq : Nat
  seen : List Nat
  sc : List (Option SchedSlot)
  /-- Interrupts raised in the running FT second (R99). -/
  intrUsed : Nat
  /-- Bytes of die memory charged in the running period (R98). -/
  memUsed : Nat
  /-- Credit remainder below one tick, in 10^-6 tick (R100). -/
  credFrac : Nat
  deriving DecidableEq, Repr

/-! ## Egress and policing (chapter 10) -/

/-- A record in an egress queue: its fair-queueing tag and the instant it entered (R316, R322). -/
structure QRec where
  bytes : List Byte
  tag : Option Nat
  at_ : Nat
  /-- IPFIX template of a record in an EXPORT queue (R329), or 65,536 and the number of its Data Records for a finished payload that waits
  there for the relay (R333); 0 elsewhere. -/
  tpl : Nat
  /-- The TAU that the record is for, by RANK_BASE, where that is not the port's own (R198). -/
  dst : Option Nat
  deriving DecidableEq, Repr

/-- An egress port with fair queueing and a credit shaper (R316, R317). Credit is held in 2^-7 byte. -/
structure EgPort where
  qs : List (List QRec)
  v : Nat
  last : List Nat
  credit : Int
  upd : Nat
  deriving DecidableEq, Repr

/-- A DOWN port (R314): its FIFO, the records its sources hold back, and its shaper. -/
structure DownPort where
  fifo : List QRec
  held : List (List Byte)
  credit : Int
  upd : Nat
  /-- The record last started, its link and whether it was handed over whole (R32). -/
  last : Option (Nat × List Byte)
  deriving DecidableEq, Repr

/-- VC_T towards a die on one link (R307): the credits left in 64-byte units, records past the queues that wait for credit with the
instants from which they do, and the instant up to which its stalled ticks are counted. -/
structure VcLink where
  credit : Nat
  wait : List (Nat × List Byte)
  upd : Nat
  deriving DecidableEq, Repr

/-- A meter's token counts in 2^-7 byte (R311). -/
structure Meter where
  tc : Nat
  tp : Nat
  t : Nat
  deriving DecidableEq, Repr

/-- The TAU's traffic (R306 to R322). -/
structure EgressSt where
  up : EgPort
  sb : EgPort
  ex : EgPort
  down : List DownPort
  /-- VC_T of the 32 links of a TRAY TAU. -/
  vc : List VcLink
  meter : List Meter
  /-- Bypass charges forgiven at the floor, below one byte (R319). -/
  floorRem : Nat
  /-- Largest depth and delay of the 21 queues in the running period (R322). -/
  sampMax : List (Nat × Nat)
  /-- The IPFIX message being packed (R327): template and Data Records, oldest first. -/
  msg : List (Nat × List Byte)
  /-- Templates already sent since the latest commit of the export configuration (R327). -/
  tplSent : List Nat
  /-- FT at which every template was last sent (R327). -/
  tplAt : Nat
  /-- Bytes of HBM charged in the running period, by section and class (R102), and bytes held allocated by class (R101). -/
  hbm : List (List Nat)
  hbmHeld : List Nat
  deriving DecidableEq, Repr

/-! ## Recorder (chapter 11) -/

/-- A stored recorder record (R336). `idx` is its SEQ, or its arrival number in the island ring (R344). -/
structure Rec where
  idx : Nat
  sev : Nat
  bytes : List Byte
  pinned : Bool
  spilled : Bool
  deriving DecidableEq, Repr

/-- A FREEZE in progress (R344, R345): the command, the header fields fixed at the freeze instant, and what the read window
has still to give. -/
structure Freeze where
  dest : Nat
  minSev : Nat
  from_ : Nat
  firstSeq : Nat
  lastSeq : Nat
  filtered : Nat
  t : Nat
  drop : Nat
  evict : Nat
  addr : Nat
  window : List Byte
  start : Nat
  /-- SEQ of the newest record pinned, the records to copy, whether FRZ_MAX cut them, and the records and bytes copied so far. -/
  newest : Nat
  want : Nat
  trunc : Bool
  nrec : Nat
  bytes : Nat
  deriving DecidableEq, Repr

/-- One recorder ring with its source's counters. -/
structure Ring where
  recs : List Rec
  /-- Next SEQ of the source (R339), and next arrival number of the ring. -/
  seq : Nat
  arr : Nat
  frz : Option Freeze
  /-- Stream offset of the next spilled byte, the log's stored BULK lengths, oldest first, the record of which a first part has been
  spilled with the length of that part, and the SEQ below which records are counted in LOG_FULL_CNT (R342, R343). -/
  spillOfs : Nat
  log : List Nat
  part : Nat × Nat
  fullTo : Nat
  /-- The quota has refused a spill in this period (R343). -/
  stopped : Bool
  deriving DecidableEq, Repr

/-- A record written and not yet numbered: its source, plane, severity, code and body, and the timebase's holdover (R31, R336). -/
structure RecReq where
  src : Nat
  plane : Nat
  sev : Nat
  code : Nat
  ho : Bool
  body : List Byte
  deriving DecidableEq, Repr

/-! ## Consists (chapter 5) -/

/-- A field descriptor of a consist (R169). -/
structure Desc where
  type : Nat
  op : Nat
  etype : Nat
  scale : Int
  src : Nat
  arg : Nat
  size : Nat
  he : Nat
  hpl : Nat
  arg2 : Nat
  nameId : Nat
  deriving DecidableEq, Repr

/-- A loaded consist (R169): its image, the period from which it is usable, and the period of its removal (R173). -/
structure Consist where
  id : Nat
  sev : Nat
  maxLen : Nat
  minLen : Nat
  digest : List Byte
  nameId : Nat
  fields : List Desc
  /-- The job for which a TDU loaded it; 0xFFFF for none (R282). -/
  job : Nat
  from_ : Nat
  until_ : Option Nat
  deriving DecidableEq, Repr

/-! ## Capture in the die unit (chapter 4) -/

/-- A stamped marker (R90, R91): its code and fields, its stamp, whether it broke step order, and the flag and bound of R68. -/
structure Marker where
  code : Nat
  step : Nat
  coll : Nat
  slot : Nat
  t : Nat
  order : Bool
  ho : Bool
  eb : Nat
  deriving DecidableEq, Repr

/-- A stamped collective phase (R122). -/
structure Phase where
  code : Nat
  coll : Nat
  t : Nat
  order : Bool
  ho : Bool
  eb : Nat
  deriving DecidableEq, Repr

/-- An overflow sample (R113, R114). -/
structure Sample where
  ctr : Nat
  t : Nat
  pc : Nat
  skid : Nat
  excl : Bool
  ho : Bool
  eb : Nat
  deriving DecidableEq, Repr

/-- An entry of the sensor table (R119, R120), with the flag and bound of R68 (R89). -/
structure Sensor where
  val : Int
  t : Nat
  tag : Option Nat
  err : Bool
  ho : Bool
  eb : Nat
  samples : Nat
  deriving DecidableEq, Repr

/-- A histogram bank (R123, R124). Buckets are listed by index where they are not zero. -/
structure Bank where
  under : Nat
  above : Nat
  bkt : List (Nat × Nat)
  count : Nat
  sum : Int
  min : Int
  max : Int
  /-- Samples dropped (R127). -/
  drop : Nat
  deriving DecidableEq, Repr

/-- An unpaired FROM stamp of a histogram unit (R126). -/
structure Stamp where
  step : Nat
  coll : Option Nat
  t : Nat
  ho : Bool
  deriving DecidableEq, Repr

/-- A histogram unit: live bank, snapshot bank, unpaired stamps oldest first, and the samples in its queue at the REFCLK cycle
`cycle`, the one that is being accepted among them (R127). -/
structure HistUnit where
  live : Bank
  snap : Bank
  /-- Base exponent under which the snapshot was counted (R129). -/
  snapE : Nat
  held : List Stamp
  /-- Samples in the queue at the cycle that `cycle` names (R127). -/
  queued : Nat
  cycle : Nat
  deriving DecidableEq, Repr

/-- A stamp with the flag and bound of R68. -/
structure Mark where
  t : Nat
  ho : Bool
  eb : Nat
  deriving DecidableEq, Repr

/-- A merged stretch (R139): first start, last end, members, and the cycles that counter 1 counted over it. -/
structure Stretch where
  first : Mark
  stop : Mark
  members : Nat
  cyc : Nat
  deriving DecidableEq, Repr

/-- A serving slot's statistics in one period (R130). -/
structure SlotStat where
  slot : Nat
  count : Nat
  max : Nat
  above : Nat
  deriving DecidableEq, Repr

/-- A detector's running state (R132 to R137): the signed 48-bit words A and B, and whether it has evaluated since its reset. -/
structure Detector where
  a : Int
  b : Int
  ran : Bool
  deriving DecidableEq, Repr

/-- The capture state of the TDU (R105 to R141). -/
structure CaptureSt where
  /-- The 80 counters: fixed 0 to 15, programmable 16 to 79. -/
  cnt : List Nat
  /-- Increments taken in the running period (R160). -/
  inc : List Nat
  snapCnt : List Nat
  snapInc : List Nat
  /-- Value last written to each programmable counter (R112), and the staged low words (R110). -/
  written : List Nat
  stagedLo : List Nat
  samples : List Sample
  sensor : List (Option Sensor)
  sensorSnap : List (Option Sensor)
  /-- Tag waiting on each channel, with the flag and bound of its instant (R89, R120). -/
  armed : List (Option (Nat × Bool × Nat))
  markQ : List Marker
  marks : List Marker
  markSnap : List Marker
  /-- Step order (R92, R492): the running step, 0 nothing begun, 1 begun, 2 in the collective part; open collectives. -/
  step : Nat
  stepPart : Nat
  open_ : List Nat
  phaseQ : List Phase
  phases : List Phase
  phaseSnap : List Phase
  /-- Next code expected of each collective that has begun (R122). -/
  phaseNext : List (Nat × Nat)
  hist : List HistUnit
  /-- Stamp and flag of the last TOKEN_EMIT of each slot, and of the last LK_RETRY strobe of each link. -/
  tokens : List (Nat × Nat × Bool)
  retry : List (Option (Nat × Bool))
  slots : List SlotStat
  slotSnap : List SlotStat
  det : List Detector
  /-- Detector states and flags of the latest evaluation (R136, R138). -/
  detSnap : List Detector
  flagSnap : Nat
  /-- Collective index, digest and VALID of each result slot at the latest snapshot (R284). -/
  digSnap : List (Nat × Nat × Bool)
  /-- The stretch being merged (R139), and the start of one in progress: its stamp with flag and bound, and counter 1 then. -/
  stretch : Option Stretch
  stretchStart : Option (Mark × Nat)
  /-- Expander lag (R140): consecutive periods that pass, the boundary that starts the first of them, totals since, last EXP_BLK
  with EXP_STALL. -/
  lagRun : Nat
  lagFrom : Mark
  lagStall : Nat
  lagIssue : Nat
  expBlk : Nat
  /-- Event lines in the latest core cycle counted, and with those that have risen since (R105, R108). -/
  evtWas : BitVec 256
  evtNow : BitVec 256
  /-- The latest core cycle in which an instruction retired (R113). -/
  lastRet : TraceCycle
  /-- SEQ of the mirror page (R117), and a refresh refused in the last period, to be issued again (R98). -/
  mirSeq : Nat
  mirRetry : Bool
  /-- SIG_TEMP and SIG_LOAD of the last closed period (R152). -/
  sigTemp : Nat
  sigLoad : Nat
  deriving DecidableEq, Repr

/-! ## Jobs and consists held in the die unit -/

/-- A job that the TDU knows (R454, R468, R469): its handle, the epochs by the period in which each takes effect, the period from
which it is ACTIVE and the period at which it ends, and the RET_KEY of each of its consists (R215). -/
structure DieJob where
  handle : Nat
  /-- Epochs in force: (from period, epoch), newest first (R154). -/
  epochs : List (Nat × Nat)
  from_ : Nat
  until_ : Option Nat
  ret : List (Nat × Nat)
  deriving DecidableEq, Repr

/-! ## Taps of the die unit (R275 to R291) -/

/-- A job tap key held for a job and the epoch it belongs to (R280). -/
structure TapKey where
  job : Nat
  epoch : Nat
  j : Nat
  deriving DecidableEq, Repr

/-- A result slot (R282, R283): state 0 NONE, 1 OPEN, 2 HELD. `acc` and `n` are the total of the open instance without its
count, and its words; `chunks` its chunk accumulators that are not zero (R285); `dig` and `words` the held digest. -/
structure ResSlot where
  coll : Nat
  job : Nat
  st : Nat
  inst : Nat
  whole : Bool
  acc : Nat
  n : Nat
  chunks : List (Nat × Nat)
  dig : Nat
  words : Nat
  deriving DecidableEq, Repr

/-- The chunk store (R285, R286): the stored instance, and the period at which a freeze began. -/
structure ChunkStore where
  stored : Option (Nat × Nat × Nat)
  entries : List (Nat × Nat)
  frozen : Option Nat
  deriving DecidableEq, Repr

/-- What a filter or tap unit matches (R287). -/
structure TapMatch where
  coll : Nat
  inst : Nat
  lo : Nat
  count : Nat
  src : Nat
  dst : Nat
  resultOnly : Bool
  deriving DecidableEq, Repr

/-- A TDU filter (R287, R288): state 0 IDLE, 1 ARMED, 2 OPEN, 3 CLOSED; its placement, its sums, its deadline, and the request it
answers: SID, ISSUER_BASE, ISSUER_LEVEL, JOB and EPOCH. -/
structure Filter where
  st : Nat
  link : Nat
  dir : Nat
  m : TapMatch
  status : Nat
  acc : Nat
  n : Nat
  flits : Nat
  deadline : Nat
  sid : Nat
  base : Nat
  level : Nat
  job : Nat
  epoch : Nat
  deriving DecidableEq, Repr

/-- The taps of the TDU. `flits` counts data-VC flits of the running period: link A sent, received, link B sent, received
(R276). -/
structure TapSt where
  keys : List TapKey
  res : List (Option ResSlot)
  store : ChunkStore
  filt : List Filter
  flits : List Nat
  deriving DecidableEq, Repr

/-! ## Screening in the die unit (R295 to R300) -/

/-- A pattern of a pack (R296). -/
structure Pat where
  patId : Nat
  margin : Nat
  run : Nat
  ofs : Nat
  len : Nat
  words : Nat
  expect : Nat
  deriving DecidableEq, Repr

/-- A margin point of a pack: DV, DF and the temperature set-point, as held in the image (R296). -/
structure MarginPt where
  dv : Nat
  df : Nat
  t : Nat
  deriving DecidableEq, Repr

/-- A loaded pattern pack (R296 to R298): its patterns and blobs, the position of its next slice, the period from which a run is
pending, and whether it is a version staged beside the one in use. `stop` is the period of R407 from which it stops. -/
structure Pack where
  id : Nat
  ver : Nat
  h : Nat
  nmargin : Nat
  margins : List MarginPt
  pats : List Pat
  blob : List Byte
  size : Nat
  posM : Nat
  posP : Nat
  last : Nat
  run : Option Nat
  staged : Bool
  stop : Option Nat
  deriving DecidableEq, Repr

/-- The slice in progress (R298, R299): the pack, the margin index, the pack's patterns that it still has to run, its length, the
grant, the period of its request, and what it has judged. -/
structure Slice where
  slot : Nat
  margin : Nat
  todo : List Nat
  len : Nat
  reqAt : Nat
  start : Nat
  /-- The running pattern's sum and words. -/
  acc : Nat
  n : Nat
  ran : List Nat
  /-- Failures in order: pattern, digest obtained, words obtained. -/
  failed : List (Nat × Nat × Nat)
  notRun : Nat
  deriving DecidableEq, Repr

/-- Screening (R295 to R300). `copied`: the die address at which blobs stand, and the blobs. `waits`: the period in which the budget
refused a copy, and the pack slot that it was for (R98). -/
structure ScreenSt where
  packs : List (Option Pack)
  slice : Option Slice
  copied : Option (Nat × List Byte)
  waits : Option (Nat × Nat)
  deriving DecidableEq, Repr

/-! ## Command-processor trace (R348 to R359) -/

/-- A packet of the trace ring. `start`: its first byte is still in the ring. -/
structure TPkt where
  bytes : List Byte
  start : Bool
  trig : Bool
  stop : Bool
  deriving DecidableEq, Repr

/-- A debug authorisation (R354). -/
structure DebugAuth where
  notBefore : Nat
  notAfter : Nat
  kinds : Nat
  deriving DecidableEq, Repr

/-- The trace of the TDU (R348 to R359). -/
structure TraceSt where
  ring : List TPkt
  /-- Bytes written, those evicted since among them. -/
  wr : Nat
  /-- Last address (R350), latest context id, and attributes of the running code. -/
  la : Nat
  ctx : Nat
  priv : Bool
  sec : Bool
  /-- The stream has begun since the enable or restart (R350). -/
  started : Bool
  /-- Stamp of the latest timestamp in the stream, and packets' bytes since the latest SYNC. -/
  lastTs : Nat
  sinceSync : Nat
  /-- TDU in HOLDOVER at the latest TS_FULL, and GAP_CNT then (R351). -/
  tsHo : Bool
  tsGap : Nat
  /-- The code that runs is excluded (R353). -/
  excl : Bool
  /-- Packets lost since the ring filled in STREAM mode (R355). -/
  losing : Option Nat
  /-- Packets lost or evicted and not yet told of, by the count of bytes written before them (R359), and bytes evicted. -/
  lost : List (Nat × Nat)
  evicted : Nat
  /-- Bytes written after TRIG, and the count of bytes written before the protected window (R356, R357). -/
  post : Nat
  window : Option Nat
  /-- The next BULK record carries RESET (R352). -/
  rst : Bool
  auth : Option DebugAuth
  deriving DecidableEq, Repr

/-! ## Surveys in the die unit (R215, R220) -/

/-- A term of a survey (R216). -/
structure Term where
  field : Nat
  test : Nat
  arg : Nat
  x : Nat
  deriving DecidableEq, Repr

/-- A survey descriptor (R216, R289). `par` holds the parameter bytes of KIND 2 and 3. -/
structure Survey where
  sid : Nat
  base : Nat
  level : Nat
  consist : Nat
  job : Nat
  epoch : Nat
  period : Nat
  deadline : Nat
  lo : Nat
  kind : Nat
  hi : Nat
  flags : Nat
  maxans : Nat
  fmask : Nat
  terms : List Term
  par : List Byte
  deriving DecidableEq, Repr

/-- What the TDU knows of a field of a coach that it built: the flag and bound of the stamp it carries, where it carries one, and
whether the field makes the coach ORDER or SAT (R146, R151). -/
structure FieldNote where
  stamp : Option (Bool × Nat)
  order : Bool
  sat : Bool
  deriving DecidableEq, Repr

/-- A coach kept in the detail store (R215). -/
structure Kept where
  consist : Nat
  period : Nat
  bytes : List Byte
  notes : List FieldNote
  deriving DecidableEq, Repr

/-- A survey slot of the TDU (R220): the survey and the answers that wait for room in the unscheduled queue. -/
structure DieSurvey where
  s : Survey
  wait : List (List Byte)
  /-- The slot ends when nothing waits. -/
  done : Bool
  deriving DecidableEq, Repr

/-- Surveys and probes of the TDU: slots, answers of requests that hold no slot and wait for room, detail store, and the counts that a
probe answer reports (R239): PH_CNT and MARK_CNT at the latest boundary, and their increase over the last period. `owed` bytes are
charged to the next permitted path. -/
structure DieSurveySt where
  slots : List (Option DieSurvey)
  wait : List (List Byte)
  kept : List Kept
  phAt : Nat
  mkAt : Nat
  phD : Nat
  mkD : Nat
  owed : Nat
  deriving DecidableEq, Repr

/-! ## Control records in the die unit (R453 to R470) -/

/-- An image being collected from its fragments (R467). -/
structure Gather where
  itype : Nat
  nfrag : Nat
  total : Nat
  ver : Nat
  job : Nat
  epoch : Nat
  nseq : Nat
  frags : List (Nat × List Byte)
  deriving DecidableEq, Repr

/-- Control records held by the TDU: images in collection, records that wait for their EFFECT boundary, records that wait for a
link (R32), the notices already acknowledged, newest first, as job, epoch, NSEQ and code (R470), those of them refused at a record
before their last, which is still to come, acknowledgements that wait for a boundary with valid FT, as kind, job, epoch, NSEQ and
EFFECT (R87), and the code and version last refused (R453). -/
structure DieCtl where
  gather : List Gather
  due : List (Nat × List Byte)
  /-- Records past the emission queues that wait for a link or for VC_T credit (R32, R307), and the link on which each must go. -/
  outq : List (Option Nat × List Byte)
  /-- The notices answered, and those refused before their last record (R470). -/
  acked : List (Nat × Nat × Nat × Nat)
  half : List (Nat × Nat × Nat)
  /-- The last NID answered of each handle, and the records held that skip one, with their NIDs (R392). -/
  last : List (Nat × Nat × Nat)
  held : List ((Nat × Nat × Nat) × List Byte)
  /-- Acknowledgements that wait for valid FT (R87). -/
  owed : List (Nat × Nat × Nat × Nat × Nat)
  /-- The version and code last refused (R453). -/
  refVer : Nat
  refCode : Nat
  deriving DecidableEq, Repr

/-! ## Reduction (chapter 6) -/

/-- What an AGREE field accumulates (R194). -/
structure AgreeAcc where
  lo : Nat
  loRank : Nat
  loCount : Nat
  hi : Nat
  hiRank : Nat
  hiCount : Nat
  valid : Nat
  invalid : Nat
  coll : Nat
  mix : Bool
  deriving DecidableEq, Repr

/-- The accumulator of one field of a train (R187). Elements of TOPK, MIN and MAX are held as their 64 bits. -/
inductive Acc where
  | sum (v : Int)
  | hist (under above : Nat) (bkt : List (Nat × Nat))
  | topk (e : List (Nat × Nat × Nat))
  | mm (val rank count : Nat)
  | bmap (v : Nat)
  | agree (a : AgreeAcc)
  | hll (regs : List (Nat × Nat))
  | keep
  deriving DecidableEq, Repr

/-- The part that one merged child has in a context's coverage (R196, R199). -/
structure Part where
  child : Nat
  expected : Nat
  present : Nat
  adopts : List (Nat × Nat)
  deriving DecidableEq, Repr

/-- A child's summary of one period (R213, R214): its record as merged, the values filled for its rank, by field, and whether the
quota let it be written. -/
structure Summ where
  child : Nat
  bytes : List Byte
  fills : List (Nat × Acc)
  kept : Bool
  deriving DecidableEq, Repr

/-- A context (R177, R181): state 1 OPEN, 2 COLLECTING, 3 CLOSING, 4 CLOSED. `counts` are the registered counts fixed when it
opened, `late` the LATE bits its train will carry. -/
structure Ctx where
  job : Nat
  consist : Nat
  epoch : Nat
  period : Nat
  home : Nat
  st : Nat
  exp : Nat
  counts : List (Nat × Nat)
  admitAt : Nat
  close : Nat
  arr : Nat
  acc : List Acc
  parts : List Part
  satc : Nat
  sev : Nat
  ho : Bool
  gap : Bool
  order : Bool
  eb : Nat
  sigT : Int
  sigL : Nat
  lost : Bool
  early : Bool
  rehome : Bool
  late : Nat
  summ : List Summ
  deriving DecidableEq, Repr

/-- A stream (R176, R208): its emission rhythm, its home section and placement index, its retention key (R213), the periods in which
it lives, and the children whose late arrivals its next train states (R185). -/
structure Stream where
  job : Nat
  consist : Nat
  div : Nat
  phase : Nat
  home : Nat
  place : Nat
  retKey : Nat
  from_ : Nat
  until_ : Option Nat
  late : Nat
  deriving DecidableEq, Repr

/-- An attached child (R177, R462): its role, the long-haul port it is reached over, its READY offset, its registered counts by job,
the data periods whose contexts expect it, and the PSEQ of its last merged pulse (R234). -/
structure Kid where
  role : Nat
  via : Option Nat
  ready : Nat
  counts : List (Nat × Nat)
  from_ : Nat
  until_ : Option Nat
  pseq : Option Nat
  deriving DecidableEq, Repr

/-- An arrival in the hold store (R180): its child, the section that received it, its arrival time and colour. -/
structure Held where
  child : Nat
  sec : Nat
  t : Nat
  bytes : List Byte
  deriving DecidableEq, Repr

/-- A pending exception (R210). `ref` is the ATTACH_ID of an ADOPT. -/
structure Exc where
  id : Nat
  kind : Nat
  job : Nat
  consist : Nat
  info : Nat
  posted : Nat
  ref : Nat
  deriving DecidableEq, Repr

/-- The digest of a finished train at a ROOT with a standby, and the one received of it (R23). -/
structure RootDig where
  job : Nat
  consist : Nat
  period : Nat
  own : Option Nat
  got : Option Nat
  deriving DecidableEq, Repr

/-- The scoreboards and reduction units of the TAU. `homes`: which sections links and streams are homed to (R35); `lateSeen`: the
contexts and children whose first late arrival has been recorded (R185); `dmg`: links or children with a damaged coach in this
period (R174); `exc` and `stuck`, by section: pending exceptions, and the periods at which one became stuck (R210). -/
structure ScbSt where
  kids : List (Option Kid)
  streams : List Stream
  ctxs : List Ctx
  hold : List Held
  homes : List Bool
  lateSeen : List (Nat × Nat × Nat × Nat)
  dmg : List Nat
  /-- Children late in the running period (R211). -/
  lateNow : Nat
  /-- The last data period that each section finished (R337). -/
  lastBuilt : List Nat
  exc : List (List Exc)
  stuck : List (List Nat)
  /-- Train bytes built in the running period, by section (R212). -/
  built : List Nat
  /-- Pulse trains sent, data period of the latest, and those refused at UP queue 0 (R461). -/
  pulseSent : Nat
  digs : List RootDig
  /-- The period from which trains go to the new parent, after a re-attachment (R198). -/
  orphanFrom : Option Nat
  /-- Job, consist and period of contexts refused for an exhausted reservation (R181). -/
  shut : List (Nat × Nat × Nat)
  lastPulse : Nat
  pulseDrop : Nat
  deriving DecidableEq, Repr

/-! ## Jobs and images held by the TAU (chapters 5, 13) -/

/-- A job at the TAU (R399, R400): state 1 PROVISIONAL, 2 ACTIVE, 3 TEARDOWN, 4 HELD. `epochs` and `keys` list what takes effect from
which period, newest first; `streams` consist and retention key; `slots` the emission entries given to it, by die; `quota` the contexts it may reserve (R207); `rel` a RELEASE
that waits for the teardown (R405). -/
structure TauJob where
  handle : Nat
  st : Nat
  epochs : List (Nat × Nat)
  keys : List (Nat × Nat)
  tt : Nat
  streams : List (Nat × Nat)
  maps : List Nat
  ranges : List (Nat × Nat)
  effect : Nat
  slots : List (Nat × List Nat)
  quota : Nat
  rel : Bool
  deriving DecidableEq, Repr

/-- A timetable (R454): its id and payload. -/
structure Timetable where
  id : Nat
  bytes : List Byte
  deriving DecidableEq, Repr

/-- A pattern pack kept by the TAU (R297, R301): the payload, the tally by entry with counts A and B, and the tally as last sent. -/
structure TauPack where
  id : Nat
  ver : Nat
  bytes : List Byte
  tally : List (Nat × Nat × Nat)
  sent : List (Nat × Nat × Nat)
  deriving DecidableEq, Repr

/-- A node of a model: its 64-bit word (R247). A calibration table: output, CSCALE and points (R255). -/
structure Model where
  id : Nat
  digest : List Byte
  nout : Nat
  nfeat : Nat
  lscale : Int
  wmax : Nat
  types : List Nat
  bias : List Int
  trees : List Nat
  nodes : List Nat
  sets : List Nat
  cal : List (Nat × Int × List (Int × Int))
  name : Nat
  deriving DecidableEq, Repr

/-- A feature entry of a map (R256). -/
structure MapEnt where
  feature : Nat
  kind : Nat
  field : Nat
  elem : Nat
  fieldB : Nat
  elemB : Nat
  ftype : Nat
  s : Int
  deriving DecidableEq, Repr

/-- An output entry of a map (R266). -/
structure MapOut where
  thr : Int
  act : Nat
  sev : Nat
  template : Nat
  subj : Nat
  fill : Nat
  count : Nat
  holdoff : Nat
  deriving DecidableEq, Repr

/-- A feature map (R256). -/
structure FMap where
  id : Nat
  model : Nat
  consist : Nat
  perRank : Bool
  roles : Nat
  digest : List Byte
  ents : List MapEnt
  outs : List MapOut
  until_ : Option Nat
  deriving DecidableEq, Repr

/-- The images that the TAU holds (R171, R250, R259, R297, R452, R454), and the IMG_VER of each container by TYPE and id. -/
structure Library where
  consists : List Consist
  /-- Consists whose removal has committed: their coaches of earlier periods are still parsed (R173). -/
  ended : List Consist
  /-- The other images, by kind (R171, R250, R259, R297, R452). -/
  tts : List Timetable
  models : List (Option Model)
  maps : List FMap
  packs : List (Option TauPack)
  ucode : Option (List Byte)
  /-- IMG_VER of each container by TYPE and id (R454). -/
  vers : List (Nat × Nat × Nat)
  deriving DecidableEq, Repr

/-! ## Surveys, stragglers, drift and liveness at the TAU (chapter 7) -/

/-- A survey slot of the TAU (R224): state 1 DESCENDING, 2 ENDING. `here`: issued at this TAU; `pend`: children still pending;
`stored`: answers put into the ring; `pair`: the backup pair and copy that issued it (R231); `asked`: the job's in-scope ranks of each
child asked (R219). -/
structure TauSurvey where
  s : Survey
  here : Bool
  st : Nat
  pend : Nat
  nMatch : Nat
  nNo : Nat
  nRet : Nat
  nTmo : Nat
  nBusy : Nat
  nExcl : Nat
  nUnj : Nat
  eflags : Nat
  stored : Nat
  pair : Option (Nat × Nat)
  asked : List (Nat × Nat)
  deriving DecidableEq, Repr

/-- A kept period of a stream (R213, R214). -/
structure RetPer where
  job : Nat
  consist : Nat
  period : Nat
  summ : List Summ
  deriving DecidableEq, Repr

/-- The open window of a straggler unit (R226). `periods` lists its trains' periods with the value of TOPK's first entry. -/
structure StWin where
  step : Nat
  from_ : Nat
  min : Nat × Nat × Nat
  top : List (Nat × Nat × Nat)
  under : Nat
  above : Nat
  bkt : List (Nat × Nat)
  present : Nat
  expected : Nat
  lost : Bool
  periods : List (Nat × Option Nat)
  deriving DecidableEq, Repr

/-- A straggler unit (R226, R229): its window, the step of the window last opened, and the persistence table: rank,
history with bit 0 the latest, and whether PERSISTENT stands. -/
structure StUnit where
  win : Option StWin
  step : Option Nat
  pers : List (Nat × Nat × Bool)
  deriving DecidableEq, Repr

/-- A histogram with its total. -/
structure HistSum where
  under : Nat
  above : Nat
  bkt : List (Nat × Nat)
  deriving DecidableEq, Repr

/-- A drift unit (R232, R233): the running window and its trains so far, the smallest PRESENT, the reference, a capture that waits,
and the ranks above threshold or recently so, with the trains since. -/
structure DrUnit where
  sum : HistSum
  n : Nat
  present : Nat
  expected : Nat
  prev : Option HistSum
  base : Option HistSum
  cap : Bool
  above : List (Nat × Nat)
  /-- The last due period that a fleet unit has counted (R233). -/
  last : Option Nat
  deriving DecidableEq, Repr

/-- A backup pair (R231): its answers by copy, period and stamp, and the windows that wait for a missing copy: step, first and last
period, and the period in which each closed. -/
structure BkPair where
  on : Bool
  ans : List (Nat × Nat × Nat)
  wait : List (Nat × Nat × Nat × Nat)
  deriving DecidableEq, Repr

/-- A probe in flight (R239, R240): the child, its id, q, whether the job says DEAD, and the answers by link (0 A, 1 B; 0 for a
TAU), each with A_TX, A_RX, B_TX, B_RX. -/
structure Probe where
  child : Nat
  id : Nat
  q : Nat
  dead : Bool
  ans : List (Nat × List Nat)
  deriving DecidableEq, Repr

/-- One foresight rung (R242). `ok`: a coach arrived within the latest complete span. -/
structure Rung where
  newer : Option Int
  older : Option Int
  ok : Bool
  deriving DecidableEq, Repr

/-- What a TRAY TAU keeps of one child's foresight field (R242): the stream and the consist field it comes from, the latest value,
whether it came since each rung last moved, and the four rungs. -/
structure FsCell where
  child : Nat
  field : Nat
  stream : Nat
  src : Nat
  last : Option Int
  fresh : List Bool
  rungs : List Rung
  /-- The rungs as they stood after the latest boundaries, newest first (R260). -/
  past : List (List Rung)
  deriving DecidableEq, Repr

/-- Surveys, retained summaries, straggler, drift and backup units, liveness and foresight of a TAU. `run` and `lastProbe` by child
(R235); `acked`: a pulse acknowledgement came since the latest due boundary (R236); `views`: job, base, span and view of the
JOB_VIEW notices in force, newest first (R237). -/
structure SrvSt where
  slots : List (Option TauSurvey)
  seq : Nat
  ret : List RetPer
  st : List StUnit
  dr : List DrUnit
  bk : List BkPair
  run : List Nat
  lastProbe : List (Option Nat)
  probes : List Probe
  due : List Nat
  probeSeq : Nat
  acked : Bool
  parentRun : Nat
  lastAck : Nat
  views : List (Nat × Nat × Nat × Nat)
  fs : List FsCell
  deriving DecidableEq, Repr

/-! ## The tree engine (chapter 8) -/

/-- A bound map (R260): job, map, ensemble slot, and the periods in which it scores. -/
structure Bind where
  job : Nat
  map : Nat
  ens : Nat
  from_ : Nat
  until_ : Option Nat
  deriving DecidableEq, Repr

/-- A formed vector (R260, R261): its binding and context, the subject (a child, or none for AGGREGATE), the subject's rank, the
coverage its verdict states, its features (value and MISS), the subject rank that each output names, its deadline, and whether the
fill cut-off has passed it. -/
structure Vec where
  slot : Nat
  ens : Nat
  job : Nat
  consist : Nat
  period : Nat
  child : Option Nat
  rank : Nat
  present : Nat
  expected : Nat
  feats : List (Nat × Bool)
  subj : List Nat
  deadline : Nat
  cut : Bool
  deriving DecidableEq, Repr

/-- A host vector (R264): ensemble slot, tag, result address, its features. -/
structure HostVec where
  ens : Nat
  tag : Nat
  res : Nat
  feats : List (Nat × Bool)
  deriving DecidableEq, Repr

/-- The latest result of an ensemble's output in a section (R274). -/
structure OutStat where
  ens : Nat
  out : Nat
  raw : Int
  final : Int
  fire : Nat
  last : Nat
  deriving DecidableEq, Repr

/-- The KEEP fields of a child's latest coach of a bound stream (R260): field index and bytes. -/
structure KeepRow where
  job : Nat
  consist : Nat
  child : Nat
  vals : List (Nat × List Byte)
  deriving DecidableEq, Repr

/-- The tree engine: the KEEP fields kept for scoring, the period from which an ensemble is disabled (R273), map slots, and by section the formed vectors, host vectors, holdoff entries (ensemble, output, rank, expiry)
and output results; fence requests outstanding (id, ensemble, rank, job) and the last id given (R269). -/
structure TreeSt where
  keeps : List KeepRow
  ensOff : List (Option Nat)
  binds : List (Option Bind)
  q : List (List Vec)
  hv : List (List HostVec)
  hold : List (List (Nat × Nat × Nat × Nat))
  outs : List (List OutStat)
  fences : List (Nat × Nat × Nat × Nat)
  fenceSeq : Nat
  deriving DecidableEq, Repr

/-! ## Agreement, tap units and tallies (chapter 9) -/

/-- A tap unit of the TAU (R287, R288): its state, and what it has hashed. -/
structure TapUnit where
  st : Nat
  status : Nat
  point : Nat
  port : Nat
  job : Nat
  epoch : Nat
  m : TapMatch
  deadline : Nat
  acc : Nat
  n : Nat
  flits : Nat
  seen : Nat
  deriving DecidableEq, Repr

/-- Agreement and screening of the TAU: by unit, the pair of digests of the stream's previous train where it was split (R292); the
tap units; SCREEN_FAIL coaches forwarded in the running FT second (R302). -/
structure AgrSt where
  au : List (Option (Nat × Nat))
  tap : List TapUnit
  failUsed : Nat
  deriving DecidableEq, Repr

/-! ## Sidings (chapter 11) -/

/-- A posted siding (R360): its descriptor's offset, its buffer, the bytes written, the T64 of its first record, and whether a gap
was seen. -/
structure Siding where
  ofs : Nat
  base : Nat
  size : Nat
  fill : Nat
  t0 : Option Nat
  gap : Bool
  deriving DecidableEq, Repr

/-- A trace channel of a TRAY TAU (R360 to R362, R369): posted sidings, the current one first; sidings full of a CBLK still being
written; the expected OFS; bytes granted and not received; whether the next grant carries RESET_SEEN; the open CBLK's original with
the T64 of its first record and the period of its latest input; compressed bytes that wait for room, with the T64 of the first
record of a CBLK no byte of which has been written; the records that wait meanwhile, with their T64; and whether the channel was
switched off with its CBLK still to be written. -/
structure TraceCh where
  posted : List Siding
  full : List Siding
  expect : Nat
  granted : Nat
  fresh : Bool
  orig : List Byte
  origT : Nat
  idle : Nat
  wait : List Byte
  waitT : Option Nat
  more : List (Nat × List Byte)
  closing : Bool
  deriving DecidableEq, Repr

/-! ## Compression and cipher (chapter 12) -/

/-- A compression job as the engine read it (R376): what its descriptor and buffer descriptors say and the source bytes. Buffers are
the offset of the descriptor, base, size and fill. -/
structure CmpJob where
  op : Nat
  error : Bool
  host : Bool
  climit : Nat
  src : List Byte
  tag : Nat
  cpl : Nat
  bufs : List (Nat × Nat × Nat × Nat)
  deriving DecidableEq, Repr

/-- A context that is not FREE (R373 to R375). `user`: 0 host, 1 trace, 2 spill, 3 export; `ch`: the trace channel. For a host job:
its buffers, what is still to be written, what was written, its completion, whether it stopped, and the HBM bytes still to be
charged. -/
structure CmpCtx where
  user : Nat
  ch : Nat
  job : CmpJob
  todo : List Byte
  done : Nat
  inLen : Nat
  code : Nat
  detail : Nat
  raw : Bool
  crcOk : Bool
  crc : Nat
  stopped : Bool
  resumed : Bool
  owed : Nat
  /-- An encoder's blocks: the output byte from which each is written, and the original up to its end. -/
  ends : List (Nat × Nat)
  /-- Everything is written but the completion record and the FILLs. -/
  ending : Bool
  deriving DecidableEq, Repr

/-- The compression engine of a section: queued host jobs, the 24 contexts, and the bytes encoded and decoded below a KiB. -/
structure CmpSt where
  queue : List CmpJob
  ctxs : List (Option CmpCtx)
  encRem : Nat
  decRem : Nat
  /-- The context whose host job is served first at the next boundary (R374). -/
  turn : Nat
  deriving DecidableEq, Repr

/-- A key grant as taken (R381). -/
structure Grant where
  fleet : Nat
  site : Nat
  base : Nat
  epoch : Nat
  key : List Byte
  deriving DecidableEq, Repr

/-- A long-haul sender as an engine tracks it (R384): the highest counter accepted and the window of the 64 below it, bit i for
the counter i + 1 below. -/
structure LhSender where
  engine : Nat
  epoch : Nat
  sender : Nat
  high : Nat
  seen : Nat
  deriving DecidableEq, Repr

/-- A long-haul frame being packed (R378): its port, the peer it goes to, its records and the instant of the first. -/
structure Frame where
  port : Nat
  peer : Nat
  recs : List (List Byte)
  at_ : Nat
  deriving DecidableEq, Repr

/-- The cipher (R377 to R388): the grant in effect, the previous one with the period up to which it opens, the staged one; the next
counter by engine and purpose (1 where none is listed); long-haul senders; the last counter accepted of each management sender by
epoch; senders that failed in the running period, by engine; the periods of recent mismatches, by engine; whether the island
engine is disabled; frames being packed. -/
structure CipherSt where
  cur : Option Grant
  prev : Option (Grant × Nat)
  staged : Option Grant
  ctr : List (Nat × Nat × Nat)
  lh : List LhSender
  mgmt : List (Nat × Nat × Nat)
  failed : List (Nat × Nat)
  dup : List (Nat × Nat)
  islOff : Bool
  /-- Mismatches that await the next message an engine works on (R386). -/
  upset : List (Nat × Nat)
  frames : List Frame
  deriving DecidableEq, Repr

/-! ## Notices and maintenance (chapter 13) -/

/-- A notice (R391): kind, NID, EFFECT, acknowledgement deadline, REPLAY, whether this TAU refused it (R398), and body. -/
structure Notice where
  kind : Nat
  job : Nat
  epoch : Nat
  nseq : Nat
  effect : Nat
  dl : Nat
  replay : Bool
  refused : Bool
  body : List Byte
  deriving DecidableEq, Repr

/-- A notice being collected from its fragments (R391). -/
structure NtcGather where
  kind : Nat
  job : Nat
  epoch : Nat
  nseq : Nat
  nfrag : Nat
  effect : Nat
  dl : Nat
  replay : Bool
  frags : List (Nat × List Byte)
  deriving DecidableEq, Repr

/-- An acknowledgement record's contents (R396). -/
structure Ack where
  replay : Bool
  ovf : Bool
  job : Nat
  epoch : Nat
  nseq : Nat
  applied : Nat
  refused : Nat
  unreached : Nat
  code : Nat
  codeRank : Nat
  kind : Nat
  actual : Nat
  ranges : List (Nat × Nat)
  deriving DecidableEq, Repr

/-- An acknowledgement being merged (R396, R397): what is merged so far, the children that have not answered, the deadline, whether
the TAU's own part has been done, and the ranges of the job that the notice is for. -/
structure AckMerge where
  a : Ack
  pend : Nat
  dl : Nat
  own : Bool
  /-- The EFFECT that this TAU has still to meet, where it had no valid FT on receipt (R87). -/
  hold : Option Nat
  scope : List (Nat × Nat)
  deriving DecidableEq, Repr

/-- A status slot of an issuing TAU (R394, R398, R399): its number, the merged acknowledgement, the deadline, EFFECT, the job's
ranks, the ranges that resyncs have brought back, replayed acknowledgements by child (its base and span, and the ranks that they
count), whether the acknowledgement is complete, and whether what it calls for has been issued (R402, R405). -/
structure NtcSlot where
  ix : Nat
  a : Ack
  dl : Nat
  effect : Nat
  total : Nat
  back : List (Nat × Nat)
  acks : List (Nat × Nat × Nat)
  closed : Bool
  followed : Bool
  deriving DecidableEq, Repr

/-- A run of a pack on one die that a TRAY TAU holds as pending (R420): the notice's NID, pack and version, the due period and GRACE,
whether its due period has been met (R87), whether it has been ordered and is overdue, and the patterns not yet run. -/
structure PackRun where
  die : Nat
  epoch : Nat
  nseq : Nat
  pack : Nat
  ver : Nat
  due : Nat
  grace : Nat
  met : Bool
  sent : Bool
  above : Bool
  todo : List Nat
  deriving DecidableEq, Repr

/-- Notices at a TAU (R391 to R407): the last NID applied and the epochs known by handle; the codes kept, newest first; notices in
collection, held for a gap, logged, and accepted and waiting for their EFFECT; merges of acknowledgements; status slots oldest first,
the slots taken, and the last NSEQ issued by handle and epoch; the disablings in force: TYPE, id, job and period; pending runs. -/
structure NoticeSt where
  last : List (Nat × Nat × Nat)
  codes : List (Nat × Nat × Nat × Nat)
  gather : List NtcGather
  held : List Notice
  log : List Notice
  due : List Notice
  merge : List AckMerge
  slots : List NtcSlot
  nslot : Nat
  issued : List (Nat × Nat × Nat)
  /-- Handles whose next notice opens a new epoch, after a promotion (R24). -/
  reopen : List Nat
  /-- The disablings in force: TYPE, id, job and period (R407). -/
  off : List (Nat × Nat × Nat × Nat)
  /-- Pending pack runs (R408, R420). -/
  runs : List PackRun
  deriving DecidableEq, Repr

/-- A token (R408, R409): owner 0 tray host, 1 management port, 2 a notice, 3 FAULT. -/
structure Token where
  id : Nat
  cls : Nat
  target : Nat
  owner : Nat
  deriving DecidableEq, Repr

/-- A section's BIST (R416 to R418): mode, slices done, slices the run needs, abort asked, the periods of recent slices; the log of
failing bits; whether it passed since the section failed; rows and columns repaired, as instance and address. -/
structure BistSt where
  mode : Nat
  left : List (Bool × Nat)
  abort : Bool
  recent : List Nat
  log : List (Nat × Nat × Nat)
  passed : Bool
  rows : List (Nat × Nat)
  cols : List (Nat × Nat)
  deriving DecidableEq, Repr

/-- Duplicate address detection of one address (R323, RFC 4862): the instant of its solicitation, none where the port has no such
address, and whether another node was found to have it. -/
structure Dad where
  from_ : Option Nat
  dup : Bool
  deriving DecidableEq, Repr

/-- A datagram of a management port: destination, port there, DSCP, and bytes. -/
structure Datagram where
  dst : Nat
  dport : Nat
  dscp : Nat
  bytes : List Byte
  deriving DecidableEq, Repr

/-- A neighbor of a management port (R323, RFC 4861): whether its link-layer address is known and when that was last confirmed, when
the next solicitation is due and how many have gone unanswered, and the datagrams that wait for the address. -/
structure Nbr where
  port : Nat
  addr : Nat
  known : Bool
  heard : Option Nat
  next : Option Nat
  tries : Nat
  wait : List Datagram
  deriving DecidableEq, Repr

/-- Maintenance (R408 to R421): tokens; drains armed and committed returns, by section and period; the period of each section's and
the island's last guard kick; the island core restarting; BIST by section; the firmware banks' images, the armed switch and the
start of the trial; and the island part that the island core runs, with the one it ran before a trial. -/
structure MaintSt where
  tokens : List Token
  drains : List (Nat × Nat)
  returns : List Nat
  kicks : List Nat
  islBusy : Bool
  bist : List BistSt
  bankA : List Byte
  bankB : List Byte
  island : Option (List Byte)
  islandOld : Option (List Byte)
  switch : Option Nat
  trial : Option Nat
  /-- Duplicate address detection (R323) of the global and the link-local address of port 0, then of port 1. -/
  dad : List Dad
  nbrs : List Nbr
  deriving DecidableEq, Repr

/-! ## Bring-up (chapter 14) -/

/-- What a TRAY TAU keeps of a die index (R453 to R456): the DIE_ID that each link's HELLO gave, the writes that await a read
response (kind 1 the attach batch, 2 a proxied access), and job, epoch and NSEQ of rejoin records that await an acknowledgement.
`held`: the consists that the die has been given. -/
structure DieSlot where
  ids : List (Option Nat)
  held : List Nat
  rejoin : List (Nat × Nat × Nat)
  counted : Bool
  /-- Pattern packs that the die refused with BUSY (R297): PACK_ID, epoch and NSEQ of the notice, and whether it has been sent again. -/
  again : List (Nat × Nat × Nat × Bool)
  deriving DecidableEq, Repr

/-- An adoption that waits (R198): at the alternate, `up` once the own parent has been asked and `ok` once it has confirmed; `acked`
once firmware has accepted. The orphan's request as received and the link of its arrival. -/
structure Adopt where
  id : Nat
  up : Nat
  ok : Bool
  acked : Bool
  role : Nat
  base : Nat
  span : Nat
  ready : Nat
  counts : List (Nat × Nat)
  via : Option Nat
  deriving DecidableEq, Repr

/-- A fuse order that waits for its boundary (R446): FROM, TO, K_D and the hashes of slots 2 and 3. -/
structure FuseOrder where
  from_ : Nat
  to_ : Nat
  kd : List Byte
  h2 : List Byte
  h3 : List Byte
  deriving DecidableEq, Repr

/-- What the island keeps for its answers to probes while the main rails are down (R461): the parent, RANK_BASE, and PULSE_SENT,
LAST_PULSE and PULSE_DROP as they stood when the rails fell. -/
structure RailsKept where
  parent : Option Nat
  base : Nat
  sent : Nat
  last : Nat
  drop : Nat
  deriving DecidableEq, Repr

/-- Bring-up and attachment (R449 to R456, R471): the request in flight (id and whether it went to the alternate) and the last id
given; the period of an armed promotion; adoptions in progress; the proxied access in
flight (die, address, write); dies; the fuse order; `kept` while the main rails are down. -/
structure BootSt where
  req : Option (Nat × Bool)
  reqSeq : Nat
  promote : Option Nat
  adopts : List Adopt
  acc : Option (Nat × Nat × Bool)
  dies : List DieSlot
  order : Option FuseOrder
  auth : List (Nat × Nat × Nat)
  kept : Option RailsKept
  deriving DecidableEq, Repr

/-! ## The two blocks -/

/-- One-time fuses of a TAU (R379, R388, R426, R444). -/
structure TauFuses where
  lc : Nat
  devId : Nat
  slotValid : Nat
  slotHash : List (List Byte)
  fwMin : Nat
  kd : Option (List Byte)
  mac : Nat
  /-- Bit j: Flistan port FLj is carried by the long-haul engine (R62). -/
  lhPorts : Nat
  deriving DecidableEq, Repr

/-- The host die's fuses, as the TDU samples them at a TDU POR (R444, R487). -/
structure TduFuses where
  lc : Nat
  dieId : Nat
  deriving DecidableEq, Repr

/-- The aggregation unit. -/
structure Tau where
  ft : T64
  regs : RegFile
  fuses : TauFuses
  /-- ISL_PG and PG_MAIN (R477, R478). -/
  islPg : Bool
  main : Bool
  /-- Bit l: chip-to-chip link l is up (R32). -/
  links : Nat
  /-- Interrupts raised to the tray host in the running FT second (R101). -/
  intrUsed : Nat
  time : TimeSt
  eg : EgressSt
  rings : List Ring
  /-- Records of the running command, which have no SEQ yet (R31). -/
  recq : List RecReq
  scb : ScbSt
  jobs : List TauJob
  lib : Library
  srv : SrvSt
  tree : TreeSt
  agr : AgrSt
  chans : List TraceCh
  cmp : List CmpSt
  cip : CipherSt
  ntc : NoticeSt
  mnt : MaintSt
  boot : BootSt
  out : List Output
  free : Nat
  deriving DecidableEq, Repr

/-- The die unit. -/
structure Tdu where
  ft : T64
  regs : RegFile
  fuses : TduFuses
  time : DieTime
  emit : EmitSt
  cap : CaptureSt
  consists : List Consist
  jobs : List DieJob
  /-- Jobs that have ended here, newest first: a coach about an earlier period still carries their handle (R154). -/
  past : List DieJob
  tap : TapSt
  scr : ScreenSt
  trc : TraceSt
  srv : DieSurveySt
  ctl : DieCtl
  out : List Output
  free : Nat
  deriving DecidableEq, Repr

/-- The model's machine: one TAU, one TDU, and the commands that wait, first in, first out. -/
structure State where
  tau : Tau
  tdu : Tdu
  pending : List Instr
  deriving DecidableEq, Repr

/-! ## Reset -/

/-- A register file in which every field reads its reset value. -/
def RegFile.reset : RegFile := { cur := [], shd := [], bad := [], latch := [] }

/-- A source of which nothing has been heard (R42). -/
def Source.reset : Source :=
  { announced := false, barred := false, set := ⟨0, 0, 0, 0, 0, 0, 0, 0⟩, sync := none, t12 := none, owed := false, req := none, presp := none,
    mpd := none, seq := 0, filt := 0, outl := [], refused := none, back := 0, accepted := false }

/-- The timebase after a COLD reset: UNSET, with no source heard (R52, R53). -/
def TimeSt.reset : TimeSt :=
  { src := List.replicate 19 Source.reset, slew := 0, hold := 0, parentEb := 0, parentHo := false, parentPort := none,
    todArmed := none, todHi := 0, todKnown := false, ppsLast := none, ppsOk := false, accept := none,
    tev := List.replicate 4 { done := 0, next := none } }

/-- A die link that has not trained. VC_T starts with the whole of the far end's 16 KiB buffer (R307). -/
def DieLink.reset : DieLink := { up := false, d2 := none, echo := none, fresh := true, credit := 256 }

/-- The TDU's time after a TDU POR (R66). The reference input runs and the supplies are up (assumption 7). -/
def DieTime.reset : DieTime :=
  { link := [DieLink.reset, DieLink.reset], half := false, steer := 0, lastT := 0, lastEb := 0, discards := 0, gapLast := 0,
    gapCause := 0, gapHo := false, gapEb := 0, heard := 0, lostEvt := 0, lostSmp := 0, gapSpans := [], startHo := false, startEb := 0,
    startHoPrev := false, startEbPrev := 0, refFrac := 0, hoSeen := false, ebMax := 0, hoPrev := false, ebPrev := 0,
    clock := true, gated := false, vdd := true, por := true }

/-- Empty emission queues. -/
def EmitSt.reset : EmitSt :=
  { sched := [], unsched := [], gap := [], left := 0, busy := 0, paced := 0, sent := 0, resend := none, last := none,
    jobs := List.replicate 16 none, pseq := 0, seen := [], sc := [none, none, none, none], intrUsed := 0, memUsed := 0,
    credFrac := 0 }

/-- An empty egress port of `n` queues, with no debt. -/
def EgPort.reset (n : Nat) : EgPort :=
  { qs := List.replicate n [], v := 0, last := List.replicate n 0, credit := 0, upd := 0 }

/-- An empty DOWN port; the TDU gives each link 8 KiB of VC_T buffer (R307). -/
def DownPort.reset : DownPort :=
  { fifo := [], held := [], credit := 0, upd := 0, last := none }

/-- A link with the receiver's 8 KiB free (R307). -/
def VcLink.reset : VcLink := { credit := 128, wait := [], upd := 0 }

/-- Egress and meters with nothing queued. The buckets of every meter are full (R311). -/
def EgressSt.reset : EgressSt :=
  { up := EgPort.reset 8, sb := EgPort.reset 8, ex := EgPort.reset 4, down := List.replicate 64 DownPort.reset, vc := List.replicate 32 VcLink.reset,
    meter := List.replicate 64 { tc := 16384 * 128, tp := 65535 * 128, t := 0 }, floorRem := 0,
    sampMax := List.replicate 21 (0, 0), msg := [], tplSent := [], tplAt := 0,
    hbm := List.replicate 4 [0, 0, 0, 0], hbmHeld := [0, 0, 0, 0] }

/-- An empty recorder ring whose source numbers from 0 (R341). -/
def Ring.reset : Ring :=
  { recs := [], seq := 0, arr := 0, frz := none, spillOfs := 0, log := [], part := (0, 0), fullTo := 0, stopped := false }

/-- Fuses of a part before provisioning: state BLANK, nothing fused (assumption 5). -/
def TauFuses.reset : TauFuses :=
  { lc := 0, devId := 0, slotValid := 0, slotHash := List.replicate 4 (List.replicate 48 0), fwMin := 0, kd := none, mac := 0,
    lhPorts := 0 }

/-- The die's fuses as sampled: state BLANK, identifier 0 (assumption 5). -/
def TduFuses.reset : TduFuses := { lc := 0, dieId := 0 }

/-- An empty bank (R127). -/
def Bank.reset : Bank := { under := 0, above := 0, bkt := [], count := 0, sum := 0, min := 0, max := 0, drop := 0 }

/-- A histogram unit with nothing counted. -/
def HistUnit.reset : HistUnit := { live := Bank.reset, snap := Bank.reset, snapE := 0, held := [], queued := 0, cycle := 0 }

/-- Capture with every counter, bank and table empty. -/
def CaptureSt.reset : CaptureSt :=
  { cnt := List.replicate 80 0, inc := List.replicate 80 0, snapCnt := List.replicate 80 0, snapInc := List.replicate 80 0,
    written := List.replicate 64 0, stagedLo := List.replicate 64 0, samples := [], sensor := List.replicate 64 none,
    sensorSnap := List.replicate 64 none, armed := List.replicate 64 none, markQ := [], marks := [], markSnap := [], step := 0,
    stepPart := 0, open_ := [], phaseQ := [], phases := [], phaseSnap := [], phaseNext := [],
    hist := List.replicate 16 HistUnit.reset, tokens := [], retry := [none, none], slots := [], slotSnap := [],
    det := List.replicate 32 { a := 0, b := 0, ran := false }, detSnap := [], flagSnap := 0, digSnap := [], stretch := none, stretchStart := none, lagRun := 0,
    lagFrom := ⟨0, false, 0⟩, lagStall := 0, lagIssue := 0, expBlk := 0, evtWas := 0, evtNow := 0, lastRet := ⟨0, 0, false, false⟩,
    mirSeq := 0, mirRetry := false, sigTemp := 128, sigLoad := 0 }

/-- A filter that has never been armed. -/
def Filter.reset : Filter :=
  { st := 0, link := 0, dir := 0, m := ⟨0, 0, 0, 0, 0xFFFFFF, 0xFFFFFF, false⟩, status := 0, acc := 0, n := 0, flits := 0,
    deadline := 0, sid := 0, base := 0, level := 0, job := 0xFFFF, epoch := 0 }

/-- Taps with no key, no slot and nothing stored. -/
def TapSt.reset : TapSt :=
  { keys := [], res := [none, none, none, none], store := ⟨none, [], none⟩, filt := [Filter.reset, Filter.reset],
    flits := [0, 0, 0, 0] }

/-- Screening with no pack. -/
def ScreenSt.reset : ScreenSt := { packs := [none, none, none, none], slice := none, copied := none, waits := none }

/-- A trace that has not begun. -/
def TraceSt.reset : TraceSt :=
  { ring := [], wr := 0, la := 0, ctx := 0, priv := false, sec := false, started := false, lastTs := 0, sinceSync := 0,
    tsHo := false, tsGap := 0, excl := false, losing := none, lost := [], evicted := 0, post := 0, window := none, rst := false,
    auth := none }

/-- Eight free survey slots and an empty detail store. -/
def DieSurveySt.reset : DieSurveySt :=
  { slots := List.replicate 8 none, wait := [], kept := [], phAt := 0, mkAt := 0, phD := 0, mkD := 0, owed := 0 }

/-- Nothing collected and nothing pending. -/
def DieCtl.reset : DieCtl := { gather := [], due := [], outq := [], acked := [], half := [], last := [], held := [], owed := [], refVer := 0, refCode := 0 }

/-- Scoreboards with no child and no context. The pulse stream is reserved when the role is set (R207). -/
def ScbSt.reset : ScbSt :=
  { kids := List.replicate 64 none, streams := [], ctxs := [], hold := [], homes := [true, true, true, true], lateSeen := [],
    dmg := [], lateNow := 0, lastBuilt := [0, 0, 0, 0], exc := [[], [], [], []], stuck := [[], [], [], []], built := [0, 0, 0, 0], pulseSent := 0, digs := [], orphanFrom := none, shut := [], lastPulse := 0,
    pulseDrop := 0 }

/-- Nothing loaded. -/
def Library.reset : Library :=
  { consists := [], ended := [], tts := [], models := List.replicate 8 none, maps := [], packs := [none, none, none, none], ucode := none, vers := [] }

/-- A straggler unit that has seen nothing. -/
def StUnit.reset : StUnit := { win := none, step := none, pers := [] }

/-- A drift unit that has seen nothing. -/
def DrUnit.reset : DrUnit :=
  { sum := ⟨0, 0, []⟩, n := 0, present := 0, expected := 0, prev := none, base := none, cap := false, above := [], last := none }

/-- No survey, nothing retained, every child's counts at zero. -/
def SrvSt.reset : SrvSt :=
  { slots := List.replicate 64 none, seq := 0, ret := [], st := List.replicate 8 StUnit.reset,
    dr := List.replicate 16 DrUnit.reset, bk := List.replicate 16 { on := false, ans := [], wait := [] },
    run := List.replicate 64 0, lastProbe := List.replicate 64 none, probes := [], due := [], probeSeq := 0, acked := false,
    parentRun := 0, lastAck := 0, views := [], fs := [] }

/-- Nothing bound and nothing queued. -/
def TreeSt.reset : TreeSt :=
  { keeps := [], ensOff := List.replicate 8 none, binds := List.replicate 16 none, q := [[], [], [], []], hv := [[], [], [], []], hold := [[], [], [], []],
    outs := [[], [], [], []], fences := [], fenceSeq := 0 }

/-- A tap unit that has never been armed. -/
def TapUnit.reset : TapUnit :=
  { st := 0, status := 0, point := 0, port := 0, job := 0, epoch := 0, m := ⟨0, 0, 0, 0, 0xFFFFFF, 0xFFFFFF, false⟩, deadline := 0,
    acc := 0, n := 0, flits := 0, seen := 0 }

/-- No split remembered, every tap unit idle. -/
def AgrSt.reset : AgrSt :=
  { au := List.replicate 8 none, tap := List.replicate 8 TapUnit.reset, failUsed := 0 }

/-- A trace channel with nothing posted. -/
def TraceCh.reset : TraceCh :=
  { posted := [], full := [], expect := 0, granted := 0, fresh := false, orig := [], origT := 0, idle := 0, wait := [], waitT := none,
    more := [], closing := false }

/-- No job and every context FREE. -/
def CmpSt.reset : CmpSt := { queue := [], ctxs := List.replicate 24 none, encRem := 0, decRem := 0, turn := 0 }

/-- No key. -/
def CipherSt.reset : CipherSt :=
  { cur := none, prev := none, staged := none, ctr := [], lh := [], mgmt := [], failed := [], dup := [], islOff := false, upset := [],
    frames := [] }

/-- No notice known. -/
def NoticeSt.reset : NoticeSt :=
  { last := [], codes := [], gather := [], held := [], log := [], due := [], merge := [], slots := [], nslot := 0, issued := [], reopen := [], off := [],
    runs := [] }

/-- A section never tested. -/
def BistSt.reset : BistSt :=
  { mode := 0, left := [], abort := false, recent := [], log := [], passed := false, rows := [], cols := [] }

/-- An address that a port does not have. -/
def Dad.off : Dad := ⟨none, false⟩

/-- No token held, every section in service, no firmware. -/
def MaintSt.reset : MaintSt :=
  { tokens := [], drains := [], returns := [], kicks := [0, 0, 0, 0, 0], islBusy := false, bist := List.replicate 4 BistSt.reset,
    bankA := [], bankB := [], island := none, islandOld := none, switch := none, trial := none, dad := [Dad.off, ⟨some 0, false⟩, Dad.off, ⟨some 0, false⟩], nbrs := [] }

/-- Nothing attached and nothing asked. -/
def BootSt.reset : BootSt :=
  { req := none, reqSeq := 0, promote := none, adopts := [], acc := none,
    dies := List.replicate 16 { ids := [none, none], held := [], rejoin := [], counted := false, again := [] }, order := none, auth := [], kept := none }

/-- The TAU after the module input is first applied and the main rails have come up: a COLD reset (R447, R477, R478). -/
def Tau.reset : Tau :=
  { ft := 0, regs := RegFile.reset, fuses := TauFuses.reset, islPg := true, main := true, links := 0, intrUsed := 0,
    time := TimeSt.reset, eg := EgressSt.reset, rings := List.replicate 5 Ring.reset, recq := [],
    scb := ScbSt.reset, jobs := [], lib := Library.reset,
    srv := SrvSt.reset,
    tree := TreeSt.reset, agr := AgrSt.reset,
    chans := List.replicate 16 TraceCh.reset,
    cmp := List.replicate 4 CmpSt.reset, cip := CipherSt.reset,
    ntc := NoticeSt.reset, mnt := MaintSt.reset,
    boot := BootSt.reset,
    out := [], free := 0 }

/-- The TDU after a TDU POR (R447). -/
def Tdu.reset : Tdu :=
  { ft := 0, regs := RegFile.reset, fuses := TduFuses.reset, time := DieTime.reset, emit := EmitSt.reset,
    cap := CaptureSt.reset, consists := [], jobs := [], past := [],
    tap := TapSt.reset, scr := ScreenSt.reset, trc := TraceSt.reset, srv := DieSurveySt.reset, ctl := DieCtl.reset,
    out := [], free := 0 }

/-- The machine right after reset: every register at the manual's reset value, no command waiting. -/
def State.reset : State := { tau := Tau.reset, tdu := Tdu.reset, pending := [] }

/-- The same state with the TAU replaced by its image under `f`. -/
def State.onTau (f : Tau → Tau) (s : State) : State := { s with tau := f s.tau }

/-- The same state with the TDU replaced by its image under `f`. -/
def State.onTdu (f : Tdu → Tdu) (s : State) : State := { s with tdu := f s.tdu }

end Sys2Proof.Machine
end

