-- ==== Sys2Proof/Machine/Ops.lean ====
section
/-!
DEFINITION. The named operations over registers, counters, interrupts, error flags, the HBM ledger, the egress queues and the
recorder. Every meaning reads and writes the machine through them.
-/

namespace Sys2Proof.Machine

/-! ## Registers -/

/-- A port is one of the management ports. -/
def isMgmt : Port → Bool
  | .mgmt _ => true
  | _ => false

/-- The value a field instance reads (R12). -/
def RegFile.get (r : RegFile) (f : Fld) (i s : Nat) : Nat := (Store.find (f.key i s) r.cur).getD (f.resetAt i)

/-- The register file with a field instance holding `v`, cut to the field's width. -/
def RegFile.put (r : RegFile) (f : Fld) (i s v : Nat) : RegFile :=
  { r with cur := Store.put (f.key i s) (v % 2 ^ f.width) (f.resetAt i) r.cur }

/-- The shadow of an RWS field instance (R435). -/
def RegFile.getShadow (r : RegFile) (f : Fld) (i s : Nat) : Nat := (Store.find (f.key i s) r.shd).getD (f.resetAt i)

/-- The register file with the shadow of a field instance holding `v` (R435). -/
def RegFile.putShadow (r : RegFile) (f : Fld) (i s v : Nat) : RegFile :=
  { r with shd := Store.put (f.key i s) (v % 2 ^ f.width) (f.resetAt i) r.shd }

/-- A counter one event later: a field marked "saturating" stays at its largest value; for any other the manual states no value
there, and the model leaves it free. -/
def countUp (f : Fld) (i v n : Nat) : Nat :=
  if v + n < 2 ^ f.width then v + n
  else if f.sat then 2 ^ f.width - 1
  else Config.counterPast f.id i % 2 ^ f.width

/-- TAU: read a field. -/
def Tau.rd (x : Tau) (f : Fld) (i : Nat := 0) (s : Nat := 0) : Nat := x.regs.get f i s

/-- TAU: write a field. -/
def Tau.wr (x : Tau) (f : Fld) (v : Nat) (i : Nat := 0) (s : Nat := 0) : Tau := { x with regs := x.regs.put f i s v }

/-- TAU: count `n` events in a counter. -/
def Tau.bumpBy (x : Tau) (f : Fld) (n : Nat) (i : Nat := 0) (s : Nat := 0) : Tau :=
  if n = 0 then x else x.wr f (countUp f i (x.rd f i s) n) i s

/-- TAU: count one event in a counter. -/
def Tau.bump (x : Tau) (f : Fld) (i : Nat := 0) (s : Nat := 0) : Tau := x.wr f (countUp f i (x.rd f i s) 1) i s

/-- TDU: read a field. -/
def Tdu.rd (d : Tdu) (f : Fld) (i : Nat := 0) : Nat := d.regs.get f i 0

/-- TDU: write a field. -/
def Tdu.wr (d : Tdu) (f : Fld) (v : Nat) (i : Nat := 0) : Tdu := { d with regs := d.regs.put f i 0 v }

/-- TDU: count `n` events in a counter. -/
def Tdu.bumpBy (d : Tdu) (f : Fld) (n : Nat) (i : Nat := 0) : Tdu :=
  if n = 0 then d else d.wr f (countUp f i (d.rd f i) n) i

/-- TDU: count one event in a counter. -/
def Tdu.bump (d : Tdu) (f : Fld) (i : Nat := 0) : Tdu := d.wr f (countUp f i (d.rd f i) 1) i

/-- The TAU's FT in ticks. -/
def Tau.now (x : Tau) : Nat := x.ft.toNat

/-- The TAU's current period. -/
def Tau.per (x : Tau) : Nat := x.ft.toNat / 2 ^ 18

/-- The TDU's FT in ticks. -/
def Tdu.now (d : Tdu) : Nat := d.ft.toNat

/-- The TDU's current period. -/
def Tdu.per (d : Tdu) : Nat := d.ft.toNat / 2 ^ 18

/-- TAU: emit. -/
def Tau.emitOut (x : Tau) (o : Output) : Tau := { x with out := o :: x.out }

/-- TDU: emit. -/
def Tdu.emitOut (d : Tdu) (o : Output) : Tdu := { d with out := o :: d.out }

/-- TAU: a free value below `n`, and the state that has used it up. -/
def Tau.pick (x : Tau) (n : Nat) : Nat × Tau := (Config.freeNat x.free % n, { x with free := x.free + 1 })

/-- A number below `n` that the TAU chooses among those not in use: a free choice, moved on past the numbers in use (assumption 3). -/
def Tau.freshId (x : Tau) (n : Nat) (used : List Nat) : Nat × Tau :=
  let k := (x.pick n).1
  let l := (List.range (used.length + 1)).map fun j => (k + j) % n
  ((l.find? fun i => !used.contains i).getD k, (x.pick n).2)

/-- TDU: a free value below `n`, and the state that has used it up. -/
def Tdu.pick (d : Tdu) (n : Nat) : Nat × Tdu := (Config.freeNat d.free % n, { d with free := d.free + 1 })

/-- A 64-bit value held as a low and a high register. -/
def Tau.rd64 (x : Tau) (lo hi : Fld) (i : Nat := 0) (s : Nat := 0) : Nat := x.rd lo i s + 2 ^ 32 * x.rd hi i s

/-- Write a 64-bit value as a low and a high register. -/
def Tau.wr64 (x : Tau) (lo hi : Fld) (v : Nat) (i : Nat := 0) (s : Nat := 0) : Tau :=
  (x.wr lo (v % 2 ^ 32) i s).wr hi (v / 2 ^ 32) i s

/-- A 64-bit value held as a low and a high register. -/
def Tdu.rd64 (d : Tdu) (lo hi : Fld) (i : Nat := 0) : Nat := d.rd lo i + 2 ^ 32 * d.rd hi i

/-- Write a 64-bit value as a low and a high register. -/
def Tdu.wr64 (d : Tdu) (lo hi : Fld) (v : Nat) (i : Nat := 0) : Tdu := (d.wr lo (v % 2 ^ 32) i).wr hi (v / 2 ^ 32) i

/-! ## Roles, states and completion codes -/

/-- Completion codes (R472). -/
def Code.done : Nat := 0x00
def Code.capacity : Nat := 0x01
def Code.fit : Nat := 0x02
def Code.quota : Nat := 0x03
def Code.lifecycle : Nat := 0x04
def Code.busy : Nat := 0x05
def Code.aborted : Nat := 0x06
def Code.stale : Nat := 0x07
def Code.timeJump : Nat := 0x08
def Code.signature : Nat := 0x09
def Code.overrun : Nat := 0x0A
def Code.short : Nat := 0x0B
def Code.illegal : Nat := 0x0C
def Code.distance : Nat := 0x0D
def Code.mismatch : Nat := 0x0E
def Code.incompressible : Nat := 0x0F
def Code.overdue : Nat := 0x10

/-- The role, once set (R19): 0 TRAY, 1 ROW, 2 SITE, 3 ROOT, 4 FEDERATION. -/
def Tau.role (x : Tau) : Nat := x.rd Reg.GEN_ROLE_CFG_ROLE

/-- The role has been written (R19). -/
def Tau.roleSet (x : Tau) : Bool := x.rd Reg.GEN_ROLE_CFG_SET == 1

/-- The role is set and is TRAY. -/
def Tau.isTray (x : Tau) : Bool := x.roleSet && x.role == 0

/-- A standby ROOT (R23). -/
def Tau.isStandby (x : Tau) : Bool := x.roleSet && x.role == 3 && x.rd Reg.GEN_ROLE_CFG_STANDBY == 1

/-- RANK_BASE of this TAU (R211). -/
def Tau.base (x : Tau) : Nat := x.rd Reg.SCB_RANK_BASE

/-- Island and main rails are up, so the sections and the register block run (R478). -/
def Tau.on (x : Tau) : Bool := x.islPg && x.main

/-- Section state (R413): 0 IN, 1 DRAINING, 2 OUT, 3 FAILED. -/
def Tau.secState (x : Tau) (s : Nat) : Nat := bits (x.rd Reg.MNT_SEC_STATE) (2 * s) 2

/-- Section s is in service: IN, or still finishing its window (R413). -/
def Tau.inService (x : Tau) (s : Nat) : Bool := x.on && decide (x.secState s < 2)

/-- Links and streams are homed to section `s`, and it has its share of what sections share (R35, R102). -/
def Tau.homed (x : Tau) (s : Nat) : Bool := x.scb.homes.getD s false

/-- Section `s` has failed and what was homed to it has not moved yet: until the boundary it takes nothing (R36, R201). -/
def Tau.dead (x : Tau) (s : Nat) : Bool := x.secState s == 3 && x.homed s

/-- The sections in service, in ascending order. -/
def Tau.sections (x : Tau) : List Nat := (List.range 4).filter x.inService

/-- The section that writes on behalf of the whole TAU: the lowest-numbered in service (assumption 8). -/
def Tau.anySec (x : Tau) : Nat := x.sections.headD 0

/-- FT is in holdover: HOLDOVER or REFUSING (R52). -/
def Tau.holdover (x : Tau) : Bool := decide (2 ≤ x.rd Reg.TIME_TIME_STATE_STATE)

/-- The timebase is UNSET (R53). -/
def Tau.unset (x : Tau) : Bool := x.rd Reg.TIME_TIME_STATE_STATE == 0

/-! ## Interrupts (R99, R101, R473, R474) -/

/-- Raise one interrupt to the tray host for a mask of causes, under the cap of R101. -/
def Tau.interrupt (x : Tau) (mask : Nat) : Tau :=
  if mask = 0 then x
  else if x.intrUsed < x.rd Reg.TTB_HOST_INTR_CAP then
    { x with intrUsed := x.intrUsed + 1, out := .intr mask :: x.out }
  else
    (x.wr Reg.TTB_HOST_INTR_PEND (Nat.lor (x.rd Reg.TTB_HOST_INTR_PEND) mask)).bump Reg.TTB_HOST_INTR_REF_CNT

/-- Raise cause `c` of GEN.INTR (R473). -/
def Tau.raise (x : Tau) (c : Nat) : Tau :=
  let x' := x.wr Reg.GEN_INTR_STAT (Nat.lor (x.rd Reg.GEN_INTR_STAT) (2 ^ c))
  if (x.rd Reg.GEN_INTR_EN).testBit c then x'.interrupt (2 ^ c) else x'

/-- Raise one interrupt to the die host for a mask of causes, under the cap of R99. -/
def Tdu.interrupt (d : Tdu) (mask : Nat) : Tdu :=
  if mask = 0 then d
  else if d.emit.intrUsed < d.rd Reg.TEMIT_INTR_CAP then
    { d with emit := { d.emit with intrUsed := d.emit.intrUsed + 1 }, out := .intr mask :: d.out }
  else
    (d.wr Reg.TEMIT_INTR_PEND (Nat.lor (d.rd Reg.TEMIT_INTR_PEND) mask)).bump Reg.TEMIT_INTR_REFUSED_CNT

/-- TDU_INTR is high: an enabled cause is raised (R487), other than one whose interrupt the cap of R99 refused (assumption 68). -/
def Tdu.intrLine (d : Tdu) : Bool :=
  let on := Nat.land (d.rd Reg.TGEN_INTR_STAT) (d.rd Reg.TGEN_INTR_EN)
  d.time.por && on != Nat.land on (d.rd Reg.TEMIT_INTR_PEND)

/-- TDU_INTR, pin 64, follows what has changed since the state `d0` (R487). -/
def Tdu.drive (d d0 : Tdu) : Tdu :=
  if d.intrLine = d0.intrLine then d else d.emitOut (.pin 64 d.intrLine d.now)

/-- What a write of registers does to TDU_INTR (R99, R487): a raised cause that it enables interrupts. -/
def Tdu.driveWritten (d d0 : Tdu) : Tdu :=
  let en := d.rd Reg.TGEN_INTR_EN
  (d.interrupt (Nat.land (d.rd Reg.TGEN_INTR_STAT) (en - Nat.land en (d0.rd Reg.TGEN_INTR_EN)))).drive d0

/-- Raise cause `c` of TGEN.INTR (R474): 0 OVF, 1 DETECTOR, 2 TEST_OVERDUE, 3 PAGE_ERR. -/
def Tdu.raise (d : Tdu) (c : Nat) : Tdu :=
  let d' := d.wr Reg.TGEN_INTR_STAT (Nat.lor (d.rd Reg.TGEN_INTR_STAT) (2 ^ c))
  (if (d.rd Reg.TGEN_INTR_EN).testBit c then d'.interrupt (2 ^ c) else d').drive d

/-! ## The HBM ledger (R101, R102) -/

/-- The share of an amount per period that section `s` gets: an equal split among the sections with links, the remainder to the
lowest-numbered. It changes at the boundary at which links re-home (R102). -/
def Tau.hbmShare (x : Tau) (s total : Nat) : Nat :=
  let l := (List.range 4).filter x.homed
  if !x.on || !x.homed s then 0 else total / l.length + (if l.head? = some s then total % l.length else 0)

/-- The reservation of class `c` in section `s`, in bytes per period (R102): an equal part of the class's reservation among the
sections with links; a remainder is reserved nowhere (DESIGN CHOICE; assumption 71). -/
def Tau.hbmRsv (x : Tau) (s c : Nat) : Nat :=
  let f := match c with
    | 0 => Reg.TTB_HBM_RSV_SUMMARY | 1 => Reg.TTB_HBM_RSV_SIDING | 2 => Reg.TTB_HBM_RSV_RECORDER | _ => Reg.TTB_HBM_RSV_EXPORT
  if !x.on || !x.homed s then 0 else x.rd f * 65536 / ((List.range 4).filter x.homed).length

/-- Whether `n` more bytes of class `c` fit in section `s`'s allowance of this period (R102). -/
def Tau.hbmFits (x : Tau) (s c n : Nat) : Bool :=
  let used := x.eg.hbm.getD s []
  let above (k : Nat) : Nat := (used.getD k 0 + (if k = c then n else 0)) - x.hbmRsv s k
  let rsv := x.hbmRsv s 0 + x.hbmRsv s 1 + x.hbmRsv s 2 + x.hbmRsv s 3
  let free := x.hbmShare s (x.rd Reg.TTB_HBM_QUOTA * 65536) - rsv
  decide (used.getD c 0 + n ≤ x.hbmRsv s c) || decide (above 0 + above 1 + above 2 + above 3 ≤ free)

/-- The refusal counter of an HBM class (R103). -/
def hbmRefCnt : Nat → Fld
  | 0 => Reg.TTB_HBM_REF_CNT0
  | 1 => Reg.TTB_HBM_REF_CNT1
  | 2 => Reg.TTB_HBM_REF_CNT2
  | _ => Reg.TTB_HBM_REF_CNT3

/-- Charge `n` bytes of class `c` to section `s`: the state after, and whether the quota granted it (R102). -/
def Tau.hbmCharge (x : Tau) (s c n : Nat) : Tau × Bool :=
  if x.hbmFits s c n then
    ({ x with eg := { x.eg with hbm := modifyAt (modifyAt (· + n) c) s x.eg.hbm } }, true)
  else (x.bump (hbmRefCnt c) (s := s), false)

/-- A period ends: what each section used of the HBM bandwidth shows, and the windows start again (R101 to R103). -/
def Tau.hbmBoundary (x : Tau) : Tau :=
  let x := forIdx 4 (fun s x =>
    let n := (x.eg.hbm.getD s []).foldl (· + ·) 0
    let x := x.wr Reg.TTB_HBM_USED n (s := s)
    if x.rd Reg.TTB_HBM_HWM (s := s) < n then x.wr Reg.TTB_HBM_HWM n (s := s) else x) x
  { x with eg := { x.eg with hbm := List.replicate 4 [0, 0, 0, 0] } }

/-- Hold `n` bytes of the HBM partition allocated for class `c`: the state after, and whether the capacity allowed it (R101). -/
def Tau.hbmAlloc (x : Tau) (s c n : Nat) : Tau × Bool :=
  if x.eg.hbmHeld.foldl (· + ·) 0 + n ≤ x.rd Reg.TTB_HBM_PART * 2 ^ 30 then
    ({ x with eg := { x.eg with hbmHeld := modifyAt (· + n) c x.eg.hbmHeld } }, true)
  else (x.bump (hbmRefCnt c) (s := s), false)

/-- Give back `n` allocated bytes of class `c` (R101). -/
def Tau.hbmFree (x : Tau) (c n : Nat) : Tau :=
  { x with eg := { x.eg with hbmHeld := modifyAt (· - n) c x.eg.hbmHeld } }

/-! ## Egress queues and shapers (R314 to R320) -/

/-- The bytes a queue holds. -/
def qBytes (q : List QRec) : Nat := q.foldl (fun n r => n + r.bytes.length) 0

/-- a − b, compared modulo 2^48 as a signed value: a is later than b (R316). -/
def laterTag (a b : Nat) : Bool := decide (0 < signed 48 (a + 2 ^ 48 - b % 2 ^ 48))

/-- A credit after `dt` ticks at `r` units per tick (R317). -/
def creditAfter (r dt : Nat) (empty : Bool) (c : Int) : Int :=
  if empty then (if 0 < c then 0 else min 0 (c + (r * dt : Nat))) else c + (r * dt : Nat)

/-- A port's credit brought up to the present (R317). -/
def EgPort.settle (r now : Nat) (p : EgPort) : EgPort :=
  { p with credit := creditAfter r (now - p.upd) (p.qs.all List.isEmpty) p.credit, upd := now }

/-- A record joins queue `q` with the weight `w` of its class (R316). -/
def EgPort.push (w now q tpl : Nat) (dst : Option Nat) (r : List Byte) (p : EgPort) : EgPort :=
  let f := p.last.getD q 0
  let s := if laterTag f p.v then f else p.v
  let tag := (s + r.length * 65536 / w) % 2 ^ 48
  if w = 0 then { p with qs := modifyAt (· ++ [⟨r, none, now, tpl, dst⟩]) q p.qs }
  else { p with qs := modifyAt (· ++ [⟨r, some tag, now, tpl, dst⟩]) q p.qs, last := modifyAt (fun _ => tag) q p.last }

/-- The queue that fair queueing serves next (R316): the least tag among tagged heads, the lower queue on equal tags; with no
tagged head, the lowest queue whose head is untagged. -/
def EgPort.choice (p : EgPort) : Option Nat :=
  let tagged := (List.range p.qs.length).filterMap fun q =>
    match (p.qs.getD q []).head? with
    | some ⟨_, some t, _, _, _⟩ => some (q, t)
    | _ => none
  match tagged with
  | [] => firstIdx (fun q => !q.isEmpty) p.qs
  | a :: r => some (r.foldl (fun b c => if laterTag b.2 c.2 then c else b) a).1

/-- Take the head of queue `q` (R316): the record, and the port after it. -/
def EgPort.take (q : Nat) (p : EgPort) : Option (QRec × EgPort) :=
  match p.qs.getD q [] with
  | [] => none
  | r :: rest =>
    let p := { p with qs := modifyAt (fun _ => rest) q p.qs, v := r.tag.getD p.v }
    some (r, if p.qs.all List.isEmpty then { p with v := 0, last := p.last.map (fun _ => 0) } else p)

/-- Largest record of UP, STANDBY and DOWN (R314). -/
def shMaxRec : Nat := 4096

/-- A bypass charge of `l` bytes against a credit (R319): the credit after, and the part forgiven, in 2^-7 byte. -/
def bypassCharge (l : Nat) (c : Int) : Int × Nat :=
  let c' := c - (128 * l : Nat)
  let floor : Int := -(128 * shMaxRec : Nat)
  if c' < floor then (floor, (floor - c').toNat) else (c', 0)

/-- Add forgiven credit to the floor count, in whole bytes, keeping the remainder (R319). -/
def Tau.forgive (x : Tau) (n : Nat) : Tau :=
  let sum := x.eg.floorRem + n
  ({ x with eg := { x.eg with floorRem := sum % 128 } }).bumpBy Reg.SHP_SH_FLOOR_CNT (sum / 128)

/-- Offer a record for `dst`, or for the current parent, to queue `q` of UP (R314, R315): the state after, and whether it was taken. -/
def Tau.sendUpTo (x : Tau) (dst : Option Nat) (q : Nat) (yellow : Bool) (r : List Byte) : Tau × Bool :=
  let p := x.eg.up.settle (x.rd Reg.SHP_UP_RATE) x.now
  let depth := qBytes (p.qs.getD q [])
  let x := { x with eg := { x.eg with up := p } }
  if x.rd Reg.SHP_Q_LIM q * 1024 < depth + r.length then (x.bump Reg.SHP_Q_DROP_CNT q, false)
  else if yellow && decide (x.rd Reg.SHP_Q_YEL q * 1024 ≤ depth) then (x.bump Reg.SHP_Q_YDROP_CNT q, false)
  else ({ x with eg := { x.eg with up := p.push (x.rd Reg.SHP_Q_W q) x.now q 0 dst r } }, true)

/-- Offer a record for the current parent to queue `q` of UP. -/
def Tau.sendUp (x : Tau) (q : Nat) (yellow : Bool) (r : List Byte) : Tau × Bool := x.sendUpTo none q yellow r

/-- Offer a record to queue `q` of STANDBY (R314, R315). -/
def Tau.sendStandby (x : Tau) (q : Nat) (yellow : Bool) (r : List Byte) : Tau :=
  let p := x.eg.sb.settle (x.rd Reg.SHP_SB_RATE) x.now
  let depth := qBytes (p.qs.getD q [])
  let x := { x with eg := { x.eg with sb := p } }
  if x.rd Reg.SHP_Q_LIM q * 1024 < depth + r.length || (yellow && decide (x.rd Reg.SHP_Q_YEL q * 1024 ≤ depth)) then
    x.bump Reg.SHP_SB_DROP_CNT q
  else { x with eg := { x.eg with sb := p.push (x.rd Reg.SHP_Q_W q) x.now q 0 none r } }

/-- A DOWN port's credit brought up to the present (R317). -/
def DownPort.settle (r now : Nat) (p : DownPort) : DownPort :=
  { p with credit := creditAfter r (now - p.upd) p.fifo.isEmpty p.credit, upd := now }

/-- Move held records into a DOWN FIFO while it has room (R315). -/
def DownPort.letIn (now : Nat) : Nat → DownPort → DownPort
  | 0, p => p
  | n + 1, p =>
    match p.held with
    | [] => p
    | r :: rest =>
      if qBytes p.fifo + r.length ≤ 16384 then
        DownPort.letIn now n { p with fifo := p.fifo ++ [⟨r, none, now, 0, none⟩], held := rest }
      else p

/-- The links of die `d` that are up, link A first (R32). -/
def Tau.dieLinks (x : Tau) (d : Nat) : List Nat := [d, d + 16].filter (x.links.testBit ·)

/-! ## VC_T towards the dies (R307) -/

/-- VC_T credits that a record takes. -/
def vcUnits (r : List Byte) : Nat := ceilDiv r.length 64

/-- VC_T of a link. -/
def Tau.vc (x : Tau) (l : Nat) : VcLink := x.eg.vc.getD l VcLink.reset

/-- The state with VC_T of one link changed. -/
def Tau.setVc (x : Tau) (l : Nat) (f : VcLink → VcLink) : Tau := { x with eg := { x.eg with vc := modifyAt f l x.eg.vc } }

/-- The instant from which the shaper of a DOWN port permits a start (R317). -/
def DownPort.ready (r : Nat) (p : DownPort) : Nat := if p.credit < 0 then p.upd + ceilDiv p.credit.natAbs r else p.upd

/-- The instant since which flits wait on link `l` with no credit for them: those of the first record past the queues, else of the
head of the FIFO that the link serves. Ticks before `upd` are counted already. -/
def Tau.vcHeld (x : Tau) (l : Nat) : Option Nat :=
  let v := x.vc l
  match v.wait with
  | (t, r) :: _ => if v.credit < vcUnits r then some (Nat.max v.upd t) else none
  | [] =>
    let p := x.eg.down.getD (l % 16) DownPort.reset
    match p.fifo, (x.dieLinks (l % 16)).head? == some l with
    | e :: _, true =>
      if v.credit < vcUnits e.bytes then some (Nat.max (Nat.max v.upd e.at_) (p.ready (x.rd Reg.SHP_DN_RATE))) else none
    | _, _ => none

/-- Ticks in which flits have waited on link `l` without credit and which SHP.VC_STALL_CNT does not count yet. -/
def Tau.vcTicks (x : Tau) (l : Nat) : Nat := match x.vcHeld l with | some t => x.now - t | none => 0

/-- Count them, before anything on the link changes. -/
def Tau.vcCount (x : Tau) (l : Nat) : Tau :=
  (x.bumpBy Reg.SHP_VC_STALL_CNT (x.vcTicks l)).setVc l fun v => { v with upd := x.now }

/-- Count them on the link that serves child `c`, before its DOWN port changes. -/
def Tau.vcNow (x : Tau) (c : Nat) : Tau :=
  match x.isTray, x.dieLinks c with
  | true, l :: _ => x.vcCount l
  | _, _ => x

/-- Send a record down to child `c`: into its FIFO, or held by its source until the FIFO has room (R314, R315). -/
def Tau.sendDown (x : Tau) (c : Nat) (r : List Byte) : Tau :=
  let x := x.vcNow c
  let p := (x.eg.down.getD c DownPort.reset).settle (x.rd Reg.SHP_DN_RATE) x.now
  let full := !p.held.isEmpty || decide (16384 < qBytes p.fifo + r.length)
  let p' := if full then { p with held := p.held ++ [r] } else { p with fifo := p.fifo ++ [⟨r, none, x.now, 0, none⟩] }
  let x := { x with eg := { x.eg with down := modifyAt (fun _ => p') c x.eg.down } }
  if full then x.bump Reg.SHP_DN_FULL_CNT else x

/-- Send on a link the records past the queues for which it has credit, oldest first. -/
def Tau.vcFlush : Nat → Nat → Tau → Tau
  | 0, _, x => x
  | n + 1, l, x =>
    match (x.vc l).wait with
    | (_, r) :: rest =>
      if vcUnits r ≤ (x.vc l).credit then
        Tau.vcFlush n l ((x.setVc l fun v => { v with credit := v.credit - vcUnits r, wait := rest }).emitOut (.vct l r))
      else x
    | [] => x

/-- Offer a record past the queues to link `l`: it goes, or waits for credit. -/
def Tau.vcOffer (x : Tau) (l : Nat) (r : List Byte) : Tau :=
  Tau.vcFlush 1 l ((x.vcCount l).setVc l fun v => { v with wait := v.wait ++ [(x.now, r)] })

/-- A record of `n` bytes has been taken from link `l`: its credits go back to the die. -/
def Tau.vcReturn (x : Tau) (l n : Nat) : Tau := x.emitOut (.credit l (ceilDiv n 64))

/-- A record of `n` bytes has come from child `c`: over VC_T where the child is a die. -/
def Tau.vcFrom (x : Tau) (c n : Nat) : Tau :=
  match x.isTray, x.dieLinks c with
  | true, l :: _ => x.vcReturn l n
  | _, _ => x

/-! ## Export records (R328 to R330) -/

/-- observationTimeNanoseconds of a T64 (R330). -/
def ntpTime (utc t : Nat) : Nat :=
  (t / 4000000000 + 2208988800 + 2 ^ 32 - utc % 2 ^ 32) % 2 ^ 32 * 2 ^ 32 + t % 4000000000 * 2 ^ 32 / 4000000000

/-- A variable-length field with its 1-byte or 3-byte length prefix (R326). -/
def ipfixVar (b : List Byte) : List Byte :=
  if b.length < 255 then leBytes 1 b.length ++ b else (255 : Byte) :: beBytes 2 b.length ++ b

/-- Put bytes into EXPORT queue `e`, charged in section `s`, within the queue's limit and the quota (R315): the state after, and whether
they were taken. -/
def Tau.exportPut (x : Tau) (s e tpl : Nat) (r : List Byte) : Tau × Bool :=
  let p := x.eg.ex.settle (x.rd Reg.SHP_EXP_RATE) x.now
  if x.rd Reg.SHP_EXQ_LIM e * 2 ^ 20 < qBytes (p.qs.getD e []) + r.length then (x.bump Reg.SHP_EXQ_DROP_CNT e, false)
  else match x.hbmCharge s 3 r.length with
    | (x, false) => (x.bump Reg.SHP_EXQ_DROP_CNT e, false)
    | (x, true) => ({ x with eg := { x.eg with ex := p.push (x.rd Reg.SHP_EXQ_W e) x.now e tpl none r } }, true)

/-- Offer one Data Record of template `tpl` to EXPORT queue `e` (R315, R329): the state after, and whether it was taken. The
record begins with observationTimeNanoseconds and tlT64 of `t`. -/
def Tau.exportRec (x : Tau) (s e tpl t : Nat) (body : List Byte) : Tau × Bool :=
  if x.rd Reg.MGMT_EXP_CTRL_EN = 0 || !x.on then (x, true)
  else x.exportPut s e tpl (beBytes 8 (ntpTime (x.rd Reg.TIME_PTP_CFG_UTC_OFFSET) t) ++ beBytes 8 t ++ body)

/-! ## The recorder (R336 to R341) -/

/-- Bytes a ring holds (R340). -/
def Ring.used (g : Ring) : Nat := g.recs.foldl (fun n r => n + r.bytes.length) 0

/-- The unpinned record that R340 evicts next among severities up to `s`: lowest severity, then oldest. -/
def victim (s : Nat) (l : List Rec) : Option Nat :=
  (l.filter fun r => !r.pinned && decide (r.sev ≤ s)).foldl
    (fun b r => match b with
      | none => some (r.sev, r.idx)
      | some (v, i) => if r.sev < v then some (r.sev, r.idx) else some (v, i)) none |>.map (·.2)

/-- Evict one record at a time until `need` bytes are free in `cap` (R340): the ring, the number evicted and how many of them
were not spilled. -/
def Ring.evict (cap need s : Nat) : Nat → Ring → Ring × Nat × Nat
  | 0, g => (g, 0, 0)
  | n + 1, g =>
    if g.used + need ≤ cap then (g, 0, 0)
    else match victim s g.recs with
      | none => (g, 0, 0)
      | some i =>
        let lost := (g.recs.filter fun r => r.idx == i && !r.spilled).length
        let (g', k, u) := Ring.evict cap need s n { g with recs := g.recs.filter fun r => r.idx != i }
        (g', k + 1, u + lost)

/-- What a ring did with a record. -/
structure Stored where
  ring : Ring
  dropped : Bool
  /-- Dropped only because pinned records hold the space (R344). -/
  pinned : Bool
  evicted : Nat
  unspilled : Nat

/-- Offer a record to a ring of `cap` bytes (R340). -/
def Ring.store (cap : Nat) (r : Rec) (g : Ring) : Stored :=
  let need := r.bytes.length
  let own (p : Bool) := (g.recs.filter fun q => (p || !q.pinned) && decide (q.sev ≤ r.sev)).foldl (fun n q => n + q.bytes.length) 0
  if cap < g.used + need - own false ∧ ¬ g.used + need ≤ cap then
    ⟨g, true, decide (g.used + need - own true ≤ cap), 0, 0⟩
  else
    let (g, k, u) := g.evict cap need r.sev g.recs.length
    ⟨{ g with recs := g.recs ++ [r] }, false, false, k, u⟩

/-- Offer a record to section `s`'s ring (R338, R340). One stored while there is no log is not copied to it (R342). -/
def Tau.storeSection (x : Tau) (s : Nat) (r : Rec) : Tau :=
  let st := (x.rings.getD s Ring.reset).store 1048576 { r with spilled := x.rd Reg.REC_LOG_SIZE == 0 }
  let x := { x with rings := modifyAt (fun _ => st.ring) s x.rings }
  let x := if st.dropped then x.bump Reg.REC_DROP_CNT (s := s) else x.bump Reg.REC_WR_CNT (s := s)
  let x := if st.pinned then x.bump Reg.REC_FRZ_DROP_CNT (s := s) else x
  (x.bumpBy Reg.REC_EVICT_CNT st.evicted (s := s)).bumpBy Reg.REC_SPILL_LOST_CNT st.unspilled (s := s)

/-- Offer a record to the island ring (R338, R340). -/
def Tau.storeIsland (x : Tau) (r : Rec) : Tau :=
  let g := x.rings.getD 4 Ring.reset
  let st := ({ g with arr := g.arr + 1 } : Ring).store 262144 { r with idx := g.arr, spilled := true }
  let x := { x with rings := modifyAt (fun _ => st.ring) 4 x.rings }
  let x := if st.dropped then x.bump Reg.MGMT_IDROP_CNT else x
  let x := if st.pinned then x.bump Reg.MGMT_I_FRZ_DROP_CNT else x
  x.bumpBy Reg.MGMT_IEVICT_CNT st.evicted

/-- Write a recorder record from source `src` (0 to 3 a section, 4 the island) on behalf of a plane. What the planes write in one
clock cycle, here one command, is numbered and stored in plane order when the command ends (R31, R339). -/
def Tau.record (x : Tau) (src plane sev code : Nat) (body : List Byte) : Tau :=
  { x with recq := x.recq ++ [⟨src, plane, sev, code, x.holdover, body⟩] }

/-- One written record (R336, R338, R339): it takes its source's next SEQ, is offered to its tiers, and is exported at severity REC_SEV
and above (R329). -/
def Tau.putRecord (x : Tau) (q : RecReq) : Tau :=
  let g := x.rings.getD q.src Ring.reset
  let body := padTo 8 (q.body.take 1008)
  let r := leBytes 1 ((16 + body.length) / 8) ++ leBytes 1 (q.sev % 8 + 8 * q.src + 64 * q.plane) ++ leBytes 2 q.code ++
    leBytes 4 (g.seq % 2 ^ 31 + 2 ^ 31 * bit q.ho) ++ leBytes 8 x.now ++ body
  let rec_ : Rec := ⟨g.seq, q.sev, r, false, false⟩
  let x := { x with rings := modifyAt (fun g => { g with seq := g.seq + 1 }) q.src x.rings }
  let x := if q.src < 4 then x.storeSection q.src rec_ else x
  let x := if q.src = 4 ∨ 5 ≤ q.sev then x.storeIsland rec_ else x
  if x.rd Reg.MGMT_EXP_CTRL_REC_SEV ≤ q.sev then (x.exportRec x.anySec 3 258 x.now (ipfixVar r)).1 else x

/-- Write a record on behalf of the whole TAU: by a section in service while the main rails are up, else by the island. -/
def Tau.recordTau (x : Tau) (plane sev code : Nat) (body : List Byte) : Tau :=
  x.record (if x.on then x.anySec else 4) plane sev code body

/-! ## Page error flags (R433, R434) -/

/-- Set flag `n` of a page's PG_ERR and count the event; a flag that goes from 0 to 1 unmasked raises PAGE_ERR (R434). -/
def Tau.pageErr (x : Tau) (page n : Nat) (s : Nat := 0) : Tau :=
  let f := match n with
    | 0 => Reg.PG_ERR_CFG_PARITY page | 1 => Reg.PG_ERR_RANGE page | 2 => Reg.PG_ERR_FROZEN page
    | 3 => Reg.PG_ERR_LOCK_WR page | _ => Reg.PG_ERR_HOST_WR page
  let rise := x.rd f (s := s) == 0 && !(x.rd (Reg.PG_ERR_MASK page) (s := s)).testBit n
  let x := (x.wr f 1 (s := s)).bump (Reg.PG_ERR_CNT page) (s := s)
  if rise then x.raise 4 else x

/-- The same in the TDU, whose PAGE_ERR is cause 3 of TGEN.INTR (R434). -/
def Tdu.pageErr (d : Tdu) (page n : Nat) : Tdu :=
  let f := match n with
    | 0 => Reg.PG_ERR_CFG_PARITY page | 1 => Reg.PG_ERR_RANGE page | 2 => Reg.PG_ERR_FROZEN page
    | 3 => Reg.PG_ERR_LOCK_WR page | _ => Reg.PG_ERR_HOST_WR page
  let rise := d.rd f == 0 && !(d.rd (Reg.PG_ERR_MASK page)).testBit n
  let d := (d.wr f 1).bump (Reg.PG_ERR_CNT page)
  if rise then d.raise 3 else d

/-- A consist is in use in period `p` (R173). -/
def Consist.usable (c : Consist) (p : Nat) : Bool :=
  decide (c.from_ ≤ p) && (match c.until_ with | some q => decide (p < q) | none => true)

/-! ## The error bound (R51, R56, R488) -/

/-- Ticks in an hour: the scale in which the holdover bound is held. -/
def hourTicks : Nat := 3600 * 4000000000

/-- Half ticks × 10^6 as whole ticks, rounded up: the magnitude of what remains to be slewed. -/
def slewTicks (s : Int) : Nat := ceilDiv s.natAbs 2000000

/-- The selected source is the port on which the tree parent is reached (R56). -/
def Tau.fromParent (x : Tau) : Bool := x.time.parentPort == some (x.rd Reg.TIME_TIME_STATE_SRC)

/-- The bound received from the source chain, in ticks (R56). -/
def Tau.boundReceived (x : Tau) : Nat := if x.fromParent then x.time.parentEb * 16 else 0

/-- The holdover flag received from above (R56). -/
def Tau.flagReceived (x : Tau) : Bool := x.fromParent && x.time.parentHo

/-- TIME.ERR_BOUND in ticks (R56). -/
def Tau.errBound (x : Tau) : Nat :=
  match x.rd Reg.TIME_TIME_STATE_STATE with
  | 0 => 0
  | 1 => x.boundReceived + slewTicks x.time.slew
  | _ => ceilDiv x.time.hold hourTicks

/-- The HO flag this TAU passes on (R55, R459). -/
def Tau.hoOut (x : Tau) : Bool := x.holdover || x.flagReceived

/-! ## Bytes through the encoders and decoders (R376) -/

/-- A streaming user's context in section `s` has taken `n` bytes and written `m` (R389). -/
def Tau.ctxMoved (x : Tau) (s user ch n m : Nat) : Tau :=
  let f (k : CmpCtx) : CmpCtx := if k.user = user ∧ k.ch = ch then { k with inLen := k.inLen + n, done := k.done + m } else k
  { x with cmp := modifyAt (fun e => { e with ctxs := e.ctxs.map fun c => c.map f }) s x.cmp }

/-- Count bytes through an encoder or a decoder in whole KiB. -/
def Tau.encoded (x : Tau) (s n : Nat) : Tau :=
  let sum := (x.cmp.getD s CmpSt.reset).encRem + n
  ({ x with cmp := modifyAt (fun c => { c with encRem := sum % 1024 }) s x.cmp }).bumpBy Reg.CMP_ENC_KIB (sum / 1024) (s := s)
def Tau.decoded (x : Tau) (s n : Nat) : Tau :=
  let sum := (x.cmp.getD s CmpSt.reset).decRem + n
  ({ x with cmp := modifyAt (fun c => { c with decRem := sum % 1024 }) s x.cmp }).bumpBy Reg.CMP_DEC_KIB (sum / 1024) (s := s)

end Sys2Proof.Machine
end

