-- ==== Sys2Proof/Machine/Operands.lean ====
section
/-!
DEFINITION. The operand forms of the block: coach headers and trailers (R146 to R149), control records (R457, R458), consist
images and their sizes (R156 to R171), and the conversion of values into fields (R161 to R164).
-/

namespace Sys2Proof.Machine

/-! ## Coaches and control records -/

/-- The header of a coach or train (R146). -/
structure Hdr where
  ver : Nat
  cls : Nat
  sev : Nat
  ho : Bool
  gap : Bool
  late : Bool
  order : Bool
  sat : Bool
  len : Nat
  consist : Nat
  rank : Nat
  epochLo : Nat
  job : Nat
  eb : Nat
  sigT : Nat
  sigL : Nat
  t : Nat
  /-- The reserved bit of byte 0. -/
  rsv : Bool
  deriving DecidableEq, Repr

/-- Read the header of a record (R146). -/
def Hdr.parse (r : List Byte) : Hdr :=
  let b0 := fieldAt r 0 1
  let b1 := fieldAt r 1 1
  { ver := bits b0 0 4, cls := bits b0 4 3, rsv := b0.testBit 7, sev := bits b1 0 3, ho := b1.testBit 3, gap := b1.testBit 4,
    late := b1.testBit 5, order := b1.testBit 6, sat := b1.testBit 7, len := fieldAt r 2 2, consist := fieldAt r 4 2,
    rank := fieldAt r 6 3, epochLo := fieldAt r 9 1, job := fieldAt r 10 2, eb := fieldAt r 12 2, sigT := fieldAt r 14 1,
    sigL := fieldAt r 15 1, t := fieldAt r 16 8 }

/-- The length of a record with `n` body bytes: 24 header bytes, the body, padding and a 4-byte trailer (R147). -/
def recLen (n : Nat) : Nat := (24 + n + 4 + 7) / 8 * 8

/-- Build a record from its header and body: LEN, padding and trailer are computed (R146 to R148). -/
def mkRecord (h : Hdr) (body : List Byte) : List Byte :=
  let len := recLen body.length
  let flags := h.sev % 8 + 8 * bit h.ho + 16 * bit h.gap + 32 * bit h.late + 64 * bit h.order + 128 * bit h.sat
  let head := leBytes 1 (1 + 16 * h.cls) ++ leBytes 1 flags ++ leBytes 2 len ++ leBytes 2 h.consist ++ leBytes 3 h.rank ++
    leBytes 1 h.epochLo ++ leBytes 2 h.job ++ leBytes 2 (if h.ho then h.eb else 0) ++ leBytes 1 h.sigT ++ leBytes 1 h.sigL ++
    leBytes 8 h.t
  withCrc (padLen (len - 4) (head ++ body))

/-- A record with its LATE flag set and its trailer computed again (R79). -/
def markLate (r : List Byte) : List Byte :=
  let b1 := Nat.lor (fieldAt r 1 1) 32
  withCrc (r.take 1 ++ leBytes 1 b1 ++ (r.drop 2).take (r.length - 6))

/-- A record with the signatures of the period last closed before it is queued, and its trailer computed again (R152). -/
def signRecord (sigT sigL : Nat) (r : List Byte) : List Byte :=
  withCrc (r.take 14 ++ leBytes 1 sigT ++ leBytes 1 sigL ++ (r.drop 16).take (r.length - 20))

/-- A control record: padding so that the whole, with its trailer, is a multiple of 8 bytes long (R457). -/
def mkControl (body : List Byte) : List Byte := withCrc (padLen ((body.length + 4 + 7) / 8 * 8 - 4) body)

/-- Checks of R458 that need no more than the record: trailer, the length a multiple of 8 and at most 4,096, and the CTYPE. -/
def ctlOk (ctype : Nat) (r : List Byte) : Bool :=
  crcOk r && decide (r.length % 8 = 0) && decide (r.length ≤ 4096) && fieldAt r 0 1 == ctype

/-! ## Consist images (R156 to R171) -/

/-- Read a 16-byte field descriptor (R169). -/
def Desc.parse (b : List Byte) : Desc :=
  let b0 := fieldAt b 0 1
  { type := bits b0 0 4, op := bits b0 4 4, etype := bits (fieldAt b 1 1) 0 2, scale := signed 8 (fieldAt b 2 1),
    src := fieldAt b 3 1, arg := fieldAt b 4 2, size := fieldAt b 6 2, he := fieldAt b 8 1, hpl := fieldAt b 9 1,
    arg2 := fieldAt b 10 2, nameId := fieldAt b 12 4 }

/-- The types that scalar sources fill (R159). -/
def scalarType (t : Nat) : Bool := t == 0 || t == 1 || t == 2 || t == 4 || t == 5

/-- SRC, ARG and ARG2 lie within R159 for the descriptor's type. -/
def Desc.srcOk (d : Desc) : Bool :=
  match d.src with
  | 0 => true
  | 1 | 2 => scalarType d.type && decide (d.arg < 80)
  | 3 => d.type == 3 && decide (d.arg < 16)
  | 4 => scalarType d.type && decide (bits d.arg 4 3 < 6) && decide (d.arg < 128)
  | 5 => scalarType d.type && decide (d.arg < 3) && decide (bits d.arg2 0 8 ≤ bits d.arg2 8 8)
  | 6 => d.type == 6 && d.size == 256
  | 7 => scalarType d.type && bits d.arg 6 2 == 0 && decide (d.arg < 512)
  | 8 => scalarType d.type && decide (d.arg < 32)
  | 9 => d.type == 6 && d.size == 64
  | 10 => scalarType d.type && decide (bits d.arg 0 3 < 5) && decide (d.arg < 64)
  | 11 => scalarType d.type && decide (d.arg < 5)
  | 12 => d.type == 7 && d.arg2 == 0
  | 13 => decide (d.type < 3)
  | 14 => d.type == 6
  | 15 => d.type == 8 && decide (d.arg < 2)
  | _ => false

/-- OP and SIZE lie within R158 for the type, and the law within R162 and R163. -/
def Desc.opOk (d : Desc) : Bool :=
  match d.type with
  | 0 | 1 | 2 => (d.op == 0 || d.op == 15) && d.size == 0
  | 3 => d.op == 1 && decide (1 ≤ d.size) && decide (d.size ≤ 128) && decide (d.he ≤ 48) && decide (d.hpl ≤ 5) &&
      (d.src != 3 || decide (d.hpl ≤ 3))
  | 4 => d.op == 2 && decide (1 ≤ d.size) && decide (d.size ≤ 32)
  | 5 => (d.op == 3 || d.op == 4) && d.size == 0
  | 6 => (d.op == 5 || d.op == 6) && decide (64 ≤ d.size) && decide (d.size ≤ 4096) && d.size % 64 == 0
  | 7 => d.op == 7 && d.size == 0
  | 8 => d.op == 8 && d.size == 0
  | _ => false

/-- A descriptor is within R156 to R163; `b` are its bytes, for the reserved bits of byte 1. -/
def Desc.ok (d : Desc) (b : List Byte) : Bool :=
  d.srcOk && d.opOk && decide (fieldAt b 1 1 < 4) &&
    (if d.type = 4 ∨ d.type = 5 then decide (d.etype < 3) else d.etype == 0) &&
    (if d.type = 2 ∨ ((d.type = 4 ∨ d.type = 5) ∧ d.etype = 2) then decide (-63 ≤ d.scale) && decide (d.scale ≤ 63)
      else d.scale == 0) &&
    (d.type == 3 || (d.he == 0 && d.hpl == 0))

/-- The bytes a field takes in a coach when it holds `n` buckets or entries (R156). -/
def Desc.bytes (d : Desc) (n : Nat) : Nat :=
  if d.src = 0 then 0
  else match d.type with
    | 3 => 16 + 4 * n
    | 4 => 8 + 12 * n
    | 5 | 7 => 16
    | 6 => d.size / 8
    | 8 => 768
    | _ => 8

/-- The largest number of buckets or entries of a field in a coach (R170). -/
def Desc.most (d : Desc) : Nat :=
  match d.type with
  | 3 => d.size
  | 4 => if d.src = 5 then min d.size (bits d.arg2 8 8 + 1 - bits d.arg2 0 8) else min d.size 1
  | _ => 0

/-- The length of a coach whose fields take the given numbers of bytes: each starts at a multiple of 8 (R147, R156). -/
def coachLen (sizes : List Nat) : Nat :=
  recLen (sizes.foldl (fun o n => if n = 0 then o else (o + 7) / 8 * 8 + n) 0)

/-- MAXLEN of R170. -/
def maxLenOf (fs : List Desc) : Nat := coachLen (fs.map fun d => d.bytes d.most)

/-- MINLEN of R170. -/
def minLenOf (fs : List Desc) : Nat := coachLen (fs.map fun d => d.bytes 0)

/-- Cut the list into pieces of `k`. -/
def chunks (k : Nat) : Nat → List Byte → List (List Byte)
  | 0, _ => []
  | n + 1, b => b.take k :: chunks k n (b.drop k)

/-- Read a consist payload (R169): the consist, with no use or removal period, and whether its fields, sizes and reserved bytes
are within R156 to R170. The digest is compared by the caller. -/
def Consist.parse (p : List Byte) : Consist × Bool :=
  let n := fieldAt p 2 1
  let ds := chunks 16 n (p.drop 32)
  let fs := ds.map Desc.parse
  let c : Consist :=
    { id := fieldAt p 0 2, sev := bits (fieldAt p 3 1) 0 3, maxLen := fieldAt p 4 2, minLen := fieldAt p 6 2,
      digest := (p.drop 8).take 8, nameId := fieldAt p 16 4, fields := fs, job := 0xFFFF, from_ := 0, until_ := none }
  let shape := decide (p.length = 32 + 16 * n) && decide (1 ≤ n) && decide (n ≤ 128) && decide (c.id ≤ 0xFEFF) &&
    decide (fieldAt p 3 1 < 8) && allZero ((p.drop 20).take 12)
  (c, shape && ((fs.zip ds).all fun (d, b) => d.ok b))

/-- MAXLEN and MINLEN of the image equal the device's own computation (R171). -/
def Consist.lengthsOk (c : Consist) : Bool := c.maxLen == maxLenOf c.fields && c.minLen == minLenOf c.fields

/-- Split a coach body into its fields, reading NB and COUNT where they stand (R156, R174 check 4). The result lists each field
with its bytes and ends with the offset after the last one; none where a count is beyond its limit or the body is too short. -/
def splitFields : List Desc → Nat → List Byte → Option (List (Desc × List Byte) × Nat)
  | [], o, _ => some ([], o)
  | d :: ds, o, body =>
    if d.src = 0 then splitFields ds o body
    else
      let o := (o + 7) / 8 * 8
      let n := if d.type = 3 then fieldAt body (o + 10) 2 else if d.type = 4 then fieldAt body o 1 else 0
      let w := d.bytes n
      if (d.type = 3 ∧ d.size < n) ∨ (d.type = 4 ∧ d.most < n) ∨ body.length < o + w then none
      else match splitFields ds (o + w) body with
        | none => none
        | some (l, e) => some ((d, (body.drop o).take w) :: l, e)

/-- The check of a DATA coach's length against its consist (R174 check 4). -/
def Consist.lengthFits (c : Consist) (r : List Byte) : Bool :=
  decide (c.minLen ≤ r.length) && decide (r.length ≤ c.maxLen) &&
    match splitFields c.fields 0 ((r.drop 24).take (r.length - 28)) with
    | none => false
    | some (_, e) => r.length == recLen e

/-! ## Values and their conversion (R161 to R164) -/

/-- What a scalar source gives: an exact value m × 2^e, a NaN, an infinity, or nothing (R157, R164). -/
inductive SrcVal where
  | exact (m e : Int)
  | nan
  | inf (neg : Bool)
  | nothing
  deriving DecidableEq, Repr

/-- m × 2^e rounded to the nearest integer, ties to even (R164). -/
def roundPow (m e : Int) : Int := if 0 ≤ e then m * 2 ^ e.toNat else divEven m (2 ^ (-e).toNat)

/-- An FP32 as an exact value (R164): −0 gives 0. -/
def fp32 (n : Nat) : SrcVal :=
  let neg := n.testBit 31
  let ex := bits n 23 8
  let fr := bits n 0 23
  if ex = 255 then (if fr = 0 then .inf neg else .nan)
  else
    let m : Int := if ex = 0 then (fr : Nat) else (2 ^ 23 + fr : Nat)
    .exact (if neg then -m else m) ((if ex = 0 then 1 else ex : Nat) - 150)

/-- Convert a value into an element (0 U64, 1 S64, 2 FX with the given scale): the 64-bit value and whether SAT is set (R164). -/
def convert (etype : Nat) (scale : Int) : SrcVal → Nat × Bool
  | .nothing => (0, false)
  | .nan => (0, true)
  | .inf neg =>
    if etype = 0 then (if neg then 0 else 2 ^ 64 - 1, true) else (if neg then 2 ^ 63 else 2 ^ 63 - 1, true)
  | .exact m e =>
    let q := roundPow m (if etype = 2 then e - scale else e)
    if etype = 0 then
      if m < 0 then (0, true) else if (2 ^ 64 : Nat) ≤ q then (2 ^ 64 - 1, true) else (q.toNat, false)
    else
      let c := clipS 64 q
      (unsigned 64 c, c != q)

/-- The HLL hash of an item (R161). -/
def hllHash (x : Nat) : Nat :=
  let m := 2 ^ 64
  let z := (x + 0x9E3779B97F4A7C15) % m
  let z := Nat.xor z (z / 2 ^ 30) * 0xBF5847641CE4E5B9 % m
  let z := Nat.xor z (z / 2 ^ 27) * 0x94D049BB133111EB % m
  Nat.xor z (z / 2 ^ 31)

/-- Leading zeros of a number of `w` bits. -/
def clz (w n : Nat) : Nat := if n = 0 then w else w - 1 - Nat.log2 n

/-- Register index and ρ of an HLL item (R161). -/
def hllSlot (x : Nat) : Nat × Nat :=
  let z := hllHash x
  (z / 2 ^ 54, clz 54 (z % 2 ^ 54) + 1)

/-- The 768 bytes of an HLL field from its registers, six bits each (R156). -/
def hllBytes (regs : List (Nat × Nat)) : List Byte := leBytes 768 (regs.foldl (fun n (i, r) => n + r * 2 ^ (6 * i)) 0)

/-- Set register `i` to the larger of its value and `r` (R161). -/
def hllMax (i r : Nat) (l : List (Nat × Nat)) : List (Nat × Nat) :=
  Store.put i (max r ((Store.find i l).getD 0)) 0 l

/-- The constants c[j] of R123. -/
def histC : List Nat := [0, 5932, 12400, 19454, 27146, 35534, 44682, 54658]

/-- The bucket of a value under base exponent `e` (R123): none below, 128 at or above the top. -/
def histBucket (e v : Nat) : Option Nat :=
  if v < 2 ^ e then none
  else if 2 ^ (e + 16) ≤ v then some 128
  else
    let l := Nat.log2 v
    let f := if 16 ≤ l then (v - 2 ^ l) / 2 ^ (l - 16) else (v - 2 ^ l) * 2 ^ (16 - l)
    let j := (histC.drop 1).countP (fun c => decide (c ≤ f))
    some (8 * (l - e) + j)

/-- The value of a store of counts at a key. -/
def countAt (l : List (Nat × Nat)) (k : Nat) : Nat := (Store.find k l).getD 0

/-- Add `n` to a count that saturates at 2^32 − 1 (R127, R156). -/
def addCount (k n : Nat) (l : List (Nat × Nat)) : List (Nat × Nat) :=
  Store.put k (min (countAt l k + n) (2 ^ 32 - 1)) 0 l

/-- A unit's bank mapped into a HIST field (R163): UNDER, OVER and the buckets, before they saturate. -/
def mapHist (d : Desc) (eu : Nat) (b : Bank) : Nat × Nat × List (Nat × Nat) :=
  let p := 2 ^ d.hpl
  b.bkt.foldl
    (fun (u, o, l) (k, n) =>
      let a := eu + k / 8
      if a < d.he then (u + n, o, l)
      else
        let m := (a - d.he) * p + k % 8 * p / 8
        if m < d.size then (u, o, Store.put m (countAt l m + n) 0 l) else (u, o + n, l))
    (b.under, b.above, [])

/-- The bytes of a HIST field (R156): the smallest run that holds every non-zero bucket. -/
def histBytes (u o : Nat) (l : List (Nat × Nat)) : List Byte :=
  let first := (l.head?.map (·.1)).getD 0
  let nb := match l.getLast? with | none => 0 | some (k, _) => k + 1 - first
  leBytes 4 u ++ leBytes 4 o ++ leBytes 2 first ++ leBytes 2 nb ++ zeros 4 ++
    ((List.range nb).map fun i => leBytes 4 (countAt l (first + i))).flatten

/-- Concatenate fields, each at the next multiple of 8 (R156). -/
def joinFields (fs : List (List Byte)) : List Byte :=
  fs.foldl (fun b f => if f.isEmpty then b else padTo 8 b ++ f) []

/-- The body of a BULK record from byte 24 (R359). -/
def bulkBody (ofs lost first kind tflags section_ : Nat) (data : List Byte) : List Byte :=
  leBytes 8 ofs ++ leBytes 4 (clipU 32 lost) ++ leBytes 2 data.length ++ leBytes 2 first ++ leBytes 1 kind ++ leBytes 1 tflags ++
    leBytes 1 section_ ++ zeros 5 ++ data

end Sys2Proof.Machine
end

