-- ==== Sys2Proof/Machine/Terms.lean ====
section
/-!
DEFINITION. Survey descriptors (R216, R289), the encodings of a coach's fields, and the terms of a survey judged on them
(R213, R218).
-/

namespace Sys2Proof.Machine

/-! ## Descriptors -/

/-- Read a term (R216). -/
def Term.parse (b : List Byte) : Term := ⟨fieldAt b 0 1, fieldAt b 1 1, fieldAt b 2 2, fieldAt b 8 8⟩

/-- Read a survey descriptor (R216, R289). -/
def Survey.parse (b : List Byte) : Survey :=
  { sid := fieldAt b 0 4, base := fieldAt b 4 3, level := fieldAt b 7 1, consist := fieldAt b 8 2, job := fieldAt b 10 2,
    epoch := fieldAt b 12 4, period := fieldAt b 16 8, deadline := fieldAt b 24 8, lo := fieldAt b 32 3, kind := fieldAt b 35 1,
    hi := fieldAt b 36 3, flags := fieldAt b 39 1, maxans := fieldAt b 40 2, fmask := fieldAt b 48 16,
    terms := (chunks 16 (fieldAt b 42 1) (b.drop 64)).map Term.parse, par := (b.drop 64).take 20 }

/-- The bytes of a descriptor (R216, R289, R489). -/
def surveyLen (kind nterms : Nat) : Nat := if 2 ≤ kind then 84 else 64 + 16 * nterms

/-- Reserved bytes of a descriptor are zero (R216, R289). -/
def surveyRsv (b : List Byte) : Bool :=
  allZero ((b.drop 43).take 5) && decide (fieldAt b 39 1 < 4) &&
    (if 2 ≤ fieldAt b 35 1 then true
      else (chunks 16 (fieldAt b 42 1) (b.drop 64)).all fun t => allZero ((t.drop 4).take 4))

/-- The bytes of a term. -/
def Term.bytes (t : Term) : List Byte := leBytes 1 t.field ++ leBytes 1 t.test ++ leBytes 2 t.arg ++ zeros 4 ++ leBytes 8 t.x

/-- The bytes of a descriptor (R216, R289). -/
def Survey.bytes (s : Survey) : List Byte :=
  leBytes 4 s.sid ++ leBytes 3 s.base ++ leBytes 1 s.level ++ leBytes 2 s.consist ++ leBytes 2 s.job ++ leBytes 4 s.epoch ++
    leBytes 8 s.period ++ leBytes 8 s.deadline ++ leBytes 3 s.lo ++ leBytes 1 s.kind ++ leBytes 3 s.hi ++ leBytes 1 s.flags ++
    leBytes 2 s.maxans ++ leBytes 1 s.terms.length ++ zeros 5 ++ leBytes 16 s.fmask ++
    (if 2 ≤ s.kind then padLen 20 (s.par.take 20) else (s.terms.map Term.bytes).flatten)

/-- The survey-descriptor record of a survey (R489). -/
def Survey.record (s : Survey) : List Byte :=
  let d := s.bytes
  let len := (8 + d.length + 4 + 7) / 8 * 8
  withCrc (padLen (len - 4) (leBytes 1 0xBC ++ zeros 3 ++ leBytes 2 len ++ zeros 2 ++ d))

/-- The survey-cancel record of a survey (R489). -/
def cancelRecord (sid base level : Nat) : List Byte :=
  withCrc (padLen 20 (leBytes 1 0xBD ++ zeros 3 ++ leBytes 4 sid ++ leBytes 3 base ++ leBytes 1 level))

/-- A survey-descriptor record whose length agrees with its own fields (R458, R489). -/
def surveyRecOk (r : List Byte) : Bool :=
  let n := surveyLen (fieldAt r 43 1) (fieldAt r 50 1)
  ctlOk 0xBC r && fieldAt r 4 2 == r.length && r.length == (8 + n + 4 + 7) / 8 * 8

/-! ## The fields of a coach -/

/-- The fields of a coach against its descriptors: none for a field that coaches do not carry. -/
def alignFields : List Desc → List (Desc × List Byte) → List (Option (List Byte))
  | [], _ => []
  | d :: ds, l =>
    if d.src = 0 then none :: alignFields ds l
    else match l with
      | [] => none :: alignFields ds []
      | (_, b) :: l => some b :: alignFields ds l

/-- The field encodings of a DATA coach. -/
def Consist.coachFields (c : Consist) (r : List Byte) : List (Option (List Byte)) :=
  match splitFields c.fields 0 ((r.drop 24).take (r.length - 28)) with
  | none => c.fields.map fun _ => none
  | some (l, _) => alignFields c.fields l

/-- The empty encoding of a field (R157); an AND map with nothing to give has every bit set. -/
def Desc.empty (d : Desc) : List Byte :=
  match d.type with
  | 3 => zeros 16
  | 4 => zeros 8
  | 5 => zeros 8 ++ leBytes 3 0xFFFFFF ++ zeros 5
  | 6 => if d.op = 6 then List.replicate (d.size / 8) 0xFF else zeros (d.size / 8)
  | 7 => zeros 16
  | 8 => zeros 768
  | _ => zeros 8

/-- Values of the field compare as signed (R189). -/
def Desc.isSigned (d : Desc) : Bool := if d.type = 4 ∨ d.type = 5 then d.etype != 0 else d.type != 0

/-- A 64-bit value read as the field compares it (R189). -/
def Desc.num (d : Desc) (n : Nat) : Int := if d.isSigned then signed 64 n else (n : Int)

/-- Bit `i` of a map. -/
def mapBit (b : List Byte) (i : Nat) : Bool := (b.getD (i / 8) 0).toNat.testBit (i % 8)

/-- The entries of a TOPK field: value, rank, tag. -/
def topEntries (b : List Byte) : List (Nat × Nat × Nat) :=
  (chunks 12 (fieldAt b 0 1) (b.drop 8)).map fun e => (fieldAt e 0 8, fieldAt e 8 3, fieldAt e 11 1)

/-- A HIST field has a bucket of index at least `a` that is not zero, or OVER above 0. -/
def histGe (b : List Byte) (a : Nat) : Bool :=
  decide (0 < fieldAt b 4 4) ||
    (List.range (fieldAt b 10 2)).any fun i => decide (a ≤ fieldAt b 8 2 + i) && decide (0 < fieldAt b (16 + 4 * i) 4)

/-- A field of a coach is non-empty (R213). -/
def Desc.nonEmpty (d : Desc) (b : List Byte) : Bool :=
  match d.op with
  | 1 => !allZero (b.take 8) || !allZero (b.drop 16)
  | 2 => decide (0 < fieldAt b 0 1)
  | 3 | 4 => decide (0 < fieldAt b 12 4)
  | 6 => !(b.all (· == 0xFF))
  | 7 => (fieldAt b 10 1).testBit 0
  | _ => !allZero b

/-- A rank's field meets a term: the coach column of R218. -/
def Term.holds (t : Term) (d : Desc) (b : List Byte) : Bool :=
  let x := d.num t.x
  let v := d.num (fieldAt b 0 8)
  match t.test with
  | 0 => d.nonEmpty b
  | 1 => if d.op = 2 then (topEntries b).any (fun e => decide (x < d.num e.1))
      else decide (x < v) && (d.type != 5 || d.nonEmpty b)
  | 2 => if d.op = 2 then (topEntries b).any (fun e => decide (d.num e.1 < x))
      else decide (v < x) && (d.type != 5 || d.nonEmpty b)
  | 3 => histGe b t.arg
  | 4 => mapBit b t.arg
  | 5 => !mapBit b t.arg
  | 6 => d.nonEmpty b && fieldAt b 0 8 != t.x
  | _ => d.nonEmpty b && fieldAt b 0 8 == t.x

/-- A TEST is allowed for an OP (R218). -/
def testAllowed (test op : Nat) : Bool :=
  match test with
  | 0 => op != 8
  | 1 | 2 => [0, 15, 3, 4, 2].contains op
  | 3 => op == 1
  | 4 => op == 5
  | 5 => op == 6
  | 6 | 7 => op == 7
  | _ => false

/-- The selected fields of a MATCH answer, with coach encodings, in descriptor order (R221). -/
def selectFields (fmask : Nat) (fs : List (Option (List Byte))) : List Byte :=
  joinFields ((List.range fs.length).filterMap fun i => if fmask.testBit i then fs.getD i none else none)

/-- The body of a survey answer from byte 24 up to byte 43 (R221). -/
def answerHead (s : Survey) (period status eflags : Nat) : List Byte :=
  leBytes 4 s.sid ++ leBytes 3 s.base ++ leBytes 1 s.level ++ leBytes 8 period ++ leBytes 1 status ++ leBytes 1 eflags ++ zeros 2

end Sys2Proof.Machine
end

