-- ==== Sys2Proof/Machine/Reduce.lean ====
section
/-!
DEFINITION. Reduction: the operators and their accumulators (R186 to R194), the fields of a train (R203 to R205), and which field
values are empty (R213).
-/

namespace Sys2Proof.Machine

/-! ## Values and their order -/

/-- The order of an element of ETYPE `et` (R189). -/
def ordKey (et v : Nat) : Int := if et = 0 then (v : Int) else signed 64 v

/-- A TOPK entry `a` stands before `b` (R190). -/
def topBefore (et : Nat) (a b : Nat × Nat × Nat) : Bool :=
  let ka := ordKey et a.1
  let kb := ordKey et b.1
  if ka ≠ kb then decide (kb < ka)
  else if a.2.1 ≠ b.2.1 then decide (a.2.1 < b.2.1) else decide (a.2.2 ≤ b.2.2)

/-- NONE: not about a rank (R153). -/
def rankNone : Nat := 0xFFFFFF

/-- The empty AGREE accumulator (R194). -/
def AgreeAcc.empty : AgreeAcc := ⟨0, rankNone, 0, 0, rankNone, 0, 0, 0, 0, false⟩

/-- The operator's empty value (R187). -/
def Desc.zeroAcc (d : Desc) : Acc :=
  match d.op with
  | 0 => .sum 0
  | 1 => .hist 0 0 []
  | 2 => .topk []
  | 3 | 4 => .mm 0 rankNone 0
  | 5 => .bmap 0
  | 6 => .bmap (2 ^ d.size - 1)
  | 7 => .agree AgreeAcc.empty
  | 8 => .hll []
  | _ => .keep

/-! ## The merge (R187 to R194) -/

/-- Bucket-wise sum with 64-bit counts (R187). -/
def addBuckets (a b : List (Nat × Nat)) : List (Nat × Nat) :=
  b.foldl (fun l (k, n) => Store.put k (countAt l k + n) 0 l) a

/-- The smaller or larger of two MINMAX values (R189). -/
def mergeMm (max : Bool) (et : Nat) (a b : Nat × Nat × Nat) : Nat × Nat × Nat :=
  if b.2.2 = 0 then a
  else if a.2.2 = 0 then b
  else
    let ka := ordKey et a.1
    let kb := ordKey et b.1
    if ka = kb then (a.1, Nat.min a.2.1 b.2.1, a.2.2 + b.2.2)
    else if (decide (ka < kb)) == max then b else a

/-- One side of an AGREE merge: digest, witness and count. -/
def mergeSide (larger : Bool) (a b : Nat × Nat × Nat) : Nat × Nat × Nat := mergeMm larger 0 a b

/-- The merge of two AGREE accumulators (R194). -/
def mergeAgree (a b : AgreeAcc) : AgreeAcc :=
  let lo := mergeSide false (a.lo, a.loRank, a.loCount) (b.lo, b.loRank, b.loCount)
  let hi := mergeSide true (a.hi, a.hiRank, a.hiCount) (b.hi, b.hiRank, b.hiCount)
  let coll := if a.valid = 0 then b.coll else if b.valid = 0 then a.coll else Nat.min a.coll b.coll
  let mix := a.mix || b.mix || (decide (0 < a.valid) && decide (0 < b.valid) && a.coll != b.coll)
  ⟨lo.1, lo.2.1, lo.2.2, hi.1, hi.2.1, hi.2.2, a.valid + b.valid, a.invalid + b.invalid, coll, mix⟩

/-- The first K entries of two lists (R190), and how many entries were discarded. -/
def mergeTop (k et : Nat) (a b : List (Nat × Nat × Nat)) : List (Nat × Nat × Nat) × Nat :=
  let u := isort (topBefore et) (a ++ b)
  (u.take k, u.length - k)

/-- The merge of two accumulators of a field (R187), and the TOPK entries it discarded. -/
def Desc.merge (d : Desc) (a b : Acc) : Acc × Nat :=
  match a, b with
  | .sum x, .sum y => (.sum (x + y), 0)
  | .hist u o l, .hist u' o' l' => (.hist (u + u') (o + o') (addBuckets l l'), 0)
  | .topk l, .topk l' => let (m, n) := mergeTop d.size d.etype l l'; (.topk m, n)
  | .mm v r n, .mm v' r' n' => let m := mergeMm (d.op == 4) d.etype (v, r, n) (v', r', n'); (.mm m.1 m.2.1 m.2.2, 0)
  | .bmap x, .bmap y => (.bmap (if d.op = 6 then Nat.land x y else Nat.lor x y), 0)
  | .agree x, .agree y => (.agree (mergeAgree x y), 0)
  | .hll l, .hll l' => (.hll (l'.foldl (fun m (i, r) => hllMax i r m) l), 0)
  | a, _ => (a, 0)

/-- Merge the fields of a contribution into a context's accumulators, and count what TOPK discarded. -/
def mergeAll : List Desc → List Acc → List Acc → List Acc × Nat
  | d :: ds, a :: as, b :: bs =>
    let (m, n) := d.merge a b
    let (r, k) := mergeAll ds as bs
    (m :: r, n + k)
  | _, as, _ => (as, 0)

/-- Merge one contribution into field `f`. -/
def mergeField (fs : List Desc) (f : Nat) (b : Acc) (l : List Acc) : List Acc × Nat :=
  match fs[f]?, l[f]? with
  | some d, some a => let (m, n) := d.merge a b; (modifyAt (fun _ => m) f l, n)
  | _, _ => (l, 0)

/-! ## Contributions of a coach (R156) -/

/-- Entries of a TOPK field of `n` entries from byte `o`. -/
def topAt (b : List Byte) (o n : Nat) : List (Nat × Nat × Nat) :=
  (List.range n).map fun i => (fieldAt b (o + 12 * i) 8, fieldAt b (o + 12 * i + 8) 3, fieldAt b (o + 12 * i + 11) 1)

/-- Buckets of a HIST field: `n` counts of `w` bytes from byte `o`, the first with index `first`. -/
def histEntries (b : List Byte) (o w first n : Nat) : List (Nat × Nat) :=
  ((List.range n).map fun i => (first + i, fieldAt b (o + w * i) w)).filter (·.2 != 0)

/-- Registers of an HLL field. -/
def hllEntries (b : List Byte) : List (Nat × Nat) :=
  let v := leNat b
  ((List.range 1024).map fun i => (i, bits v (6 * i) 6)).filter (·.2 != 0)

/-- The contribution that a coach's field makes, from its bytes and the coach's rank (R156, R188, R194). -/
def Desc.ofCoach (d : Desc) (rank : Nat) (b : List Byte) : Acc :=
  match d.op with
  | 0 => .sum (if d.type = 0 then (fieldAt b 0 8 : Int) else signed 64 (fieldAt b 0 8))
  | 1 => .hist (fieldAt b 0 4) (fieldAt b 4 4) (histEntries b 16 4 (fieldAt b 8 2) (fieldAt b 10 2))
  | 2 => .topk (topAt b 8 (fieldAt b 0 1))
  | 3 | 4 => .mm (fieldAt b 0 8) (fieldAt b 8 3) (fieldAt b 12 4)
  | 5 | 6 => .bmap (leNat (b.take (d.size / 8)))
  | 7 =>
    let v := fieldAt b 0 8
    if (fieldAt b 10 1).testBit 0 then .agree ⟨v, rank, 1, v, rank, 1, 1, 0, fieldAt b 8 2, false⟩
    else .agree { AgreeAcc.empty with invalid := 1 }
  | 8 => .hll (hllEntries b)
  | _ => .keep

/-- The contributions of a coach, in descriptor order; a TAU-filled field contributes its empty value (R181). -/
def coachParts (fs : List Desc) (rank : Nat) (r : List Byte) : List Acc :=
  let split := ((splitFields fs 0 ((r.drop 24).take (r.length - 28))).getD ([], 0)).1
  (fs.foldl (fun (a : List Acc × List (Desc × List Byte)) d =>
    if d.src = 0 then (a.1 ++ [d.zeroAcc], a.2)
    else match a.2 with
      | (_, b) :: rest => (a.1 ++ [d.ofCoach rank b], rest)
      | [] => (a.1 ++ [d.zeroAcc], [])) ([], split)).1

/-! ## Fields of a train (R204) -/

/-- The bytes that a field takes in a train when it holds `n` buckets or entries. -/
def Desc.trainBytes (d : Desc) (n : Nat) : Nat :=
  match d.op with
  | 0 | 3 | 4 => 16
  | 1 => 24 + 8 * n
  | 2 => 8 + 12 * n
  | 5 | 6 => d.size / 8
  | 7 => 48
  | 8 => 768
  | _ => 0

/-- The largest length of a consist's train, with sixteen adopt entries (R205). -/
def trainLen (fs : List Desc) : Nat :=
  let n := fs.foldl (fun o d =>
    let w := d.trainBytes (if d.op = 1 ∨ d.op = 2 then d.size else 0)
    if w = 0 then o else (o + 7) / 8 * 8 + w) 160
  recLen n

/-- The bytes of a field in a train. -/
def Desc.encode (d : Desc) (a : Acc) : List Byte :=
  match a with
  | .sum v => leBytes 16 (unsigned 128 v)
  | .hist u o l =>
    let first := (l.head?.map (·.1)).getD 0
    let nb := match l.getLast? with | none => 0 | some (k, _) => k + 1 - first
    leBytes 8 u ++ leBytes 8 o ++ leBytes 2 first ++ leBytes 2 nb ++ zeros 4 ++
      ((List.range nb).map fun i => leBytes 8 (countAt l (first + i))).flatten
  | .topk e =>
    leBytes 1 e.length ++ zeros 7 ++ (e.map fun (v, r, t) => leBytes 8 v ++ leBytes 3 r ++ leBytes 1 t).flatten
  | .mm v r n => leBytes 8 v ++ leBytes 3 r ++ zeros 1 ++ leBytes 4 n
  | .bmap v => leBytes (d.size / 8) v
  | .agree g =>
    leBytes 8 g.lo ++ leBytes 8 g.hi ++ leBytes 3 g.loRank ++ zeros 1 ++ leBytes 4 g.loCount ++ leBytes 3 g.hiRank ++ zeros 1 ++
      leBytes 4 g.hiCount ++ leBytes 4 g.valid ++ leBytes 4 g.invalid ++ leBytes 2 g.coll ++ leBytes 1 (bit g.mix) ++ zeros 5
  | .hll l => hllBytes l
  | .keep => []

/-- The fields of a train, joined (R204). -/
def encodeFields (fs : List Desc) (l : List Acc) : List Byte := joinFields ((fs.zip l).map fun (d, a) => d.encode a)

/-- The contribution that a train's field makes. -/
def Desc.ofTrain (d : Desc) (b : List Byte) : Acc :=
  match d.op with
  | 0 => .sum (signed 128 (fieldAt b 0 16))
  | 1 => .hist (fieldAt b 0 8) (fieldAt b 8 8) (histEntries b 24 8 (fieldAt b 16 2) (fieldAt b 18 2))
  | 2 => .topk (topAt b 8 (fieldAt b 0 1))
  | 3 | 4 => .mm (fieldAt b 0 8) (fieldAt b 8 3) (fieldAt b 12 4)
  | 5 | 6 => .bmap (leNat (b.take (d.size / 8)))
  | 7 =>
    .agree ⟨fieldAt b 0 8, fieldAt b 16 3, fieldAt b 20 4, fieldAt b 8 8, fieldAt b 24 3, fieldAt b 28 4, fieldAt b 32 4,
      fieldAt b 36 4, fieldAt b 40 2, (fieldAt b 42 1).testBit 0⟩
  | 8 => .hll (hllEntries b)
  | _ => .keep

/-- Read the fields of a train from offset `o` of its body: their values and the offset after the last; none where a count is
beyond its field's limit or the body is too short (R174, R204). -/
def trainParts : List Desc → Nat → List Byte → Option (List Acc × Nat)
  | [], o, _ => some ([], o)
  | d :: ds, o, body =>
    if d.op = 15 then (trainParts ds o body).map fun (l, e) => (.keep :: l, e)
    else
      let o := (o + 7) / 8 * 8
      let n := if d.op = 1 then fieldAt body (o + 18) 2 else if d.op = 2 then fieldAt body o 1 else 0
      let w := d.trainBytes n
      if ((d.op = 1 ∨ d.op = 2) ∧ d.size < n) ∨ body.length < o + w then none
      else (trainParts ds (o + w) body).map fun (l, e) => (d.ofTrain ((body.drop o).take w) :: l, e)

/-- The preamble of a train (R203). -/
structure Preamble where
  present : Nat
  expected : Nat
  missing : Nat
  late : Nat
  satc : Nat
  level : Nat
  cflags : Nat
  adopts : List (Nat × Nat)

/-- Read the preamble of a train (R203). -/
def Preamble.parse (r : List Byte) : Preamble :=
  let n := fieldAt r 52 1
  { present := fieldAt r 24 4, expected := fieldAt r 28 4, missing := fieldAt r 32 8, late := fieldAt r 40 8,
    satc := fieldAt r 48 4, level := fieldAt r 53 1, cflags := fieldAt r 54 1,
    adopts := (List.range n).map fun a => (fieldAt r (56 + 8 * a) 3, fieldAt r (60 + 8 * a) 4) }

/-- The bytes of a preamble (R203). -/
def Preamble.encode (p : Preamble) : List Byte :=
  leBytes 4 p.present ++ leBytes 4 p.expected ++ leBytes 8 p.missing ++ leBytes 8 p.late ++ leBytes 4 p.satc ++
    leBytes 1 p.adopts.length ++ leBytes 1 p.level ++ leBytes 1 p.cflags ++ zeros 1 ++
    (p.adopts.map fun (b, n) => leBytes 3 b ++ zeros 1 ++ leBytes 4 n).flatten

/-- The values of a train of these fields, where its length is one that R204 gives. -/
def trainFields (fs : List Desc) (r : List Byte) : Option (List Acc) :=
  let body := (r.drop 24).take (r.length - 28)
  let p := Preamble.parse r
  if 16 < p.adopts.length then none
  else match trainParts fs (32 + 8 * p.adopts.length) body with
    | some (l, e) => if r.length = recLen e then some l else none
    | none => none

/-! ## Federated ranks (R153) -/

/-- A rank of ROOT child `c`, federated; NONE stays NONE. -/
def fedRank (c r : Nat) : Nat := if r = rankNone then r else r + c * 262144

/-- The ranks inside a value, federated. -/
def Acc.federate (c : Nat) : Acc → Acc
  | .topk e => .topk (e.map fun (v, r, t) => (v, fedRank c r, t))
  | .mm v r n => .mm v (fedRank c r) n
  | .agree a => .agree { a with loRank := fedRank c a.loRank, hiRank := fedRank c a.hiRank }
  | a => a

/-! ## Empty values (R213) -/

/-- A field's value is non-empty. -/
def Desc.accNonEmpty (d : Desc) : Acc → Bool
  | .sum v => v != 0
  | .hist u o l => u != 0 || o != 0 || !l.isEmpty
  | .topk e => !e.isEmpty
  | .mm _ _ n => n != 0
  | .bmap v => if d.op = 6 then v != 2 ^ d.size - 1 else v != 0
  | .agree a => a.valid != 0
  | .hll l => !l.isEmpty
  | .keep => false

/-- The bits of a context's 64-bit bitmap that are set, ascending. -/
def bitList (n : Nat) : List Nat := (List.range 64).filter (n.testBit ·)

/-- How many bits are set. -/
def popCount (w n : Nat) : Nat := (List.range w).countP (n.testBit ·)

end Sys2Proof.Machine
end

