-- ==== Sys2Proof/Machine/Recorder.lean ====
section
/-!
DEFINITION. Reading the recorder (R344 to R347), the spill to the HBM log (R342, R343), and the end of a command, when what it wrote
takes its place in the rings (R31, R339).
-/

namespace Sys2Proof.Machine

/-! ## The freeze block of a ring: REC of a section, or the island's in MGMT (R363) -/

/-- Read a field of ring `g`'s freeze block. -/
def Tau.frz (x : Tau) (g : Nat) (sec isl : Fld) : Nat := if g < 4 then x.rd sec (s := g) else x.rd isl

/-- Write a field of ring `g`'s freeze block. -/
def Tau.setFrz (x : Tau) (g : Nat) (sec isl : Fld) (v : Nat) : Tau := if g < 4 then x.wr sec v (s := g) else x.wr isl v

/-- Ring `g`. -/
def Tau.ring (x : Tau) (g : Nat) : Ring := x.rings.getD g Ring.reset

/-- The state with ring `g` changed. -/
def Tau.setRing (x : Tau) (g : Nat) (f : Ring → Ring) : Tau := { x with rings := modifyAt f g x.rings }

/-- FRZ_STAT.CODE of ring `g`. -/
def Tau.frzCode (x : Tau) (g c : Nat) : Tau := x.setFrz g Reg.REC_FRZ_STAT_CODE Reg.MGMT_I_FRZ_STAT_CODE c

/-- A FREEZE is refused. -/
def Tau.frzRefuse (x : Tau) (g c : Nat) : Tau :=
  let x := x.frzCode g c
  if g < 4 then x.bump Reg.REC_FRZ_REF_CNT (s := g) else x.bump Reg.MGMT_IFRZ_REF_CNT

/-- The records of a list that fit in `room` bytes, oldest first: the copy stops before the first that does not. -/
def takeRecs : Nat → List Rec → List Rec
  | _, [] => []
  | room, r :: rs => if r.bytes.length ≤ room then r :: takeRecs (room - r.bytes.length) rs else []

/-- The bytes of a list of records. -/
def recBytes (l : List Rec) : List Byte := l.flatMap (·.bytes)

/-- The 48-byte header of a copy (R344). -/
def Freeze.header (z : Freeze) (g code flags nrec bytes last : Nat) : List Byte :=
  leBytes 1 g ++ leBytes 1 z.minSev ++ leBytes 1 code ++ leBytes 1 flags ++ leBytes 4 nrec ++ leBytes 4 bytes ++
    leBytes 4 z.filtered ++ leBytes 8 z.firstSeq ++ leBytes 8 last ++ leBytes 8 z.t ++ leBytes 4 z.drop ++ leBytes 4 z.evict

/-- Unpin what `p` names. -/
def Ring.unpin (p : Rec → Bool) (g : Ring) : Ring := { g with recs := g.recs.map fun r => if p r then { r with pinned := false } else r }

/-- The FREEZE of ring `g` ends: everything still pinned is unpinned. -/
def Tau.freezeEnd (x : Tau) (g : Nat) : Tau :=
  (x.setRing g fun r => { r.unpin (fun _ => true) with frz := none }).setFrz g Reg.REC_FRZ_STAT_ACTIVE Reg.MGMT_I_FRZ_STAT_ACTIVE 0

/-- A FREEZE has completed with a code (R345). -/
def Tau.freezeDone (x : Tau) (g code nrec : Nat) : Tau :=
  let x := ((x.freezeEnd g).frzCode g code).setFrz g Reg.REC_FRZ_STAT_VALID Reg.MGMT_I_FRZ_STAT_VALID 1
  (x.setFrz g Reg.REC_FRZ_NREC Reg.MGMT_I_FRZ_NREC nrec).raise 1

/-- Write bytes of a copy at offset `o` of its destination (R345). -/
def Tau.putCopy (x : Tau) (z : Freeze) (o : Nat) (b : List Byte) : Tau :=
  x.emitOut (if z.dest = 0 then .hbm (z.addr + o) b else .host (z.addr + o) b)

/-- The header of a copy that ends early (R344 to R346). -/
def Tau.partialHead (x : Tau) (z : Freeze) (g code : Nat) : Tau := x.putCopy z 0 (z.header g code 2 z.nrec z.bytes z.newest)

/-- Copy the pinned records of ring `g` in order while their last byte lies within the first `upTo` bytes of the copy, and unpin each
(R344). A quota refusal ends the copy (R345). -/
def Tau.copyRecs (x : Tau) (g upTo : Nat) : Nat → Tau
  | 0 => x
  | n + 1 =>
    match (x.ring g).frz, ((x.ring g).recs.filter (·.pinned)).head? with
    | some z, some r =>
      if z.want ≤ z.nrec ∨ upTo < 48 + z.bytes + r.bytes.length then x
      else match (if z.dest = 0 then x.hbmCharge g 2 r.bytes.length else (x, true)) with
        | (x, false) => (x.partialHead z g Code.quota).freezeDone g Code.quota z.nrec
        | (x, true) =>
          let x := x.putCopy z (48 + z.bytes) r.bytes
          (x.setRing g fun k => { k.unpin (·.idx == r.idx) with
            frz := some { z with nrec := z.nrec + 1, bytes := z.bytes + r.bytes.length } }).copyRecs g upTo n
    | _, _ => x

/-- The copies to HBM and to the host proceed at 8 GB/s, which is 2 bytes a tick (R345). -/
def Tau.freezeStep (x : Tau) : Tau :=
  forIdx 4 (fun g x => match (x.ring g).frz with
    | some z => if z.dest = 2 then x else x.copyRecs g (2 * (x.now - z.t)) z.want
    | none => x) x

/-- No copy of a section's ring to HBM or to the host runs. -/
def Tau.still (x : Tau) : Bool := (List.range 4).all fun g => match (x.ring g).frz with
  | some z => z.dest == 2
  | none => true

/-- Start a FREEZE of ring `g` (R344 to R346). The header of a copy to HBM is charged as the copy starts and written as it ends
(assumption 25). -/
def Tau.freezeStart (x : Tau) (g dest minSev : Nat) : Tau :=
  let r := x.ring g
  if r.frz.isSome then x.frzRefuse g Code.busy
  else if dest = 3 ∨ (g = 4 ∧ dest ≠ 2) then x.frzRefuse g Code.fit
  else
    let from_ := x.frz g Reg.REC_FRZ_FROM_LO Reg.MGMT_I_FRZ_FROM_LO + 2 ^ 32 * x.frz g Reg.REC_FRZ_FROM_HI Reg.MGMT_I_FRZ_FROM_HI
    let pins := r.recs.filter fun q => decide (from_ ≤ q.idx)
    let want := pins.filter fun q => decide (minSev ≤ q.sev)
    let got := takeRecs (x.frz g Reg.REC_FRZ_MAX Reg.MGMT_I_FRZ_MAX) want
    let trunc := decide (got.length < want.length)
    let first := Nat.max from_ ((r.recs.head?.map (·.idx)).getD 0)
    let last (l : List Rec) : Nat := ((l.getLast?.map (·.idx)).getD (first + 2 ^ 64 - 1)) % 2 ^ 64
    let z : Freeze :=
      { dest := dest, minSev := minSev, from_ := from_, firstSeq := first, lastSeq := last (if trunc then got else pins),
        newest := last pins, want := got.length, trunc := trunc, nrec := 0, bytes := 0,
        filtered := pins.length - want.length, t := x.now,
        drop := if g < 4 then x.rd Reg.REC_DROP_CNT (s := g) else x.rd Reg.MGMT_IDROP_CNT,
        evict := if g < 4 then x.rd Reg.REC_EVICT_CNT (s := g) else x.rd Reg.MGMT_IEVICT_CNT,
        addr := x.frz g Reg.REC_FRZ_DEST_LO Reg.MGMT_I_FRZ_DEST_LO + 2 ^ 32 * x.frz g Reg.REC_FRZ_DEST_HI Reg.MGMT_I_FRZ_DEST_HI,
        window := [], start := x.per }
    let head := z.header g Code.done (bit trunc) got.length (recBytes got).length z.lastSeq
    let z := { z with window := if dest = 2 then head ++ recBytes got else [] }
    let keep (q : Rec) : Bool := decide (from_ ≤ q.idx) && decide (minSev ≤ q.sev)
    let x := x.setRing g fun r => { r with frz := some z, recs := r.recs.map fun q => { q with pinned := keep q } }
    let x := x.setFrz g Reg.REC_FRZ_NREC Reg.MGMT_I_FRZ_NREC (if dest = 2 then got.length else 0)
    let x := x.setFrz g Reg.REC_FRZ_STAT_ACTIVE Reg.MGMT_I_FRZ_STAT_ACTIVE 1
    if dest = 0 then match x.hbmCharge g 2 48 with
      | (x, true) => x
      | (x, false) => x.freezeDone g Code.quota 0
    else x

/-- FREEZE_COPY_COMPLETE of ring `g` (R344, R345): what is left is copied, and the header is written. -/
def Tau.freezeCopy (x : Tau) (g : Nat) : Tau :=
  match (x.ring g).frz with
  | none => x
  | some z =>
    if z.dest = 2 then x
    else
      let x := x.copyRecs g (48 + z.bytes + (recBytes (x.ring g).recs).length) z.want
      match (x.ring g).frz with
      | some z => (x.putCopy z 0 (z.header g Code.done (bit z.trunc) z.nrec z.bytes z.lastSeq)).freezeDone g Code.done z.nrec
      | none => x

/-- The FREEZE of a section that fails (R346): the copy ends where it stood, and the header of DEST 0 or 1 says so. -/
def Tau.freezeAbort (x : Tau) (g : Nat) : Tau :=
  match (x.ring g).frz with
  | none => x
  | some z =>
    let x := x.freezeEnd g
    if z.dest = 2 then x
    else ((x.partialHead z g Code.aborted).frzCode g Code.aborted).setFrz g Reg.REC_FRZ_NREC Reg.MGMT_I_FRZ_NREC z.nrec

/-- Unpin each record whose last byte has left the window. -/
def Ring.unpinRead (z : Freeze) (g : Ring) : Ring :=
  let after (q : Rec) : Nat :=
    (g.recs.filter fun r => r.pinned && decide (q.idx < r.idx) && decide (r.idx ≤ z.lastSeq)).foldl (fun n r => n + r.bytes.length) 0
  g.unpin fun q => q.pinned && decide (q.idx ≤ z.lastSeq) && decide (z.window.length ≤ after q)

/-- A read of WIN_DATA (R345): the next word of the window, zero where none is open. The last word closes the window. -/
def Tau.windowRead (x : Tau) (g : Nat) : Nat × Tau :=
  match (x.ring g).frz with
  | some z =>
    if z.dest ≠ 2 then (0, x)
    else
      let w := leNat (z.window.take 4)
      let z := { z with window := z.window.drop 4 }
      let n := x.frz g Reg.REC_FRZ_NREC Reg.MGMT_I_FRZ_NREC
      let x := x.setRing g fun r => { r.unpinRead z with frz := some z }
      (w, if z.window.isEmpty then x.freezeDone g Code.done n else x)
  | none => (0, x)

/-- The window closes before its last word is read (R345). -/
def Tau.windowClose (x : Tau) (g : Nat) : Tau :=
  match (x.ring g).frz with
  | some z => if z.dest = 2 then x.freezeEnd g else x
  | none => x

/-- WIN_TMO periods after GO the window closes (R345). -/
def Tau.windowTimeout (x : Tau) (g : Nat) : Tau :=
  match (x.ring g).frz with
  | some z => if z.start + x.frz g Reg.REC_WIN_TMO Reg.MGMT_I_WIN_TMO ≤ x.per then x.windowClose g else x
  | none => x

/-! ## Snapshots (R347) -/

/-- The record that a SEQ [30:0] asks for: the stored one of the smallest SEQ at or above it among the ring's last 2^30 numbers. -/
def Ring.snapshot (g : Ring) (n : Nat) : Option (Rec × Bool) :=
  let low := g.seq - 2 ^ 30
  let want := low + (n + 2 ^ 31 - low % 2 ^ 31) % 2 ^ 31
  let r := (g.recs.filter fun r => decide (want ≤ r.idx)).head?
  if g.seq ≤ want then none else r.map fun r => (r, r.idx != want)

/-- A write of SNAP_SEQ of section `s`. -/
def Tau.snapshot (x : Tau) (s : Nat) : Tau :=
  match (x.ring s).snapshot (x.rd Reg.REC_SNAP_SEQ (s := s)) with
  | none => (x.wr Reg.REC_SNAP_STAT_VALID 0 (s := s)).wr Reg.REC_SNAP_STAT_GONE 1 (s := s)
  | some (r, gone) =>
    let x := ((x.wr Reg.REC_SNAP_STAT_VALID 1 (s := s)).wr Reg.REC_SNAP_STAT_GONE (bit gone) (s := s)).wr
      Reg.REC_SNAP_STAT_LEN8 (r.bytes.length / 8) (s := s)
    let x := x.wr Reg.REC_SNAP_SEQ_OUT r.idx (s := s)
    forIdx (r.bytes.length / 4) (fun i x => x.wr Reg.REC_SNAP_BUF (fieldAt r.bytes (4 * i) 4) i s) x

/-! ## Spill (R342, R343, R369) -/

/-- Record bytes that wait to be spilled. -/
def Ring.unspilled (g : Ring) : Nat :=
  (g.recs.filter fun r => !r.spilled).foldl (fun n r => n + r.bytes.length - (if r.idx = g.part.1 then g.part.2 else 0)) 0

/-- The bytes from which the next spill BULK is made, and the offset in them of the first record boundary. -/
def Ring.spillData (g : Ring) : List Byte × Option Nat :=
  match g.recs.filter fun r => !r.spilled with
  | [] => ([], none)
  | r :: rs =>
    let cut := if r.idx = g.part.1 then g.part.2 else 0
    let rest := rs.flatMap (·.bytes)
    let own := r.bytes.drop cut
    (own ++ rest, if cut = 0 then some 0 else if rs.isEmpty then none else some own.length)

/-- Mark `n` bytes of unspilled records as spilled, oldest first: the records, and the one left in part. -/
def markSpilled : Nat → Nat × Nat → List Rec → List Rec × (Nat × Nat)
  | _, p, [] => ([], p)
  | n, p, r :: rs =>
    if r.spilled then
      let (l, q) := markSpilled n p rs
      (r :: l, q)
    else
      let cut := if r.idx = p.1 then p.2 else 0
      let have_ := r.bytes.length - cut
      if n = 0 then (r :: rs, (r.idx, cut))
      else if have_ ≤ n then
        let (l, q) := markSpilled (n - have_) (0, 0) rs
        ({ r with spilled := true } :: l, q)
      else (r :: rs, (r.idx, cut + n))

/-- Overwrite the oldest BULK records of a log, whole, until `need` bytes are free of `cap`: the log, and how many went. -/
def logRoom (cap need : Nat) : List Nat → List Nat × Nat
  | [] => ([], 0)
  | b :: l =>
    if (b :: l).foldl (· + ·) 0 + need ≤ cap then (b :: l, 0)
    else
      let (l', n) := logRoom cap need l
      (l', n + 1)

/-- The records of a stopped log are counted once each in LOG_FULL_CNT (R343). -/
def Tau.logFull (x : Tau) (s : Nat) : Tau :=
  let g := x.ring s
  let new := (g.recs.filter fun r => !r.spilled && decide (g.fullTo ≤ r.idx)).length
  (x.setRing s fun g => { g with fullTo := g.seq }).bumpBy Reg.REC_LOG_FULL_CNT new (s := s)

/-- Build one spill BULK of section `s` from its oldest unspilled bytes: none where spill is stopped. -/
def Tau.spillOne (x : Tau) (s : Nat) : Tau × Bool :=
  let g := x.ring s
  let (data, first) := g.spillData
  let zip := x.rd Reg.REC_LOG_CTRL_DEFLATE == 1
  let enc := encodeCblk (x.rd Reg.CMP_EFFORT) 972 false data
  let n := if zip then enc.taken else Nat.min 972 data.length
  let body := if zip then enc.block.getD [] else data.take n
  let first := match first with | some f => if f < n then f else 0xFFFF | none => 0xFFFF
  let p := x.per
  let r := mkRecord
    { ver := 1, cls := 7, sev := 0, ho := x.holdover, gap := false, late := false, order := false, sat := false, len := 0,
      consist := 0xFFFF, rank := x.base, epochLo := 0, job := 0xFFFF, eb := ebUnits x.errBound, sigT := 128,
      sigL := 0, t := p * 2 ^ 18, rsv := false }
    (bulkBody g.spillOfs 0 first 1 (if zip then 8 else 0) s body)
  let cap := x.rd Reg.REC_LOG_SIZE * 2 ^ 20
  let used := g.log.foldl (· + ·) 0
  if cap < used + r.length ∧ x.rd Reg.REC_LOG_CTRL_HOLD = 1 then (x.logFull s, false)
  else
    match x.hbmCharge s 2 r.length with
    | (x, false) => (x.setRing s fun g => { g with stopped := true }, false)
    | (x, true) =>
      let (log, above) := logRoom cap r.length g.log
      let wr := x.rd Reg.REC_LOG_WR (s := s)
      let base := x.rd Reg.REC_LOG_BASE_LO * 4096 + x.rd Reg.REC_LOG_BASE_HI * 2 ^ 32 + s * cap
      let tail := cap - wr
      let x := if r.length ≤ tail then x.emitOut (.hbm (base + wr) r)
        else (x.emitOut (.hbm (base + wr) (r.take tail))).emitOut (.hbm base (r.drop tail))
      let (recs, part) := markSpilled n g.part g.recs
      let x := x.setRing s fun g => { g with recs := recs, part := part, spillOfs := g.spillOfs + n, log := log ++ [r.length] }
      let x := if zip then ((x.encoded s n).bumpBy Reg.CMP_RAW_CNT (bit enc.raw) (s := s)).ctxMoved s 2 0 n body.length else x
      ((x.wr Reg.REC_LOG_WR ((wr + r.length) % cap) (s := s)).bumpBy Reg.REC_LOG_WRAP_CNT above (s := s), true)

/-- Spill while section `s` holds `least` unspilled bytes or more. What the quota refused waits for the next period boundary (R343). -/
def Tau.spill (x : Tau) (s least : Nat) : Nat → Tau
  | 0 => x
  | n + 1 =>
    if x.rd Reg.REC_LOG_SIZE = 0 ∨ (x.ring s).stopped ∨ (x.ring s).unspilled < Nat.max 1 least then x
    else match x.spillOne s with
      | (x, true) => x.spill s least n
      | (x, false) => x

/-- Spill in every section in service: BULK records that are full, and at a period boundary whatever is held (R342). -/
def Tau.spillAll (x : Tau) (least : Nat) : Tau := x.sections.foldl (fun x s => x.spill s least 4096) x

/-- At a period boundary every section spills whatever it holds, what the quota had refused included (R342, R343). -/
def Tau.spillBoundary (x : Tau) : Tau :=
  ({ x with rings := x.rings.map fun (g : Ring) => { g with stopped := false } } : Tau).spillAll 1

/-! ## The end of a command (R31, R339, R342) -/

/-- What the command wrote takes its place: data plane first, then control plane, then management plane. Spill BULKs that are full are
built. -/
def Tau.flushRecords (x : Tau) : Tau :=
  if x.recq.isEmpty then x
  else (forEach (isort (fun (a b : RecReq) => decide (a.plane ≤ b.plane)) x.recq) (fun q (y : Tau) => y.putRecord q)
    { x with recq := [] }).spillAll 972

end Sys2Proof.Machine
end

