-- ==== Sys2Proof/Machine/Time.lean ====
section
/-!
DEFINITION. Fleet Time in the TAU (chapter 2): IEEE 1588 exchanges, the timebase filter, slewing, refusal and holdover, the time
words and echoes of the links, and the timing pins.
-/

namespace Sys2Proof.Machine

/-! ## T64 and IEEE 1588 timestamps -/

/-- A T64 from an IEEE 1588 timestamp; none where it is out of range (R40). -/
def ptpToT64 (sec ns : Nat) (corr : Int) : Option Int :=
  let v : Int := (sec * 4000000000 + ns * 4 : Nat) + divEven corr 16384
  if v < 0 ∨ (2 ^ 64 : Nat) ≤ v ∨ 4611686018 < sec then none else some v

/-- The IEEE 1588 timestamp of a T64 (R41): seconds, nanoseconds and the part for the correctionField. -/
def t64ToPtp (t : Nat) : Nat × Nat × Int :=
  (t / 4000000000, t % 4000000000 / 4, ((t % 4000000000 % 4 * 16384 : Nat) : Int))

/-! ## The passage of Fleet Time -/

/-- Part of a slew removed in `dt` ticks at `ppm` (R48). -/
def slewAfter (ppm dt : Nat) (s : Int) : Int :=
  let n : Int := (2 * ppm * dt : Nat)
  if s < 0 then (if s + n < 0 then s + n else 0) else (if 0 < s - n then s - n else 0)

/-- Ticks from `a` to `b` on the circle of T64, which wraps after 2^64 ticks (R4); 0 where `b` lies behind `a` (assumption 2). -/
def ticksTo (a b : T64) : Nat := if (b - a).toNat < 2 ^ 63 then (b - a).toNat else 0

/-- A filtered offset is the source's time minus FT, so what a slew has removed leaves it (R47, R50): half ticks × 10^6 before and
after. -/
def Source.slewed (before after : Int) (s : Source) : Source :=
  { s with filt := s.filt - (before / 1000000 - after / 1000000) }

/-- REF10M_OUT from the instant `a` to `b`, both of one turn of T64, that of `a` left out: a rising edge at every multiple of 400 ticks,
high for half its period (R69, R485). -/
def Tau.refOut (x : Tau) (a b : Nat) : Tau :=
  if x.unset || x.rd Reg.TIME_PIN_CFG_REF10M_OUT_EN != 1 || b / 400 == a / 400 then x
  else x.emitOut (.pulses 1 ((a / 400 + 1) * 400) 400 200 (b / 400 - a / 400))

/-- REF10M_OUT over `dt` ticks from `a`, across the wrap of T64 too, which falls on an edge (R4). -/
def Tau.refFor (x : Tau) (a dt : Nat) : Tau :=
  if a + dt < 2 ^ 64 then x.refOut a (a + dt)
  else
    let x := x.refOut a (2 ^ 64 - 1)
    if x.unset || x.rd Reg.TIME_PIN_CFG_REF10M_OUT_EN != 1 then x
    else x.emitOut (.pulses 1 0 400 200 ((a + dt - 2 ^ 64) / 400 + 1))

/-- The TAU at the instant `t` of its own FT: a slew proceeds (R48), a holdover bound grows (R51), and REF10M_OUT runs. FT never runs
backwards. -/
def Tau.advance (t : T64) (x : Tau) : Tau :=
  let dt := ticksTo x.ft t
  if dt = 0 then x
  else
    let x := x.refFor x.ft.toNat dt
    let slew := slewAfter (x.rd Reg.TIME_SLEW_PPM) dt x.time.slew
    let rate := if x.rd Reg.TIME_TIME_STATE_EXT10M = 1 then x.rd Reg.TIME_HO_RATE_EXT else x.rd Reg.TIME_HO_RATE_INT
    let hold := if x.holdover then x.time.hold + rate * dt else x.time.hold
    ({ x with ft := t, time := { x.time with slew := slew, hold := hold, src := x.time.src.map (Source.slewed x.time.slew slew) } }).wr
      Reg.TIME_TIME_STATE_SLEWING (bit (slew != 0))

/-- What a command leaves of the TAU, with the inputs that only their own events change: the supplies, and which links are up. -/
def Tau.inputsOf (x y : Tau) : Tau := { y with islPg := x.islPg, main := x.main, links := x.links }

/-- What a command does to the TAU at the instant `t`, while the island is fed; an island that is off does nothing (R477). -/
def State.onIsland (t : T64) (f : Tau → Tau) (s : State) : State :=
  s.onTau fun x => if x.islPg then x.inputsOf (f (x.advance t).freezeStep).flushRecords else x

/-- What a command does to the TAU at the instant `t`, while the main rails are up too: without them the sections, their queues and
their links do nothing (R38, R478). -/
def State.onMain (t : T64) (f : Tau → Tau) (s : State) : State :=
  s.onTau fun x => if x.on then x.inputsOf (f (x.advance t).freezeStep).flushRecords else x

/-- Start slewing a correction, in half ticks (R48). -/
def Tau.startSlew (x : Tau) (c : Int) : Tau :=
  ({ x with time := { x.time with slew := c * 1000000 } }).wr Reg.TIME_TIME_STATE_SLEWING (bit (c != 0))

/-- Move to LOCKED on source `i` (R52). -/
def Tau.lockOn (x : Tau) (i : Nat) : Tau := (x.wr Reg.TIME_TIME_STATE_STATE 1).wr Reg.TIME_TIME_STATE_SRC i

/-- Hold over in state `st` (2 HOLDOVER, 3 REFUSING): the bound starts from its value at entry (R51, R56). -/
def Tau.holdOver (x : Tau) (st : Nat) : Tau :=
  let hold := if x.holdover then x.time.hold else x.errBound * hourTicks
  let x := { x with time := { x.time with hold := hold, slew := 0 } }
  ((x.wr Reg.TIME_TIME_STATE_SLEWING 0).wr Reg.TIME_TIME_STATE_STATE st).wr Reg.TIME_TIME_STATE_SRC 0x1F

/-! ## Sources (R42 to R46) -/

/-- Source `i` as the timebase holds it. -/
def Tau.source (x : Tau) (i : Nat) : Source := x.time.src.getD i Source.reset

/-- The state with source `i` changed. -/
def Tau.setSource (x : Tau) (i : Nat) (f : Source → Source) : Tau :=
  { x with time := { x.time with src := modifyAt f i x.time.src } }

/-- Source `i` is enabled: SRC_EN, and for an IEEE 1588 port P_CFG (R72). -/
def Tau.srcEnabled (x : Tau) (i : Nat) : Bool :=
  (x.rd Reg.TIME_SRC_EN).testBit i &&
    (decide (i = 18) || (x.rd Reg.TIME_P_CFG_EN i == 1 && x.rd Reg.TIME_P_CFG_MODE i == 0))

/-- Source `i` is qualified and no refused offer of it is outstanding (R42, R46, R49). -/
def Tau.srcUsable (x : Tau) (i : Nat) : Bool :=
  x.srcEnabled i && (x.source i).refused.isNone &&
    (if i = 18 then x.time.ppsOk && x.time.todKnown && x.rd Reg.TIME_TIME_STATE_EXT10M == 1 else (x.source i).announced)

/-- The identity of port `i` of this TAU: its clock identity, then the port number, from 1 (R43; PRESUMED from IEEE 1588-2019 clause
7.5.2; the clock identity is free, assumption 39). -/
def portIdentity (i : Nat) : Nat := Config.ownClock 5 * 65536 + i + 1

/-- How one data set stands against another in the comparison of the best master clock algorithm. -/
inductive Standing where
  /-- Better. -/
  | better
  /-- Better by topology alone: the same grandmaster by another path. -/
  | topology
  /-- Neither. -/
  | behind
  deriving DecidableEq, Repr

/-- Data set `a`, heard on port `i`, against `b`, heard on port `j`, under the default best master clock algorithm (R43; PRESUMED from
IEEE 1588-2019 clause 9.3.4): grandmaster attributes in order; of the same grandmaster, the steps removed where they differ by more
than one, else by topology the port identities. -/
def compareClock (a : ClockSet) (i : Nat) (b : ClockSet) (j : Nat) : Standing :=
  if a.identity ≠ b.identity then
    let key (s : ClockSet) := [s.priority1, s.clockClass, s.accuracy, s.variance, s.priority2, s.identity]
    if key a < key b then .better else .behind
  else if a.steps + 1 < b.steps then .better
  else if b.steps < a.steps then .behind
  else if a.steps < b.steps then
    if portIdentity j < b.sender then .better else if b.sender < portIdentity j then .topology else .behind
  else if a.sender < b.sender ∨ a.sender = b.sender ∧ i < j then .topology
  else .behind

/-- The port, of those given, whose data set is the best. -/
def Tau.bestOf (x : Tau) (ports : List Nat) : Option Nat :=
  ports.foldl (fun b i => match b with
    | none => some i
    | some j => if compareClock (x.source i).set i (x.source j).set j = .behind then some j else some i) none

/-- The time source that best master clock and R46 select; 0x1F when none is qualified. -/
def Tau.selectSource (x : Tau) : Nat :=
  let best := x.bestOf ((List.range 18).filter x.srcUsable)
  if x.srcUsable 18 && (x.rd Reg.TIME_SRC_CFG_PIN_FIRST == 1 || best.isNone) then 18 else best.getD 0x1F

/-- Select a source again (R42, R45, R52): LOCKED follows the selection, and enters HOLDOVER when no source is qualified. -/
def Tau.reselect (x : Tau) : Tau :=
  if x.rd Reg.TIME_TIME_STATE_STATE = 1 then
    if x.selectSource = 0x1F then x.holdOver 2 else x.wr Reg.TIME_TIME_STATE_SRC x.selectSource
  else x

/-! ## The timebase filter (R47 to R52) -/

/-- Refuse an offer (R49): record, flag, JUMP_OFFER, count; the selected source's refusal holds the timebase over. -/
def Tau.refuseOffer (x : Tau) (i : Nat) (offer : Int) : Tau :=
  let sel := x.rd Reg.TIME_TIME_STATE_SRC == i
  let x := x.record 4 1 6 0x0101 (leBytes 1 i ++ leBytes 1 Code.timeJump ++ zeros 6 ++ leBytes 8 (unsigned 64 offer))
  let x := if i = 18 then x.wr Reg.TIME_PIN_STAT_FLAGGED 1 else x.wr Reg.TIME_P_STAT_FLAGGED 1 i
  let x := (x.wr64 Reg.TIME_JUMP_OFFER_LO Reg.TIME_JUMP_OFFER_HI (unsigned 64 offer)).wr Reg.TIME_JUMP_PORT i
  let x := (x.bump Reg.TIME_JUMP_REFUSED_CNT).setSource i fun s => { s with refused := some offer, back := 0 }
  match x.rd Reg.TIME_TIME_STATE_STATE with
  | 1 => if sel then
      -- The refused source is unused from now on: another qualified source may take over at its own first offer.
      x.holdOver 3
    else x
  | 2 => x.holdOver 3
  | _ => x

/-- Judge the correction that source `i` offers, in half ticks, against JUMP_THR (R48, R49, R52). -/
def Tau.judge (x : Tau) (i : Nat) (c : Int) : Tau :=
  if 2 * x.rd Reg.TIME_JUMP_THR < c.natAbs then x.refuseOffer i (halfEven c)
  else match x.rd Reg.TIME_TIME_STATE_STATE with
    | 0 => x
    | 1 => if x.rd Reg.TIME_TIME_STATE_SRC = i then x.startSlew c else x
    | _ => if x.selectSource = i then (x.lockOn i).startSlew c else x

/-- The offer of eight outliers: their median (R47), in ticks. -/
def medianOf8 (l : List Int) : Int :=
  let s := isort (fun a b => decide (a ≤ b)) l
  divEven (s.getD 3 0 + s.getD 4 0) 4

/-- Timed event output `k` when FT has been set to `ft`: it goes on at the first instant of its grid that has not passed (R70). The
instants passed over use up edges of count mode, as those skipped at a commit do (assumption 52). -/
def Tau.tevSet (x : Tau) (k ft : Nat) : Tau :=
  let v := x.time.tev.getD k ⟨0, none⟩
  match v.next with
  | none => x
  | some n =>
    let skip := ceilDiv (ft - n) (x.rd Reg.TIME_TEV_PERIOD k)
    let done := v.done + skip
    let next := n + skip * x.rd Reg.TIME_TEV_PERIOD k
    let stop := x.rd Reg.TIME_TEV_CTRL_MODE k == 1 && decide (x.rd Reg.TIME_TEV_COUNT k ≤ done)
    { x with time := { x.time with tev := modifyAt (fun _ => ⟨done, if stop then none else some next⟩) k x.time.tev } }

/-- Set FT from a qualified source in UNSET: the only write of FT that is no slew (R52). -/
def Tau.setTime (x : Tau) (i : Nat) (ft : T64) : Tau :=
  let x := { x with ft := ft, time := { x.time with slew := 0, todKnown := true, todArmed := none } }
  let x := forIdx 4 (fun k x => x.tevSet k ft.toNat) x
  (x.setSource i fun s => { s with filt := 0, outl := [], back := 0 }).lockOn i

/-- One offset measurement of source `i`, source minus FT, in half ticks (R47, R49, R52). A source that SRC_EN or P_CFG shuts out is
not qualified and gives none. -/
def Tau.measure (x : Tau) (i : Nat) (m : Int) : Tau :=
  let s := x.source i
  if !x.srcEnabled i then x
  else if x.unset then
    if x.selectSource = i then x.setTime i (BitVec.ofInt 64 ((x.now : Int) + halfEven m)) else x
  else if 2 * x.rd Reg.TIME_JUMP_THR < (m - s.filt).natAbs then
    let x := x.bump Reg.TIME_OUTLIER_CNT
    let outl := m :: s.outl
    if outl.length < 8 then x.setSource i fun s => { s with outl := outl, back := 0 }
    else
      let offer := medianOf8 outl
      (x.setSource i fun s => { s with outl := [], back := 0, filt := 2 * offer }).judge i (2 * offer)
  else
    let filt := Config.timeFilter s.filt m
    let inThr := decide (filt.natAbs ≤ 2 * x.rd Reg.TIME_JUMP_THR)
    let back := if s.refused.isSome && inThr then s.back + 1 else 0
    let x := x.setSource i fun s => { s with outl := [], filt := filt, back := back, accepted := s.accepted && !inThr }
    match s.refused with
    | none => if s.accepted && !inThr && x.rd Reg.TIME_TIME_STATE_STATE == 1 && x.rd Reg.TIME_TIME_STATE_SRC == i then x else x.judge i filt
    | some _ =>
      if back < 64 then x
      else (x.setSource i fun s => { s with refused := none, back := 0 }).judge i filt

/-! ## IEEE 1588 messages (R43, R60, R62) -/

/-- Port `i` sends and hears over UDP over IPv6, not IEEE 802.3 (R43, R72). -/
def Tau.ptpUdp (x : Tau) (i : Nat) : Bool := x.rd Reg.TIME_P_CFG_TRANSPORT i == 1

/-- The multicast address of a port's transport (R43): 01-1B-19-00-00-00 or FF0E::181, and for the peer delay mechanism
01-80-C2-00-00-0E or FF02::6B. -/
def Tau.ptpDest (x : Tau) (i : Nat) (peer : Bool) : Nat :=
  match x.ptpUdp i, peer with
  | false, false => 0x011B19000000
  | false, true => 0x0180C200000E
  | true, false => 0xFF0E * 2 ^ 112 + 0x181
  | true, true => 0xFF02 * 2 ^ 112 + 0x6B

/-- Port `i` takes part in IEEE 1588, and the message is of its domain and transport (R43, R72). A port of the Flistan needs the main
rails. -/
def Tau.ptpHears (x : Tau) (i domain : Nat) (udp : Bool) : Bool :=
  x.islPg && x.rd Reg.TIME_P_CFG_EN i == 1 && x.rd Reg.TIME_PTP_CFG_DOMAIN == domain && x.ptpUdp i == udp && (decide (i < 2) || x.main)

/-- A signed register. -/
def Tau.asym (x : Tau) (i : Nat) : Int := signed 32 (x.rd Reg.TIME_P_ASYM i)

/-- A transmit stamp of port `i`, corrected to the port's reference plane (R60). -/
def Tau.txStamp (x : Tau) (i : Nat) (t : T64) : Int := (t.toNat + x.rd Reg.TIME_P_TX_FIX i : Nat)

/-- A receive stamp of port `i`, corrected to the port's reference plane (R60). -/
def Tau.rxStamp (x : Tau) (i : Nat) (t : T64) : Int := (t.toNat : Int) - (x.rd Reg.TIME_P_RX_FIX i : Nat)

/-- Discard a message and count it (R40, R42). -/
def Tau.ptpDiscard (x : Tau) : Tau := x.bump Reg.TIME_OUTLIER_CNT

/-- Form the measurement that the latest Sync owes, once the mean path delay is known (R47, R60). -/
def Tau.measureSync (x : Tau) (i : Nat) : Tau :=
  let s := x.source i
  match s.owed, s.t12, s.mpd with
  | true, some (t1, t2), some mpd =>
    let off := 2 * (t2 - t1) - (mpd + 2 * x.asym i)
    let x := x.wr Reg.TIME_P_OFFSET (unsigned 32 (clipS 32 (halfEven off))) i
    (x.setSource i fun s => { s with owed := false }).measure i (-off)
  | _, _, _ => x

/-- A new t1 and t2 on port `i` (R60). -/
def Tau.newSync (x : Tau) (i : Nat) (t1 t2 : Int) : Tau :=
  (x.setSource i fun s => { s with t12 := some (t1, t2), owed := true, sync := none }).measureSync i

/-- The port of the best data set heard, under best master clock (R43). -/
def Tau.bestPort (x : Tau) : Option Nat :=
  x.bestOf ((List.range 18).filter fun i =>
    x.rd Reg.TIME_P_CFG_EN i == 1 && x.rd Reg.TIME_P_CFG_MODE i == 0 && (x.source i).announced)

/-- Port `i` is slave: it heard the best data set (R43, R62). -/
def Tau.ptpSlave (x : Tau) (i : Nat) : Bool := x.bestPort == some i

/-- A new mean path delay on port `i`, in half ticks: P_MEAN_DELAY, the check of R62 on a long-haul port that is slave, and the
measurement owed (R60). -/
def Tau.newDelay (x : Tau) (i : Nat) (mpd : Int) : Tau :=
  let x := x.setSource i fun s => { s with mpd := some mpd, req := none, presp := none }
  let x := x.wr Reg.TIME_P_MEAN_DELAY (unsigned 32 (halfEven mpd)) i
  let s2m := mpd - 2 * x.asym i + 2 * ((x.rd Reg.TIME_P_TX_FIX i + x.rd Reg.TIME_P_RX_FIX i : Nat) : Int)
  let lh := decide (2 ≤ i) && x.fuses.lhPorts.testBit (i - 2) && x.ptpSlave i
  let x := if lh && decide (((2 * x.rd Reg.TIME_P_LH_ALLOW i : Nat) : Int) < s2m) then
      (x.wr Reg.TIME_P_STAT_ALLOW_EXCEEDED 1 i).bump Reg.TIME_P_STAT_ALLOW_EXC_CNT i
    else x
  x.measureSync i

/-- A Sync arrives (R42, R47, R60). -/
def Tau.ptpSync (x : Tau) (i : Nat) (m : PtpMsg) (t : T64) : Tau :=
  if !x.ptpHears i m.domain m.udp || x.rd Reg.TIME_P_CFG_MODE i != 0 then x
  else if !(x.source i).announced then x.ptpDiscard
  else if m.twoStep then x.setSource i fun s => { s with sync := some (m.seq, x.rxStamp i t, m.corr) }
  else match ptpToT64 m.sec m.ns m.corr with
    | none => x.ptpDiscard
    | some t1 => x.newSync i t1 (x.rxStamp i t)

/-- A Follow_Up arrives: t1 of a two-step Sync (R60). -/
def Tau.ptpFollowUp (x : Tau) (i : Nat) (m : PtpMsg) : Tau :=
  if !x.ptpHears i m.domain m.udp || x.rd Reg.TIME_P_CFG_MODE i != 0 then x
  else if !(x.source i).announced then x.ptpDiscard
  else match (x.source i).sync with
    | some (seq, t2, corr) =>
      if seq = m.seq then
        match ptpToT64 m.sec m.ns (corr + m.corr) with
        | none => x.ptpDiscard
        | some t1 => x.newSync i t1 t2
      else x
    | none => x

/-- A Delay_Resp arrives: the mean path delay from t1 to t4 (R60). -/
def Tau.ptpDelayResp (x : Tau) (i : Nat) (m : PtpMsg) : Tau :=
  if !x.ptpHears i m.domain m.udp || x.rd Reg.TIME_P_CFG_MODE i != 0 then x
  else if !(x.source i).announced then x.ptpDiscard
  else if x.rd Reg.TIME_P_CFG_DELAY_MECH i != 0 then x
  else match (x.source i).req, (x.source i).t12 with
    | some (seq, t3), some (t1, t2) =>
      if seq = m.seq then
        match ptpToT64 m.sec m.ns m.corr with
        | none => x.ptpDiscard
        | some t4 => x.newDelay i ((t2 - t1) + (t4 - t3))
      else x
    | _, _ => x

/-- A Pdelay_Resp arrives (R60). A one-step answer carries its turn-around in the correctionField. -/
def Tau.ptpPdelayResp (x : Tau) (i : Nat) (m : PtpMsg) (t : T64) : Tau :=
  if !x.ptpHears i m.domain m.udp then x
  else if !(x.source i).announced then x.ptpDiscard
  else if x.rd Reg.TIME_P_CFG_DELAY_MECH i != 1 then x
  else match (x.source i).req with
    | some (seq, t1) =>
      if seq = m.seq then
        if m.twoStep then
          match ptpToT64 m.sec m.ns m.corr with
          | none => x.ptpDiscard
          | some t2 => x.setSource i fun s => { s with presp := some (seq, t2, x.rxStamp i t) }
        else x.newDelay i (x.rxStamp i t - t1 - divEven m.corr 16384)
      else x
    | none => x

/-- A Pdelay_Resp_Follow_Up arrives: t3 of the peer's answer (R60). -/
def Tau.ptpPdelayRespFollowUp (x : Tau) (i : Nat) (m : PtpMsg) : Tau :=
  if !x.ptpHears i m.domain m.udp then x
  else if !(x.source i).announced then x.ptpDiscard
  else if x.rd Reg.TIME_P_CFG_DELAY_MECH i != 1 then x
  else match (x.source i).req, (x.source i).presp with
    | some (seq, t1), some (seq', t2, t4) =>
      if seq = m.seq ∧ seq' = m.seq then
        match ptpToT64 m.sec m.ns m.corr with
        | none => x.ptpDiscard
        | some t3 => x.newDelay i ((t2 - t1) + (t4 - t3))
      else x
    | _, _ => x

/-- A message of this TAU on port `i` carrying the T64 `t` (R41), beside a correction `c`. -/
def Tau.ptpStamp (x : Tau) (i seq : Nat) (t : Nat) (twoStep : Bool) (c : Int := 0) : PtpMsg :=
  let (s, n, q) := t64ToPtp t
  ⟨x.rd Reg.TIME_PTP_CFG_DOMAIN, x.ptpUdp i, seq, s, n, q + c, twoStep⟩

/-- The data set that this TAU has of its own: the manual names priority1 and priority2 of a TAU and gives no register of them (R45);
free, by attribute (assumption 39). -/
def ownClock : ClockSet :=
  ⟨Config.ownClock 0, Config.ownClock 1, Config.ownClock 2, Config.ownClock 3, Config.ownClock 4, Config.ownClock 5, 0,
    Config.ownClock 5 * 65536⟩

/-- A port that heard `e` is master though another port, `b`, heard the best data set `best` (R43; PRESUMED from IEEE 1588-2019 clause
9.3.3). A TAU whose own data set has clockClass 1 to 127 is master where that set is the better one, and else passive; any other is
passive where `best` is better by topology alone and its own set is not better still, and else master. -/
def otherMaster (best : ClockSet) (b : Nat) (e : ClockSet) (i : Nat) : Bool :=
  let own (s : ClockSet) (j : Nat) := compareClock ownClock 0 s j != .behind
  if 1 ≤ ownClock.clockClass ∧ ownClock.clockClass ≤ 127 then own e i
  else own best b || compareClock best b e i != .topology

/-- A port acts as master (R43): by configuration, or by the state decision of best master clock. A port that hears nobody is master, and
the port of the best data set is slave, since R42 and R52 follow a source that is qualified (assumption 39). -/
def Tau.ptpMaster (x : Tau) (i : Nat) : Bool :=
  x.rd Reg.TIME_P_CFG_MODE i == 1 || (x.rd Reg.TIME_P_CFG_MODE i == 0 &&
    (!(x.source i).announced ||
      match x.bestPort with
      | some b => b != i && otherMaster (x.source b).set b (x.source i).set i
      | none => true))

/-- The Announce that a master port sends (R42, R43): the grandmaster of the source in use, one step further, or the TAU's own data
set. -/
def Tau.ownAnnounce (x : Tau) (i : Nat) : Announce :=
  let src := x.rd Reg.TIME_TIME_STATE_SRC
  let set := if src < 18 then { (x.source src).set with steps := (x.source src).set.steps + 1 } else ownClock
  let set := { set with sender := portIdentity i }
  ⟨x.rd Reg.TIME_PTP_CFG_DOMAIN, x.ptpUdp i, true, x.rd Reg.TIME_PTP_CFG_UTC_OFFSET, set⟩

/-- A master port receives a Delay_Req, stamps t4 and answers with the request's correction (R60); a source whose Announce lacks
ptpTimescale is discarded (R42). -/
def Tau.ptpDelayReq (x : Tau) (i : Nat) (m : PtpMsg) (t : T64) : Tau :=
  if !x.ptpHears i m.domain m.udp then x
  else if (x.source i).barred then x.ptpDiscard
  else if !x.ptpMaster i || x.rd Reg.TIME_P_CFG_DELAY_MECH i != 0 then x
  else x.emitOut (.ptp i 3 (x.ptpDest i false) (x.ptpStamp i m.seq (x.rxStamp i t).toNat false m.corr))

/-- A port receives a Pdelay_Req and answers: t2, and t3 in a Follow_Up or as a turn-around correction (R43, R60). The answer
departs at `t3`. -/
def Tau.ptpPdelayReq (x : Tau) (i : Nat) (m : PtpMsg) (t t3 : T64) : Tau :=
  if !x.ptpHears i m.domain m.udp then x
  else if (x.source i).barred then x.ptpDiscard
  else if x.rd Reg.TIME_P_CFG_DELAY_MECH i != 1 then x
  else
    let t2 := x.rxStamp i t
    let t3 := x.txStamp i t3
    if x.rd Reg.TIME_PTP_CFG_TWO_STEP = 1 then
      (x.emitOut (.ptp i 5 (x.ptpDest i true) (x.ptpStamp i m.seq t2.toNat true))).emitOut
        (.ptp i 6 (x.ptpDest i true) (x.ptpStamp i m.seq t3.toNat false m.corr))
    else x.emitOut (.ptp i 5 (x.ptpDest i true) ⟨m.domain, m.udp, m.seq, 0, 0, (t3 - t2) * 16384 + m.corr, false⟩)

/-- An Announce arrives (R42, R43): the source is qualified only while ptpTimescale is set. -/
def Tau.ptpAnnounce (x : Tau) (i : Nat) (a : Announce) : Tau :=
  if !x.ptpHears i a.domain a.udp || x.rd Reg.TIME_P_CFG_MODE i != 0 then x
  else if !a.ptpTimescale then ((x.ptpDiscard).setSource i fun s => { s with announced := false, barred := true }).reselect
  else
    let x := x.setSource i fun s => { s with announced := true, barred := false, set := a.set }
    (x.wr Reg.TIME_PTP_CFG_UTC_OFFSET a.utcOffset).reselect

/-- A source's messages stop: it loses its qualification, and what its port held of exchanges (R52). One whose latest Announce lacked
ptpTimescale stays barred until one with the flag arrives (R42). -/
def Tau.ptpLost (x : Tau) (i : Nat) : Tau :=
  (x.setSource i fun s =>
    { s with
      announced := false, sync := none, t12 := none, owed := false, req := none, presp := none, mpd := none,
      outl := [] }).reselect

/-- What a port sends at the end of a message interval (R43): 0 Sync with its Follow_Up when two-step, 1 Announce, 2 a delay
request of its delay mechanism. A TAU that is UNSET has no time to send. -/
def Tau.ptpSend (x : Tau) (i kind : Nat) (t : T64) : Tau :=
  if !x.ptpHears i (x.rd Reg.TIME_PTP_CFG_DOMAIN) (x.ptpUdp i) then x
  else
    let seq := (x.source i).seq
    let t1 := x.txStamp i t
    let next (x : Tau) : Tau := x.setSource i fun s => { s with seq := (s.seq + 1) % 65536 }
    if kind = 2 then
      if (x.source i).announced then
        let x := next (x.setSource i fun s => { s with req := some (seq, t1), presp := none })
        let peer := x.rd Reg.TIME_P_CFG_DELAY_MECH i != 0
        x.emitOut (.ptp i (if peer then 4 else 2) (x.ptpDest i peer) (x.ptpStamp i seq t1.toNat false))
      else x
    else if x.unset || !x.ptpMaster i then x
    else if kind = 1 then (next x).emitOut (.announce i (x.ptpDest i false) seq (x.ownAnnounce i))
    else if x.rd Reg.TIME_PTP_CFG_TWO_STEP = 1 then
      ((next x).emitOut (.ptp i 0 (x.ptpDest i false) (x.ptpStamp i seq t1.toNat true))).emitOut
        (.ptp i 1 (x.ptpDest i false) (x.ptpStamp i seq t1.toNat false))
    else (next x).emitOut (.ptp i 0 (x.ptpDest i false) (x.ptpStamp i seq t1.toNat false))

/-! ## Source 18, TOD_SET and JUMP_ACCEPT (R46, R50, R52, R69) -/

/-- The nearest second of an instant, in ticks. -/
def nearestSecond (t : Nat) : Nat := (t + 2000000000) / 4000000000 * 4000000000

/-- A PPS_IN edge stamped at `t`; `inTol`: within 1 µs of the second that REF10M_IN predicts (R46, R52, R69). -/
def Tau.ppsIn (x : Tau) (t : T64) (inTol : Bool) : Tau :=
  let ext := x.rd Reg.TIME_TIME_STATE_EXT10M == 1
  match x.unset, x.time.todArmed, ext with
  | true, some sec, true =>
    let ft := if sec ≤ 4611686018 then BitVec.ofNat 64 (sec * 4000000000) else Config.todBeyond sec
    let off : Int := (nearestSecond ft.toNat : Int) - (ft.toNat : Int)
    (({ x with time := { x.time with ppsOk := inTol, ppsLast := some ft.toNat } }).wr Reg.TIME_PPS_OFFSET
      (unsigned 32 (clipS 32 off))).setTime 18 ft
  | _, _, _ =>
    let off : Int := (nearestSecond t.toNat : Int) - (t.toNat : Int)
    let x := { x with time := { x.time with ppsOk := inTol && ext, ppsLast := some t.toNat } }
    let x := (x.wr Reg.TIME_PPS_OFFSET (unsigned 32 (clipS 32 off))).reselect
    if x.srcEnabled 18 && x.time.ppsOk && x.time.todKnown then x.measure 18 (2 * off) else x

/-- A write of TOD_SET_LO (R52): arms in UNSET; elsewhere ignored and counted. -/
def Tau.todSet (x : Tau) (lo : Nat) : Tau :=
  if x.unset then { x with time := { x.time with todArmed := some (x.time.todHi * 2 ^ 32 + lo) } }
  else x.bump Reg.TIME_CFG_REFUSED_CNT

/-- A write of JUMP_ACCEPT (R50): with GO, an outstanding refused offer is slewed from the next period boundary. -/
def Tau.jumpAccept (x : Tau) (port : Nat) (go : Bool) : Tau :=
  if !go then x
  else if port < 19 ∧ (x.source port).refused.isSome then { x with time := { x.time with accept := some port } }
  else x.bump Reg.TIME_CFG_REFUSED_CNT

/-- The accepted offer takes effect at a period boundary (R50): the source's latest filtered offset is slewed away, whatever its
magnitude; the 1 ms that the manual names as the largest correction is no limit here (DESIGN CHOICE; assumption 53). -/
def Tau.acceptAtBoundary (x : Tau) : Tau :=
  match x.time.accept with
  | none => x
  | some i =>
    let x := { x with time := { x.time with accept := none } }
    let x := x.setSource i fun s => { s with refused := none, back := 0, accepted := true }
    (x.lockOn i).startSlew (x.source i).filt

/-! ## Time words, echoes and pins (R54 to R57, R69 to R71) -/

/-- The time word of instant `t` (R55). -/
def Tau.timeWord (x : Tau) (t : Nat) : List Byte :=
  withCrc (leBytes 8 t ++ leBytes 1 (bit x.hoOut + 2 * bit (x.time.slew != 0)) ++ leBytes 1 (t / 4096) ++
    leBytes 2 (ebUnits x.errBound))

/-- At a multiple of 2^12 ticks a TRAY TAU sends a time word on every up link, unless it is UNSET (R53, R54). -/
def Tau.sendTimeWords (x : Tau) (t : Nat) : Tau :=
  if x.islPg && x.main && x.isTray && !x.unset && t % 4096 == 0 then
    forEach ((List.range 32).filter (x.links.testBit ·)) (fun l y => y.emitOut (.timeWord l (x.timeWord t))) x
  else x

/-- An echo arrives on link `l` and is stamped t2; the reply departs within 1,024 ticks, at an instant the manual leaves open
(R57). -/
def Tau.echoIn (x : Tau) (l : Nat) (t2 : T64) : Tau :=
  if x.on && x.links.testBit l then
    let (k, x) := x.pick 1024
    x.emitOut (.echoReply l t2.toNat (t2.toNat + 1 + k))
  else x

/-- The grid of timed event output `k` from its committed configuration (R70): START, PERIOD, and the number of edges in count
mode. -/
def Tau.tevGrid (x : Tau) (k : Nat) : Nat × Nat × Option Nat :=
  (x.rd64 Reg.TIME_TEV_START_LO Reg.TIME_TEV_START_HI k, x.rd Reg.TIME_TEV_PERIOD k,
    if x.rd Reg.TIME_TEV_CTRL_MODE k = 1 then some (x.rd Reg.TIME_TEV_COUNT k) else none)

/-- A TEV configuration has committed (R71): the output starts at the first instant of its grid that has not passed, and each
instant that has is counted. In count mode the skipped edges use up TEV_COUNT (DESIGN CHOICE; assumption 52). -/
def Tau.tevArm (x : Tau) (k : Nat) : Tau :=
  let (start, per, cnt) := x.tevGrid k
  let set (x : Tau) (v : Tev) : Tau := { x with time := { x.time with tev := modifyAt (fun _ => v) k x.time.tev } }
  if x.rd Reg.TIME_TEV_CTRL_EN k = 0 then set x ⟨0, none⟩
  else
    let passed := if x.now < start then 0 else (x.now - start) / per + 1
    let miss := match cnt with | some n => min passed n | none => passed
    let x := x.bumpBy Reg.TIME_TEV_MISS_CNT miss k
    match cnt with
    | some n => set x ⟨miss, if miss < n then some (start + miss * per) else none⟩
    | none => set x ⟨miss, some (start + miss * per)⟩

/-- The edge of TEV output `k` at `t` (R70, R71): active edge and its return after TEV_WIDTH. It fires in every state of the timebase,
UNSET included, on the FT that the TAU then has (DESIGN CHOICE; assumption 52). -/
def Tau.tevEdge (x : Tau) (k t : Nat) : Tau :=
  let v := x.time.tev.getD k ⟨0, none⟩
  if x.islPg && x.rd Reg.TIME_TEV_CTRL_EN k == 1 && v.next == some t then
    let (_, per, cnt) := x.tevGrid k
    let done := v.done + 1
    let next := match cnt with | some n => if done < n then some (t + per) else none | none => some (t + per)
    let lvl := x.rd Reg.TIME_TEV_CTRL_POL k == 0
    let x := { x with time := { x.time with tev := modifyAt (fun _ => ⟨done, next⟩) k x.time.tev } }
    ((x.bump Reg.TIME_TEV_FIRED_CNT k).emitOut (.pin (16 + k) lvl t)).emitOut
      (.pin (16 + k) (!lvl) (t + x.rd Reg.TIME_TEV_WIDTH k))
  else x

/-- At a whole second PPS_OUT rises, and is high for 100 ms (R69, R485). -/
def Tau.ppsOut (x : Tau) (t : Nat) : Tau :=
  if x.islPg && !x.unset && t % 4000000000 == 0 && x.rd Reg.TIME_PIN_CFG_PPS_OUT_EN == 1 then
    (x.emitOut (.pin 0 true t)).emitOut (.pin 0 false (t + 400000000))
  else x

/-! ## Meanings -/

/-- PTP_SYNC_RX. -/
def execPtpSyncRx (t : T64) (port : Fin 18) (m : PtpMsg) (s : State) : Host.Outcome State Fault Refusal :=
  .next (s.onIsland t fun x => x.ptpSync port m t)

/-- PTP_FOLLOW_UP_RX. -/
def execPtpFollowUpRx (t : T64) (port : Fin 18) (m : PtpMsg) (s : State) : Host.Outcome State Fault Refusal :=
  .next (s.onIsland t fun x => x.ptpFollowUp port m)

/-- PTP_DELAY_REQ_RX. -/
def execPtpDelayReqRx (t : T64) (port : Fin 18) (m : PtpMsg) (s : State) : Host.Outcome State Fault Refusal :=
  .next (s.onIsland t fun x => x.ptpDelayReq port m t)

/-- PTP_DELAY_RESP_RX. -/
def execPtpDelayRespRx (t : T64) (port : Fin 18) (m : PtpMsg) (s : State) : Host.Outcome State Fault Refusal :=
  .next (s.onIsland t fun x => x.ptpDelayResp port m)

/-- PTP_PDELAY_REQ_RX. -/
def execPtpPdelayReqRx (t t3 : T64) (port : Fin 18) (m : PtpMsg) (s : State) : Host.Outcome State Fault Refusal :=
  .next (s.onIsland t fun x => x.ptpPdelayReq port m t t3)

/-- PTP_PDELAY_RESP_RX. -/
def execPtpPdelayRespRx (t : T64) (port : Fin 18) (m : PtpMsg) (s : State) : Host.Outcome State Fault Refusal :=
  .next (s.onIsland t fun x => x.ptpPdelayResp port m t)

/-- PTP_PDELAY_RESP_FOLLOW_UP_RX. -/
def execPtpPdelayRespFollowUpRx (t : T64) (port : Fin 18) (m : PtpMsg) (s : State) : Host.Outcome State Fault Refusal :=
  .next (s.onIsland t fun x => x.ptpPdelayRespFollowUp port m)

/-- PTP_ANNOUNCE_RX. -/
def execPtpAnnounceRx (t : T64) (port : Fin 18) (a : Announce) (s : State) : Host.Outcome State Fault Refusal :=
  .next (s.onIsland t fun x => x.ptpAnnounce port a)

/-- PTP_SIGNALING_MANAGEMENT_RX: discarded without reply (R43). -/
def execPtpSignalingManagementRx (t : T64) (s : State) : Host.Outcome State Fault Refusal :=
  .next (s.onIsland t fun x => x)

/-- PTP_TRANSMIT_INTERVAL. -/
def execPtpTransmitInterval (t : T64) (port : Fin 18) (kind : Fin 3) (s : State) : Host.Outcome State Fault Refusal :=
  .next (s.onIsland t fun x => x.ptpSend port kind t)

/-- PPS_IN_EDGE. -/
def execPpsInEdge (t : T64) (inTol : Bool) (s : State) : Host.Outcome State Fault Refusal :=
  .next (s.onIsland t fun x => x.ppsIn t inTol)

/-- PPS_IN_MISSING: source 18 loses its qualification (R46). -/
def execPpsInMissing (t : T64) (s : State) : Host.Outcome State Fault Refusal :=
  .next (s.onIsland t fun x =>
    ({ x with time := { x.time with ppsOk := false } }).reselect)

/-- REF10M_IN_QUALIFIED: the island PLL locks to it, and holdover grows at HO_RATE.EXT (R482). -/
def execRef10mInQualified (t : T64) (s : State) : Host.Outcome State Fault Refusal :=
  .next (s.onIsland t fun x => x.wr Reg.TIME_TIME_STATE_EXT10M 1)

/-- REF10M_IN_DISQUALIFIED: source 18 loses its qualification with it (R46, R482). -/
def execRef10mInDisqualified (t : T64) (s : State) : Host.Outcome State Fault Refusal :=
  .next (s.onIsland t fun x =>
    let x := x.wr Reg.TIME_TIME_STATE_EXT10M 0
    ({ x with time := { x.time with ppsOk := false } }).reselect)

/-- ANNOUNCE_RECEIPT_TIMEOUT. -/
def execAnnounceReceiptTimeout (t : T64) (port : Fin 18) (s : State) : Host.Outcome State Fault Refusal :=
  .next (s.onIsland t fun x => x.ptpLost port)

/-- TIME_WORD_TX. -/
def execTimeWordTx (t : T64) (s : State) : Host.Outcome State Fault Refusal :=
  .next (s.onIsland t fun x => x.sendTimeWords t.toNat)

/-- TEV_EDGE. -/
def execTevEdge (t : T64) (k : Fin 4) (s : State) : Host.Outcome State Fault Refusal :=
  .next (s.onIsland t fun x => x.tevEdge k t.toNat)

/-- PPS_OUT_EDGE. -/
def execPpsOutEdge (t : T64) (s : State) : Host.Outcome State Fault Refusal :=
  .next (s.onIsland t fun x => x.ppsOut t.toNat)

end Sys2Proof.Machine
end

