-- ==== Sys2Proof/Machine/Fabric.lean ====
section
/-!
DEFINITION. The TAU's place in the tree: children, sections and homes, jobs and epochs, the times of a context, the loads that
admissions are checked against (R34, R205 to R209), verdicts (R230) and exceptions (R210).
-/

namespace Sys2Proof.Machine

/-! ## Children (R177, R197, R211) -/

/-- Child `c`, where one is attached. -/
def Tau.kid (x : Tau) (c : Nat) : Option Kid := x.scb.kids.getD c none

/-- The state with child `c` changed. -/
def Tau.setKid (x : Tau) (c : Nat) (k : Option Kid) : Tau :=
  { x with scb := { x.scb with kids := modifyAt (fun _ => k) c x.scb.kids } }

/-- Child `c` leaves. -/
def Tau.dropKid (x : Tau) (c : Nat) : Tau :=
  let x := ((x.setKid c none).wr Reg.SCB_CH_BASE rankNone c).wr Reg.SCB_CH_SPAN 0 c
  ((x.wr Reg.SCB_CH_STAT_ATT 0 c).wr Reg.SCB_CH_STAT_ADOPTED 0 c).wr Reg.SCB_CH_STAT_MISS_LAST 0 c |>.wr Reg.SCB_CH_STAT_LATE_LAST 0 c

/-- The attached children, ascending. -/
def Tau.children (x : Tau) : List Nat := (List.range 64).filter fun c => (x.kid c).isSome

/-- Child c's RANK_BASE and span. -/
def Tau.kidBase (x : Tau) (c : Nat) : Nat := x.rd Reg.SCB_CH_BASE c
def Tau.kidSpan (x : Tau) (c : Nat) : Nat := x.rd Reg.SCB_CH_SPAN c

/-- The largest fan-in of a role (R20). -/
def fanIn : Nat → Nat
  | 0 => 16
  | 1 => 32
  | 2 => 64
  | _ => 8

/-- A parent of role `p` takes a child of role `c` (R19, R21). -/
def roleTakes (p c : Nat) : Bool :=
  match p with
  | 1 => c == 0 || c == 1
  | 2 => c == 1 || c == 2
  | 3 => c == 2
  | 4 => c == 3
  | _ => false

/-- How many ranks of a list of ranges lie in [lo, hi). -/
def ranksIn (ranges : List (Nat × Nat)) (lo hi : Nat) : Nat :=
  ranges.foldl (fun n (b, s) => n + (Nat.min (b + s) hi - Nat.max b lo)) 0

/-- Job `h` at this TAU (R399). -/
def Tau.job (x : Tau) (h : Nat) : Option TauJob := x.jobs.find? (·.handle == h)

/-- The state with job `h` changed. -/
def Tau.setJob (x : Tau) (h : Nat) (f : TauJob → TauJob) : Tau :=
  { x with jobs := x.jobs.map fun j => if j.handle = h then f j else j }

/-- What a list of (from period, value) gives in period `p`: the newest that has begun. -/
def inForce (l : List (Nat × Nat)) (p : Nat) : Option Nat := (l.find? fun e => decide (e.1 ≤ p)).map (·.2)

/-- The epoch of a handle at this TAU in period `p` (R154). -/
def Tau.epochAt (x : Tau) (h p : Nat) : Option Nat := (x.job h).bind fun j => inForce j.epochs p

/-- The registered count of child `c` for handle `h` (R197); for the pulse stream the TDUs attached in its subtree (R196). -/
def Tau.regCount (x : Tau) (h c : Nat) : Nat :=
  match x.kid c with
  | none => 0
  | some k =>
    if h = 0xFFFF then (if x.isTray then 1 else ((k.counts.find? (·.1 == 0xFFFF)).map (·.2)).getD (x.kidSpan c))
    else match x.job h with
      | some j => ranksIn j.ranges (x.kidBase c) (x.kidBase c + x.kidSpan c)
      | none => ((k.counts.find? (·.1 == h)).map (·.2)).getD 0

/-- The parent that the TAU is attached to (R451): none while it is detached or requesting. -/
def Tau.parent (x : Tau) : Option Nat :=
  match x.rd Reg.GEN_ATTACH_STAT_STATE with
  | 2 => some (x.rd Reg.GEN_PRI_PARENT)
  | 3 => some (x.rd Reg.GEN_ALT_PARENT)
  | _ => none

/-! ## Homes (R33, R35, R208) -/

/-- The section that serves what belongs to section `s` at position `i` of eight (R35, R208): s itself, or while it is out its
3/3/2 substitute, skipping sections out of service. -/
def Tau.rehome (x : Tau) (s i : Nat) : Nat :=
  if x.homed s then s
  else
    let k := if i % 8 < 3 then 1 else if i % 8 < 6 then 2 else 3
    let order := [k, k % 3 + 1, (k + 1) % 3 + 1].map fun d => (s + d) % 4
    (order.find? x.homed).getD s

/-- The section to which a link is homed (R32, R35). -/
def Tau.linkHome (x : Tau) (l : Nat) : Nat := x.rehome (l / 8) (l % 8)

/-- The section that runs a stream (R208). -/
def Tau.streamHome (x : Tau) (s : Stream) : Nat := x.rehome s.home s.place

/-- The stream of a job and a consist (R176). -/
def Tau.stream (x : Tau) (j c : Nat) : Option Stream := x.scb.streams.find? fun s => s.job == j && s.consist == c

/-- The section that runs the stream of a job and a consist. -/
def Tau.homeOf (x : Tau) (j c : Nat) : Nat := ((x.stream j c).map x.streamHome).getD x.anySec

/-- The state with one stream changed. -/
def Tau.setStream (x : Tau) (j c : Nat) (f : Stream → Stream) : Tau :=
  { x with scb := { x.scb with streams := x.scb.streams.map fun s => if s.job = j ∧ s.consist = c then f s else s } }

/-- A stream is due for period `p` (R78, R176). -/
def Stream.due (s : Stream) (p : Nat) : Bool := p % 2 ^ s.div == s.phase % 2 ^ s.div

/-- A stream takes contexts of period `p`. -/
def Stream.live (s : Stream) (p : Nat) : Bool :=
  decide (s.from_ ≤ p) && (match s.until_ with | some q => decide (p < q) | none => true)

/-! ## Consists (R166, R173) -/

/-- A loaded consist (R171). -/
def Tau.consist (x : Tau) (id : Nat) : Option Consist := x.lib.consists.find? (·.id == id)

/-- The consist that an id names in period `p` (R173): a removed one still stands for the periods before its removal. -/
def Tau.consistIn (x : Tau) (id p : Nat) : Option Consist :=
  (x.lib.consists ++ x.lib.ended).find? fun c => c.id == id && c.usable p

/-- The fields of a stream in period `p`. -/
def Tau.fieldsIn (x : Tau) (id p : Nat) : List Desc := ((x.consistIn id p).map (·.fields)).getD []

/-- The fields of a stream: the pulse stream has none (R234). -/
def Tau.fields (x : Tau) (id : Nat) : List Desc := ((x.consist id).map (·.fields)).getD []

/-- The largest train of a stream (R205). -/
def Tau.trainMax (x : Tau) (id : Nat) : Nat := trainLen (x.fields id)

/-! ## The times of a context (R179) -/

/-- SHIFT: the largest P_LH_ALLOW of the long-haul ports on which children are reached. -/
def Tau.shift (x : Tau) : Nat :=
  x.children.foldl (fun m c => match x.kid c with
    | some ⟨_, some j, _, _, _, _, _⟩ => Nat.max m (x.rd Reg.TIME_P_LH_ALLOW (j + 2))
    | _ => m) 0

/-- EMIT_OFS, fixed on a TRAY TAU. -/
def Tau.emitOfs (x : Tau) : Nat := if x.isTray then 262144 else x.rd Reg.SCB_EMIT_OFS

/-- CLOSE − B. -/
def Tau.closeOfs (x : Tau) : Nat := x.emitOfs + x.shift + 212992 + x.rd Reg.TTB_GUARD

/-- READY − B: what a child reports to its parent. -/
def Tau.readyOfs (x : Tau) : Nat := x.closeOfs + 17152

/-- The context slots that a stream of divisor 2^div holds at once (R207). -/
def slotsFor (readyOfs div : Nat) : Nat := ceilDiv readyOfs (2 ^ (18 + div))

/-- Contexts reserved for a job handle (R207). -/
def Tau.reserved (x : Tau) (h : Nat) : Nat :=
  (x.scb.streams.filter (·.job == h)).foldl (fun n s => n + slotsFor x.readyOfs s.div) 0

/-- Contexts reserved in all. -/
def Tau.reservedAll (x : Tau) : Nat := x.scb.streams.foldl (fun n s => n + slotsFor x.readyOfs s.div) 0

/-! ## Loads (R207 to R209) -/

/-- The largest sum of weights of streams that fall due together: entries are divisor, phase and weight. -/
def worstSum : Nat → Nat → List (Nat × Nat × Nat) → Nat
  | 0, _, l => l.foldl (fun n e => n + e.2.2) 0
  | n + 1, k, l =>
    if l.isEmpty then 0
    else
      let here := (l.filter fun e => e.1 == k).foldl (fun n e => n + e.2.2) 0
      let rest := l.filter fun e => decide (k < e.1)
      if rest.isEmpty then here
      else here + Nat.max (worstSum n (k + 1) (rest.filter fun e => !e.2.1.testBit k))
        (worstSum n (k + 1) (rest.filter fun e => e.2.1.testBit k))

/-- The largest sum of a stream's weights over any one period. -/
def worst (l : List (Nat × Nat × Nat)) : Nat := worstSum 17 0 l

/-- The home of a stream with section `out` taken out (R208); 4 for none. -/
def homeWithout (out : Nat) (s : Stream) : Nat :=
  if s.home = out then (out + (if s.place % 8 < 3 then 1 else if s.place % 8 < 6 then 2 else 3)) % 4 else s.home

/-- The slots, build bytes and ingress bytes of section `sec` with section `out` taken out (R208, R209). -/
def Tau.sectionLoad (x : Tau) (streams : List Stream) (out sec : Nat) : Nat × Nat × Nat :=
  let l := streams.filter fun s => homeWithout out s == sec
  let slots := l.foldl (fun n s => n + slotsFor x.readyOfs s.div) 0
  let build := worst (l.map fun s => (s.div, s.phase, x.trainMax s.consist))
  let kids := x.children.length
  let ingress := if x.isTray then 0 else worst (l.map fun s => (s.div, s.phase, kids * x.trainMax s.consist))
  (slots, build, ingress)

/-- The loads of every section with each single section taken out, in turn. -/
def Tau.loads (x : Tau) (streams : List Stream) : List (Nat × Nat × Nat) :=
  (List.range 4).flatMap fun out => ((List.range 4).filter (· != out)).map fun sec => x.sectionLoad streams out sec

/-- The check of R208 over a set of streams. -/
def Tau.placementFits (x : Tau) (streams : List Stream) : Bool :=
  (x.loads streams).all fun (n, b, i) => decide (n ≤ 2048) && decide (b ≤ 196608) && decide (i ≤ 212992)

/-- RED.BUILD_LOAD_MAX and RED.TRAIN_IN_MAX (R209). -/
def Tau.buildLoadMax (x : Tau) : Nat := (x.loads x.scb.streams).foldl (fun m e => Nat.max m e.2.1) 0
def Tau.trainInMax (x : Tau) : Nat := (x.loads x.scb.streams).foldl (fun m e => Nat.max m e.2.2) 0

/-- SCB.POOL_FREE (R208): for the worst section out, the slots free in the sections that are left and that can still build and take in
the smallest train in every period (DESIGN CHOICE, assumption 62). -/
def Tau.poolFree (x : Tau) : Nat :=
  let least := trainLen []
  let room (e : Nat × Nat × Nat) : Nat :=
    if e.2.1 + least ≤ 196608 ∧ (x.isTray || decide (e.2.2 + x.children.length * least ≤ 212992)) then 2048 - e.1 else 0
  let pool (out : Nat) : Nat :=
    ((List.range 4).filter (· != out)).foldl (fun n sec => n + room (x.sectionLoad x.scb.streams out sec)) 0
  (List.range 4).foldl (fun m out => Nat.min m (pool out)) 6144

/-- The hold-store sum of R180, in bytes. -/
def Tau.holdNeed (x : Tau) (streams : List Stream) : Nat :=
  if x.shift = 0 then 0
  else streams.foldl (fun n s => n + x.children.length * x.trainMax s.consist * (ceilDiv x.shift (2 ^ 18) + 1)) 0

/-- The check of R321 over UP or STANDBY at rate `r`. -/
def Tau.trainsFitRate (x : Tau) (streams : List Stream) (r : Nat) : Bool :=
  let sw := (List.range 8).foldl (fun n q => n + x.rd Reg.SHP_Q_W q) 0
  let sum := worst ((streams.filter (·.job != 0xFFFF)).map fun s => (s.div, s.phase, x.trainMax s.consist))
  decide (sum * sw ≤ r * 1664 * x.rd Reg.SHP_Q_W 6) &&
    (!(streams.any (·.job == 0xFFFF)) || decide (192 * sw ≤ r * 1664 * x.rd Reg.SHP_Q_W 0))

/-- SHP.UP_FIT_LOAD (R321). -/
def Tau.upFitLoad (x : Tau) : Nat :=
  worst ((x.scb.streams.filter (·.job != 0xFFFF)).map fun s => (s.div, s.phase, x.trainMax s.consist))

/-! ## Timetables (R81, R454) -/

/-- What a timetable gives a die: RATE, PATH_MASK and its entry words (R454). -/
structure DieBlock where
  rate : Nat
  mask : Nat
  ents : List Nat

/-- The block of die `d` in a timetable. -/
def Timetable.die (tt : Timetable) (d : Nat) : DieBlock :=
  let o := 72 + 72 * d
  ⟨fieldAt tt.bytes o 1, fieldAt tt.bytes (o + 2) 2,
    (List.range (fieldAt tt.bytes (o + 4) 1)).map fun i => fieldAt tt.bytes (o + 8 + 4 * i) 4⟩

/-- The role block of role `r`: GUARD, LEVEL_BUDGET, EMIT_OFS. -/
def Timetable.roleBlk (tt : Timetable) (r : Nat) : Nat × Nat × Nat :=
  (fieldAt tt.bytes (8 + 12 * r) 4, fieldAt tt.bytes (12 + 12 * r) 4, fieldAt tt.bytes (16 + 12 * r) 4)

/-- A loaded timetable. -/
def Tau.timetable (x : Tau) (id : Nat) : Option Timetable := x.lib.tts.find? (·.id == id)

/-- The base timetable in force (R454). -/
def Tau.baseTt (x : Tau) : Option Timetable := x.timetable (x.rd Reg.GEN_BASE_TT)

/-- An emission entry word: enabled, consist, divisor exponent, phase (R104). -/
def entWord (w : Nat) (f : Fld) : Nat := bits w f.lsb f.width

/-- The divisor and phase that a timetable gives a consist; none where its dies name it not at all or unequally (R176). -/
def Timetable.rhythm (tt : Timetable) (consist : Nat) : Option (Nat × Nat) :=
  let es := (List.range 16).flatMap fun d => (tt.die d).ents.filter fun w =>
    entWord w Reg.TEMIT_ENT_EN == 1 && entWord w Reg.TEMIT_ENT_CONSIST == consist
  let rs := es.map fun w => (entWord w Reg.TEMIT_ENT_DIV, entWord w Reg.TEMIT_ENT_PHASE)
  match rs with
  | [] => none
  | r :: rest => if rest.all (· == r) then some r else none

/-- Every consist that a timetable names has one rhythm (R176). -/
def Timetable.rhythmOk (tt : Timetable) : Bool :=
  let ids := (List.range 16).flatMap fun d => ((tt.die d).ents.filter fun w => entWord w Reg.TEMIT_ENT_EN == 1).map
    fun w => entWord w Reg.TEMIT_ENT_CONSIST
  ids.all fun c => (tt.rhythm c).isSome

/-- The bytes that the dies of section `sec` may send in path `k` with section `out` taken out (4 for none), under a base
timetable (R81). DESIGN CHOICE (assumption 60): all sixteen dies of the timetable count as children, attached or not. -/
def pathLoad (tt : Timetable) (out sec k : Nat) : Nat :=
  ((List.range 16).filter fun d =>
    let s := d / 8
    let t := if s = out then (s + (if d % 8 < 3 then 1 else if d % 8 < 6 then 2 else 3)) % 4 else s
    t == sec && (tt.die d).mask.testBit k).foldl (fun n d => n + (tt.die d).rate * 128) 0

/-- TTB.PATH_LOAD_MAX of a timetable (R81). -/
def pathLoadMax (tt : Timetable) : Nat :=
  ([4, 0, 1, 2, 3].flatMap fun out => (List.range 4).flatMap fun sec => (List.range 13).map fun k =>
    if sec = out then 0 else pathLoad tt out sec k).foldl Nat.max 0

/-! ## Verdicts (R230) -/

/-- A verdict payload (R230). `thr` is saturated by the caller. -/
structure Verdict48 where
  kind : Nat
  unit : Nat
  job : Nat
  step : Nat
  rank : Nat
  aux : Nat
  value : Nat
  ref : Nat
  thr : Nat
  present : Nat
  expected : Nat
  period : Nat

/-- The 48 bytes of a verdict (R230). -/
def Verdict48.bytes (v : Verdict48) : List Byte :=
  leBytes 1 v.kind ++ leBytes 1 v.unit ++ leBytes 2 v.job ++ leBytes 4 v.step ++ leBytes 3 v.rank ++ leBytes 1 v.aux ++
    leBytes 8 v.value ++ leBytes 8 v.ref ++ leBytes 4 v.thr ++ leBytes 4 v.present ++ leBytes 4 v.expected ++ leBytes 8 v.period

/-- Post a verdict (R230, R329): a record of section `s` at severity `sev`, and an export record of template 256. A standby ROOT
posts none (R23). -/
def Tau.postVerdict (x : Tau) (s sev : Nat) (v : Verdict48) : Tau :=
  if x.isStandby then x
  else
    let x := x.record s 0 sev (0x0500 + v.kind) v.bytes
    (x.exportRec s 0 256 x.now v.bytes).1

/-! ## A change of parent (R25, R56, R236) -/

/-- Judge the parent anew: what the old one told of its bound and flag counts no longer. -/
def Tau.freshParent (x : Tau) : Tau :=
  let x := (x.wr Reg.SRV_PARENT_STATE 0).wr Reg.SRV_PARENT_MISS 0
  { x with
    srv := { x.srv with acked := false, parentRun := 0 }
    time := { x.time with parentEb := 0, parentHo := false, parentPort := none } }

/-! ## Sending upward (R206, R314) -/

/-- The class of a record: its egress queue, but for pulse trains in queue 0 (R314). -/
def queueOf (r : List Byte) : Nat :=
  if (fieldAt r 0 1).testBit 7 then 1
  else if bits (fieldAt r 0 1) 4 3 = 6 ∧ fieldAt r 4 2 = 0xFF00 then 0
  else bits (fieldAt r 0 1) 4 3

/-- A record is a train (R202). -/
def isTrain (r : List Byte) : Bool := !(fieldAt r 0 1).testBit 7 && bits (fieldAt r 0 1) 4 3 == 6

/-- Queue a record to the current parent (R314); without one nothing is sent. -/
def Tau.toParent (x : Tau) (yellow : Bool) (r : List Byte) : Tau :=
  if x.parent.isSome then (x.sendUp (queueOf r) yellow r).1 else x

/-- Queue a record of a SITE TAU to the standby ROOT as well (R23). -/
def Tau.toStandby (x : Tau) (yellow : Bool) (r : List Byte) : Tau :=
  if x.roleSet && x.role == 2 && x.rd Reg.GEN_STANDBY_ROOT != rankNone then x.sendStandby (queueOf r) yellow r else x

/-! ## Exceptions (R210) -/

/-- Post an exception to section `s`'s control core: the state after, and whether the queue took it. Its id is any of the 64 that no
exception of the queue has (assumption 3). -/
def Tau.postExc (x : Tau) (s kind job consist info ref : Nat) : Tau × Bool :=
  let q := x.scb.exc.getD s []
  if 64 ≤ q.length then (x.bump Reg.SCB_EXC_DROP_CNT (s := s), false)
  else
    let (id, x) := x.freshId 64 (q.map (·.id))
    let e : Exc := ⟨id, kind, job, consist, info, x.per, ref⟩
    ({ x with scb := { x.scb with exc := modifyAt (· ++ [e]) s x.scb.exc } }, true)

end Sys2Proof.Machine
end

