-- ==== Sys2Proof/Machine/Cipher.lean ====
section
/-!
DEFINITION. The cipher of the TAU (R377 to R388): keys, envelopes and their counters, what an engine opens, the checked datapath,
long-haul frames, and the check of signatures.
-/

namespace Sys2Proof.Machine

/-! ## Engines and keys (R377, R380, R383) -/

/-- Purposes of a key (R380). -/
def Purpose.lh : Nat := 1
def Purpose.mgmt : Nat := 2
def Purpose.exporter : Nat := 3
def Purpose.jobkey : Nat := 5

/-- The engine that serves long-haul port `j` (R377): section j mod 4, or the next in service. It moves when the links re-home. -/
def Tau.lhEngine (x : Tau) (j : Nat) : Nat :=
  (((List.range 4).map fun d => (j + d) % 4).find? x.homed).getD (j % 4)

/-- The key of a purpose under a grant (R380). -/
def Grant.derive (g : Grant) (purpose site extra epoch : Nat) : List Nat :=
  nats (kdf g.key (kdfContext g.fleet site purpose extra epoch) 256)

/-- The 12-byte IV of a sender and counter (R382). -/
def gcmIv (sender ctr : Nat) : List Nat := beList 4 (sender % 2 ^ 32) ++ beList 8 (ctr % 2 ^ 64)

/-- An entry of a table of counters, 1 where it lists none. -/
def ctrAt (l : List (Nat × Nat × Nat)) (e p : Nat) : Nat := ((l.find? fun c => c.1 == e && c.2.1 == p).map (·.2.2)).getD 1

/-- The next counter of engine `e` for purpose `p` (R383). -/
def Tau.sealCtr (x : Tau) (e p : Nat) : Nat := ctrAt x.cip.ctr e p

/-! ## The checked datapath (R386) -/

/-- A recorder record whose CODE the manual does not give: number `k` of area 0x0B (R385, R386; assumption 22). -/
def Tau.cipRecord (x : Tau) (src k sev : Nat) : Tau :=
  x.record src 0 sev (0x0B00 + Config.recItem k % 256) (Config.recBody k)

/-- One mismatch on engine `e`: counted and recorded; at DUP_LIMIT of them within 16 periods the island engine is disabled. What a
section's breach does is left to its guard (`Tau.cipherGuard`). -/
def Tau.dupMismatch (x : Tau) (e : Nat) : Tau :=
  let x := if e < 4 then x.bump Reg.CIP_DUP_MISMATCH_CNT (s := e) else x.bump Reg.CIP_ISL_DUP_MISMATCH_CNT
  let x := x.cipRecord e 1 6
  let recent := (e, x.per) :: x.cip.dup.filter fun d => decide (x.per < d.2 + 16)
  let x := { x with cip := { x.cip with dup := recent } }
  if e = 4 ∧ x.rd Reg.CIP_DUP_LIMIT ≤ recent.countP (·.1 == 4) then { x with cip := { x.cip with islOff := true } } else x

/-- A message meets `n` mismatches, of at most two, beside those that await the engine's next message: whether it is still good (R386).
CIP0 counts what the island engine refuses (DESIGN CHOICE, assumption 79). -/
def Tau.dupCheck (x : Tau) (e n : Nat) : Tau × Bool :=
  let n := n + ((x.cip.upset.filter (·.1 == e)).map (·.2)).foldl (· + ·) 0
  let x := { x with cip := { x.cip with upset := x.cip.upset.filter (·.1 != e) } }
  let x := forIdx (Nat.min n 2) (fun _ x => x.dupMismatch e) x
  if 2 ≤ n then (x.bump Reg.CIP_DUP_REF_CNT (s := e % 4), false) else (x, true)

/-- Mismatches come upon engine `e` while it works on no message: its next message meets them (DESIGN CHOICE, assumption 79). -/
def Tau.dupAwait (x : Tau) (e n : Nat) : Tau :=
  if n = 0 then x else { x with cip := { x.cip with upset := x.cip.upset ++ [(e, n)] } }

/-! ## Sealing (R382, R383) -/

/-- Seal a message on engine `e`: the envelope, none where it is refused, there is no key, or the island engine is disabled (R390).
`site`, `extra`: of the key, where they are not the TAU's SITE and 0. -/
def Tau.sealMsg (x : Tau) (e purpose : Nat) (deflated : Bool) (dup : Nat) (plain : List Byte) (site : Option Nat := none)
    (extra : Nat := 0) : Tau × Option (List Byte) :=
  match x.cip.cur with
  | none => (x, none)
  | some g =>
    let c := x.sealCtr e purpose
    if e = 4 ∧ x.cip.islOff then (x, none)
    else if 2 ^ 64 ≤ c then (x.bump Reg.CIP_CTR_EXH_CNT (s := if e < 4 then e else 0), none)
    else match x.dupCheck e dup with
      | (x, false) => (x, none)
      | (x, true) =>
        let sender := g.base + e
        let head := leBytes 4 sender ++ leBytes 8 c ++ leBytes 1 purpose ++ leBytes 1 (bit deflated) ++ leBytes 2 g.epoch
        let key := g.derive purpose (site.getD g.site) extra g.epoch
        let ct := gcmStream key (gcmIv sender c) (nats plain)
        let tag := gcmTag key (gcmIv sender c) (nats head) ct
        let rest := x.cip.ctr.filter fun k => !(k.1 == e && k.2.1 == purpose)
        let x := { x with cip := { x.cip with ctr := (e, purpose, c + 1) :: rest } }
        let x := if e < 4 then x.bump Reg.CIP_SEAL_CNT (s := e) else x.bump Reg.CIP_ISL_SEAL_CNT
        (x, some (head ++ bytesOf ct ++ bytesOf tag))

/-! ## Opening (R384, R385) -/

/-- The header of an envelope (R382). -/
structure EnvHead where
  sender : Nat
  ctr : Nat
  purpose : Nat
  flags : Nat
  epoch : Nat
  deriving DecidableEq, Repr

/-- Read an envelope's header. -/
def EnvHead.parse (b : List Byte) : EnvHead :=
  ⟨fieldAt b 0 4, fieldAt b 4 8, fieldAt b 12 1, fieldAt b 13 1, fieldAt b 14 2⟩

/-- The grants under which envelopes may be opened now: the current one and, during the overlap, the previous (R381, R384). -/
def Tau.openGrants (x : Tau) : List Grant :=
  x.cip.cur.toList ++ (match x.cip.prev with | some (g, q) => if x.per < q then [g] else [] | none => [])

/-- The plaintext of an envelope under a key, where the tag verifies. -/
def openUnder (key : List Nat) (h : EnvHead) (b : List Byte) : Option (List Byte) :=
  let ct := nats ((b.drop 16).take (b.length - 32))
  let tag := nats (b.drop (b.length - 16))
  if 32 ≤ b.length ∧ gcmTag key (gcmIv h.sender h.ctr) (nats (b.take 16)) ct = tag then
    some (bytesOf (gcmStream key (gcmIv h.sender h.ctr) ct))
  else none

/-- A tag failure on engine `e` (R385). -/
def Tau.authFail (x : Tau) (e sender : Nat) : Tau :=
  let x := if e < 4 then x.bump Reg.CIP_AUTH_FAIL_CNT (s := e) else x.bump Reg.CIP_ISL_AUTH_FAIL_CNT
  if x.cip.failed.contains (e, sender) then x
  else ({ x with cip := { x.cip with failed := (e, sender) :: x.cip.failed } }).cipRecord e 0 5

/-- Whether a counter is accepted from a tracked sender (R384). -/
def LhSender.takes (s : LhSender) (c : Nat) : Bool :=
  decide (s.high < c) || (decide (c < s.high) && decide (s.high ≤ c + 64) && !s.seen.testBit (s.high - c - 1))

/-- A tracked sender after an accepted counter. -/
def LhSender.note (s : LhSender) (c : Nat) : LhSender :=
  if s.high < c then
    let d := c - s.high
    { s with high := c, seen := if 64 < d then 0 else (s.seen * 2 ^ d + 2 ^ (d - 1)) % 2 ^ 64 }
  else { s with seen := Nat.lor s.seen (2 ^ (s.high - c - 1)) }

/-- Judge the counter of a long-haul envelope (R384): the tracked sender it belongs to, or none where it is discarded. -/
def Tau.lhJudge (x : Tau) (e epoch : Nat) (h : EnvHead) : Tau × Option LhSender :=
  match x.cip.lh.find? fun s => s.engine == e && s.epoch == epoch && s.sender == h.sender with
  | some s => if s.takes h.ctr then (x, some s) else (x.bump Reg.CIP_REPLAY_CNT (s := e), none)
  | none =>
    if 64 ≤ x.cip.lh.countP (fun s => s.engine == e && s.epoch == epoch) then
      (x.bump Reg.CIP_REPLAY_FULL_CNT (s := e), none)
    else if h.ctr = 0 then (x.bump Reg.CIP_REPLAY_CNT (s := e), none)
    else (x, some ⟨e, epoch, h.sender, 0, 0⟩)

/-- Open a long-haul envelope on engine `e` (R377, R384 to R386). The counter is noted once the tag has verified. -/
def Tau.openLh (x : Tau) (e dup : Nat) (b : List Byte) : Tau × Option (List Byte) :=
  let h := EnvHead.parse b
  match x.openGrants.find? fun g => g.epoch % 65536 == h.epoch && h.purpose == Purpose.lh with
  | none => (x.bump Reg.CIP_EPOCH_MISS_CNT (s := e), none)
  | some g => match x.lhJudge e g.epoch h with
    | (x, none) => (x, none)
    | (x, some s) => match x.dupCheck e dup with
      | (x, false) => (x, none)
      | (x, true) => match openUnder (g.derive Purpose.lh (Config.siteOf h.sender) 0 g.epoch) h b with
        | none => (x.authFail e h.sender, none)
        | some p =>
          let rest := x.cip.lh.filter fun s => !(s.engine == e && s.epoch == g.epoch && s.sender == h.sender)
          let x := { x with cip := { x.cip with lh := s.note h.ctr :: rest } }
          (x.bump Reg.CIP_OPEN_CNT (s := e), some p)

/-- Open a management envelope on the island engine (R324, R384): its header and plaintext. Counters of a sender rise strictly. What it
discards CIP0 counts (DESIGN CHOICE, assumption 79). -/
def Tau.openMgmt (x : Tau) (dup : Nat) (b : List Byte) : Tau × Option (EnvHead × List Byte) :=
  let h := EnvHead.parse b
  if x.cip.islOff then (x, none)
  else match x.openGrants.find? fun g => g.epoch % 65536 == h.epoch && h.purpose == Purpose.mgmt with
    | none => (x.bump Reg.CIP_EPOCH_MISS_CNT, none)
    | some g =>
      let last := ((x.cip.mgmt.find? fun m => m.1 == g.epoch && m.2.1 == h.sender).map (·.2.2)).getD 0
      if h.ctr ≤ last then (x.bump Reg.CIP_REPLAY_CNT, none)
      else match x.dupCheck 4 dup with
        | (x, false) => (x, none)
        | (x, true) => match openUnder (g.derive Purpose.mgmt g.site 0 g.epoch) h b with
          | none => (x.authFail 4 h.sender, none)
          | some p =>
            let rest := x.cip.mgmt.filter fun m => !(m.1 == g.epoch && m.2.1 == h.sender)
            let x := { x with cip := { x.cip with mgmt := (g.epoch, h.sender, h.ctr) :: rest } }
            (x.bump Reg.CIP_ISL_OPEN_CNT, some (h, p))

/-- Open the job key of a JOBKEY envelope for job `job` (R280, R377, R380): J, where it opens. -/
def Tau.openJobKey (x : Tau) (job : Nat) (b : List Byte) : Tau × Option Nat :=
  let h := EnvHead.parse b
  let e := x.anySec
  match x.openGrants.find? fun g => g.epoch % 65536 == h.epoch && h.purpose == Purpose.jobkey with
  | none => (x.bump Reg.CIP_EPOCH_MISS_CNT (s := e), none)
  | some g => match x.dupCheck e 0 with
    | (x, false) => (x, none)
    | (x, true) => match openUnder (g.derive Purpose.jobkey 0xFF job g.epoch) h b with
      | some p => if p.length = 8 then (x.bump Reg.CIP_OPEN_CNT (s := e), some (leNat p)) else (x, none)
      | none => (x.authFail e h.sender, none)

/-! ## Epochs (R381) -/

/-- A strobe of the CIP group: a staged grant takes effect. Counters start at 1 and tables empty. -/
def Tau.cipStrobe (x : Tau) : Tau :=
  match x.cip.staged with
  | none => x
  | some g =>
    let old := x.cip.cur.map fun o => (o, x.per + x.rd Reg.CIP_OVERLAP)
    let keep (e : Nat) : Bool := match x.cip.cur with | some o => o.epoch == e | none => false
    { x with cip := { x.cip with
        cur := some g
        prev := old
        staged := none
        ctr := []
        lh := x.cip.lh.filter fun s => keep s.epoch
        mgmt := x.cip.mgmt.filter fun m => keep m.1 } }

/-! ## Long-haul frames (R378) -/

/-- Seal a frame and send it. -/
def Tau.sealFrame (x : Tau) (dup : Nat) (f : Frame) : Tau :=
  let x := { x with cip := { x.cip with frames := x.cip.frames.filter fun g => !(g.port == f.port && g.peer == f.peer) } }
  match x.sealMsg (x.lhEngine f.port) Purpose.lh false dup f.recs.flatten with
  | (x, some e) => x.emitOut (.frame f.port f.peer e)
  | (x, none) => x

/-- A record for `peer` leaves through long-haul port `j`. A failed engine loses it. -/
def Tau.lhPut (x : Tau) (j peer : Nat) (r : List Byte) : Tau :=
  let mine := x.cip.frames.find? fun f => f.port == j && f.peer == peer
  let add (x : Tau) (f : Frame) : Tau :=
    let rest := x.cip.frames.filter fun g => !(g.port == j && g.peer == peer)
    { x with cip := { x.cip with frames := rest ++ [{ f with recs := f.recs ++ [r] }] } }
  if x.dead (x.lhEngine j) then x
  else match mine with
  | none => add x ⟨j, peer, [], x.now⟩
  | some f =>
    if 4096 < (f.recs.map List.length).foldl (· + ·) 0 + r.length then add (x.sealFrame 0 f) ⟨j, peer, [], x.now⟩ else add x f

/-- Every frame whose wait has run out is sealed. The mismatches are the first one's, or await the engine's next message. -/
def Tau.sealDue (x : Tau) (port dup : Nat) : Tau :=
  let due := x.cip.frames.filter fun f => f.port == port && decide (f.at_ + x.rd Reg.CIP_FRAME_WAIT ≤ x.now)
  due.foldl (fun x f => x.sealFrame 0 f) (x.dupAwait (x.lhEngine port) dup)

/-- The long-haul port over which the TAU of a RANK_BASE is reached; none over the switch core (assumption 20). -/
def reachedOver (base : Nat) : Option Nat := if Config.route base = 0 then none else some ((Config.route base - 1) % 16)

/-- A record leaves on egress port `port` for the TAU with RANK_BASE `peer`, over the switch core or in a long-haul frame. -/
def Tau.sendTo (x : Tau) (port peer : Nat) (via : Option Nat) (r : List Byte) : Tau :=
  match via with
  | some j => x.lhPut j peer r
  | none => x.emitOut (.egress port r)

/-- A record leaves, past the queues, for a TAU that is neither the current parent nor a child (R198, R451, R463). -/
def Tau.ctlTo (x : Tau) (base : Nat) (via : Option Nat) (r : List Byte) : Tau :=
  match via with
  | some j => x.lhPut j base r
  | none => x.emitOut (.ctlTo base r)

/-! ## Bypass records (R319) -/

/-- Send a record past the FIFO of child `c` and charge its shaper at once (R319). On a TRAY TAU it goes on `links`, as VC_T has credit
for it (R307). -/
def Tau.bypassDown (x : Tau) (c : Nat) (links : List Nat) (r : List Byte) : Tau :=
  let x := x.vcNow c
  let p := (x.eg.down.getD c DownPort.reset).settle (x.rd Reg.SHP_DN_RATE) x.now
  let n := if x.isTray then links.length else 1
  let (cr, forgiven) := bypassCharge (n * r.length) p.credit
  let x := { x with eg := { x.eg with down := modifyAt (fun _ => { p with credit := cr }) c x.eg.down } }
  let x := x.forgive forgiven
  if x.isTray then forEach links (fun l y => y.vcOffer l r) x else x.sendTo (3 + c) (x.kidBase c) ((x.kid c).bind (·.via)) r

/-- Send a record to `parent` past the UP queues and charge the UP shaper at once (R319). -/
def Tau.bypassTo (x : Tau) (parent : Option Nat) (r : List Byte) : Tau :=
  let p := x.eg.up.settle (x.rd Reg.SHP_UP_RATE) x.now
  let (cr, forgiven) := bypassCharge r.length p.credit
  let x := ({ x with eg := { x.eg with up := { p with credit := cr } } }).forgive forgiven
  match parent with
  | some base => x.sendTo 0 base (reachedOver base) r
  | none => x

/-- Send a record to the current parent past the UP queues (R319). -/
def Tau.bypassUp (x : Tau) (r : List Byte) : Tau := x.bypassTo x.parent r

end Sys2Proof.Machine
end

