-- ==== Sys2Proof/Machine/Capture.lean ====
section
/-!
DEFINITION. Capture in the die unit (chapter 4): the TDU's time base as its stamps see it, emission queues (R76, R77), counters,
the coaches of overflow samples, markers, phases, sensors, histograms, slots, detectors and expander lag.
-/

namespace Sys2Proof.Machine

/-! ## The TDU's time as its stamps see it (R66, R68) -/

/-- TTIME.TT_STATE.STATE: 0 UNSET, 1 LOCKED, 2 HOLDOVER, 3 REACQUIRE. -/
def Tdu.tt (d : Tdu) : Nat := d.rd Reg.TTIME_TT_STATE_STATE

/-- The TDU's region has power and runs its microcode (R455, R479, R487). -/
def Tdu.live (d : Tdu) : Bool := d.time.por && d.time.vdd && !d.time.gated && d.rd Reg.TGEN_BOOT_STATE == 2

/-- The region runs its register bus: it has power and is not gated (assumption 14). -/
def Tdu.reachable (d : Tdu) : Bool := d.time.por && d.time.vdd && !d.time.gated

/-- The reference time clock runs as well (R483). -/
def Tdu.clocked (d : Tdu) : Bool := d.live && d.time.clock

/-- FT is valid: LOCKED or HOLDOVER. -/
def Tdu.timed (d : Tdu) : Bool := d.tt == 1 || d.tt == 2

/-- TTIME.ERR_BOUND in ticks (R66, R68): the latest word's EB, and in HOLDOVER the growth since that word. -/
def Tdu.errBound (d : Tdu) : Nat :=
  d.time.lastEb * 16 +
    (if d.tt = 2 then ceilDiv (d.rd Reg.TTIME_HO_PPB * (d.now - d.time.lastT)) 1000000000 else 0)

/-- The holdover flag of a stamp taken now (R68). -/
def Tdu.ho (d : Tdu) : Bool := d.tt == 2 || d.rd Reg.TTIME_TT_STATE_PARENT_HO == 1

/-- A stamp taken now (R68, R106). -/
def Tdu.stamp (d : Tdu) : Mark := ⟨d.now, d.ho, d.errBound⟩

/-- Note the flag and bound held now for the coaches of the running period (R151). -/
def Tdu.noteBound (d : Tdu) : Tdu :=
  { d with time := { d.time with hoSeen := d.time.hoSeen || d.ho, ebMax := max d.time.ebMax d.errBound } }

/-- Job ACTIVE on the die in period `p`. -/
def DieJob.activeIn (j : DieJob) (p : Nat) : Bool :=
  decide (j.from_ ≤ p) && (match j.until_ with | none => true | some u => decide (p < u))

/-- Screening credit accrues over `dt` ticks, while a job is active on the die (R100). -/
def Tdu.accrue (d : Tdu) (dt : Nat) : Tdu :=
  if d.timed && d.jobs.any (·.activeIn d.per) then
    let n := d.emit.credFrac + d.rd Reg.TEMIT_SCR_PPM * dt
    let c := d.rd Reg.TEMIT_SCR_CREDIT
    ({ d with emit := { d.emit with credFrac := n % 1000000 } }).wr Reg.TEMIT_SCR_CREDIT
      (min (c + n / 1000000) (d.rd Reg.TEMIT_SCR_MAX))
  else d

/-- Counter `i` is enabled (R109): 0 to 15 fixed, 16 to 79 programmable. -/
def Tdu.ctrEnabled (d : Tdu) (i : Nat) : Bool :=
  if i < 16 then (d.rd Reg.TPMU_FIX_EN).testBit i
  else if i < 48 then (d.rd Reg.TPMU_PRG_EN_LO).testBit (i - 16) else (d.rd Reg.TPMU_PRG_EN_HI).testBit (i - 48)

/-- `n` increments of counter `i` (R109, R112, R160): the value wraps, or reloads when the counter samples overflows. -/
def Tdu.count (d : Tdu) (i n : Nat) : Tdu :=
  if n = 0 || !d.ctrEnabled i then d
  else
    let v := d.cap.cnt.getD i 0 + n
    let v' := if v < 2 ^ 48 then v
      else if 16 ≤ i ∧ d.rd Reg.TPMU_CFG_OVF_SMP (i - 16) = 1 then
        (d.cap.written.getD (i - 16) 0 + (v - 2 ^ 48)) % 2 ^ 48
      else v % 2 ^ 48
    let c := { d.cap with cnt := modifyAt (fun _ => v') i d.cap.cnt, inc := modifyAt (· + n) i d.cap.inc }
    { d with cap := c }

/-- REFCLK has run for `n` half ticks × 10^6 by its own count: fixed counter 14 counts its cycles, one in four ticks (R106, R107). -/
def Tdu.countRef (d : Tdu) (n : Int) : Tdu :=
  if !d.clocked then d
  else
    let r := d.time.refFrac + n
    ({ d with time := { d.time with refFrac := r % 8000000 } }).count 14 (r / 8000000).toNat

/-- The TDU at the instant `t` of its own FT: steering proceeds at no more than 50 ppm (R65), screening credit accrues (R100), and
REFCLK, which FT follows but for the steering, counts its cycles. -/
def Tdu.advance (t : T64) (d : Tdu) : Tdu :=
  let dt := ticksTo d.ft t
  if dt = 0 then d
  else
    let steer := slewAfter 50 dt d.time.steer
    let d := (d.accrue dt).countRef (2000000 * (dt : Int) - (d.time.steer - steer))
    ({ d with ft := t, time := { d.time with steer := steer } }).noteBound

/-- What a command leaves of the TDU, with the inputs that only their own events change: its supplies, its gate and its reference
clock. -/
def Tdu.inputsOf (d e : Tdu) : Tdu :=
  { e with time := { e.time with por := d.time.por, vdd := d.time.vdd, gated := d.time.gated, clock := d.time.clock } }

/-- What a command does to the TDU at the instant `t`, while TDU_POR_N is high; a TDU held in reset does nothing (R487). -/
def State.onDie (t : T64) (f : Tdu → Tdu) (s : State) : State :=
  s.onTdu fun d => if d.time.por then d.inputsOf (f (d.advance t)) else d

/-- What an event on one of the die's supply or clock inputs does at the instant `t`: `f` while TDU_POR_N is high, and the input's new
level in any case. -/
def State.onDieInput (t : T64) (f : Tdu → Tdu) (level : DieTime → DieTime) (s : State) : State :=
  s.onTdu fun d =>
    let e := if d.time.por then d.inputsOf (f (d.advance t)) else d
    { e with time := level e.time }

/-- The consists that the TDU holds: from its removal on a consist is unknown (R173), though the coaches about the period before are still
to be built. -/
def Tdu.held (d : Tdu) : List Consist := d.consists.filter fun c => !c.until_.any fun q => decide (q ≤ d.per)

/-- Period `p` contains part of a gap (R151). -/
def Tdu.gapIn (d : Tdu) (p : Nat) : Bool := d.time.gapSpans.any fun (a, b) => decide (a ≤ p) && decide (p ≤ b)

/-! ## Jobs (R154, R167) -/

/-- Epoch of the handle in force in period `p` (R154). -/
def DieJob.epochIn (j : DieJob) (p : Nat) : Nat := ((j.epochs.find? fun e => decide (e.1 ≤ p)).map (·.2)).getD 0

/-- The job of a handle. -/
def Tdu.job (d : Tdu) (h : Nat) : Option DieJob := d.jobs.find? (·.handle == h)

/-- The epoch of a handle in force in a period, as the TDU knows it; `e` where it does not know the job (R154). -/
def Tdu.epochOf (d : Tdu) (job period e : Nat) : Nat :=
  match (d.jobs ++ d.past).find? fun j => j.handle == job && decide (j.from_ ≤ period) with
  | some j => j.epochIn period
  | none => e

/-- The handle and low epoch bits of the lowest-numbered job ACTIVE in period `p`; 0xFFFF and 0 when none is (R167). -/
def Tdu.pulseJob (d : Tdu) (p : Nat) : Nat × Nat :=
  match ((d.jobs ++ d.past).filter (·.activeIn p)).foldl
      (fun b j => match b with
        | none => some j
        | some k => if j.handle < k.handle then some j else some k) none with
  | none => (0xFFFF, 0)
  | some j => (j.handle, j.epochIn p % 256)

/-! ## Emission queues (R75 to R77) -/

/-- Bytes in an emission queue. -/
def queuedBytes (q : List Queued) : Nat := q.foldl (fun n c => n + c.bytes.length) 0

/-- Bytes in the unscheduled queue, gap records among them (R76, R77). -/
def EmitSt.unschedBytes (e : EmitSt) : Nat := queuedBytes e.unsched + e.gap.foldl (fun n r => n + r.length) 0

/-- The link on which the TDU sends: A while it is up, otherwise B (R32). -/
def Tdu.sendLink (d : Tdu) : Option Nat := firstIdx (·.up) d.time.link

/-- The path in progress is one in which the TDU may emit (R74, R76), and nothing forbids a coach (R53, R67, R32). -/
def Tdu.mayEmit (d : Tdu) : Bool :=
  d.clocked && d.timed && (d.rd Reg.TEMIT_PATH_MASK).testBit (T64.path d.ft) && d.sendLink.isSome

/-- The run of paced bytes that a coach of `n` bytes sent now joins or begins (R75): the tick of the run's first byte and the bytes of
the run, each of which takes 128 / RATE ticks. -/
def Tdu.paceRun (d : Tdu) (n : Nat) : Nat × Nat :=
  let rate := d.rd Reg.TEMIT_RATE
  if d.emit.busy * rate + 128 * d.emit.paced ≤ d.now * rate then (d.now, n) else (d.emit.busy, d.emit.paced + n)

/-- A coach of `n` bytes started now leaves whole in the path in progress (R75, R76), and VC_T has credit for it (R307). -/
def Tdu.fitsNow (d : Tdu) (n : Nat) : Bool :=
  let rate := d.rd Reg.TEMIT_RATE
  let run := d.paceRun n
  let pathEnd := (d.now / 2 ^ 14 + 1) * 2 ^ 14
  let credit := match d.sendLink with | some l => (d.time.link.getD l DieLink.reset).credit | none => 0
  decide (n ≤ d.emit.left) && decide (run.1 * rate + 128 * run.2 ≤ pathEnd * rate) && decide (ceilDiv n 64 ≤ credit)

/-- Send a record on the link in use, charged to the path's allowance (R75). -/
def Tdu.send (d : Tdu) (r : List Byte) : Tdu :=
  match d.sendLink with
  | none => d
  | some l =>
    let run := d.paceRun r.length
    let stop := run.1 + ceilDiv (128 * run.2) (d.rd Reg.TEMIT_RATE)
    let link := modifyAt (fun k => { k with credit := k.credit - ceilDiv r.length 64 }) l d.time.link
    let e := { d.emit with
      left := d.emit.left - r.length, busy := run.1, paced := run.2, sent := d.emit.sent + r.length, last := some (l, stop, r) }
    ({ d with time := { d.time with link := link }, emit := e }).emitOut (.vct l r)

/-- Serve the unscheduled queue from what remains of the allowance (R76). -/
def Tdu.serveUnsched : Nat → Tdu → Tdu
  | 0, d => d
  | n + 1, d =>
    match d.emit.unsched with
    | q :: rest =>
      if d.fitsNow q.bytes.length then Tdu.serveUnsched n ({ d with emit := { d.emit with unsched := rest } }.send q.bytes) else d
    | [] => d

/-- Serve the scheduled queue (R76). -/
def Tdu.serveSched : Nat → Tdu → Tdu
  | 0, d => d
  | n + 1, d =>
    match d.emit.sched with
    | q :: rest =>
      if d.fitsNow q.bytes.length then Tdu.serveSched n ({ d with emit := { d.emit with sched := rest } }.send q.bytes) else d
    | [] => d

/-- Serve the record cut off by its link and the gap record (R32, R76); whether both are gone. -/
def Tdu.serveFirst (d : Tdu) : Tdu × Bool :=
  let d := match d.emit.resend with
    | some r => if d.fitsNow r.length then { d with emit := { d.emit with resend := none } }.send r else d
    | none => d
  let d := match d.emit.resend, d.emit.gap with
    | none, r :: rest => if d.fitsNow r.length then { d with emit := { d.emit with gap := rest } }.send r else d
    | _, _ => d
  (d, d.emit.resend.isNone && d.emit.gap.isEmpty)

/-- Serve all that may leave now. -/
def Tdu.serveAll (d : Tdu) : Tdu :=
  if !d.mayEmit then d
  else match d.serveFirst with
    | (d, false) => d
    | (d, true) =>
      let d := d.serveSched d.emit.sched.length
      d.serveUnsched d.emit.unsched.length

/-- A coach enters the scheduled queue, or is refused (R77). -/
def Tdu.queueSched (d : Tdu) (q : Queued) : Tdu :=
  if queuedBytes d.emit.sched + d.emit.unschedBytes + q.bytes.length ≤ 16384 then
    { d with emit := { d.emit with sched := d.emit.sched ++ [q] } }
  else d.bump Reg.TEMIT_QUEUE_DROP_CNT

/-- The unscheduled queue has room for `n` bytes (R77). -/
def Tdu.unschedRoom (d : Tdu) (n : Nat) : Bool :=
  decide (d.emit.unschedBytes + n ≤ 8192) && decide (queuedBytes d.emit.sched + d.emit.unschedBytes + n ≤ 16384)

/-- A coach enters the unscheduled queue, or is refused (R77); it may leave in the path in progress (R76). A TDU without a rank
emits only PULSE coaches (R153): what it forms otherwise is discarded and not counted (DESIGN CHOICE; assumption 70). -/
def Tdu.queueUnsched (d : Tdu) (r : List Byte) : Tdu :=
  if d.rd Reg.TGEN_RANK = 0xFFFFFF then d
  else if d.unschedRoom r.length then
    ({ d with emit := { d.emit with unsched := d.emit.unsched ++ [Queued.mk r none] } }).serveAll
  else d.bump Reg.TEMIT_QUEUE_DROP_CNT

/-- A DATA or PULSE coach is late at FT `now`: path 12 of the period after its own has ended (R79). -/
def lateNow (now : Nat) (r : List Byte) : Bool :=
  let h := Hdr.parse r
  decide (h.cls < 2) && !h.late && decide ((h.t / 2 ^ 18 + 1) * 2 ^ 18 + 13 * 2 ^ 14 ≤ now)

/-- Coaches still queued after path 12 of the period after their own are late (R79), one that is to be sent again whole among them. -/
def Tdu.markLateAll (d : Tdu) : Tdu :=
  let late (r : List Byte) : Bool := lateNow d.now r
  let n := (d.emit.sched.filter fun q => late q.bytes).length + bit (d.emit.resend.any late)
  let mark (r : List Byte) : List Byte := if late r then markLate r else r
  let e := { d.emit with
    sched := d.emit.sched.map fun q => { q with bytes := mark q.bytes }, resend := d.emit.resend.map mark }
  ({ d with emit := e }).bumpBy Reg.TEMIT_LATE_EMIT_CNT n

/-! ## Event coaches (R141, R151, R154) -/

/-- Build an event coach (R141) with header stamp `m`; `sat`: a value of its body is held at its limit (R146). The handle is that
of a PULSE coach of its period; the signatures are those of the last closed period (R152). -/
def Tdu.eventCoach (d : Tdu) (code sub flags arg : Nat) (further : List Byte) (sev : Nat) (m : Mark) (sat : Bool) : List Byte :=
  let p := m.t / 2 ^ 18
  let (job, ep) := d.pulseJob p
  mkRecord
    { ver := 1, cls := 2, sev := sev, ho := m.ho, gap := d.gapIn p, late := false, order := false, sat := sat, len := 0,
      consist := 0xFF02, rank := d.rd Reg.TGEN_RANK, epochLo := ep, job := job, eb := ebUnits m.eb, sigT := d.cap.sigTemp,
      sigL := d.cap.sigLoad, t := m.t, rsv := false }
    (leBytes 2 code ++ leBytes 1 sub ++ leBytes 1 flags ++ leBytes 4 arg ++ further)

/-! ## Overflow samples and the programmable counters (R110 to R115) -/

/-- The coach of an overflow sample (R113, R141). -/
def Tdu.sampleCoach (d : Tdu) (s : Sample) : List Byte :=
  d.eventCoach 1 s.ctr (bit s.excl + 2 * bit s.ho) s.skid (leBytes 8 s.pc) 1 ⟨s.t, s.ho, s.eb⟩ false

/-- The buffer passes samples on while the unscheduled queue has room (R115). -/
def Tdu.drainSamples : Nat → Tdu → Tdu
  | 0, d => d
  | n + 1, d =>
    match d.cap.samples with
    | [] => d
    | s :: rest =>
      if d.unschedRoom 48 then
        Tdu.drainSamples n ({ d with cap := { d.cap with samples := rest } }.queueUnsched (d.sampleCoach s))
      else d

/-- The authorisation admits code of these attributes (R114, R354). -/
def Tdu.admits (d : Tdu) (priv sec : Bool) : Bool :=
  let a := d.timed && d.rd Reg.TTRC_AUTH_STATE == 2
  let m := d.rd Reg.TTRC_AUTH_ADMIT
  (!priv || (a && m.testBit 0)) && (!sec || (a && m.testBit 1))

/-- A write of PRG_LO stages the low word (R110). -/
def Tdu.prgLo (d : Tdu) (k v : Nat) : Tdu :=
  { d with cap := { d.cap with stagedLo := modifyAt (fun _ => v % 2 ^ 32) k d.cap.stagedLo } }

/-- A write of PRG_HI writes all 48 bits at once (R110). -/
def Tdu.prgHi (d : Tdu) (k v : Nat) : Tdu :=
  let n := v % 2 ^ 16 * 2 ^ 32 + d.cap.stagedLo.getD k 0
  let c := { d.cap with cnt := modifyAt (fun _ => n) (16 + k) d.cap.cnt, written := modifyAt (fun _ => n) k d.cap.written }
  { d with cap := c }

/-! ## Histograms (R123 to R130) -/

/-- The counts of a bank saturate at 2^32 − 1 (R127). -/
def countMax : Nat := 2 ^ 32 - 1

/-- One more count of bucket `k`. -/
def oneMore (k : Nat) (l : List (Nat × Nat)) : List (Nat × Nat) := Store.put k (countAt l k + 1) 0 l

/-- One sample classified into a bank under base exponent `e` (R123, R124). A negative value counts in UNDER. The bank holds its
counts and its sum exactly; what reads it saturates the counts (R127). -/
def Bank.add (e : Nat) (v : Int) (b : Bank) : Bank :=
  let b := { b with
    count := b.count + 1, sum := b.sum + v, min := if b.count = 0 then v else Min.min b.min v,
    max := if b.count = 0 then v else Max.max b.max v }
  match (if v < 0 then none else histBucket e v.toNat) with
  | none => { b with under := b.under + 1 }
  | some 128 => { b with above := b.above + 1 }
  | some k => { b with bkt := oneMore k b.bkt }

/-- The bank as it reads, each count saturated (R127). -/
def Bank.clip (b : Bank) : Bank :=
  { b with
    under := Nat.min b.under countMax, above := Nat.min b.above countMax, bkt := b.bkt.map fun kn => (kn.1, Nat.min kn.2 countMax) }

/-- The state with histogram unit `u` changed. -/
def Tdu.setHist (d : Tdu) (u : Nat) (f : HistUnit → HistUnit) : Tdu :=
  { d with cap := { d.cap with hist := modifyAt f u d.cap.hist } }

/-- Samples in the unit's queue at REFCLK cycle `c`, one leaving in each cycle (R127). -/
def HistUnit.waiting (c : Nat) (h : HistUnit) : Nat := if c < h.cycle then 0 else h.queued - (c - h.cycle)

/-- Unit `u` drops a sample (R127). -/
def Tdu.dropSample (d : Tdu) (u : Nat) : Tdu := d.setHist u fun h => { h with live := { h.live with drop := h.live.drop + 1 } }

/-- Unit `u` takes a sample (R127, R128): one is accepted in a cycle, and four more may wait for the next cycles. A sample that waits
belongs to the period of its stamp, so the model classifies it at once. -/
def Tdu.sample (d : Tdu) (u : Nat) (v : Int) (flagged : Bool) : Tdu :=
  if d.rd Reg.THIST_H_CTRL_EN u = 0 then d
  else
    let c := d.now / 4
    let n := (d.cap.hist.getD u HistUnit.reset).waiting c
    if 5 ≤ n then d.dropSample u
    else
      let d := d.setHist u fun h => { h with live := h.live.add (d.rd Reg.THIST_H_CTRL_E u) v, queued := n + 1, cycle := c }
      if flagged then d.bump Reg.THIST_H_FLAG_CNT else d

/-- Every unit of source `src` whose qualifier satisfies `p` takes a sample. -/
def Tdu.sampleAll (d : Tdu) (src : Nat) (p : Nat → Bool) (v : Int) (flagged : Bool) : Tdu :=
  forIdx 16 (fun u d =>
    if d.rd Reg.THIST_H_CTRL_SRC u = src && p (d.rd Reg.THIST_H_ARG u) then d.sample u v flagged else d) d

/-- Hold a FROM stamp in a unit (R126): `cap` keys at most; a replaced or evicted stamp is counted. -/
def Tdu.holdFrom (d : Tdu) (u cap : Nat) (s : Stamp) : Tdu :=
  let h := (d.cap.hist.getD u HistUnit.reset).held
  let rest := h.filter (·.coll != s.coll)
  let full := decide (cap ≤ rest.length)
  let kept := if full then rest.drop 1 else rest
  let d := if rest.length < h.length || full then d.bump Reg.THIST_H_PAIR_DROP_CNT else d
  d.setHist u fun x => { x with held := kept ++ [s] }

/-- A TO pairs with a held FROM that satisfies `p`, the latest of them (R126): the pairing consumes it and gives a sample. -/
def Tdu.pairTo (d : Tdu) (u t : Nat) (ho : Bool) (p : Stamp → Bool) : Tdu :=
  let h := (d.cap.hist.getD u HistUnit.reset).held
  match (h.filter p).getLast? with
  | none => d
  | some s => (d.setHist u fun x => { x with held := x.held.filter (· != s) }).sample u ((t - s.t : Nat) : Int) (ho || s.ho)

/-- A marker passes the histogram units of source 0 (R125, R126). DESIGN CHOICE (assumption 54): a TO of 4, TOKEN_EMIT, pairs on the
step number that such a marker leaves unused, and a FROM of 4 or more is never held. -/
def Tdu.markHist (d : Tdu) (m : Marker) : Tdu :=
  forIdx 16 (fun u d =>
    if d.rd Reg.THIST_H_CTRL_SRC u != 0 || d.rd Reg.THIST_H_CTRL_EN u == 0 then d
    else
      let arg := d.rd Reg.THIST_H_ARG u
      let from_ := bits arg 0 3
      let upto := bits arg 3 3
      let fromColl := from_ == 2 || from_ == 3
      let toColl := upto == 2 || upto == 3
      let d := if m.code = upto then
          d.pairTo u m.t m.ho fun s => s.step == m.step && (!(fromColl && toColl) || s.coll == some m.coll)
        else d
      if m.code = from_ ∧ m.code < 4 then
        d.holdFrom u (if fromColl then 16 else 1) ⟨m.step, if fromColl then some m.coll else none, m.t, m.ho⟩
      else d) d

/-- A phase passes the histogram units of source 1 (R125, R126). -/
def Tdu.phaseHist (d : Tdu) (m : Phase) : Tdu :=
  forIdx 16 (fun u d =>
    if d.rd Reg.THIST_H_CTRL_SRC u != 1 || d.rd Reg.THIST_H_CTRL_EN u == 0 then d
    else
      let arg := d.rd Reg.THIST_H_ARG u
      let d := if m.code = bits arg 3 3 then d.pairTo u m.t m.ho fun s => s.coll == some m.coll else d
      if m.code = bits arg 0 3 then d.holdFrom u 16 ⟨0, some m.coll, m.t, m.ho⟩ else d) d

/-- An interval ends in a slot's statistics of the period (R130). They are held exactly; what reads them saturates them. -/
def slotAdd (thr slot v : Nat) (l : List SlotStat) : List SlotStat :=
  let upd (s : SlotStat) : SlotStat :=
    { s with count := s.count + 1, max := max s.max v, above := if thr < v then s.above + 1 else s.above }
  if l.any (·.slot == slot) then l.map fun s => if s.slot = slot then upd s else s
  else l ++ [upd ⟨slot, 0, 0, 0⟩]

/-- A TOKEN_EMIT ends an inter-token interval of its slot (R93, R125, R130). -/
def Tdu.token (d : Tdu) (m : Marker) : Tdu :=
  let prev := d.cap.tokens.find? (·.1 == m.slot)
  let toks := (m.slot, m.t, m.ho) :: d.cap.tokens.filter (·.1 != m.slot)
  let d := { d with cap := { d.cap with tokens := toks } }
  match prev with
  | none => d
  | some (_, t0, f0) =>
    let v := m.t - t0
    let d := { d with cap := { d.cap with slots := slotAdd (d.rd Reg.THIST_SLOT_THR) m.slot v d.cap.slots } }
    d.sampleAll 2 (fun a => decide (bits a 0 8 ≤ m.slot) && decide (m.slot ≤ bits a 8 8)) (v : Int) (m.ho || f0)

/-! ## Markers and phases (R90 to R93, R121, R122, R491, R492) -/

/-- Whether a marker keeps step order (R92). -/
def CaptureSt.inOrder (c : CaptureSt) (m : Marker) : Bool :=
  match m.code with
  | 0 => c.stepPart == 0 || (c.stepPart == 2 && m.step == (c.step + 1) % 2 ^ 32)
  | 1 => c.stepPart == 1 && m.step == c.step
  | 2 => c.stepPart == 2 && m.step == c.step
  | 3 => c.stepPart == 2 && m.step == c.step && c.open_.contains m.coll
  | _ => true

/-- The expected order after a marker, in order or not (R92, R492). A marker out of order that names another step leaves open the
collectives that were open (DESIGN CHOICE; assumption 70). -/
def CaptureSt.orderAfter (c : CaptureSt) (m : Marker) : CaptureSt :=
  match m.code with
  | 0 => { c with step := m.step, stepPart := 1, open_ := [] }
  | 1 => { c with step := m.step, stepPart := 2 }
  | 2 => { c with step := m.step, stepPart := 2, open_ := m.coll :: c.open_.filter (· != m.coll) }
  | 3 => { c with step := m.step, stepPart := 2, open_ := c.open_.filter (· != m.coll) }
  | _ => c

/-- The step sideband presents a marker (R90 to R93, R491, R492): the state after, and the marker as stamped where it is accepted.
DESIGN CHOICE (assumption 55): a reserved code is counted in MARK_ORDER_CNT alone, in REACQUIRE too; and a marker presented in UNSET
is accepted and stamped with the FT that runs. -/
def Tdu.marker (d : Tdu) (code step coll slot : Nat) : Tdu × Option Marker :=
  if !d.clocked then (d, none)
  else if 5 ≤ code then (d.bump Reg.TEMIT_MARK_ORDER_CNT, none)
  else if d.tt = 3 then
    (({ d with time := { d.time with lostEvt := d.time.lostEvt + 1 } }).bump Reg.TEMIT_MARK_GAP_CNT, none)
  else if 64 ≤ d.cap.markQ.length then (d.bump Reg.TEMIT_MARK_DROP_CNT, none)
  else
    let m : Marker := ⟨code, step, coll, slot, d.now, false, d.ho, d.errBound⟩
    let m := { m with order := !d.cap.inOrder m }
    let d := d.bump Reg.TEMIT_MARK_CNT
    let d := if m.order then d.bump Reg.TEMIT_MARK_ORDER_CNT else d
    let d := { d with cap := { d.cap.orderAfter m with marks := d.cap.marks ++ [m] } }
    let d := d.markHist m
    (if code = 4 then d.token m else d, some m)

/-- The phase sideband presents a phase (R122). DESIGN CHOICE (assumption 56): a reserved code is counted in PH_ORDER_CNT alone, in
REACQUIRE too; codes skipped in ascending order keep the order; after a phase, in order or not, the codes above its own are expected,
and after END a START. A phase presented in UNSET is stamped with the FT that runs (assumption 55). -/
def Tdu.phase (d : Tdu) (code coll : Nat) : Tdu :=
  if !d.clocked then d
  else if 5 ≤ code then d.bump Reg.TCAP_PH_ORDER_CNT
  else if d.tt = 3 then ({ d with time := { d.time with lostEvt := d.time.lostEvt + 1 } }).bump Reg.TCAP_PH_GAP_CNT
  else if 32 ≤ d.cap.phaseQ.length then d.bump Reg.TCAP_PH_DROP_CNT
  else
    let nxt := countAt d.cap.phaseNext coll
    let ok := if nxt = 0 then code == 0 else decide (nxt ≤ code)
    let m : Phase := ⟨code, coll, d.now, !ok, d.ho, d.errBound⟩
    let d := d.bump Reg.TCAP_PH_CNT
    let d := if ok then d else d.bump Reg.TCAP_PH_ORDER_CNT
    let c := { d.cap with
      phases := d.cap.phases ++ [m], phaseNext := Store.put coll (if code = 4 then 0 else code + 1) 0 d.cap.phaseNext }
    ({ d with cap := c }).phaseHist m

/-! ## Sensors and link retries (R119, R120, R125) -/

/-- The sensor hub presents a result (R89, R119, R120, R127). A tagged result carries the flag and the larger bound of its own stamp
and the firing's. A result presented in UNSET is stamped with the FT that runs (assumption 55). -/
def Tdu.sensorResult (d : Tdu) (ch : Nat) (val : Int) (err : Bool) : Tdu :=
  if !d.clocked then d
  else
    let en := if ch < 32 then (d.rd Reg.TCAP_SH_CH_EN_LO).testBit ch else (d.rd Reg.TCAP_SH_CH_EN_HI).testBit (ch - 32)
    if d.tt = 3 then
      ({ d with time := { d.time with lostEvt := d.time.lostEvt + 1 } }).bump Reg.TCAP_SH_DROP_CNT
    else if !en then d.bump Reg.TCAP_SH_DROP_CNT
    else
      let tag := match d.cap.armed.getD ch none with | some a => if a.1 < d.now then some a else none | none => none
      let old := (d.cap.sensor.getD ch none).map (·.samples) |>.getD 0
      let ho := d.ho || (tag.map (·.2.1)).getD false
      let eb := max d.errBound ((tag.map (·.2.2)).getD 0)
      let e : Sensor := ⟨val, d.now, tag.map (·.1), err, ho, eb, min (old + 1) 65535⟩
      let c := { d.cap with
        sensor := modifyAt (fun _ => some e) ch d.cap.sensor,
        armed := if tag.isSome then modifyAt (fun _ => none) ch d.cap.armed else d.cap.armed }
      let d := { d with cap := c }
      if err then
        forIdx 16 (fun u d =>
          if d.rd Reg.THIST_H_CTRL_EN u = 1 ∧ d.rd Reg.THIST_H_CTRL_SRC u = 5 ∧ bits (d.rd Reg.THIST_H_ARG u) 0 6 = ch then
            d.dropSample u else d) d
      else d.sampleAll 5 (fun a => bits a 0 6 == ch) val d.ho

/-- A generator of KIND 1 arms a sensor channel with its firing T64 (R120). -/
def Tdu.armSensor (d : Tdu) (ch t : Nat) : Tdu :=
  let d := if (d.cap.armed.getD ch none).isSome then d.bump Reg.TCAP_SH_TRG_OVR_CNT else d
  { d with cap := { d.cap with armed := modifyAt (fun _ => some (t, d.ho, d.errBound)) ch d.cap.armed } }

/-- An LK_RETRY strobe (R106, R107, R125): counted in fixed counter 7 or 8, and stamped while the clock of the stamps runs and the
TDU is not in REACQUIRE (R67). -/
def Tdu.retryStrobe (d : Tdu) (l : Nat) : Tdu :=
  if !d.live then d
  else
    let d := d.count (7 + l) 1
    if !d.clocked || d.tt = 3 then d
    else
      let prev := d.cap.retry.getD l none
      let ho := d.ho
      let d := { d with cap := { d.cap with retry := modifyAt (fun _ => some (d.now, ho)) l d.cap.retry } }
      match prev with
      | none => d
      | some (t0, f0) => d.sampleAll 3 (fun a => a.testBit l) ((d.now - t0 : Nat) : Int) (ho || f0)

/-! ## Detectors (R131 to R138) -/

/-- The snapshot bank of unit `u`. -/
def Tdu.snapBank (d : Tdu) (u : Nat) : Bank := (d.cap.hist.getD u HistUnit.reset).snap.clip

/-- Histogram quantile (R131): −1 if UNDER suffices, 128 if only OVER does. -/
def Bank.quantile (q : Nat) (b : Bank) : Int :=
  let need := ceilDiv (q * b.count) 256
  if need ≤ b.under then -1
  else
    let r := b.bkt.foldl
      (fun (acc : Nat × Option Nat) (k, n) =>
        match acc.2 with
        | some _ => acc
        | none => if need ≤ acc.1 + n then (acc.1 + n, some k) else (acc.1 + n, none))
      (b.under, none)
    match r.2 with | some k => (k : Int) | none => 128

/-- A slot's statistics as they read (R130). -/
def SlotStat.clip (s : SlotStat) : SlotStat :=
  ⟨s.slot, Nat.min s.count 65535, Nat.min s.max countMax, Nat.min s.above 65535⟩

/-- The slot's statistics in the snapshot. -/
def Tdu.snapSlot (d : Tdu) (s : Nat) : SlotStat := ((d.cap.slotSnap.find? (·.slot == s)).getD ⟨s, 0, 0, 0⟩).clip

/-- The input of detector slot `i` (R131); none where the source has nothing to give (R137). `reacq`: a re-acquisition occurred in
the evaluated period. DESIGN CHOICE (assumption 70): D_ARG is read in as many low bits as its source has values, the quantile of an
argument 0 is −1, and a SRC 10 slot reads the state of the slot it names whatever KIND that has now. -/
def Tdu.detInput (d : Tdu) (i : Nat) (reacq : Bool) : Option Int :=
  let arg := d.rd Reg.TDET_D_ARG i
  let b := d.snapBank (bits arg 0 4)
  let hist (v : Int) : Option Int := if reacq || b.count == 0 then none else some v
  match d.rd Reg.TDET_D_CTRL_SRC i with
  | 0 => if reacq then none else some (d.cap.snapInc.getD (bits arg 0 4) 0 : Nat)
  | 1 => if reacq then none else some (d.cap.snapInc.getD (16 + bits arg 0 6) 0 : Nat)
  | 2 => if reacq then none else some (b.count : Nat)
  | 3 => hist (b.sum.tdiv b.count)
  | 4 => hist b.min
  | 5 => hist b.max
  | 6 => hist (b.quantile (bits arg 8 8))
  | 7 => let s := d.snapSlot (bits arg 0 8); if s.count = 0 then none else some (s.max : Nat)
  | 8 => some ((d.snapSlot (bits arg 0 8)).above : Nat)
  | 9 => match d.cap.sensorSnap.getD (bits arg 0 6) none with
    | some e => if e.err then none else some e.val
    | none => none
  | 10 =>
    let e := d.cap.det.getD (bits arg 0 5) ⟨0, 0, false⟩
    if e.ran then some (e.a / 65536) else none
  | _ => none

/-- A state sum held at its limits of 48 bits (R132), and whether it was clipped. -/
def clip48 (v : Int) : Int × Bool := (clipS 48 v, clipS 48 v != v)

/-- One evaluation of a detector on x' (R133 to R135): the state, the upper and lower flags, and how many sums were clipped. -/
def Detector.eval (kind a : Nat) (p0 p1 : Int) (p2 : Nat) (on : Bool) (x : Int) (s : Detector) : Detector × Bool × Bool × Nat :=
  let q : Int := 65536
  match kind with
  | 0 =>
    let (m, c) := clip48 (if s.ran then s.a + (x * q - s.a) / (2 ^ a : Nat) else x * q)
    (⟨m, 0, true⟩, decide (p0 * q < m), decide (m < p1 * q), bit c)
  | 1 =>
    let h := signed 32 p2
    let (up, c1) := clip48 (max 0 (s.a + x * q - (p0 + p1) * q))
    let (dn, c2) := clip48 (max 0 (s.b + (p0 - p1) * q - x * q))
    let u := decide (h * q < up)
    let l := decide (h * q < dn)
    (⟨if u then 0 else up, if l then 0 else dn, true⟩, u, l, bit c1 + bit c2)
  | _ =>
    let n := if on then bits p2 16 16 else bits p2 0 16
    let hit := if on then decide (x < p1) else decide (p0 < x)
    let run := s.a / q + 1
    if hit then
      if (n : Int) ≤ run then (⟨0, 0, true⟩, !on, false, 0) else (⟨run * q, 0, true⟩, on, false, 0)
    else (⟨0, 0, true⟩, on, false, 0)

/-- Evaluate detector slot `i` at the close of a period (R132, R137, R138). `ho`: holdover in the period. -/
def Tdu.evalDet (d : Tdu) (i : Nat) (reacq ho : Bool) : Tdu :=
  if d.rd Reg.TDET_D_CTRL_EN i = 0 then d
  else match d.detInput i reacq with
    | none => d.bump Reg.TDET_SKIP_CNT
    | some x =>
      let y := x / (2 ^ d.rd Reg.TDET_D_CTRL_SH i : Nat)
      let y := if d.rd Reg.TDET_D_CTRL_INV i = 1 then -y else y
      let x' := clipS 32 y
      let upper := d.rd Reg.TDET_D_FLAG_UPPER i == 1
      let lower := d.rd Reg.TDET_D_FLAG_LOWER i == 1
      let (s, u, l, c) := (d.cap.det.getD i ⟨0, 0, false⟩).eval (d.rd Reg.TDET_D_CTRL_KIND i) (d.rd Reg.TDET_D_CTRL_A i)
        (signed 32 (d.rd Reg.TDET_D_P0 i)) (signed 32 (d.rd Reg.TDET_D_P1 i)) (d.rd Reg.TDET_D_P2 i) upper x'
      let d := { d with cap := { d.cap with det := modifyAt (fun _ => s) i d.cap.det } }
      let d := (d.bump Reg.TDET_EVAL_CNT).bumpBy Reg.TDET_SAT_CNT (c + bit (x' != y))
      let d := (d.wr Reg.TDET_D_FLAG_UPPER (bit u) i).wr Reg.TDET_D_FLAG_LOWER (bit l) i
      let rise := bit (u && !upper) + bit (l && !lower)
      if rise = 0 then d
      else
        let flags0 := d.rd Reg.TDET_D_FLAG_FLAG_CNT i
        let d := d.bumpBy Reg.TDET_D_FLAG_FLAG_CNT rise i
        let d := if d.rd Reg.TDET_D_CTRL_EVT_EN i = 1 then
            d.queueUnsched (d.eventCoach 4 i (bit u + 2 * bit l + 4 * bit ho) (d.rd Reg.TDET_D_FLAG_FLAG_CNT i)
              (leBytes 8 (unsigned 64 s.a)) (d.rd Reg.TDET_D_CTRL_SEV i) d.stamp
              (x' != y || c != 0 || decide (65535 < flags0 + rise)))
          else d
        if d.rd Reg.TDET_D_CTRL_INTR_EN i = 1 then d.raise 1 else d

/-- The 64-bit flags word (R138). -/
def Tdu.detFlags (d : Tdu) : Nat :=
  (List.range 32).foldl (fun n i =>
    n + 2 ^ (2 * i) * (d.rd Reg.TDET_D_FLAG_UPPER i + 2 * d.rd Reg.TDET_D_FLAG_LOWER i)) 0

/-! ## Expander lag (R140) -/

/-- Queue an EXPANDER_LAG event (R140, R141, R151): `sub` 0 start, 1 end. Its one stamp is the boundary that starts the lag. -/
def Tdu.lagEvent (d : Tdu) (sub : Nat) : Tdu :=
  let d := d.bump Reg.TCAP_EXP_STATE_EXP_EVT_CNT
  d.queueUnsched (d.eventCoach 3 sub (2 * bit d.cap.lagFrom.ho) (d.cap.expBlk % 65536 + 65536 * min d.cap.lagRun 65535)
    (leBytes 8 d.cap.lagStall ++ leBytes 8 d.cap.lagIssue) 3 d.cap.lagFrom (decide (65535 < d.cap.lagRun)))

/-- The stall-share test at the close of period `p` (R140). -/
def Tdu.lagTest (d : Tdu) (p : Nat) : Tdu :=
  let s := d.cap.snapInc.getD 4 0
  let i := d.cap.snapInc.getD 3 0
  let hold := decide (0 < s + i) && decide (d.rd Reg.TCAP_EXP_CFG_THR * (s + i) ≤ s * 65536)
  let lag := d.rd Reg.TCAP_EXP_STATE_LAG == 1
  if hold then
    let c := d.cap
    let c := if c.lagRun = 0 then { c with lagFrom := ⟨p * 2 ^ 18, d.time.startHoPrev, d.time.startEbPrev⟩, lagStall := 0, lagIssue := 0 } else c
    let c := { c with lagRun := c.lagRun + 1, lagStall := c.lagStall + s, lagIssue := c.lagIssue + i }
    let d := { d with cap := c }
    if !lag && decide (d.rd Reg.TCAP_EXP_CFG_N ≤ c.lagRun) then
      (d.wr Reg.TCAP_EXP_STATE_LAG 1).lagEvent 0
    else d
  else
    let d := if lag then (d.wr Reg.TCAP_EXP_STATE_LAG 0).lagEvent 1 else d
    { d with cap := { d.cap with lagRun := 0, lagStall := 0, lagIssue := 0 } }

/-! ## Die memory and the counter mirror (R98, R116, R117) -/

/-- Charge `n` bytes of die memory to the running period (R98): the state after, and whether the cap allowed it. -/
def Tdu.memCharge (d : Tdu) (n : Nat) : Tdu × Bool :=
  if d.emit.memUsed + n ≤ d.rd Reg.TEMIT_MEMBW_CAP then
    ({ d with emit := { d.emit with memUsed := d.emit.memUsed + n } }, true)
  else (d.bump Reg.TEMIT_MEMBW_REFUSED_CNT, false)

/-- Refresh the mirror page after the snapshot of boundary `t` (R116, R117). A refused refresh is issued again in the next period
(R98). -/
def Tdu.mirror (d : Tdu) (t : Nat) : Tdu :=
  let due := d.cap.mirRetry || t / 2 ^ 18 % 2 ^ d.rd Reg.TPMU_MIR_CFG_DIV == 0
  let retry (b : Bool) (d : Tdu) : Tdu := { d with cap := { d.cap with mirRetry := b } }
  if d.rd Reg.TPMU_MIR_CFG_EN = 0 then retry false d
  else if !due then d
  else match d.memCharge 680 with
    | (d, false) => retry true (d.bump Reg.TPMU_MIR_SKIP_CNT)
    | (d, true) =>
      let d := retry false d
      let base := d.rd Reg.TPMU_MIR_BASE_LO * 4096 + 2 ^ 32 * d.rd Reg.TPMU_MIR_BASE_HI
      let op := d.rd Reg.TPMU_MIR_CFG_OPEN
      let group (g : Nat) : List Byte :=
        if op.testBit g then ((List.range 16).map fun k => leBytes 8 (d.cap.snapCnt.getD (16 * g + k) 0)).flatten
        else zeros 128
      let body := leBytes 8 t ++ leBytes 4 op ++ leBytes 4 (bit d.ho) ++ zeros 8 ++ group 0 ++ group 1 ++ group 2 ++
        group 3 ++ group 4
      let seq := d.cap.mirSeq
      let d := ((d.emitOut (.die base (leBytes 8 (seq + 1)))).emitOut (.die (base + 8) body)).emitOut
        (.die base (leBytes 8 (seq + 2)))
      ({ d with cap := { d.cap with mirSeq := (seq + 2) % 2 ^ 64 } }).wr Reg.TPMU_MIR_SEQ (seq + 2)

/-! ## The period snapshot (R111) -/

/-- SIG_TEMP and SIG_LOAD of the snapshot (R152). -/
def Tdu.signatures (d : Tdu) : Tdu :=
  let temp : Nat := match d.cap.sensorSnap.getD (d.rd Reg.TCAP_SIG_CFG_TEMP_CH) none with
    | some e => if e.err then 128 else unsigned 8 (max (-127) (min 127 e.val))
    | none => 128
  let mx := d.cap.snapInc.getD 3 0
  let cyc := d.cap.snapInc.getD 0 0
  let load := if cyc = 0 then 0 else min 255 (255 * mx / cyc)
  { d with cap := { d.cap with sigTemp := temp, sigLoad := load } }

/-- Swap the histogram banks, the slot table, and the markers and phases of the closing period (R91) into the snapshot, and copy the
counters and sensors (R111, R127, R130). DESIGN CHOICE (assumption 57): the sample of a unit of SRC 4 is holdover-flagged when holdover occurred anywhere in
the period, and a counter number of 80 to 127 gives 0. -/
def Tdu.snapshot (d : Tdu) : Tdu :=
  let d := forIdx 16 (fun u d =>
    let d := if d.rd Reg.THIST_H_CTRL_SRC u = 4 then
        let a := bits (d.rd Reg.THIST_H_ARG u) 0 7
        d.sample u (d.cap.inc.getD a 0 : Nat) d.time.hoSeen
      else d
    let cum := d.rd Reg.THIST_H_CTRL_CUM u == 1
    let e := d.rd Reg.THIST_H_CTRL_E u
    d.setHist u fun h => { h with snap := h.live, snapE := e, live := if cum then h.live else Bank.reset }) d
  let c := d.cap
  let c := { c with snapCnt := c.cnt, snapInc := c.inc, inc := List.replicate 80 0, slotSnap := c.slots, slots := [] }
  let closing (t : Nat) : Bool := t / 2 ^ 18 == d.per - 1
  let c := { c with
    markSnap := c.marks.filter fun m => closing m.t, marks := []
    phaseSnap := c.phases.filter fun m => closing m.t, phases := []
    sensorSnap := c.sensor }
  ({ d with cap := c }).signatures

/-- Clear what may not span a gap (R128): live banks, unpaired stamps and the slot table, counting the samples they held. -/
def Tdu.clearAcrossGap (d : Tdu) : Tdu × Nat :=
  let n := d.cap.hist.foldl (fun n h => n + h.live.count + h.held.length) 0 +
    d.cap.slots.foldl (fun n s => n + s.count) 0
  let c := { d.cap with
    hist := d.cap.hist.map (fun h => { h with live := Bank.reset, held := [] }), slots := [], tokens := [],
    retry := [none, none] }
  (({ d with cap := c }).bumpBy Reg.THIST_H_GAPDROP_CNT n, n)

/-! ## Meanings -/

/-- LINK_RETRY_STROBE. -/
def execLinkRetryStrobe (t : T64) (link : Fin 2) (s : State) : Host.Outcome State Fault Refusal :=
  .next (s.onDie t fun d => d.retryStrobe link)

/-- SENSOR_RESULT. -/
def execSensorResult (t : T64) (ch : Fin 64) (val : BitVec 32) (err : Bool) (s : State) : Host.Outcome State Fault Refusal :=
  .next (s.onDie t fun d => d.sensorResult ch val.toInt err)

/-- PHASE_PRESENT. -/
def execPhasePresent (t : T64) (code : Fin 8) (coll : BitVec 16) (s : State) : Host.Outcome State Fault Refusal :=
  .next (s.onDie t fun d => d.phase code coll.toNat)

end Sys2Proof.Machine
end

