-- ==== Sys2Proof/Machine/DieTime.lean ====
section
/-!
DEFINITION. Fleet Time in the die unit (R55 to R59, R64 to R68): time words, echoes, holdover, re-acquisition and its gap record,
the state of the two links, trigger generators (R88, R89) and the interrupt windows (R99, R101).
-/

namespace Sys2Proof.Machine

/-! ## Gaps (R66, R67, R168) -/

/-- The TDU enters REACQUIRE (R66, R67): the last valid T64 is the FT now held. A gap already open keeps its start. -/
def Tdu.reacquire (cause : Nat) (d : Tdu) : Tdu :=
  if d.tt = 3 then d
  else
    let tm := { d.time with
      gapLast := d.now, gapCause := cause, gapHo := d.ho, gapEb := d.errBound, lostEvt := 0, discards := 0, steer := 0 }
    ({ d with time := tm, emit := { d.emit with left := 0 } }).wr Reg.TTIME_TT_STATE_STATE 3

/-- The GAP coach of a re-acquisition that cleared `smp` samples (R151, R168). -/
def Tdu.gapCoach (d : Tdu) (smp : Nat) : List Byte :=
  mkRecord
    { ver := 1, cls := 3, sev := 5, ho := d.ho || d.time.gapHo, gap := true, late := false, order := false,
      sat := decide (2 ^ 32 ≤ d.time.lostEvt) || decide (2 ^ 32 ≤ smp),
      len := 0, consist := 0xFF01, rank := d.rd Reg.TGEN_RANK, epochLo := 0, job := 0xFFFF,
      eb := ebUnits (max d.time.gapEb d.errBound), sigT := d.cap.sigTemp, sigL := d.cap.sigLoad, t := d.now, rsv := false }
    (leBytes 8 d.time.gapLast ++ leBytes 8 d.now ++ leBytes 4 (clipU 32 d.time.lostEvt) ++ leBytes 1 d.time.gapCause ++ zeros 3 ++
      leBytes 4 (clipU 32 smp))

/-- FT has been set in a period that began while the TDU had no valid FT: its increments, flag and bound begin here (R151, R160;
assumption 69). -/
def Tdu.beginLate (d : Tdu) : Tdu :=
  { d with
    cap := { d.cap with inc := List.replicate 80 0 }
    time := { d.time with hoSeen := d.ho, ebMax := d.errBound } }

/-- The gap is over: FT has been set (R67, R128, R151). A TDU without a rank queues no gap record (R153). -/
def Tdu.closeGap (d : Tdu) : Tdu :=
  let d := if d.time.gapLast / 2 ^ 18 = d.per then d else d.beginLate
  let (d, smp) := d.markLateAll.clearAcrossGap
  let g := d.gapCoach smp
  let spans := ((d.time.gapLast / 2 ^ 18, d.per) :: d.time.gapSpans).take 8
  let d := { d with time := { d.time with gapSpans := spans, lostEvt := 0, lostSmp := smp } }
  let d := (d.wr64 Reg.TTIME_GAP_LAST_LO Reg.TTIME_GAP_LAST_HI d.time.gapLast).wr64 Reg.TTIME_GAP_FIRST_LO
    Reg.TTIME_GAP_FIRST_HI d.now
  let d := d.bump Reg.TTIME_GAP_CNT
  if d.rd Reg.TGEN_RANK = 0xFFFFFF then d
  else if d.unschedRoom g.length then { d with emit := { d.emit with gap := d.emit.gap ++ [g] } }
  else d.bump Reg.TEMIT_QUEUE_DROP_CNT

/-! ## Time words (R55, R58, R59, R65, R66) -/

/-- Link `l` as the TDU holds it. -/
def Tdu.lnk (d : Tdu) (l : Nat) : DieLink := d.time.link.getD l DieLink.reset

/-- The state with link `l` changed. -/
def Tdu.setLnk (d : Tdu) (l : Nat) (f : DieLink → DieLink) : Tdu :=
  { d with time := { d.time with link := modifyAt f l d.time.link } }

/-- A time word passes R55. -/
def wordOk (w : List Byte) : Bool :=
  let t := fieldAt w 0 8
  w.length == 16 && crcOk w && t % 4096 == 0 && fieldAt w 9 1 == t / 4096 % 256

/-- The link whose words the TDU takes (R59): the preferred one while its delay is valid. -/
def Tdu.wordLink (d : Tdu) : Nat :=
  let p := d.rd Reg.TTIME_TT_CTRL_LINK_PREF
  if (d.lnk p).d2.isSome then p else 1 - p

/-- FT is set from a word: T64 plus delay, in half ticks (R57, R66). An echo in flight spans the change of FT, so it is void and
sent again. -/
def Tdu.setTime (d : Tdu) (v2 : Int) : Tdu :=
  let void (k : DieLink) : DieLink := if k.echo.isSome then { k with echo := none, fresh := true } else k
  let tm := { d.time with half := decide (v2 % 2 = 1), steer := 0, discards := 0, link := d.time.link.map void }
  ({ d with ft := BitVec.ofInt 64 (v2 / 2), time := tm, emit := { d.emit with left := 0 } }).wr Reg.TTIME_TT_STATE_STATE 1

/-- A valid word is taken: its HO and EB hold from here, and it is the latest valid word (R66, R68). -/
def Tdu.takeWord (d : Tdu) (w : List Byte) : Tdu :=
  let tm := { d.time with lastT := d.now, lastEb := fieldAt w 10 2, heard := d.now, discards := 0 }
  ({ d with time := tm }).wr Reg.TTIME_TT_STATE_PARENT_HO (bit ((fieldAt w 8 1).testBit 0))

/-- FT is set for the first time: no interval begins at a stamp of the FT that ran before (assumption 55). -/
def Tdu.dropStamps (d : Tdu) : Tdu :=
  { d with
    cap := { d.cap with
      hist := d.cap.hist.map (fun h => { h with held := [] }), tokens := [], retry := [none, none], stretch := none,
      stretchStart := none } }

/-- A word on the link in use meets FT (R65, R66). `v2` is TW_T64 plus the link delay and `diff` that value minus the arrival,
both in half ticks. -/
def Tdu.meetWord (d : Tdu) (w : List Byte) (v2 diff : Int) : Tdu :=
  let tol := d.rd Reg.TTIME_TW_TOL
  match d.tt with
  | 0 => ((d.setTime v2).dropStamps.takeWord w).beginLate
  | 1 =>
    if diff.natAbs ≤ 2 * tol then
      (({ d with time := { d.time with steer := diff * 1000000 } }).takeWord w).noteBound
    else
      let d := (d.bump Reg.TTIME_TW_DISCARD_CNT)
      let d := { d with time := { d.time with discards := d.time.discards + 1 } }
      if d.rd Reg.TTIME_TW_LOST ≤ d.time.discards then d.reacquire 0 else d
  | 2 =>
    if diff.natAbs ≤ 2 * (d.errBound + tol) then
      ((({ d with time := { d.time with steer := diff * 1000000 } }).wr Reg.TTIME_TT_STATE_STATE 1).takeWord w).noteBound
    else (d.bump Reg.TTIME_TW_DISCARD_CNT).reacquire 1
  | _ => (((d.setTime v2).takeWord w).noteBound).closeGap

/-- Send an echo on link `l` (R57, R58). -/
def Tdu.sendEcho (d : Tdu) (l : Nat) : Tdu :=
  (d.setLnk l fun k => { k with echo := some d.now, fresh := false }).emitOut (.echo l d.now)

/-- A time word arrives on link `l` at the TDU's FT (R55 to R66). -/
def Tdu.timeWord (d : Tdu) (l : Nat) (w : List Byte) : Tdu :=
  if !d.clocked || !(d.lnk l).up then d
  else if !wordOk w then d.bump Reg.TTIME_TW_CRC_CNT
  else
    let t := fieldAt w 0 8
    let grid := t / 4096 % 2 ^ d.rd Reg.TTIME_ECHO_INTV == 0
    let d := if (d.lnk l).fresh || grid then d.sendEcho l else d
    match (d.lnk l).d2 with
    | none => d.bump Reg.TTIME_TW_DISCARD_CNT
    | some d2 =>
      let v2 : Int := (2 * t : Nat) + d2
      let diff : Int := v2 - ((2 * d.now + bit d.time.half : Nat) : Int)
      let d := { d with time := { d.time with heard := d.now } }
      if d.wordLink ≠ l then d
      else (d.wr Reg.TTIME_TT_STATE_SRC_LINK l).meetWord w v2 diff

/-- The delay register of a link (R57, R73). -/
def lnkDelay : Nat → Fld
  | 0 => Reg.TTIME_LNK_DELAY_A
  | _ => Reg.TTIME_LNK_DELAY_B

/-- The asymmetry of a link, in ticks (R57). -/
def Tdu.lnkAsym (d : Tdu) (l : Nat) : Int := signed 32 (d.rd (if l = 0 then Reg.TTIME_LNK_ASYM_A else Reg.TTIME_LNK_ASYM_B))

/-- An echo reply arrives at t4 on link `l` (R57). -/
def Tdu.echoReply (d : Tdu) (l : Nat) (t2 t3 : T64) : Tdu :=
  if !d.clocked || !(d.lnk l).up then d
  else match (d.lnk l).echo with
    | none => d
    | some t1 =>
      let d2 : Int := (((d.now : Int) - t1) - ((t3.toNat : Int) - t2.toNat)) + 2 * d.lnkAsym l
      (d.setLnk l fun k => { k with d2 := some d2, echo := none }).wr (lnkDelay l) (unsigned 32 (halfEven d2))

/-- No valid word has come on either link for TW_LOST word intervals (R66). -/
def Tdu.wordsLost (d : Tdu) : Tdu :=
  if d.clocked && d.tt == 1 && decide (d.rd Reg.TTIME_TW_LOST * 4096 ≤ d.now - d.time.heard) then
    (d.wr Reg.TTIME_TT_STATE_STATE 2).noteBound
  else d

/-! ## Links (R32, R58, R59, R307) -/

/-- A link has lost its training: its delay is not valid until a new echo completes (R58, R59). -/
def Tdu.voidDelay (d : Tdu) (l : Nat) : Tdu :=
  (d.setLnk l fun k => { k with d2 := none, echo := none, fresh := true }).wr (lnkDelay l) 0

/-- A link of the die comes up (R32); it has just trained. -/
def Tdu.linkUp (d : Tdu) (l : Nat) : Tdu :=
  ((d.voidDelay l).setLnk l fun k => { k with up := true, credit := 256 }).serveAll

/-- A link of the die goes down (R32): a record that it cut off part-way is to be sent again whole. -/
def Tdu.linkDown (d : Tdu) (l : Nat) : Tdu :=
  let d := (d.voidDelay l).setLnk l fun k => { k with up := false }
  let d := match d.emit.last with
    | some (l', stop, r) =>
      if l' = l ∧ d.now < stop then { d with emit := { d.emit with resend := some r, busy := d.now, paced := 0, last := none } } else d
    | none => d
  d.serveAll

/-- A link of the die retrains (R58): it is counted in fixed counter 9 or 10 (R107). -/
def Tdu.linkRetrain (d : Tdu) (l : Nat) : Tdu := if d.live then (d.voidDelay l).count (9 + l) 1 else d.voidDelay l

/-- VC_T credit returns to the TDU on link `l` (R307). -/
def Tdu.credit (d : Tdu) (l n : Nat) : Tdu := (d.setLnk l fun k => { k with credit := min 256 (k.credit + n) }).serveAll

/-! ## Trigger generators (R88, R89) -/

/-- The sensor channel of generator `k` (R120). -/
def trgCh : Nat → Fld
  | 0 => Reg.TCAP_SH_TRGCH0_0
  | 1 => Reg.TCAP_SH_TRGCH0_1
  | 2 => Reg.TCAP_SH_TRGCH0_2
  | 3 => Reg.TCAP_SH_TRGCH0_3
  | 4 => Reg.TCAP_SH_TRGCH1_0
  | 5 => Reg.TCAP_SH_TRGCH1_1
  | 6 => Reg.TCAP_SH_TRGCH1_2
  | _ => Reg.TCAP_SH_TRGCH1_3

/-- Generator `k` is enabled and due at instant `t` (R88). -/
def Tdu.trgDue (d : Tdu) (k t : Nat) : Bool :=
  let m := 2 ^ d.rd Reg.TEMIT_TRG_CTRL_DIV k
  d.rd Reg.TEMIT_TRG_CTRL_EN k == 1 && t % 2 ^ 18 == d.rd Reg.TEMIT_TRG_OFFSET k &&
    t / 2 ^ 18 % m == d.rd Reg.TEMIT_TRG_CTRL_PHASE k % m

/-- The first edge of REFCLK at or after FT (R486), of which `refFrac` is what has run of the cycle since the edge before. -/
def Tdu.refEdge (d : Tdu) : Nat := d.now + ((8000000 - d.time.refFrac) % 8000000).toNat / 2000000

/-- An instant of generator `k` (R88, R89, R120). TRIG_OUT[k] is pin 32 + k, and is high for 10 ns from an edge of REFCLK (R486). -/
def Tdu.trigger (d : Tdu) (k : Nat) : Tdu :=
  if !d.live || !d.trgDue k d.now then d
  else if !d.clocked || !d.timed then d.bump Reg.TEMIT_TRG_MISS_CNT k
  else
    let d := (d.bump Reg.TEMIT_TRG_FIRED_CNT k).emitOut (.pin (32 + k) true d.refEdge)
    let d := d.emitOut (.pin (32 + k) false (d.refEdge + 40))
    if d.rd Reg.TEMIT_TRG_CTRL_KIND k = 1 then d.armSensor (d.rd (trgCh k)) d.now else d

/-! ## Interrupt windows (R99, R101) -/

/-- An FT second begins at `t` (R99). -/
def secondAt (t : T64) : Bool := t.toNat % 4000000000 == 0

/-- A new FT second in the TDU (R99). -/
def Tdu.intrWindow (d : Tdu) : Tdu :=
  let pend := d.rd Reg.TEMIT_INTR_PEND
  ((({ d with emit := { d.emit with intrUsed := 0 } }).wr Reg.TEMIT_INTR_PEND 0).interrupt pend).drive d

/-- A new FT second in the TAU (R101). -/
def Tau.intrWindow (x : Tau) : Tau :=
  let pend := x.rd Reg.TTB_HOST_INTR_PEND
  (({ x with intrUsed := 0, agr := { x.agr with failUsed := 0 } }).wr Reg.TTB_HOST_INTR_PEND 0).interrupt pend

/-! ## Meanings -/

/-- TIME_WORD_RX. -/
def execTimeWordRx (t : T64) (link : Fin 2) (w : List Byte) (s : State) : Host.Outcome State Fault Refusal :=
  .next (s.onDie t fun d => d.timeWord link w)

/-- ECHO_REPLY_RX. -/
def execEchoReplyRx (t : T64) (link : Fin 2) (t2 t3 : T64) (s : State) : Host.Outcome State Fault Refusal :=
  .next (s.onDie t fun d => d.echoReply link t2 t3)

/-- TW_LOST_TIMEOUT. -/
def execTwLostTimeout (t : T64) (s : State) : Host.Outcome State Fault Refusal :=
  .next (s.onDie t fun d => d.wordsLost)

/-- LINK_RETRAIN. -/
def execLinkRetrain (t : T64) (link : Fin 2) (s : State) : Host.Outcome State Fault Refusal :=
  .next (s.onDie t fun d => d.linkRetrain link)

/-- TDU_INTR_WINDOW. -/
def execTduIntrWindow (t : T64) (s : State) : Host.Outcome State Fault Refusal :=
  .next (s.onDie t fun d => if secondAt t then d.intrWindow else d)

/-- TAU_INTR_WINDOW. -/
def execTauIntrWindow (t : T64) (s : State) : Host.Outcome State Fault Refusal :=
  .next (s.onIsland t fun x => if secondAt t then x.intrWindow else x)

end Sys2Proof.Machine
end

