-- ==== Sys2Proof/Machine/Tap.lean ====
section
/-!
DEFINITION. The link taps of the die unit (R275 to R291): keyed digests, result slots, the chunk store and the two filters.
-/

namespace Sys2Proof.Machine

/-! ## Keyed digests (R279, R280) -/

/-- The evaluation point of collective `c` under the job tap key `j` (R280). -/
def tapPoint (j c : Nat) : Nat :=
  let h := hllHash (Nat.xor j c)
  if h = 0 then 1 else h

/-- The words of a payload (R275). -/
def flitWords : Nat → List Byte → List Nat
  | 0, _ => []
  | n + 1, b => leNat (b.take 8) :: flitWords n (b.drop 8)

/-- Each word's chunk and its term, for words at consecutive offsets from `o`; `p` is h^(o + 1) (R279, R285). -/
def flitTerms (h : Nat) : Nat → Nat → List Nat → List (Nat × Nat)
  | _, _, [] => []
  | p, o, w :: ws => (o / 2 ^ 17 % 1024, gfMul w p) :: flitTerms h (gfMul p h) (o + 1) ws

/-- The terms of a tagged flit under the evaluation point `h`. -/
def tagTerms (g : FlitTag) (h : Nat) (payload : List Byte) : List (Nat × Nat) :=
  flitTerms h (gfPow 38 h (g.offset + 1)) g.offset (flitWords (payload.length / 8) payload)

/-- Whether a flit meets what a filter or tap unit names, but for its chunk (R287). -/
def TapMatch.hits (m : TapMatch) (g : FlitTag) : Bool :=
  g.tap && g.coll == m.coll && g.inst == m.inst && (m.src == 0xFFFFFF || m.src == g.src) &&
    (m.dst == 0xFFFFFF || m.dst == g.dst) && (g.result || !m.resultOnly)

/-- Whether a chunk lies in the range of a filter or tap unit (R287). -/
def TapMatch.inRange (m : TapMatch) (k : Nat) : Bool := decide (m.lo ≤ k) && decide (k < m.lo + m.count)

/-- The key that the TDU holds for a job. -/
def Tdu.tapKey (d : Tdu) (job : Nat) : Option TapKey := d.tap.keys.find? (·.job == job)

/-! ## Result slots and the chunk store (R282 to R286) -/

/-- The state with result slot `i` changed. -/
def Tdu.setRes (d : Tdu) (i : Nat) (f : ResSlot → ResSlot) : Tdu :=
  { d with tap := { d.tap with res := modifyAt (Option.map f) i d.tap.res } }

/-- An instance opens (R283). -/
def ResSlot.open_ (inst : Nat) (s : ResSlot) : ResSlot :=
  { s with st := 1, inst := inst, whole := true, acc := 0, n := 0, chunks := [] }

/-- A slot cleared by its own job's start, key change or end, or by gating (R283). -/
def ResSlot.clear (s : ResSlot) : ResSlot :=
  { s with st := 0, inst := 0, whole := true, acc := 0, n := 0, chunks := [], dig := 0, words := 0 }

/-- Clear the slots of a job, or of every job; an open instance counts in ABANDON_CNT (R283). -/
def Tdu.clearRes (d : Tdu) (p : ResSlot → Bool) : Tdu :=
  forIdx 4 (fun i d => match d.tap.res.getD i none with
    | some s => if p s then (if s.st = 1 then d.bump Reg.TTAP_ABANDON_CNT else d).setRes i ResSlot.clear else d
    | none => d) d

/-- A stored instance replaces the previous one, unless the store is frozen (R285, R286). -/
def Tdu.storeChunks (d : Tdu) (s : ResSlot) : Tdu :=
  if d.tap.store.frozen.isSome then d.bump Reg.TTAP_CH_SKIP_CNT
  else { d with tap := { d.tap with store := { d.tap.store with stored := some (s.coll, s.inst, d.per), entries := s.chunks } } }

/-- A COLL_DONE of the instance reaches slot `i` (R283). -/
def Tdu.resDone (d : Tdu) (i : Nat) (s : ResSlot) : Tdu :=
  if s.st ≠ 1 then d
  else if s.whole then
    let s' := { s with st := 2, dig := Nat.xor (s.n % 2 ^ 64) s.acc, words := s.n }
    let d := d.setRes i fun _ => s'
    if d.rd Reg.TTAP_CH_SLOT = i then d.storeChunks s' else d
  else d.setRes i ResSlot.clear

/-! ## DIGEST coaches of the die unit (R291) -/

/-- A DIGEST coach of the TDU, built now (R291); `epoch` stands where the TDU does not know the job. -/
def Tdu.digestCoach (d : Tdu) (sev job epoch sigT : Nat) (body : List Byte) : List Byte :=
  mkRecord
    { ver := 1, cls := 5, sev := sev, ho := d.ho, gap := d.gapIn d.per, late := false, order := false, sat := false, len := 0,
      consist := 0xFFFF, rank := d.rd Reg.TGEN_RANK, epochLo := if job = 0xFFFF then 0 else d.epochOf job d.per epoch % 256,
      job := job, eb := ebUnits d.errBound, sigT := sigT, sigL := d.cap.sigLoad, t := d.per * 2 ^ 18, rsv := false } body

/-- The common body of a DIGEST coach from byte 24 (R291). -/
def digestBody (sid base level dkind status coll inst group count period : Nat) : List Byte :=
  leBytes 4 sid ++ leBytes 3 base ++ leBytes 1 level ++ leBytes 1 dkind ++ leBytes 1 status ++ leBytes 2 coll ++
    leBytes 1 inst ++ leBytes 1 group ++ leBytes 2 count ++ leBytes 8 period

/-- The HOP DIGEST coach with which a filter answers its request (R288, R291). -/
def Tdu.hopCoach (d : Tdu) (f : Filter) : List Byte :=
  d.digestCoach 2 f.job f.epoch d.cap.sigTemp
    (digestBody f.sid f.base f.level 1 f.status f.m.coll f.m.inst 0 0 d.per ++
      leBytes 8 (Nat.xor (f.n % 2 ^ 64) f.acc) ++ leBytes 4 f.n ++ leBytes 4 f.flits ++ leBytes 3 f.m.src ++
      leBytes 1 (f.link + 2 * f.dir) ++ leBytes 3 f.m.dst ++ zeros 1 ++ leBytes 2 f.m.lo ++ leBytes 2 f.m.count)

/-! ## Survey slots (R220) -/

/-- Whether a survey bears an identity: SID, ISSUER_BASE and ISSUER_LEVEL together (R489). -/
def Survey.is (s : Survey) (sid base level : Nat) : Bool := s.sid == sid && s.base == base && s.level == level

/-- Queue answers in order while the unscheduled queue has room, each with the signatures of the period last closed (R152, R220): the
state after, and the answers that still wait. -/
def Tdu.queueAnswers (d : Tdu) (l : List (List Byte)) : Tdu × List (List Byte) :=
  l.foldl (fun a r =>
    if a.2.isEmpty && a.1.unschedRoom r.length then
      ((a.1.queueUnsched (signRecord a.1.cap.sigTemp a.1.cap.sigLoad r)).bump Reg.TGEN_SRV_ANS_CNT, a.2)
    else (a.1, a.2 ++ [r])) (d, [])

/-- Queue what waits outside the survey slots, then what the slots hold, while the unscheduled queue has room (R220); a slot that is
done and has nothing left is free. -/
def Tdu.serveSurveys (d : Tdu) : Tdu :=
  let (d, w) := d.queueAnswers d.srv.wait
  forIdx 8 (fun i d => match d.srv.slots.getD i none with
    | none => d
    | some s =>
      let (d, wait) := d.queueAnswers s.wait
      let v := if s.done && wait.isEmpty then none else some { s with wait := wait }
      { d with srv := { d.srv with slots := modifyAt (fun _ => v) i d.srv.slots } }) { d with srv := { d.srv with wait := w } }

/-- An answer that no slot holds: it is queued when there is room (R220). -/
def Tdu.answerAtOnce (d : Tdu) (r : List Byte) : Tdu := ({ d with srv := { d.srv with wait := d.srv.wait ++ [r] } }).serveSurveys

/-- The survey slot of an identity gives its last answer. -/
def Tdu.answerLast (d : Tdu) (sid base level : Nat) (r : List Byte) : Tdu :=
  let upd (s : DieSurvey) : DieSurvey := if s.s.is sid base level then { s with wait := s.wait ++ [r], done := true } else s
  ({ d with srv := { d.srv with slots := d.srv.slots.map (Option.map upd) } }).serveSurveys

/-! ## Filters (R287, R288, R303) -/

/-- The registers of filter `i` as it stands (R303). -/
def Tdu.showFilter (d : Tdu) (i : Nat) : Tdu :=
  let f := d.tap.filt.getD i Filter.reset
  let dig := Nat.xor (f.n % 2 ^ 64) f.acc
  let d := (((d.wr Reg.TTAP_F_CTRL_STATE f.st i).wr Reg.TTAP_F_CTRL_LINK f.link i).wr Reg.TTAP_F_CTRL_DIR f.dir i).wr
    Reg.TTAP_F_CTRL_RESULT_ONLY (bit f.m.resultOnly) i
  let d := ((d.wr Reg.TTAP_F_CTRL_STATUS f.status i).wr Reg.TTAP_F_MATCH_COLL f.m.coll i).wr Reg.TTAP_F_MATCH_INST f.m.inst i
  let d := ((d.wr Reg.TTAP_F_CHUNK_LO f.m.lo i).wr Reg.TTAP_F_CHUNK_COUNT f.m.count i).wr Reg.TTAP_F_SRC f.m.src i
  ((d.wr Reg.TTAP_F_DST f.m.dst i).wr64 Reg.TTAP_F_DIG_LO Reg.TTAP_F_DIG_HI dig i).wr Reg.TTAP_F_WORDS f.n i

/-- The state with filter `i` changed. -/
def Tdu.setFilter (d : Tdu) (i : Nat) (f : Filter → Filter) : Tdu :=
  ({ d with tap := { d.tap with filt := modifyAt f i d.tap.filt } }).showFilter i

/-- Filter `i` closes with a status and answers its request (R288). -/
def Tdu.closeFilter (d : Tdu) (i status : Nat) : Tdu :=
  let f := d.tap.filt.getD i Filter.reset
  if f.st = 1 ∨ f.st = 2 then
    let f := { f with st := 3, status := status }
    (d.setFilter i fun _ => f).answerLast f.sid f.base f.level (d.hopCoach f)
  else d

/-- The epoch of job `h` has changed: its filters close as cancelled (R288). -/
def Tdu.cancelFilters (d : Tdu) (h : Nat) : Tdu :=
  forIdx 2 (fun i d => if (d.tap.filt.getD i Filter.reset).job = h then d.closeFilter i 4 else d) d

/-- A filter's deadline boundary (R288). -/
def Tdu.filterDeadline (d : Tdu) (i : Nat) : Tdu :=
  let f := d.tap.filt.getD i Filter.reset
  if d.live && decide (f.deadline ≤ d.per) then d.closeFilter i (if f.st = 1 then 3 else 7) else d

/-- A marker reaches the taps (R283, R288). -/
def Tdu.tapMarker (d : Tdu) (code step coll : Nat) : Tdu :=
  let slots (d : Tdu) (f : Nat → ResSlot → Tdu → Tdu) : Tdu :=
    forIdx 4 (fun i d => match d.tap.res.getD i none with
      | some s => if s.coll = coll then f i s d else d
      | none => d) d
  if code = 2 then
    slots d fun i s d => (if s.st = 1 then d.bump Reg.TTAP_ABANDON_CNT else d).setRes i (ResSlot.open_ (step % 256))
  else if code = 3 then
    let d := slots d fun i s d => d.resDone i s
    forIdx 2 (fun i d =>
      let f := d.tap.filt.getD i Filter.reset
      if f.st = 2 ∧ f.m.coll = coll ∧ f.m.inst = step % 256 then d.closeFilter i 0 else d) d
  else d

/-- A tagged flit of collective `g.coll` meets result slot `i` (R277, R283). -/
def Tdu.resFlit (d : Tdu) (i : Nat) (s : ResSlot) (tx hash : Bool) (g : FlitTag) (payload : List Byte) : Tdu :=
  if s.st ≠ 1 then d
  else if g.inst ≠ s.inst then d.bump Reg.TTAP_INST_MISMATCH_CNT
  else if !g.result then d
  else if !hash then (d.bump Reg.TTAP_UNHASHED_CNT).setRes i fun s => { s with whole := false }
  else if !g.tap || (tx && !g.own) then d
  else match d.tapKey s.job with
    | none => d
    | some k =>
      let ts := tagTerms g (tapPoint k.j g.coll) payload
      d.setRes i fun s =>
        { s with
          acc := ts.foldl (fun a t => Nat.xor a t.2) s.acc, n := s.n + ts.length,
          chunks := ts.foldl (fun l t => Store.put t.1 (Nat.xor (countAt l t.1) t.2) 0 l) s.chunks }

/-- A flit meets filter `i` (R287, R288). -/
def Tdu.filterFlit (d : Tdu) (i link dir : Nat) (hash : Bool) (g : FlitTag) (payload : List Byte) : Tdu :=
  let f := d.tap.filt.getD i Filter.reset
  if (f.st ≠ 1 ∧ f.st ≠ 2) ∨ f.link ≠ link ∨ f.dir ≠ dir ∨ !f.m.hits g ∨ !hash then d
  else
    let h := match d.tapKey f.job with | some k => tapPoint k.j g.coll | none => 0
    let ts := (tagTerms g h payload).filter fun t => f.m.inRange t.1
    if ts.isEmpty then d
    else
      let ts := if (d.tapKey f.job).isNone then [] else ts
      d.setFilter i fun f =>
        { f with st := 2, acc := ts.foldl (fun a t => Nat.xor a t.2) f.acc, n := f.n + ts.length, flits := f.flits + 1 }

/-- A data-VC flit passes a link tap (R276, R282, R283, R287). `dir`: 0 transmit, 1 receive. -/
def Tdu.flit (d : Tdu) (link dir : Nat) (tag : Option FlitTag) (payload : List Byte) : Tdu :=
  if !d.live then d
  else
    let d := { d with tap := { d.tap with flits := modifyAt (· + 1) (2 * link + dir) d.tap.flits } }
    match tag with
    | none => d
    | some g =>
      -- A flit to be hashed that is not whole words is counted, and hashed nowhere (R275).
      let torn := g.tap && payload.length % 8 != 0
      let d := if torn then d.bump Reg.TTAP_TAG_ERR_CNT else d
      let g := { g with tap := g.tap && !torn }
      let hash := (d.rd Reg.TTAP_LINK_EN).testBit link
      let watched := d.tap.res.any (fun s => match s with | some s => s.coll == g.coll | none => false) ||
        d.tap.filt.any (fun f => (f.st == 1 || f.st == 2) && f.m.coll == g.coll)
      let d := if g.result && !watched then d.bump Reg.TTAP_UNWATCHED_CNT else d
      let d := forIdx 4 (fun i d => match d.tap.res.getD i none with
        | some s => if s.coll = g.coll then d.resFlit i s (dir == 0) hash g payload else d
        | none => d) d
      forIdx 2 (fun i d => d.filterFlit i link dir hash g payload) d

/-- The freeze of the chunk store ends CH_HOLD periods after it began (R286). -/
def Tdu.chunkThaw (d : Tdu) : Tdu :=
  match d.tap.store.frozen with
  | some p =>
    if d.live && decide (p + d.rd Reg.TTAP_CH_HOLD ≤ d.per) then
      { d with tap := { d.tap with store := { d.tap.store with frozen := none } } }
    else d
  | none => d

/-- The exclusive OR of the stored accumulators from `k` to `k + n − 1` (R290). -/
def ChunkStore.group (s : ChunkStore) (k n : Nat) : Nat :=
  (List.range n).foldl (fun a i => Nat.xor a (countAt s.entries (k + i))) 0

/-- The answer to a CHUNK_FETCH, and the store after its FREEZE and RELEASE (R286, R290, R291). -/
def Tdu.chunkFetch (d : Tdu) (s : Survey) : List Byte × Tdu :=
  let coll := fieldAt s.par 0 2
  let lo := fieldAt s.par 2 2
  let cnt := fieldAt s.par 4 2
  let g := fieldAt s.par 6 1
  let fl := fieldAt s.par 7 1
  let st := d.tap.store
  let held := match st.stored with | some (c, _, _) => c == coll | none => false
  let slot := d.tap.res.any fun r => match r with | some r => r.coll == coll | none => false
  let (inst, per) := match st.stored with | some (_, i, p) => (i, p) | none => (0, 0)
  let empty := !held || !slot
  let es := if empty then [] else (List.range cnt).map fun i => leBytes 8 (st.group (lo + i * 2 ^ g) (2 ^ g))
  let r := d.digestCoach 2 s.job s.epoch d.cap.sigTemp
    (digestBody s.sid s.base s.level 0 (if empty then 5 else 0) coll (if empty then 0 else inst) g es.length
        (if empty then 0 else per) ++ leBytes 2 lo ++ zeros 6 ++ es.flatten)
  let frozen := if fl.testBit 1 then none else if fl.testBit 0 then some d.per else st.frozen
  (r, { d with tap := { d.tap with store := { st with frozen := frozen } } })

/-- The filter that a TAP_ARM request describes, armed (R287, R289). -/
def Survey.filter (s : Survey) : Filter :=
  let b := fieldAt s.par 6 1
  let m : TapMatch := ⟨fieldAt s.par 0 2, fieldAt s.par 7 1, fieldAt s.par 2 2, fieldAt s.par 4 2, fieldAt s.par 8 3,
    fieldAt s.par 11 3, b.testBit 3⟩
  { st := 1, link := bits b 1 1, dir := bits b 2 1, m := m, status := 0, acc := 0, n := 0, flits := 0, deadline := s.deadline,
    sid := s.sid, base := s.base, level := s.level, job := s.job, epoch := s.epoch }

/-- The BUSY answer to a TAP_ARM request (R288, R291). -/
def Tdu.armBusy (d : Tdu) (s : Survey) : List Byte := d.hopCoach { s.filter with status := 6 }

/-- Arm a filter from a TAP_ARM request, where it is neither ARMED nor OPEN (R288, R289). -/
def Tdu.armFilter (d : Tdu) (s : Survey) : Option Tdu :=
  let i := fieldAt s.par 6 1 % 2
  let f := d.tap.filt.getD i Filter.reset
  if f.st = 1 ∨ f.st = 2 then none else some (d.setFilter i fun _ => s.filter)

/-- TAP_FLIT. -/
def execTapFlit (t : T64) (link dir : Fin 2) (tag : Option FlitTag) (payload : List Byte) (s : State) :
    Host.Outcome State Fault Refusal :=
  .next (s.onDie t fun d => d.flit link dir tag payload)

/-- CHUNK_FREEZE_TIMEOUT. -/
def execChunkFreezeTimeout (t : T64) (s : State) : Host.Outcome State Fault Refusal :=
  .next (s.onDie t fun d => d.chunkThaw)

/-- FILTER_DEADLINE. -/
def execFilterDeadline (t : T64) (f : Fin 2) (s : State) : Host.Outcome State Fault Refusal :=
  .next (s.onDie t fun d => d.filterDeadline f)

/-- MARKER_PRESENT: the marker is stamped and checked (R90 to R93), and acts on the taps whether or not it could be stamped
(R283). -/
def execMarkerPresent (t : T64) (code : Fin 8) (step : BitVec 32) (coll : BitVec 16) (slot : BitVec 8) (s : State) :
    Host.Outcome State Fault Refusal :=
  .next (s.onDie t fun d =>
    if d.clocked then ((d.marker code step.toNat coll.toNat slot.toNat).1).tapMarker code step.toNat coll.toNat else d)

end Sys2Proof.Machine
end

