-- ==== Sys2Proof/Machine/DieSurvey.lean ====
section
/-!
DEFINITION. Surveys, chunk fetches, tap arms and probes at the die unit (R215, R220, R221, R239, R289, R290, R460, R489).
-/

namespace Sys2Proof.Machine

/-- A control record that the TDU drops (R458). -/
def Tdu.ctlDrop (d : Tdu) : Tdu := d.bump Reg.TGEN_CTL_DMG_CNT

/-- A record leaves past the emission queues on link `on`, or on the link in use: it waits behind others there, and for a link or for
VC_T credit (R32, R307). -/
def Tdu.sendPast (d : Tdu) (on : Option Nat) (r : List Byte) : Tdu :=
  let wait : Tdu := { d with ctl := { d.ctl with outq := d.ctl.outq ++ [(on, r)] } }
  match on.or d.sendLink with
  | some l =>
    if !(d.lnk l).up || d.ctl.outq.any (fun q => q.1.getD l == l) || decide ((d.lnk l).credit < vcUnits r) then wait
    else (d.setLnk l fun k => { k with credit := k.credit - vcUnits r }).emitOut (.vct l r)
  | none => wait

/-- A control record leaves towards the TAU. -/
def Tdu.sendCtl (d : Tdu) (r : List Byte) : Tdu := d.sendPast none r

/-- Records that waited for a link or for credit leave as they now may. -/
def Tdu.flushCtl (d : Tdu) : Tdu := d.ctl.outq.foldl (fun d q => d.sendPast q.1 q.2) { d with ctl := { d.ctl with outq := [] } }

/-- A control record reaches the TDU: a damaged one is dropped and counted (R458), and `f` acts on any other where the microcode runs. A
region without power takes nothing. -/
def Tdu.ctlIn (d : Tdu) (ok : Bool) (f : Tdu → Tdu) : Tdu :=
  if !d.reachable then d else if !ok then d.ctlDrop else if !d.live then d else f d

/-- The consist that the TDU holds under an id. -/
def Tdu.consist (d : Tdu) (id : Nat) : Option Consist := d.held.find? (·.id == id)

/-- A DETAIL coach of the TDU (R146, R151, R152, R221), built now. `notes` tell of the fields that it carries: the flag and the bound
are those of their stamps and of the TDU's time state. `gap`: the coach that they come from carries GAP. -/
def Tdu.detail (d : Tdu) (s : Survey) (period sev : Nat) (gap : Bool) (notes : List FieldNote) (body : List Byte) : List Byte :=
  let stamps := notes.filterMap (·.stamp)
  mkRecord
    { ver := 1, cls := 4, sev := sev, ho := d.ho || stamps.any (·.1), gap := gap || d.gapIn period, late := false,
      order := notes.any (·.order), sat := notes.any (·.sat), len := 0, consist := s.consist, rank := d.rd Reg.TGEN_RANK,
      epochLo := if s.job = 0xFFFF then 0 else d.epochOf s.job period s.epoch % 256, job := s.job,
      eb := ebUnits (stamps.foldl (fun b m => max b m.2) d.errBound), sigT := d.cap.sigTemp, sigL := d.cap.sigLoad,
      t := period * 2 ^ 18, rsv := false } body

/-- An answer without fields: 1 NO_MATCH, 2 NOT_RETAINED, 3 BUSY (R221). -/
def Tdu.shortAnswer (d : Tdu) (s : Survey) (status : Nat) : List Byte :=
  d.detail s s.period 1 false [] (answerHead s s.period status 0)

/-- The MATCH answer from a coach about period `p` (R221), of whose fields the TDU has noted `notes`. -/
def Tdu.matchAnswer (d : Tdu) (s : Survey) (c : Consist) (p : Nat) (r : List Byte) (notes : List FieldNote) : List Byte :=
  let fields := if s.flags.testBit 1 then [] else selectFields s.fmask (c.coachFields r)
  let chosen := if s.flags.testBit 1 then [] else
    ((List.range notes.length).zip notes).filterMap fun n => if s.fmask.testBit n.1 then some n.2 else none
  d.detail s p 2 (Hdr.parse r).gap chosen (answerHead s p 0 0 ++ zeros 4 ++ leBytes 16 s.fmask ++ fields)

/-- A coach satisfies every term that a TDU judges: one on a TAU-filled field is taken as met (R218). -/
def coachMatches (s : Survey) (c : Consist) (r : List Byte) : Bool :=
  let fs := c.coachFields r
  s.terms.all fun t => match fs.getD t.field none with
    | none => true
    | some b => t.holds (c.fields.getD t.field ⟨0, 0, 0, 0, 0, 0, 0, 0, 0, 0, 0⟩) b

/-- The coach kept for a consist and period (R215). -/
def Tdu.keptCoach (d : Tdu) (consist p : Nat) : Option Kept :=
  d.srv.kept.find? fun k => k.consist == consist && k.period == p

/-- The one answer to a PERIOD survey (R220). -/
def Tdu.judgePeriod (d : Tdu) (s : Survey) : List Byte :=
  match d.consist s.consist, d.keptCoach s.consist s.period with
  | some c, some k => if coachMatches s c k.bytes then d.matchAnswer s c s.period k.bytes k.notes else d.shortAnswer s 1
  | _, _ => d.shortAnswer s 2

/-- Put a survey into a slot. -/
def Tdu.takeSlot (d : Tdu) (i : Nat) (v : DieSurvey) : Tdu :=
  ({ d with srv := { d.srv with slots := modifyAt (fun _ => some v) i d.srv.slots } }).serveSurveys

/-- A survey-descriptor record reaches the TDU (R220, R289, R290). A chunk fetch is answered from the store and takes no slot. -/
def Tdu.surveyIn (d : Tdu) (r : List Byte) : Tdu :=
  d.ctlIn (surveyRecOk r) fun d =>
    let s := Survey.parse (r.drop 8)
    if s.kind = 2 then
      let (r, d) := d.chunkFetch s
      d.answerAtOnce r
    else match firstIdx Option.isNone d.srv.slots with
    | none =>
      (d.bump Reg.TGEN_SRV_BUSY_CNT).answerAtOnce (if s.kind < 2 then d.shortAnswer s 3 else d.armBusy s)
    | some i =>
      match s.kind with
      | 0 => d.takeSlot i ⟨s, [d.judgePeriod s], true⟩
      | 1 => d.takeSlot i ⟨s, [], false⟩
      | _ =>
        match d.armFilter s with
        | none => (d.bump Reg.TGEN_SRV_BUSY_CNT).takeSlot i ⟨s, [d.armBusy s], true⟩
        | some d => d.takeSlot i ⟨s, [], false⟩

/-- A cancel frees the survey's slot and stops its answers (R220, R224). -/
def Tdu.surveyCancel (d : Tdu) (r : List Byte) : Tdu :=
  d.ctlIn (ctlOk 0xBD r && r.length == 24) fun d =>
    let drop (o : Option DieSurvey) : Option DieSurvey := match o with
      | some v => if v.s.is (fieldAt r 4 4) (fieldAt r 8 3) (fieldAt r 11 1) then none else some v
      | none => none
    { d with srv := { d.srv with slots := d.srv.slots.map drop } }

/-- A coach that the TDU has built meets the standing surveys of its consist (R220). `p` is its period. -/
def Tdu.standing (d : Tdu) (c : Consist) (p : Nat) (r : List Byte) (notes : List FieldNote) : Tdu :=
  let upd (v : DieSurvey) : DieSurvey :=
    if v.s.kind = 1 ∧ v.s.consist = c.id ∧ v.s.period ≤ p ∧ d.per < v.s.deadline ∧ coachMatches v.s c r then
      { v with wait := v.wait ++ [d.matchAnswer v.s c p r notes] }
    else v
  ({ d with srv := { d.srv with slots := d.srv.slots.map (Option.map upd) } }).serveSurveys

/-- Standing surveys stop at their deadline (R220). -/
def Tdu.endStanding (d : Tdu) : Tdu :=
  let upd (v : DieSurvey) : DieSurvey := if v.s.kind = 1 ∧ v.s.deadline ≤ d.per then { v with done := true } else v
  ({ d with srv := { d.srv with slots := d.srv.slots.map (Option.map upd) } }).serveSurveys

/-- Keep a coach in the detail store when its key field is non-empty: the last four of its consist (R213, R215). -/
def Tdu.keepCoach (d : Tdu) (c : Consist) (j : DieJob) (p : Nat) (r : List Byte) (notes : List FieldNote) : Tdu :=
  let key := ((j.ret.find? (·.1 == c.id)).map (·.2)).getD 0xFE
  let fs := c.coachFields r
  let keep := key == 0xFF || (decide (key < c.fields.length) && (match fs.getD key none with
    | some b => (c.fields.getD key ⟨0, 0, 0, 0, 0, 0, 0, 0, 0, 0, 0⟩).nonEmpty b
    | none => false))
  if !keep then d
  else
    let own := (⟨c.id, p, r, notes⟩ :: d.srv.kept.filter (·.consist == c.id)).take 4
    { d with srv := { d.srv with kept := own ++ d.srv.kept.filter (·.consist != c.id) } }

/-- The answer to a probe on link `link` (R239). -/
def Tdu.probeAnswer (d : Tdu) (r : List Byte) (link : Nat) : List Byte :=
  let q := fieldAt r 8 8
  let s : Survey :=
    { sid := fieldAt r 4 4, base := fieldAt r 20 3, level := 0, consist := 0xFFFF, job := 0xFFFF, epoch := 0, period := q - 1,
      deadline := 0, lo := 0, kind := 0, hi := 0, flags := 0, maxans := 0, fmask := 0, terms := [], par := [] }
  let act := bit (d.jobs.any (·.activeIn d.per))
  d.detail s (q - 1) 1 false []
    (answerHead s (q - 1) 5 0 ++ leBytes 4 (d.rd Reg.TTAP_FLIT_A_TX) ++ leBytes 4 (d.rd Reg.TTAP_FLIT_A_RX) ++
      leBytes 4 (d.rd Reg.TTAP_FLIT_B_TX) ++ leBytes 4 (d.rd Reg.TTAP_FLIT_B_RX) ++ leBytes 2 (clipU 16 d.srv.phD) ++
      leBytes 2 (clipU 16 d.srv.mkD) ++
      leBytes 1 (d.tt + 4 * bit (d.lnk 0).up + 8 * bit (d.lnk 1).up + 16 * act) ++ leBytes 1 link ++ zeros 2)

/-- A probe reaches the TDU on link `link` (R239, R460): it is answered there, outside the queues. -/
def Tdu.probe (d : Tdu) (link : Nat) (r : List Byte) : Tdu :=
  d.ctlIn (ctlOk 0xB4 r && r.length == 32 && fieldAt r 16 3 == d.rd Reg.TGEN_RANK) fun d =>
  if !d.timed || d.rd Reg.TGEN_RANK == 0xFFFFFF then d
  else
    let a := d.probeAnswer r link
    (({ d with srv := { d.srv with owed := d.srv.owed + a.length } }).sendPast (some link) a).bump Reg.TGEN_SRV_ANS_CNT

/-- TDU_SURVEY_RX. -/
def execTduSurveyRx (t : T64) (r : List Byte) (s : State) : Host.Outcome State Fault Refusal :=
  .next (s.onDie t fun d => d.surveyIn r)

/-- TDU_SURVEY_CANCEL_RX. -/
def execTduSurveyCancelRx (t : T64) (r : List Byte) (s : State) : Host.Outcome State Fault Refusal :=
  .next (s.onDie t fun d => d.surveyCancel r)

/-- PROBE_RX_TDU. -/
def execProbeRxTdu (t : T64) (link : Fin 2) (r : List Byte) (s : State) : Host.Outcome State Fault Refusal :=
  .next (s.onDie t fun d => d.probe link r)

end Sys2Proof.Machine
end

