-- ==== Sys2Proof/Machine/TauSurvey.lean ====
section
/-!
DEFINITION. Surveys at the TAU: retained summaries (R213, R214), admission (R217, R289), what a summary can rule out (R218), descent
(R219), answers and ENDs (R221 to R223) and the slots (R224).
-/

namespace Sys2Proof.Machine

/-! ## Retained summaries (R213, R214) -/

/-- The kept period of a stream, where it is retained here. -/
def Tau.kept (x : Tau) (j c p : Nat) : Option RetPer :=
  x.srv.ret.find? fun r => r.job == j && r.consist == c && r.period == p

/-- The bytes that a value takes in a coach (R156). -/
def Acc.coachBytes (d : Desc) : Acc → List Byte
  | .sum v => leBytes 8 (unsigned 64 v)
  | .mm v r n => leBytes 8 v ++ leBytes 3 r ++ zeros 1 ++ leBytes 4 n
  | .topk e => leBytes 1 e.length ++ zeros 7 ++ (e.map fun (v, r, t) => leBytes 8 v ++ leBytes 3 r ++ leBytes 1 t).flatten
  | .bmap v => leBytes (d.size / 8) v
  | _ => d.empty

/-- The field encodings by which a TRAY TAU judges a child TDU: its coach's, and the values filled for its rank (R218). -/
def rankFields (c : Consist) (m : Summ) : List (List Byte) :=
  let coach := c.coachFields m.bytes
  (List.range c.fields.length).map fun f =>
    let d := c.fields.getD f ⟨0, 0, 0, 0, 0, 0, 0, 0, 0, 0, 0⟩
    match coach.getD f none with
    | some b => b
    | none => match (m.fills.find? (·.1 == f)) with
      | some (_, a) => a.coachBytes d
      | none => d.empty

/-- A subtree may match a term, judged on its train's value: the summary column of R218. -/
def Term.may (t : Term) (d : Desc) (a : Acc) : Bool :=
  let x := ordKey d.etype t.x
  let ne := d.accNonEmpty a
  match t.test, a with
  | 0, _ => ne
  | 1, .mm v _ _ => if d.op = 4 then ne && decide (x < ordKey d.etype v) else ne
  | 1, .topk e => match e.head? with | some f => decide (x < ordKey d.etype f.1) | none => false
  | 1, _ => ne
  | 2, .mm v _ _ => if d.op = 3 then ne && decide (ordKey d.etype v < x) else ne
  | 2, .topk e => match e.getLast? with
    | some l => e.length == d.size || decide (ordKey d.etype l.1 < x)
    | none => false
  | 2, _ => ne
  | 3, .hist _ o l => decide (0 < o) || l.any fun b => decide (t.arg ≤ b.1)
  | 4, .bmap v => v.testBit t.arg
  | 5, .bmap v => !v.testBit t.arg
  | 6, .agree g => decide (0 < g.valid) && (g.lo != t.x || g.hi != t.x)
  | 7, .agree g => decide (0 < g.valid) && decide (g.lo ≤ t.x) && decide (t.x ≤ g.hi)
  | _, _ => false

/-- What a child's summary says of a survey (R218, R219): it may match, and its PRESENT and EXPECTED. -/
def Tau.summarySays (x : Tau) (s : Survey) (m : Summ) : Bool × Nat × Nat :=
  match x.consistIn s.consist s.period with
  | none => (true, 0, 0)
  | some c =>
    if x.isTray then
      let fs := rankFields c m
      (s.terms.all fun t => t.holds (c.fields.getD t.field ⟨0, 0, 0, 0, 0, 0, 0, 0, 0, 0, 0⟩) (fs.getD t.field []), 1, 1)
    else
      let p := Preamble.parse m.bytes
      let l := (trainFields c.fields m.bytes).getD []
      (s.terms.all fun t => t.may (c.fields.getD t.field ⟨0, 0, 0, 0, 0, 0, 0, 0, 0, 0, 0⟩) (l.getD t.field .keep), p.present, p.expected)

/-- Read a child's summary for a survey, charged to class SUMMARY (R214): none where it is not retained or the read is refused. -/
def Tau.readSummary (x : Tau) (s : Survey) (sec c : Nat) : Option Summ × Tau :=
  match (x.kept s.job s.consist s.period).bind fun r => r.summ.find? (·.child == c) with
  | none => (none, x)
  | some m =>
    if !m.kept then (none, x)
    else
      let (x, ok) := x.hbmCharge sec 0 m.bytes.length
      if ok then (some m, x) else (none, x.bump Reg.SRV_RET_MISS_CNT (s := sec))

/-! ## Ranks in scope (R219) -/

/-- The job's in-scope ranks in [lo, hi). -/
def Tau.scopeRanks (x : Tau) (s : Survey) (lo hi : Nat) : Nat :=
  match x.job s.job with
  | none => 0
  | some j => ranksIn j.ranges (Nat.max lo s.lo) (Nat.min hi (s.hi + 1))

/-- The job's in-scope ranks of child `c`. -/
def Tau.childScope (x : Tau) (s : Survey) (c : Nat) : Nat := x.scopeRanks s (x.kidBase c) (x.kidBase c + x.kidSpan c)

/-- The in-scope ranks that a child asked stands for, as they were when it was asked: it may have left since (R219, R223). -/
def TauSurvey.scopeOf (v : TauSurvey) (c : Nat) : Nat := ((v.asked.find? (·.1 == c)).map (·.2)).getD 0

/-- The job's in-scope ranks of the whole TAU. -/
def Tau.ownScope (x : Tau) (s : Survey) : Nat := x.scopeRanks s x.base (x.base + x.rd Reg.SCB_RANK_SPAN)

/-- A child's range meets the scope. -/
def Tau.meetsScope (x : Tau) (s : Survey) (c : Nat) : Bool :=
  decide (x.kidBase c ≤ s.hi) && decide (s.lo < x.kidBase c + x.kidSpan c)

/-! ## Admission (R217, R289) -/

/-- The form of KIND 2 and 3 (R289). -/
def Survey.requestOk (s : Survey) : Bool :=
  let count := fieldAt s.par 4 2
  let lo := fieldAt s.par 2 2
  s.lo == s.hi && s.terms.isEmpty && s.fmask == 0 && s.maxans == 1 &&
    (if s.kind = 2 then
      let g := fieldAt s.par 6 1
      decide (1 ≤ count) && decide (count ≤ 64) && decide (g ≤ 4) && decide (fieldAt s.par 7 1 < 4) && allZero (s.par.drop 8) &&
        decide (lo + count * 2 ^ g ≤ 1024)
    else decide (1 ≤ count) && decide (count ≤ 1024) && decide (fieldAt s.par 6 1 < 16) && allZero (s.par.drop 14) &&
        decide (lo + count ≤ 1024))

/-- The form of a survey's terms and fields against its stream's consist (R217). `rsv`: its reserved bytes are zero. A MAXANS of 0 and
more than 8 terms are refused with the rest (DESIGN CHOICE; assumption 72). -/
def Survey.formOk (s : Survey) (fs : List Desc) (rsv : Bool) : Bool :=
  rsv && decide (s.kind ≤ 3) && decide (s.terms.length ≤ 8) && decide (s.fmask < 2 ^ fs.length) && decide (1 ≤ s.maxans) &&
    s.terms.all (fun t =>
      let d := fs.getD t.field ⟨0, 0, 0, 0, 0, 0, 0, 0, 0, 0, 0⟩
      decide (t.field < fs.length) && testAllowed t.test d.op && (d.op != 15 || s.level == 0) && (s.kind != 1 || d.src != 0)) &&
    (s.kind < 2 || s.requestOk)

/-- The largest MATCH answer of a survey (R217). -/
def Survey.answerMax (s : Survey) (fs : List Desc) : Nat :=
  64 + ((List.range fs.length).foldl (fun o f =>
    let d := fs.getD f ⟨0, 0, 0, 0, 0, 0, 0, 0, 0, 0, 0⟩
    if s.fmask.testBit f then let w := d.bytes d.most; if w = 0 then o else (o + 7) / 8 * 8 + w else o) 0) + 4

/-- The checks of R217, in order: the completion code. -/
def Tau.surveyCode (x : Tau) (s : Survey) (here rsv : Bool) : Nat :=
  let fs := x.fields s.consist
  if x.srv.slots.all (·.isSome) then Code.capacity
  else if x.epochAt s.job x.per != some s.epoch then Code.stale
  else if (x.stream s.job s.consist).isNone || !s.formOk fs rsv then Code.fit
  else if 1024 < s.answerMax fs then Code.fit
  else if s.kind = 0 ∧ (x.kept s.job s.consist s.period).isNone then Code.fit
  else if here && decide (s.deadline < x.per + x.rd Reg.SRV_HOP_MARGIN + 1) && s.kind == 0 then Code.fit
  else Code.done

/-! ## Answers (R221, R222) -/

/-- The header of a coach about the period of `t`, or built at `t`, that this TAU builds itself, with the epoch in force then (R154). A
TAU has no temperature channel and no counters: its signatures are −128 and 0 (R152; DESIGN CHOICE; assumption 72). -/
def Tau.ownHdr (x : Tau) (cls sev consist job t : Nat) : Hdr :=
  { ver := 1, cls := cls, sev := sev, ho := x.holdover, gap := false, late := false, order := false, sat := false, len := 0,
    consist := consist, rank := x.base, epochLo := if job = 0xFFFF then 0 else (x.epochAt job (t / 2 ^ 18)).getD 0 % 256, job := job,
    eb := ebUnits x.errBound, sigT := 128, sigL := 0, t := t, rsv := false }

/-- The END of a survey slot (R221), with the epoch of its handle in force in its period, or the descriptor's where this TAU holds the
handle no more (R154). -/
def Tau.endCoach (x : Tau) (v : TauSurvey) : List Byte :=
  mkRecord { x.ownHdr 4 1 v.s.consist v.s.job (v.s.period * 2 ^ 18) with
      epochLo := if v.s.job = 0xFFFF then 0 else (x.epochAt v.s.job v.s.period).getD v.s.epoch % 256 }
    (answerHead v.s v.s.period 4 v.eflags ++ leBytes 4 v.nMatch ++ leBytes 4 v.nNo ++ leBytes 4 v.nRet ++ leBytes 4 v.nTmo ++
      leBytes 4 v.nBusy ++ leBytes 4 v.nExcl ++ leBytes 4 v.nUnj ++ zeros 4)

/-- The bytes free in the answer ring. -/
def Tau.ringFree (x : Tau) : Nat :=
  let cap := x.rd Reg.SRV_ANS_SIZE * 65536
  if cap = 0 then 0 else cap - (x.rd Reg.SRV_ANS_WR + cap - x.rd Reg.SRV_ANS_RD % cap) % cap - 1

/-- Put a coach into the answer ring (R222): the state after, and whether it was stored. -/
def Tau.ringPut (x : Tau) (r : List Byte) : Tau × Bool :=
  let cap := x.rd Reg.SRV_ANS_SIZE * 65536
  if cap = 0 ∨ x.ringFree < r.length then (x, false)
  else
    let base := x.rd Reg.SRV_ANS_BASE_LO * 4096 + x.rd Reg.SRV_ANS_BASE_HI * 2 ^ 32
    let wr := x.rd Reg.SRV_ANS_WR % cap
    let n := Nat.min r.length (cap - wr)
    let x := x.emitOut (.hbm (base + wr) (r.take n))
    let x := if n < r.length then x.emitOut (.hbm base (r.drop n)) else x
    (x.wr Reg.SRV_ANS_WR ((wr + r.length) % cap), true)

/-- The state with survey slot `i` changed. -/
def Tau.setSurvey (x : Tau) (i : Nat) (v : Option TauSurvey) : Tau :=
  { x with srv := { x.srv with slots := modifyAt (fun _ => v) i x.srv.slots } }

/-- A survey whose children have all ended (R224): its END goes up, or into the issuer's ring with SURVEY_DONE; the slot is free. A
standby ROOT issues no survey answers (R23). -/
def Tau.endSurvey (x : Tau) (i : Nat) (v : TauSurvey) : Tau :=
  let e := x.endCoach v
  let x := x.setSurvey i none
  if v.here then ((x.ringPut e).1).raise 0
  else if x.isStandby then x else x.toParent false e

/-- Keep a slot, or end it when nothing is pending. -/
def Tau.settleSurvey (x : Tau) (i : Nat) (v : TauSurvey) : Tau :=
  if v.pend = 0 then x.endSurvey i { v with st := 2 } else x.setSurvey i (some v)

/-! ## Descent (R219) -/

/-- A child that the survey does not reach in time: its in-scope ranks to TIMEOUT (R219, R222). -/
def Tau.timeOut (x : Tau) (sec c : Nat) (v : TauSurvey) : Tau × TauSurvey :=
  (x.bump Reg.SRV_TIMEOUT_CNT (s := sec),
    { v with
      nTmo := v.nTmo + v.scopeOf c
      eflags := Nat.lor v.eflags 2
      pend := v.pend - Nat.land v.pend (2 ^ c) })

/-- Forward a survey to child `c`, its deadline earlier by HOP_MARGIN (R219, R489). Below a FEDERATION TAU the scope is in the
ROOT's own ranks (R153). -/
def Tau.forwardSurvey (x : Tau) (sec c : Nat) (v : TauSurvey) : Tau × TauSurvey :=
  let d := v.s.deadline - x.rd Reg.SRV_HOP_MARGIN
  let v := { v with asked := (c, x.childScope v.s c) :: v.asked }
  if d ≤ x.per then x.timeOut sec c v
  else
    let off := if x.role = 4 then x.kidBase c else 0
    let hi := if x.role = 4 then Nat.min v.s.hi (x.kidBase c + x.kidSpan c - 1) else v.s.hi
    let s := { v.s with deadline := d, lo := v.s.lo - off, hi := hi - off }
    ((x.sendDown c s.record).bump Reg.SRV_FWD_CNT (s := sec), { v with pend := Nat.lor v.pend (2 ^ c) })

/-- Judge child `c` for a PERIOD survey (R219). -/
def Tau.judgeChild (x : Tau) (sec c : Nat) (v : TauSurvey) : Tau × TauSurvey :=
  let n := x.childScope v.s c
  let (m, x) := x.readSummary v.s sec c
  match m with
  | none => x.forwardSurvey sec c v
  | some m =>
    let (may, present, expected) := x.summarySays v.s m
    if may || (v.s.flags.testBit 0 && decide (present < expected)) then x.forwardSurvey sec c v
    else
      let unj := Nat.min n (expected - present)
      (x, { v with nUnj := v.nUnj + unj, nExcl := v.nExcl + (n - unj) })

/-- Descend into the children (R219). In-scope ranks under no attached child are unjudged (DEDUCED from R223; assumption 18). -/
def Tau.descend (x : Tau) (i : Nat) (v : TauSurvey) : Tau :=
  let sec := x.homeOf v.s.job v.s.consist
  let reach := x.children.filter (x.meetsScope v.s)
  let held := reach.foldl (fun n c => n + x.childScope v.s c) 0
  let v := if v.s.kind = 0 then { v with nUnj := v.nUnj + (x.ownScope v.s - held) } else v
  let (x, v) := forEach reach (fun c (a : Tau × TauSurvey) =>
    if v.s.kind = 0 then a.1.judgeChild sec c a.2 else a.1.forwardSurvey sec c a.2) (x, v)
  x.settleSurvey i { v with st := 1 }

/-- Take a slot for an admitted survey and descend. -/
def Tau.startSurvey (x : Tau) (s : Survey) (here : Bool) (pair : Option (Nat × Nat)) : Tau × Nat :=
  let i := (firstIdx (·.isNone) x.srv.slots).getD 0
  let x := x.bump Reg.SRV_ISSUED_CNT
  let v : TauSurvey :=
    { s := s, here := here, st := 1, pend := 0, nMatch := 0, nNo := 0, nRet := 0, nTmo := 0, nBusy := 0,
      nExcl := 0, nUnj := 0, eflags := 0, stored := 0, pair := pair, asked := [] }
  (x.descend i v, i)

/-- A survey is refused at admission (R217); one refused for capacity is a load refused (R34). -/
def Tau.admitRefused (x : Tau) (code : Nat) : Tau :=
  let x := x.bump Reg.SRV_ADMIT_REF_CNT
  if code = Code.capacity then x.bump Reg.GEN_LOAD_REFUSED_CNT else x

/-- Issue a survey at this TAU (R217): its code, and the slot taken. The SID names the slot and the issuer's sequence (R216). -/
def Tau.issueSurvey (x : Tau) (s : Survey) (rsv : Bool) (pair : Option (Nat × Nat)) : Tau × Nat × Nat × Nat :=
  let i := (firstIdx (·.isNone) x.srv.slots).getD 0
  let seq := (x.srv.seq + 1) % 2 ^ 26
  let s := { s with sid := i + 64 * seq, base := x.base, level := x.role }
  let code := x.surveyCode s true rsv
  if code = Code.done then
    let (x, i) := { x with srv := { x.srv with seq := seq } }.startSurvey s true pair
    (x, code, i, s.sid)
  else (x.admitRefused code, code, 0, 0)

/-- A write of SRV.ISSUE.GO (R217, R243). -/
def Tau.surveyIssue (x : Tau) : Tau :=
  let b := (List.range 48).flatMap fun i => leBytes 4 (x.rd Reg.SRV_DESC i)
  let (x, code, i, sid) := x.issueSurvey (Survey.parse b) (surveyRsv b) none
  ((((x.wr Reg.SRV_ISSUE_STAT_CODE code).wr Reg.SRV_ISSUE_STAT_SLOT i).wr Reg.SRV_ISSUE_STAT_VALID 1)).wr Reg.SRV_ISSUE_SID sid

/-- A survey-descriptor record from the parent (R219, R458, R489). -/
def Tau.surveyRx (x : Tau) (r : List Byte) : Tau :=
  if !surveyRecOk r then x.bump Reg.GEN_CTL_DMG_CNT
  else
    let b := r.drop 8
    let s := Survey.parse b
    let code := x.surveyCode s false (surveyRsv b)
    if code = Code.done then (x.startSurvey s false none).1
    else
      let x := x.admitRefused code
      let v : TauSurvey :=
        { s := s, here := false, st := 2, pend := 0, nMatch := 0, nNo := 0, nRet := 0, nTmo := 0,
          nBusy := x.ownScope s, nExcl := 0, nUnj := 0, eflags := 0, stored := 0, pair := none, asked := [] }
      if x.isStandby then x else x.toParent false (x.endCoach v)

/-! ## What comes back (R222, R224) -/

/-- The slot of the survey that a DETAIL or DIGEST coach answers. -/
def Tau.surveyOf (x : Tau) (r : List Byte) : Option (Nat × TauSurvey) :=
  (List.range 64).findSome? fun i => match x.srv.slots.getD i none with
    | some v =>
      if v.s.sid = fieldAt r 24 4 ∧ v.s.base = fieldAt r 28 3 ∧ v.s.level = fieldAt r 31 1 then some (i, v) else none
    | none => none

/-- A MATCH answer to a survey of a backup pair is noted with its stamp, the value of its MIN field (R231). -/
def Tau.noteBackup (x : Tau) (v : TauSurvey) (r : List Byte) : Tau :=
  match v.pair with
  | none => x
  | some (i, copy) =>
    { x with srv := { x.srv with bk := modifyAt (fun b =>
      { b with ans := b.ans ++ [(copy, fieldAt r 32 8, fieldAt r 64 8)] }) i x.srv.bk } }

/-- Pass a MATCH or DIGEST answer up, or store it at the issuer (R222). -/
def Tau.passAnswer (x : Tau) (sec : Nat) (yellow : Bool) (v : TauSurvey) (r : List Byte) : Tau × TauSurvey :=
  let x := x.noteBackup v r
  if v.here then
    if v.s.maxans ≤ v.stored then (x.bump Reg.SRV_ANS_DROP_CNT, v)
    else match x.ringPut r with
      | (x, true) => (x.bump Reg.SRV_DETAIL_CNT (s := sec), { v with stored := v.stored + 1 })
      | (x, false) => (x.bump Reg.SRV_ANS_DROP_CNT, v)
  else if x.isStandby then (x, v)
  else ((x.toParent yellow r).bump Reg.SRV_DETAIL_CNT (s := sec), v)

/-- An answer of child `c` (R222): a TDU's NO_MATCH, NOT_RETAINED or BUSY is folded, a MATCH or DIGEST passes up. -/
def Tau.answerRx (x : Tau) (sec c : Nat) (yellow : Bool) (status : Nat) (r : List Byte) : Tau :=
  match x.surveyOf r with
  | none => x.bump Reg.SRV_DETAIL_LATE_CNT (s := sec)
  | some (i, v) =>
    if !v.pend.testBit c then x.bump Reg.SRV_DETAIL_LATE_CNT (s := sec)
    else
      let sec := x.homeOf v.s.job v.s.consist
      let v' := if x.isTray && v.s.kind != 1 then { v with pend := v.pend - (2 ^ c) } else v
      let n := if x.isTray then v.scopeOf c else 0
      match status with
      | 0 =>
        let (x, v) := x.passAnswer sec yellow { v' with nMatch := v'.nMatch + n } r
        x.settleSurvey i v
      | 1 => x.settleSurvey i { v' with nNo := v'.nNo + n }
      | 2 => x.settleSurvey i { v' with nRet := v'.nRet + n }
      | _ => x.settleSurvey i { v' with nBusy := v'.nBusy + n, pend := v.pend - (2 ^ c) }

/-- A child's END (R222). -/
def Tau.endRx (x : Tau) (sec c : Nat) (r : List Byte) : Tau :=
  match x.surveyOf r with
  | none => x.bump Reg.SRV_DETAIL_LATE_CNT (s := sec)
  | some (i, v) =>
    if !v.pend.testBit c then x.bump Reg.SRV_DETAIL_LATE_CNT (s := sec)
    else
      let f (o : Nat) : Nat := fieldAt r o 4
      x.settleSurvey i
        { v with
          pend := v.pend - 2 ^ c
          nMatch := v.nMatch + f 44
          nNo := v.nNo + f 48
          nRet := v.nRet + f 52
          nTmo := v.nTmo + f 56
          nBusy := v.nBusy + f 60
          nExcl := v.nExcl + f 64
          nUnj := v.nUnj + f 68
          eflags := Nat.lor v.eflags (fieldAt r 41 1) }

/-- The boundary of a survey's deadline (R222): pending children time out; a TDU of a STANDING survey has simply ended (R220). -/
def Tau.surveyExpire (x : Tau) (i : Nat) : Tau :=
  match x.srv.slots.getD i none with
  | none => x
  | some v =>
    if x.per < v.s.deadline then x
    else
      let sec := x.homeOf v.s.job v.s.consist
      let (x, v) := forEach (bitList v.pend) (fun c (a : Tau × TauSurvey) =>
        if a.1.isTray && a.2.s.kind == 1 then (a.1, { a.2 with pend := a.2.pend - (2 ^ c) }) else a.1.timeOut sec c a.2) (x, v)
      x.endSurvey i { v with st := 2, pend := 0 }

/-- Every survey whose deadline has come. -/
def Tau.surveyDeadlines (x : Tau) : Tau := forIdx 64 (fun i x => x.surveyExpire i) x

/-- Cancel a survey (R224). -/
def Tau.cancelSurvey (x : Tau) (i : Nat) : Tau :=
  match x.srv.slots.getD i none with
  | none => x
  | some v =>
    let v := { v with eflags := Nat.lor v.eflags 1 }
    let (x, v) := forEach (bitList v.pend) (fun c (a : Tau × TauSurvey) =>
      let x := a.1.sendDown c (cancelRecord v.s.sid v.s.base v.s.level)
      if x.isTray then (x, { a.2 with pend := a.2.pend - (2 ^ c), nTmo := a.2.nTmo + v.scopeOf c }) else (x, a.2)) (x, v)
    x.settleSurvey i v

/-- A survey-cancel record from the parent (R224, R458). -/
def Tau.cancelRx (x : Tau) (r : List Byte) : Tau :=
  if !(ctlOk 0xBD r && r.length == 24) then x.bump Reg.GEN_CTL_DMG_CNT
  else match (List.range 64).find? fun i => match x.srv.slots.getD i none with
      | some v => v.s.sid == fieldAt r 4 4 && v.s.base == fieldAt r 8 3 && v.s.level == fieldAt r 11 1
      | none => false with
    | some i => x.cancelSurvey i
    | none => x

/-- End every survey that `p` names as cancelled (R404, R407). -/
def Tau.cancelWhere (x : Tau) (p : Survey → Bool) : Tau :=
  forIdx 64 (fun i x => match x.srv.slots.getD i none with
    | some v => if p v.s then x.cancelSurvey i else x
    | none => x) x

/-- The home section of a survey fails (R224): its pending children to TIMEOUT, LOST set. -/
def Tau.loseSurveys (x : Tau) (sec : Nat) : Tau :=
  forIdx 64 (fun i x => match x.srv.slots.getD i none with
    | some v =>
      if x.homeOf v.s.job v.s.consist = sec then
        let (x, v) := forEach (bitList v.pend) (fun c (a : Tau × TauSurvey) => a.1.timeOut sec c a.2) (x, v)
        x.endSurvey i { v with st := 2, pend := 0, eflags := Nat.lor v.eflags 4 }
      else x
    | none => x) x

/-! ## Meanings -/

/-- SURVEY_DESCRIPTOR_RX. -/
def execSurveyDescriptorRx (t : T64) (r : List Byte) (s : State) : Host.Outcome State Fault Refusal :=
  .next (s.onMain t fun x => x.surveyRx r)

/-- SURVEY_CANCEL_RX. -/
def execSurveyCancelRx (t : T64) (r : List Byte) (s : State) : Host.Outcome State Fault Refusal :=
  .next (s.onMain t fun x => x.cancelRx r)

/-- SURVEY_DEADLINE. -/
def execSurveyDeadline (t : T64) (s : State) : Host.Outcome State Fault Refusal :=
  .next (s.onMain t fun x => x.surveyDeadlines)

end Sys2Proof.Machine
end

