-- ==== Sys2Proof/Machine/Context.lean ====
section
/-!
DEFINITION. A context of the scoreboard: its coverage (R196 to R199), its header and its train (R202 to R204).
-/

namespace Sys2Proof.Machine

/-! ## Contexts -/

/-- The context of a stream's period (R176). -/
def Tau.ctx (x : Tau) (j c p : Nat) : Option Ctx :=
  x.scb.ctxs.find? fun k => k.job == j && k.consist == c && k.period == p

/-- The contexts are the same one. -/
def Ctx.is (k : Ctx) (j c p : Nat) : Bool := k.job == j && k.consist == c && k.period == p

/-- The state with one context changed. -/
def Tau.setCtx (x : Tau) (k : Ctx) (f : Ctx → Ctx) : Tau :=
  { x with scb := { x.scb with ctxs := x.scb.ctxs.map fun c => if c.is k.job k.consist k.period then f c else c } }

/-- The registered count that the context fixed for child `c` (R197). -/
def Ctx.count (k : Ctx) (c : Nat) : Nat := countAt k.counts c

/-- The adopt entries that this TAU nets in a context (R199): the child each is taken from, and its count. An entry is netted where
another expected child's range holds its base. -/
def Tau.netted (x : Tau) (k : Ctx) : List (Nat × Nat) :=
  k.parts.flatMap fun p => p.adopts.filterMap fun (b, n) =>
    ((bitList k.exp).find? fun c => c != p.child && decide (x.kidBase c ≤ b) && decide (b < x.kidBase c + x.kidSpan c)).map (·, n)

/-- PRESENT (R196). -/
def Ctx.present (k : Ctx) : Nat := k.parts.foldl (fun n p => n + p.present) 0

/-- EXPECTED (R196, R199). -/
def Tau.ctxExpected (x : Tau) (k : Ctx) : Nat :=
  let all := (bitList k.exp).foldl (fun n c => n + (match k.parts.find? (·.child == c) with
    | some p => p.expected
    | none => k.count c)) 0
  all - (x.netted k).foldl (fun n e => n + e.2) 0

/-- MISSING (R196). -/
def Ctx.missing (k : Ctx) : Nat := k.exp - Nat.land k.exp k.arr

/-- The adopt entries that this TAU puts into a train (R199). The pulse stream has no job and none. -/
def Tau.adoptEntries (x : Tau) (k : Ctx) : List (Nat × Nat) :=
  if k.job = 0xFFFF then []
  else (x.children.filter fun c => x.rd Reg.SCB_CH_STAT_ADOPTED c == 1 && decide (0 < k.count c)).map
    fun c => (x.kidBase c, k.count c)

/-- The train of a context (R202 to R204). -/
def Tau.train (x : Tau) (k : Ctx) : List Byte :=
  let p : Preamble :=
    { present := k.present, expected := x.ctxExpected k, missing := k.missing, late := k.late, satc := k.satc, level := x.role
      cflags := bit k.early + 2 * bit k.rehome + 4 * bit k.lost, adopts := (x.adoptEntries k).take 16 }
  mkRecord
    { ver := 1, cls := 6, sev := k.sev, ho := k.ho, gap := k.gap, late := false, order := k.order, sat := decide (0 < k.satc)
      len := 0, consist := k.consist, rank := x.base, epochLo := if k.job = 0xFFFF then 0 else k.epoch % 256, job := k.job
      eb := k.eb, sigT := unsigned 8 k.sigT, sigL := k.sigL, t := k.period * 2 ^ 18, rsv := false }
    (p.encode ++ encodeFields (x.fieldsIn k.consist k.period) k.acc)

end Sys2Proof.Machine
end

