-- ==== Sys2Proof/Machine/Tree.lean ====
section
/-!
DEFINITION. The tree engine (R244 to R274): features and their conversion, vectors and their queue, walks and calibration, actions
and fills, host vectors and fences. The checks of model and map images are in the library.
-/

namespace Sys2Proof.Machine

/-! ## Features (R251, R252, R256 to R258) -/

/-- An exact value m × 2^e. -/
abbrev Dyadic := Int × Int

/-- a − b, exactly. -/
def dySub (a b : Dyadic) : Dyadic :=
  let e := min a.2 b.2
  (a.1 * 2 ^ (a.2 - e).toNat - b.1 * 2 ^ (b.2 - e).toNat, e)

/-- The largest integer not above a value. -/
def dyFloor (a : Dyadic) : Int := if 0 ≤ a.2 then a.1 * 2 ^ a.2.toNat else a.1 / ((2 ^ (-a.2).toNat : Nat) : Int)

/-- Round to FP32, to nearest with ties to even: the bits, and whether the value lies beyond the largest finite FP32 (R258;
DEDUCED: judged after rounding). -/
def toFp32 (a : Dyadic) : Nat × Bool :=
  let sign := if a.1 < 0 then 2 ^ 31 else 0
  let m := a.1.natAbs
  if m = 0 then (0, false)
  else
    let top : Int := (Nat.log2 m : Nat) + a.2
    let ulp : Int := if top < -126 then -149 else top - 23
    let q := (roundPow m (a.2 - ulp)).toNat
    -- a carry into the next binade, or out of the subnormals, is the same addition
    let bits := if top < -126 then q else (top + 126).toNat * 2 ^ 23 + q
    if 0x7F800000 ≤ bits then (sign + 0x7F800000, true) else (sign + bits, false)

/-- A value converted to a feature's type (R258): the value, and whether it was out of range. -/
def toFeature (ftype : Nat) (a : Dyadic) : Nat × Bool :=
  if ftype = 0 then toFp32 a
  else
    let n := dyFloor a
    match ftype with
    | 1 => let c := clipS 32 n; (unsigned 32 c, c != n)
    | 2 => if n < 0 then (0, true) else if (2 ^ 32 : Int) ≤ n then (2 ^ 32 - 1, true) else (n.toNat, false)
    | _ => if n < 0 ∨ (2 ^ 32 : Int) ≤ n then (2 ^ 32 - 1, true) else (n.toNat, false)

/-- An FP32 NaN (R251). -/
def isNan (b : Nat) : Bool := bits b 23 8 == 255 && bits b 0 23 != 0

/-- The key of a value (R252). -/
def featKey (ftype b : Nat) : Nat :=
  match ftype with
  | 0 => let b := if b = 2 ^ 31 then 0 else b; if b < 2 ^ 31 then b + 2 ^ 31 else 2 ^ 32 - 1 - b
  | 1 => Nat.xor b (2 ^ 31)
  | _ => b

/-- What a vector reads its features from (R257): the fields of a coach or a train, the header, the preamble of a train, and the
child of a coach. -/
structure Subject where
  fs : List Desc
  period : Nat
  acc : List Acc
  keep : List (Nat × List Byte)
  sigT : Int
  sigL : Nat
  eb : Nat
  pre : Nat × Nat × Nat × Nat
  child : Option Nat

/-- The scale of a field's values (R257). -/
def Desc.vscale (d : Desc) : Int :=
  if d.type = 2 ∨ ((d.type = 4 ∨ d.type = 5) ∧ d.etype = 2) then d.scale else 0

/-- KIND 0 and KIND 2: the value of a field, or of one entry. -/
def Subject.value (s : Subject) (kind field elem : Nat) : Option Dyadic :=
  let d := s.fs.getD field ⟨0, 0, 0, 0, 0, 0, 0, 0, 0, 0, 0⟩
  match kind, s.acc.getD field .keep with
  | 2, .topk e => (e[elem]?).map fun t => (ordKey d.etype t.1, d.vscale)
  | 2, _ => none
  | _, .sum v => some (v, d.vscale)
  | _, .mm v _ n => if n = 0 then none else some (ordKey d.etype v, d.vscale)
  | _, .keep => (s.keep.find? (·.1 == field)).map fun k => (d.num (fieldAt k.2 0 8), d.vscale)
  | _, _ => none

/-- The quantile bucket of KIND 3. -/
def quantile (n elem u o : Nat) (l : List (Nat × Nat)) : Option Int :=
  let c := u + o + l.foldl (fun t e => t + e.2) 0
  let need := ceilDiv (elem * c) 256
  if c = 0 then none
  else if need ≤ u then some (-1)
  else
    let upto (m : Nat) : Nat := u + (l.filter fun e => decide (e.1 ≤ m)).foldl (fun t e => t + e.2) 0
    some (((List.range n).find? fun m => decide (need ≤ upto m)).getD n : Nat)

/-- Foresight rung D_k of a child (R242). -/
def Tau.rungD (x : Tau) (child field k : Nat) : Option Int :=
  match x.srv.fs.find? fun c => c.child == child && c.field == field with
  | some c => match c.rungs[k]? with
    | some ⟨some n, some o, true⟩ => some (n - o)
    | _ => none
  | none => none

/-- Rung D_k of a child as it stands after the update at the boundary of period `q` (R260). -/
def Tau.rungAt (x : Tau) (child field k q : Nat) : Option Int :=
  let at_ (c : FsCell) : FsCell := { c with rungs := c.past.getD (x.per - q) [] }
  { x with srv := { x.srv with fs := x.srv.fs.map at_ } }.rungD child field k

/-- The section whose foresight configuration watches field `k` for its stream (R241, R243). -/
def Tau.fsSec (x : Tau) (k : Nat) : Option Nat :=
  (List.range 4).find? fun s =>
    let st := x.rd Reg.SRV_FS_STREAM (s := s)
    (x.rd Reg.SRV_FS_EN (s := s)).testBit k && (x.stream (st % 2 ^ 16) (st / 2 ^ 16)).isSome &&
      x.homeOf (st % 2 ^ 16) (st / 2 ^ 16) == s

/-- The value that a map entry's source gives (R257); none for nothing to give. -/
def Tau.source1 (x : Tau) (s : Subject) (m : MapEnt) : Option Dyadic :=
  let d := s.fs.getD m.field ⟨0, 0, 0, 0, 0, 0, 0, 0, 0, 0, 0⟩
  let a := s.acc.getD m.field .keep
  let nat (n : Nat) : Option Dyadic := some ((n : Int), 0)
  match m.kind, a with
  | 0, _ | 2, _ => s.value m.kind m.field m.elem
  | 1, .mm _ _ n => nat n
  | 1, .agree g => nat g.valid
  | 3, .hist u o l => (quantile d.size m.elem u o l).map (·, 0)
  | 4, .hist u o l => nat (u + o + l.foldl (fun t e => t + e.2) 0)
  | 5, .bmap v => nat (bit (v.testBit (m.elem + 256 * m.elemB)))
  | 6, .bmap v => nat (popCount d.size v)
  | 7, _ =>
    let (pr, ex, ms, sc) := s.pre
    match m.elem with
    | 0 => nat pr
    | 1 => nat ex
    | 2 => if ex = 0 then none else nat (65536 * pr / ex)
    | 3 => nat (popCount 64 ms)
    | _ => nat sc
  | 8, _ => match m.elem with
    | 0 => if s.sigT = -128 then none else some (s.sigT, 0)
    | 1 => nat s.sigL
    | _ => nat s.eb
  | 9, _ =>
    let f := x.rd Reg.SRV_FS_FIELD m.field
    match x.fsSec m.field with
    | none => none
    | some sec =>
      (s.child.bind fun c => x.rungAt c m.field m.elem (s.period + 1)).map fun v =>
        (v, (((x.consist (x.rd Reg.SRV_FS_STREAM (s := sec) / 2 ^ 16)).bind fun c => c.fields[f]?).map (·.vscale)).getD 0)
  | 10, .agree g => if g.valid = 0 then none else nat (bit (g.lo != g.hi))
  | _, _ => none

/-- A feature of a subject (R256 to R258): value, MISS, and whether the conversion was out of range. -/
def Tau.feature (x : Tau) (s : Subject) (m : MapEnt) : Nat × Bool × Bool :=
  let v := x.source1 s m
  let v := if m.fieldB = 255 then v
    else
      let k := match s.acc.getD m.fieldB .keep with | .topk _ => 2 | _ => 0
      match v, s.value k m.fieldB m.elemB with
      | some a, some b => some (dySub a b)
      | _, _ => none
  match v with
  | none => (0, true, false)
  | some (a, e) => let (n, o) := toFeature m.ftype (a, e + m.s); (n, false, o)

/-! ## Walks (R247 to R255) -/

/-- The node a walk visits next (R253). -/
def nextNode (sets : List Nat) (types : List Nat) (feats : List (Nat × Bool)) (w : Nat) : Nat :=
  let i := bits w 50 10
  let (v, miss) := feats.getD i (0, true)
  let dflt := bits w 60 1
  let key := featKey (types.getD i 0) v
  let right :=
    if miss || (types.getD i 0 == 0 && isNan v) then dflt
    else if bits w 61 2 = 1 then (if 512 ≤ key then dflt else 1 - bit ((sets.getD (bits w 0 12) 0).testBit key))
    else bit (decide (bits w 0 32 < key))
  bits w 33 17 + right

/-- A walk from node `n`: the leaf's value and the visits. Depth is at most 20. -/
def walk (m : Model) (feats : List (Nat × Bool)) : Nat → Nat → Int × Nat
  | 0, _ => (0, 0)
  | k + 1, n =>
    let w := m.nodes.getD n (2 ^ 63)
    if w.testBit 63 then (signed 32 w, 1)
    else
      let (v, c) := walk m feats k (nextNode m.sets m.types feats w)
      (v, c + 1)

/-- The raw scores of a vector, and the visits made (R254). -/
def Model.raw (m : Model) (feats : List (Nat × Bool)) : List Int × Nat :=
  m.trees.foldl (fun (a : List Int × Nat) t =>
    let (v, c) := walk m feats 21 (bits t 0 17)
    (modifyAt (· + v) (bits t 17 4) a.1, a.2 + c)) (m.bias, 0)

/-- The calibrated score between two points, or at an end (R255). -/
def calibrate : List (Int × Int) → Int → Int
  | [], s => s
  | [p], _ => p.2
  | p :: q :: r, s =>
    if s ≤ p.1 then p.2
    else if s < q.1 then p.2 + (q.2 - p.2) * (s - p.1) / (q.1 - p.1)
    else calibrate (q :: r) s

/-- The final score of output `o` (R255). -/
def Model.final (m : Model) (o : Nat) (raw : Int) : Int :=
  match m.cal.find? (·.1 == o) with
  | some (_, _, pts) => calibrate pts raw
  | none => raw

/-- The scale of output o's final score (R255). -/
def Model.scaleOf (m : Model) (o : Nat) : Int :=
  match m.cal.find? (·.1 == o) with
  | some (_, s, _) => s
  | none => m.lscale

/-! ## Capacity (R244, R262) -/

/-- The model in an ensemble slot. -/
def Tau.model (x : Tau) (e : Nat) : Option Model := x.lib.models.getD e none

/-- A loaded feature map. -/
def Tau.fmap (x : Tau) (id : Nat) : Option FMap := x.lib.maps.find? (·.id == id)

/-- The home of die `d`'s link A with section `out` taken out (R32, R35). -/
def linkAHome (out d : Nat) : Nat :=
  if d / 8 = out then (d / 8 + (if d % 8 < 3 then 1 else if d % 8 < 6 then 2 else 3)) % 4 else d / 8

/-- A job can have a coach of die `d` here: its ranges hold the die's rank (R196, R400). -/
def Tau.expectsDie (x : Tau) (h d : Nat) : Bool :=
  (x.job h).any fun j => decide (0 < ranksIn j.ranges (x.base + d) (x.base + d + 1))

/-- V of R262: the most dies of the job that one section serves with section `out` taken out. The rule's example counts the dies that a
section serves (R81), and its words the children that the stream can expect (DEDUCED). -/
def Tau.diesAtMost (x : Tau) (h out : Nat) : Nat :=
  ((List.range 4).map fun sec => (List.range 16).countP fun d => x.expectsDie h d && linkAHome out d == sec).foldl Nat.max 0

/-- The visits of the bound maps in section `sec` with section `out` taken out (R262). -/
def Tau.visitLoad (x : Tau) (streams : List Stream) (binds : List Bind) (out sec : Nat) : Nat :=
  worst (binds.filterMap fun b =>
    match x.fmap b.map, x.model b.ens with
    | some m, some e => match streams.find? fun s => s.job == b.job && s.consist == m.consist with
      | some s =>
        if homeWithout out s = sec then some (s.div, s.phase, e.wmax * if m.perRank then x.diesAtMost b.job out else 1) else none
      | none => none
    | _, _ => none)

/-- TREE.VISIT_LOAD_MAX over a set of bindings (R262). -/
def Tau.visitLoadMax (x : Tau) (streams : List Stream) (binds : List Bind) : Nat :=
  ([4, 0, 1, 2, 3].flatMap fun out => ((List.range 4).filter (· != out)).map fun sec =>
    x.visitLoad streams binds out sec).foldl Nat.max 0

/-- The bindings held. -/
def Tau.binds (x : Tau) : List Bind := x.tree.binds.filterMap id

/-- The check of R262. -/
def Tau.visitsFit (x : Tau) (streams : List Stream) (binds : List Bind) : Bool :=
  decide (x.visitLoadMax streams binds ≤ 96656)

/-- A binding scores contexts of period `p` here (R260, R273). -/
def Bind.active (b : Bind) (p : Nat) : Bool :=
  decide (b.from_ ≤ p) && (match b.until_ with | some q => decide (p < q) | none => true)

/-! ## Forming vectors (R260, R261) -/

/-- The subject rank that an output of an AGGREGATE map names (R266). -/
def subjRank (acc : List Acc) (o : MapOut) : Nat :=
  if o.subj = 255 then rankNone
  else match acc.getD o.subj .keep with
    | .mm _ r n => if n = 0 then rankNone else r
    | .topk ((_, r, _) :: _) => r
    | _ => rankNone

/-- Queue a formed vector: by deadline, then by time of formation (R261). -/
def enqueueVec (v : Vec) (l : List Vec) : List Vec :=
  (l.filter fun w => decide (w.deadline ≤ v.deadline)) ++ v :: l.filter fun w => decide (v.deadline < w.deadline)

/-- Form the vector of one binding. -/
def Tau.formVector (x : Tau) (slot : Nat) (b : Bind) (m : FMap) (k : Ctx) (s : Subject) (present expected : Nat) : Tau :=
  let sec := k.home
  let ents := (List.range m.ents.length).map fun f =>
    (m.ents.find? (·.feature == f)).getD ⟨0, 0, 0, 0, 255, 0, 0, 0⟩
  let fs := ents.map fun e => x.feature s e
  let x := x.bumpBy Reg.TREE_MAP_SAT_CNT (fs.countP (·.2.2)) (s := sec)
  let x := x.bump Reg.TREE_MAP_VEC_CNT slot
  let q := x.tree.q.getD sec []
  if 64 ≤ q.length then x.bump Reg.TREE_VEC_DROP_CNT (s := sec)
  else
    let rank := match s.child with | some c => x.kidBase c | none => rankNone
    let v : Vec :=
      { slot := slot, ens := b.ens, job := k.job, consist := k.consist, period := k.period, child := s.child, rank := rank
        present := present, expected := expected, feats := fs.map fun f => (f.1, f.2.1)
        subj := m.outs.map fun o => if m.perRank then rank else subjRank s.acc o
        deadline := k.close + 16128, cut := false }
    { x with tree := { x.tree with q := modifyAt (enqueueVec v) sec x.tree.q } }

/-- Form the vectors of every binding of a scope over a context (R260). -/
def Tau.formVectors (x : Tau) (perRank : Bool) (k : Ctx) (s : Subject) (present expected : Nat) : Tau :=
  forIdx 16 (fun i x => match x.tree.binds.getD i none with
    | some b => match x.fmap b.map with
      | some m =>
        if b.job = k.job ∧ m.consist = k.consist ∧ b.active k.period ∧ m.perRank = perRank ∧ m.roles.testBit x.role then
          x.formVector i b m k s present expected
        else x
      | none => x
    | none => x) x

/-- A binding of the stream stands, so that its KEEP fields are kept (R260). -/
def Tau.boundStream (x : Tau) (j c : Nat) : Bool :=
  x.binds.any fun b => b.job == j && (match x.fmap b.map with | some m => m.consist == c | none => false)

/-- The per-rank vectors of a merged coach on a TRAY TAU, and the KEEP fields it leaves (R260). -/
def Tau.formRank (x : Tau) (k : Ctx) (child : Nat) (r : List Byte) : Tau :=
  if !x.isTray || !x.boundStream k.job k.consist then x
  else match x.consistIn k.consist k.period with
    | none => x
    | some c =>
      let h := Hdr.parse r
      let fields := c.coachFields r
      let keep := (List.range c.fields.length).filterMap fun f =>
        if (c.fields[f]?.map (·.op)) = some 15 then (fields.getD f none).map (f, ·) else none
      let row : KeepRow := ⟨k.job, k.consist, child, keep⟩
      let rest := x.tree.keeps.filter fun w => !(w.job == k.job && w.consist == k.consist && w.child == child)
      let x := { x with tree := { x.tree with keeps := row :: rest } }
      x.formVectors true k
        { fs := c.fields, period := k.period, acc := coachParts c.fields h.rank r, keep := keep, sigT := signed 8 h.sigT, sigL := h.sigL, eb := h.eb
          pre := (0, 0, 0, 0), child := some child } 1 1

/-- The aggregate vectors of a context that has closed (R260). -/
def Tau.formAggregate (x : Tau) (k : Ctx) : Tau :=
  if !x.boundStream k.job k.consist then x
  else
    let here := x.binds.any fun b => b.job == k.job && b.active k.period && (match x.fmap b.map with
      | some m => m.consist == k.consist && !m.perRank && m.roles.testBit x.role
      | none => false)
    if !here then x
    else if k.present = 0 then x.bump Reg.TREE_VEC_SKIP_CNT (s := k.home)
    else
      let e := x.ctxExpected k
      x.formVectors false k
        { fs := x.fieldsIn k.consist k.period, period := k.period, acc := k.acc, keep := [], sigT := k.sigT, sigL := k.sigL, eb := k.eb
          pre := (k.present, e, k.missing, k.satc), child := none } k.present e

/-! ## Fills (R270) -/

/-- The contribution of a fill. -/
def fillAcc (d : Desc) (rank o : Nat) (fired : Bool) (y : Int) : Acc :=
  match d.op with
  | 0 => .sum y
  | 3 | 4 => .mm (unsigned 64 y) rank 1
  | 2 => .topk [(unsigned 64 y, rank, o)]
  | _ => .bmap (if fired ∧ 0 < d.size then 2 ^ (rank % d.size) else 0)

/-- A fill joins the values filled for a child's rank (R213). -/
def Summ.fill (fs : List Desc) (f : Nat) (a : Acc) (m : Summ) : Summ :=
  match m.fills.find? (·.1 == f), fs[f]? with
  | some (_, b), some d => { m with fills := m.fills.map fun e => if e.1 = f then (f, (d.merge b a).1) else e }
  | _, _ => { m with fills := m.fills ++ [(f, a)] }

/-- Merge a fill into the context that formed the vector, and into what is kept of that period (R213). -/
def Tau.fillField (x : Tau) (v : Vec) (f : Nat) (a : Acc) : Tau :=
  let fs := x.fieldsIn v.consist v.period
  match x.ctx v.job v.consist v.period with
  | none => x
  | some k =>
    let (acc, n) := mergeField fs f a k.acc
    let fill (l : List Summ) : List Summ := l.map fun m => if some m.child = v.child then m.fill fs f a else m
    let mine (r : RetPer) : Bool := r.job == v.job && r.consist == v.consist && r.period == v.period
    let x := { x with srv := { x.srv with ret := x.srv.ret.map fun r => if mine r then { r with summ := fill r.summ } else r } }
    (x.setCtx k fun k => { k with acc := acc, summ := fill k.summ }).bumpBy
      Reg.RED_TOPK_TRUNC_CNT n (s := x.homeOf v.job v.consist)

/-- A fill is still taken: the cut-off has not come and the context's build is not complete. -/
def Tau.fillOpen (x : Tau) (v : Vec) : Bool :=
  !v.cut && decide (x.now ≤ v.deadline) &&
    (match x.ctx v.job v.consist v.period with | some k => decide (k.st < 4) | none => false)

/-- Place the score of output `o` (R270). -/
def Tau.fillScore (x : Tau) (sec : Nat) (v : Vec) (o : MapOut) (i : Nat) (fired : Bool) (y : Int) : Tau :=
  if o.fill = 255 ∨ v.child = none then x
  else if x.fillOpen v then
    let d := (x.fieldsIn v.consist v.period).getD o.fill ⟨0, 0, 0, 0, 0, 0, 0, 0, 0, 0, 0⟩
    let x := x.fillField v o.fill (fillAcc d v.rank i fired y)
    if o.count = 255 then x else x.fillField v o.count (.sum 1)
  else if v.cut then x
  else x.bump Reg.TREE_FILL_MISS_CNT (s := sec)

/-! ## Actions (R266 to R269) -/

/-- The latest result of an output in a section (R274). -/
def Tau.outStat (x : Tau) (sec e o : Nat) : OutStat :=
  ((x.tree.outs.getD sec []).find? fun s => s.ens == e && s.out == o).getD ⟨e, o, 0, 0, 0, rankNone⟩

/-- The state with an output's result changed. -/
def Tau.setOut (x : Tau) (sec : Nat) (s : OutStat) : Tau :=
  let put (l : List OutStat) : List OutStat := s :: l.filter fun t => !(t.ens == s.ens && t.out == s.out)
  { x with tree := { x.tree with outs := modifyAt put sec x.tree.outs } }

/-- The holdoff table of a section with an entry added; an expired entry makes room, else the one that expires first (R267). -/
def holdoffAdd (now : Nat) (e : Nat × Nat × Nat × Nat) (l : List (Nat × Nat × Nat × Nat)) : List (Nat × Nat × Nat × Nat) × Bool :=
  let l := l.filter fun h => decide (now < h.2.2.2) && !(h.1 == e.1 && h.2.1 == e.2.1 && h.2.2.1 == e.2.2.1)
  if l.length < 512 then (l ++ [e], false)
  else
    let first := l.foldl (fun m h => Nat.min m h.2.2.2) (l.headD e).2.2.2
    match firstIdx (fun h => h.2.2.2 == first) l with
    | some i => (l.eraseIdx i ++ [e], true)
    | none => (l ++ [e], false)

/-- A verdict of the tree engine about a vector's output (R271). -/
def treeVerdict (kind step : Nat) (v : Vec) (o i rank : Nat) (raw y thr : Int) : Verdict48 :=
  { kind := kind, unit := i, job := v.job, step := step, rank := rank, aux := o, value := unsigned 64 y, ref := unsigned 64 raw
    thr := unsigned 32 (clipS 32 thr), present := v.present, expected := v.expected, period := v.period }

/-- The survey that an action builds from a template (R268), and whether its reserved bytes are zero. -/
def Tau.templateSurvey (x : Tau) (j : Nat) (v : Vec) (rank : Nat) : Survey × Bool :=
  let b := (List.range 48).flatMap fun i => leBytes 4 (x.rd Reg.TREE_TPL (48 * j + i))
  let s := Survey.parse b
  let s := { s with period := v.period, deadline := x.per + s.deadline, job := v.job, epoch := (x.epochAt v.job x.per).getD 0 }
  (if s.lo = rankNone then { s with lo := rank, hi := rank } else s, surveyRsv b)

/-- Take the actions of a firing (R266, R268, R269). A standby ROOT posts no verdict and so asks for no fence (R23). -/
def Tau.treeActions (x : Tau) (sec : Nat) (v : Vec) (o : MapOut) (i : Nat) (raw y : Int) : Tau :=
  let rank := v.subj.getD i rankNone
  let x :=
    if o.act.testBit 1 && !x.isStandby then
      (x.postVerdict sec o.sev (treeVerdict 9 0 v i v.ens rank raw y o.thr)).bump Reg.TREE_ACT_EVENT_CNT (s := sec)
    else x
  let x :=
    if o.act.testBit 2 then
      let (s, rsv) := x.templateSurvey o.template v rank
      let (x, code, _, _) := x.issueSurvey s rsv none
      if code = Code.done then x.bump Reg.TREE_ACT_SURVEY_CNT (s := sec) else x.bump Reg.TREE_ACT_REF_CNT (s := sec)
    else x
  if o.act.testBit 3 then
    if rank = rankNone then x.bump Reg.TREE_ACT_REF_CNT (s := sec)
    else if x.isStandby then x
    else
      let id := (x.tree.fenceSeq + 1) % 2 ^ 24
      let x := { x with tree := { x.tree with fenceSeq := id, fences := x.tree.fences ++ [(id, v.ens, rank, v.job)] } }
      (x.postVerdict sec 6 (treeVerdict 10 id v i v.ens rank raw y o.thr)).bump Reg.TREE_FENCE_REQ_CNT
  else x

/-- Compare one output and act (R266, R267, R270). -/
def Tau.actOutput (x : Tau) (sec : Nat) (v : Vec) (o : MapOut) (i : Nat) (raw y : Int) : Tau :=
  let fired := if o.act.testBit 0 then decide (y ≤ o.thr) else decide (o.thr ≤ y)
  let rank := v.subj.getD i rankNone
  let st := x.outStat sec v.ens i
  let st := { st with raw := raw, final := y }
  let x := x.setOut sec (if fired then { st with fire := (st.fire + 1) % 2 ^ 32, last := rank } else st)
  let x := x.fillScore sec v o i fired y
  if !fired then x
  else
    let l := x.tree.hold.getD sec []
    if l.any fun h => h.1 == v.ens && h.2.1 == i && h.2.2.1 == rank && decide (x.per < h.2.2.2) then
      x.bump Reg.TREE_HOLDOFF_CNT (s := sec)
    else
      let x :=
        if o.holdoff = 0 then x
        else
          let (l, ev) := holdoffAdd x.per (v.ens, i, rank, x.per + o.holdoff) l
          let x := { x with tree := { x.tree with hold := modifyAt (fun _ => l) sec x.tree.hold } }
          if ev then x.bump Reg.TREE_HOLDOFF_EVICT_CNT (s := sec) else x
      x.treeActions sec v o i raw y

/-! ## Scoring (R261, R263) -/

/-- Count visits in a section (R261). -/
def Tau.addVisits (x : Tau) (sec n : Nat) : Tau :=
  let v := (x.rd64 Reg.TREE_VISIT_CNT_LO Reg.TREE_VISIT_CNT_HI (s := sec) + n) % 2 ^ 64
  x.wr64 Reg.TREE_VISIT_CNT_LO Reg.TREE_VISIT_CNT_HI v (s := sec)

/-- Score the first vector of a section's queue (R261, R263). -/
def Tau.scoreVector (x : Tau) (sec : Nat) : Tau :=
  match x.tree.q.getD sec [] with
  | [] => x
  | v :: rest =>
    let x := { x with tree := { x.tree with q := modifyAt (fun _ => rest) sec x.tree.q } }
    match x.model v.ens, (x.tree.binds.getD v.slot none).bind fun b => x.fmap b.map with
    | some m, some f =>
      let (raws, n) := m.raw v.feats
      let x := (x.addVisits sec n).bump Reg.TREE_VEC_CNT (s := sec)
      let x := (x.bump Reg.TREE_ENS_VEC_CNT v.ens).wr Reg.TREE_ENS_LAST_PER v.period v.ens
      let x :=
        if v.deadline < x.now then (x.bump Reg.TREE_SCORE_LATE_CNT (s := sec)).bump Reg.TREE_ENS_LATE_CNT v.ens else x
      forIdx f.outs.length (fun i x => match f.outs[i]?, raws[i]? with
        | some o, some r => x.actOutput sec v o i r (m.final i r)
        | _, _ => x) x
    | _, _ => x

/-- The fill cut-off (R270): the outputs of vectors not yet scored that would have filled a field are counted. -/
def Tau.fillCutoff (x : Tau) : Tau :=
  forIdx 4 (fun sec x =>
    let q := x.tree.q.getD sec []
    let due := q.filter fun v => decide (v.deadline ≤ x.now) && !v.cut
    let n := due.foldl (fun n v => n + (match (x.tree.binds.getD v.slot none).bind fun b => x.fmap b.map with
      | some f => if v.child.isSome then f.outs.countP (·.fill != 255) else 0
      | none => 0)) 0
    let q := q.map fun v => if v.deadline ≤ x.now then { v with cut := true } else v
    ({ x with tree := { x.tree with q := modifyAt (fun _ => q) sec x.tree.q } }).bumpBy Reg.TREE_FILL_MISS_CNT n (s := sec)) x

/-! ## Host vectors (R264, R265) -/

/-- A write of TREE.HV_CMD.GO. `data` is what the section reads in tray-host memory at HV_ADDR. -/
def Tau.hvSubmit (x : Tau) (sec : Nat) (v : Nat) (data : List Byte) : Tau :=
  let e := bits v 0 3
  let tag := bits v 8 8
  let refuse (code : Nat) : Tau :=
    (((x.wr Reg.TREE_HV_STAT_CODE code (s := sec)).wr Reg.TREE_HV_STAT_TAG tag (s := sec)).wr Reg.TREE_HV_STAT_VALID 0
      (s := sec)).bump Reg.TREE_HV_REF_CNT (s := sec)
  let off := match x.tree.ensOff.getD e none with | some q => decide (q ≤ x.per) | none => false
  if !v.testBit 31 then x
  else if 16 ≤ (x.tree.hv.getD sec []).length then refuse Code.busy
  else match x.model e with
    | none => refuse Code.fit
    | some m =>
      if off then refuse Code.fit
      else
        let feats := (List.range m.nfeat).map fun i =>
          (fieldAt data (4 * i) 4, mapBit (data.drop (4 * m.nfeat)) i)
        let h : HostVec := ⟨e, tag, x.rd64 Reg.TREE_HV_RES_LO Reg.TREE_HV_RES_HI (s := sec), feats⟩
        let x := { x with tree := { x.tree with hv := modifyAt (· ++ [h]) sec x.tree.hv } }
        ((x.wr Reg.TREE_HV_STAT_CODE Code.done (s := sec)).wr Reg.TREE_HV_STAT_TAG tag (s := sec)).wr Reg.TREE_HV_STAT_VALID 0
          (s := sec)

/-- Write the result of a host vector. -/
def Tau.hvResult (x : Tau) (sec : Nat) (h : HostVec) (code nout : Nat) (scores : List Byte) : Tau :=
  let r := leBytes 1 h.tag ++ leBytes 1 h.ens ++ leBytes 1 nout ++ leBytes 1 code ++ zeros 12 ++ scores
  let x := (x.emitOut (.host h.res r)).bump Reg.TREE_HV_CNT (s := sec)
  ((x.wr Reg.TREE_HV_STAT_CODE code (s := sec)).wr Reg.TREE_HV_STAT_TAG h.tag (s := sec)).wr Reg.TREE_HV_STAT_VALID 1 (s := sec)

/-- The section walks its first host vector (R264). -/
def Tau.hvComplete (x : Tau) (sec : Nat) : Tau :=
  match x.tree.hv.getD sec [] with
  | [] => x
  | h :: rest =>
    let x := { x with tree := { x.tree with hv := modifyAt (fun _ => rest) sec x.tree.hv } }
    match x.model h.ens with
    | none => x.hvResult sec h Code.aborted 0 []
    | some m =>
      let (raws, n) := m.raw h.feats
      let x := x.addVisits sec n
      let x := forIdx raws.length (fun i x =>
        let r := raws.getD i 0
        x.setOut sec { x.outStat sec h.ens i with raw := r, final := m.final i r }) x
      x.hvResult sec h Code.done m.nout ((List.range raws.length).flatMap fun i =>
        let r := raws.getD i 0
        leBytes 8 (unsigned 64 r) ++ leBytes 8 (unsigned 64 (m.final i r)))

/-- Host vectors of an ensemble end without scores (R265, R273). -/
def Tau.hvAbort (x : Tau) (e : Nat) : Tau :=
  forIdx 4 (fun sec x =>
    let l := x.tree.hv.getD sec []
    let x := { x with tree := { x.tree with hv := modifyAt (fun l => l.filter (·.ens != e)) sec x.tree.hv } }
    forEach (l.filter (·.ens == e)) (fun h x => x.hvResult sec h Code.aborted 0 []) x) x

/-! ## Fences (R269) -/

/-- A write of TREE.FENCE_ACK. -/
def Tau.fenceAck (x : Tau) (v : Nat) : Tau :=
  if !v.testBit 31 then x
  else
    let id := bits v 0 24
    let sec := x.anySec
    match x.tree.fences.find? (·.1 == id) with
    | none => x.bump Reg.TREE_ACT_REF_CNT (s := sec)
    | some (_, e, rank, job) =>
      let x := { x with tree := { x.tree with fences := x.tree.fences.filter (·.1 != id) } }
      (x.postVerdict sec 7
        { kind := 11, unit := e, job := job, step := id, rank := rank, aux := bits v 24 1, value := 0, ref := 0, thr := 0
          present := 0, expected := 0, period := x.per }).bump Reg.TREE_FENCE_ACK_CNT

/-! ## Sections and disabling (R272, R273) -/

/-- The tree-engine work of a section that fails (R272): lost. -/
def Tau.treeFail (x : Tau) (sec : Nat) : Tau :=
  let n := (x.tree.q.getD sec []).length + (x.tree.hv.getD sec []).length
  let x := x.bumpBy Reg.TREE_VEC_LOST_CNT n (s := sec)
  let clear {α : Type} (l : List (List α)) : List (List α) := modifyAt (fun _ => []) sec l
  { x with tree := { x.tree with q := clear x.tree.q, hv := clear x.tree.hv, hold := clear x.tree.hold } }

/-- A section that drains has walked its host vectors before the commit period of the drain ends, or they are lost (R272). -/
def Tau.drainVecs (x : Tau) (sec : Nat) : Tau :=
  let n := (x.tree.hv.getD sec []).length
  { x with tree := { x.tree with hv := modifyAt (fun _ => []) sec x.tree.hv } }.bumpBy Reg.TREE_VEC_LOST_CNT n (s := sec)

/-- At a boundary: host vectors end whose ensemble is disabled here, or whose last binding ends here by a DISABLE or a teardown
(R265, R404, R407; DEDUCED: a host vector names an ensemble and neither a map nor a job). -/
def Tau.hvEnded (x : Tau) : Tau :=
  let over_ (b : Bind) : Bool := match b.until_ with | some q => decide (q ≤ x.per) | none => false
  forIdx 8 (fun e x =>
    let mine := x.binds.filter (·.ens == e)
    if x.tree.ensOff.getD e none == some x.per || (mine.any (·.until_ == some x.per) && mine.all over_) then x.hvAbort e else x) x

/-- Map slot `i` scores no more: its binding has ended, no context before its end has yet to close, and its last vector has ended. -/
def Tau.bindDone (x : Tau) (i : Nat) (b : Bind) : Bool :=
  match b.until_ with
  | none => false
  | some q => decide (q ≤ x.per) && !(x.tree.q.any fun l => l.any (·.slot == i)) &&
      !(x.scb.ctxs.any fun k => k.job == b.job && decide (k.st < 3) && decide (k.period < q) &&
        (match x.fmap b.map with | some m => m.consist == k.consist | none => false))

/-- Some binding that `p` names scores still. -/
def Tau.bindLives (x : Tau) (p : Bind → Bool) : Bool :=
  (List.range 16).any fun i => match x.tree.binds.getD i none with | some b => p b && !x.bindDone i b | none => false

/-- What scores no more is free as soon as its last vector has ended (R273): the map slots, but for those of a job in TEARDOWN or
HELD, which return at its RELEASE (R405), and disabled ensembles. -/
def Tau.treeFree (x : Tau) : Tau :=
  let held (b : Bind) : Bool := match x.job b.job with | some j => decide (3 ≤ j.st) | none => false
  let off := (List.range 8).map fun e => match x.tree.ensOff.getD e none with
    | some q => decide (q ≤ x.per) && !(x.bindLives (·.ens == e)) && !(x.tree.q.any fun l => l.any (·.ens == e))
    | none => false
  let kept := (List.range 16).map fun i => match x.tree.binds.getD i none with
    | some b => if x.bindDone i b && !held b then none else some b
    | none => none
  { x with
    lib := { x.lib with models := (List.range 8).map fun e => if off.getD e false then none else x.lib.models.getD e none }
    tree := { x.tree with
      binds := kept
      ensOff := (List.range 8).map fun e => if off.getD e false then none else x.tree.ensOff.getD e none } }

/-! ## Meanings -/

/-- VECTOR_SCORED. -/
def execVectorScored (t : T64) (sec : Fin 4) (s : State) : Host.Outcome State Fault Refusal :=
  .next (s.onMain t fun x => if x.inService sec then (x.scoreVector sec).treeFree else x)

/-- FILL_CUTOFF. -/
def execFillCutoff (t : T64) (s : State) : Host.Outcome State Fault Refusal :=
  .next (s.onMain t fun x => x.fillCutoff)

/-- HOST_VECTOR_COMPLETE. A section that drains walks on until the commit period of its drain ends (R272). -/
def execHostVectorComplete (t : T64) (sec : Fin 4) (s : State) : Host.Outcome State Fault Refusal :=
  .next (s.onMain t fun x => if x.inService sec || x.secState sec == 1 then x.hvComplete sec else x)

end Sys2Proof.Machine
end

