-- ==== Sys2Proof/Machine/Agree.lean ====
section
/-!
DEFINITION. Agreement units (R292, R293), tap units of the gateway (R287, R288, R471), and screening tallies and failures at the TAU
(R301, R302).
-/

namespace Sys2Proof.Machine

/-! ## Agreement units -/

/-- The dissenter survey of an agreement unit (R293). -/
def Tau.dissentSurvey (x : Tau) (u job consist period field major : Nat) : Survey :=
  { sid := 0, base := 0, level := 0, consist := consist, job := job, epoch := (x.epochAt job x.per).getD 0, period := period
    deadline := x.per + x.rd Reg.AGR_AU_DEADLINE u, lo := x.base, kind := 0, hi := x.base + x.rd Reg.SCB_RANK_SPAN - 1, flags := 0
    maxans := x.rd Reg.AGR_AU_MAXANS u, fmask := 2 ^ field, terms := [⟨field, 6, 0, major⟩], par := [] }

/-- The state with an agreement unit's memory of its stream's previous train. -/
def Tau.setAu (x : Tau) (u : Nat) (v : Option (Nat × Nat)) : Tau :=
  { x with agr := { x.agr with au := modifyAt (fun _ => v) u x.agr.au } }

/-- A unit posts a split and, with AUTO_SRV, asks who dissents (R292, R293). -/
def Tau.postSplit (x : Tau) (sec u : Nat) (k : Ctx) (g : AgreeAcc) (minor : Nat × Nat × Nat) (major : Nat) : Tau :=
  let field := x.rd Reg.AGR_AU_CTRL_FIELD u
  let x := (x.postVerdict sec 5
    { kind := 12, unit := u, job := k.job, step := 0, rank := minor.2.1, aux := field, value := minor.1, ref := major
      thr := minor.2.2, present := g.valid, expected := x.ctxExpected k, period := k.period }).bump Reg.AGR_SPLIT_VERD_CNT (s := sec)
  if x.rd Reg.AGR_AU_CTRL_AUTO_SRV u = 1 then
    let (x, code, _, _) := x.issueSurvey (x.dissentSurvey u k.job k.consist k.period field major) true none
    if code = Code.done then x else x.bump Reg.AGR_SRV_REF_CNT (s := sec)
  else x

/-- Agreement unit `u` looks at a train as it is built (R292). A standby ROOT counts the split and posts nothing (R23). -/
def Tau.agreeUnit (x : Tau) (sec : Nat) (k : Ctx) (u : Nat) : Tau :=
  if x.rd Reg.AGR_AU_CTRL_EN u = 0 ∨ x.rd Reg.AGR_AU_STREAM_JOB u ≠ k.job ∨ x.rd Reg.AGR_AU_STREAM_CONSIST u ≠ k.consist then x
  else match k.acc.getD (x.rd Reg.AGR_AU_CTRL_FIELD u) .keep with
    | .agree g =>
      if g.valid = 0 ∨ g.lo = g.hi then x.setAu u none
      else
        let loMinor := decide (g.loCount ≤ g.hiCount)
        let minor := if loMinor then (g.lo, g.loRank, g.loCount) else (g.hi, g.hiRank, g.hiCount)
        let major := if loMinor then g.hi else g.lo
        let x := (x.bump Reg.AGR_AU_SPLIT_CNT u).wr64 Reg.AGR_AU_MIN_LO Reg.AGR_AU_MIN_HI minor.1 u
        let x := x.wr Reg.AGR_AU_MIN_CNT minor.2.2 u
        let new := x.agr.au.getD u none != some (g.lo, g.hi)
        let x := x.setAu u (some (g.lo, g.hi))
        if new && !x.isStandby then x.postSplit sec u k g minor major else x
    | _ => x.setAu u none

/-- Every agreement unit, and the counts of split and mixed AGREE fields of a train (R194, R292). -/
def Tau.agreeTrain (x : Tau) (sec : Nat) (k : Ctx) : Tau :=
  let gs := k.acc.filterMap fun a => match a with | .agree g => some g | _ => none
  let x := if gs.any fun g => decide (0 < g.valid) && g.lo != g.hi then x.bump Reg.RED_AGREE_SPLIT_CNT (s := sec) else x
  let x := if gs.any (·.mix) then x.bump Reg.RED_AGREE_MIX_CNT (s := sec) else x
  forIdx 8 (fun u x => x.agreeUnit sec k u) x

/-- A failed section's agreement units forget the last split (R292). -/
def Tau.agreeFail (x : Tau) (sec : Nat) : Tau :=
  forIdx 8 (fun u x =>
    if x.homeOf (x.rd Reg.AGR_AU_STREAM_JOB u) (x.rd Reg.AGR_AU_STREAM_CONSIST u) = sec then x.setAu u none else x) x

/-! ## Tap units -/

/-- The period that a 32-bit period field names at its GO (R471): none when it is not after the current period. -/
def namedPeriod (per v : Nat) : Option Nat :=
  let d := (v + 2 ^ 32 - per % 2 ^ 32) % 2 ^ 32
  if 0 < d ∧ d ≤ 2 ^ 31 then some (per + d) else none

/-- The job tap key that the TAU holds in the present period (R280). -/
def Tau.tapKey (x : Tau) (job : Nat) : Option Nat := (x.job job).bind fun j => inForce j.keys x.per

/-- The registers of tap unit `i` as it stands (R305). -/
def Tau.showTap (x : Tau) (i : Nat) : Tau :=
  let u := x.agr.tap.getD i TapUnit.reset
  let x := (x.wr Reg.AGR_T_STAT_STATE u.st i).wr Reg.AGR_T_STAT_STATUS u.status i
  ((x.wr64 Reg.AGR_T_DIG_LO Reg.AGR_T_DIG_HI (Nat.xor (u.n % 2 ^ 64) u.acc) i).wr Reg.AGR_T_WORDS u.n i).wr
    Reg.AGR_T_FLITS u.flits i

/-- The state with tap unit `i` changed. -/
def Tau.setTap (x : Tau) (i : Nat) (f : TapUnit → TapUnit) : Tau :=
  ({ x with agr := { x.agr with tap := modifyAt f i x.agr.tap } }).showTap i

/-- A tap unit closes and posts its HOP_DIGEST (R288, R294). -/
def Tau.closeTap (x : Tau) (i status : Nat) : Tau :=
  let u := x.agr.tap.getD i TapUnit.reset
  if u.st = 1 ∨ u.st = 2 then
    let x := x.setTap i fun u => { u with st := 3, status := status }
    x.postVerdict x.anySec 2
      { kind := 14, unit := i, job := u.job, step := u.m.coll + u.m.inst * 2 ^ 16, rank := rankNone, aux := status
        value := Nat.xor (u.n % 2 ^ 64) u.acc, ref := u.n, thr := clipU 32 u.flits, present := u.m.lo, expected := u.m.count
        period := x.per }
  else x

/-- A write of AGR.T_CTRL.GO (R288, R305, R471). A refusal counts with the writes refused (R18; DESIGN CHOICE, assumption 77). -/
def Tau.armTap (x : Tau) (i : Nat) : Tau :=
  let u := x.agr.tap.getD i TapUnit.reset
  if u.st = 1 ∨ u.st = 2 then (x.wr Reg.AGR_T_STAT_CODE Code.busy i).bump Reg.GEN_ACC_ERR_CNT
  else match namedPeriod x.per (x.rd Reg.AGR_T_DEADLINE i) with
    | none => (x.wr Reg.AGR_T_STAT_CODE Code.fit i).bump Reg.GEN_ACC_ERR_CNT
    | some p =>
      if (x.tapKey (x.rd Reg.AGR_T_JOB i)).isNone then (x.wr Reg.AGR_T_STAT_CODE Code.fit i).bump Reg.GEN_ACC_ERR_CNT
      else
        let m : TapMatch := ⟨x.rd Reg.AGR_T_MATCH_COLL i, x.rd Reg.AGR_T_MATCH_INST i, x.rd Reg.AGR_T_CHUNK_LO i,
          x.rd Reg.AGR_T_CHUNK_COUNT i, x.rd Reg.AGR_T_SRC i, x.rd Reg.AGR_T_DST i, x.rd Reg.AGR_T_POINT_RESULT_ONLY i == 1⟩
        let job := x.rd Reg.AGR_T_JOB i
        let x := x.wr Reg.AGR_T_STAT_CODE Code.done i
        let (pt, port, ep) := (x.rd Reg.AGR_T_POINT_POINT i, x.rd Reg.AGR_T_POINT_PORT i, (x.epochAt job x.per).getD 0)
        x.setTap i fun _ =>
          { st := 1, status := 0, point := pt, port := port, job := job, epoch := ep, m := m, deadline := p, acc := 0, n := 0
            flits := 0, seen := x.per }

/-- A flit passes the point of tap unit `i` (R275, R287, R288). -/
def Tau.tapFlit (x : Tau) (i : Nat) (tag : Option FlitTag) (payload : List Byte) : Tau :=
  let u := x.agr.tap.getD i TapUnit.reset
  match tag with
  | none => x
  | some g =>
    if u.st ≠ 1 ∧ u.st ≠ 2 then x
    else if g.tap && payload.length % 8 != 0 then x.bump Reg.AGR_T_TAGERR i
    else if g.coll ≠ u.m.coll then x
    else if g.inst = (u.m.inst + 1) % 256 then x.closeTap i 1
    else
      let now := x.per
      let x := x.setTap i fun u => { u with seen := now }
      if !u.m.hits g then x
      else match x.tapKey u.job with
        | none => x
        | some j =>
          let ts := (tagTerms g (tapPoint j g.coll) payload).filter fun t => u.m.inRange t.1
          if ts.isEmpty then x
          else x.setTap i fun u =>
            { u with
              st := 2
              acc := ts.foldl (fun a t => Nat.xor a t.2) u.acc
              n := u.n + ts.length
              flits := u.flits + 1 }

/-- TAP_IDLE periods without a flit (R288). -/
def Tau.tapIdle (x : Tau) (i : Nat) : Tau :=
  let u := x.agr.tap.getD i TapUnit.reset
  if u.st = 2 ∧ u.seen + x.rd Reg.AGR_TAP_IDLE ≤ x.per then x.closeTap i 2 else x

/-- The deadline of a tap unit (R288). -/
def Tau.tapDeadline (x : Tau) (i : Nat) : Tau :=
  let u := x.agr.tap.getD i TapUnit.reset
  if u.deadline ≤ x.per then x.closeTap i (if u.st = 1 then 3 else 7) else x

/-- The epoch of a job changes: its tap units close CANCELLED (R288). -/
def Tau.cancelTaps (x : Tau) (job : Nat) : Tau :=
  forIdx 8 (fun i x => if (x.agr.tap.getD i TapUnit.reset).job = job then x.closeTap i 4 else x) x

/-! ## Tallies (R301) -/

/-- A tally with counts added to entry `i`. -/
def tallyAdd (i a b : Nat) (l : List (Nat × Nat × Nat)) : List (Nat × Nat × Nat) :=
  if a = 0 ∧ b = 0 then l
  else if l.any (·.1 == i) then l.map fun e => if e.1 = i then (i, e.2.1 + a, e.2.2 + b) else e
  else insertBy (fun u v => decide (u.1 ≤ v.1)) (i, a, b) l

/-- The slot of a pack version, by the version's low byte (R291). -/
def Tau.tallySlot (x : Tau) (id ver : Nat) : Option Nat :=
  firstIdx (fun p => match p with | some p => p.id == id && p.ver % 256 == ver | none => false) x.lib.packs

/-- The state with the tally of pack slot `i` changed. -/
def Tau.setTally (x : Tau) (i : Nat) (f : List (Nat × Nat × Nat) → List (Nat × Nat × Nat)) : Tau :=
  { x with lib := { x.lib with packs := modifyAt (Option.map fun p => { p with tally := f p.tally }) i x.lib.packs } }

/-- A SCREEN_SUM coach joins the tally of its pack (R301). -/
def Tau.screenSum (x : Tau) (r : List Byte) : Tau :=
  let h := Hdr.parse r
  let run := fieldAt r 64 32
  let fail := fieldAt r 96 32
  let t := signed 8 h.sigT
  let skip := t == -128
  let x := if skip then x.bump Reg.AGR_CORR_SKIP_CNT else x
  match x.tallySlot (fieldAt r 34 2) (fieldAt r 36 1) with
  | none => x
  | some i =>
    let band := (t + 16) / 8
    let cell := 16 * (if band < 0 then 0 else if 15 < band then 15 else band.toNat) + h.sigL / 16
    x.setTally i fun l =>
      let l := forIdx 256 (fun i l => tallyAdd i (bit (run.testBit i)) (bit (fail.testBit i)) l) l
      if skip then l else tallyAdd (256 + cell) 1 (fieldAt r 50 2) l

/-- A change cut into entries of at most 2^24 − 1 (R301). -/
def cutEntry : Nat → Nat × Nat × Nat → List (Nat × Nat × Nat)
  | 0, e => [e]
  | n + 1, (i, a, b) =>
    let m := 2 ^ 24 - 1
    if a ≤ m ∧ b ≤ m then [(i, a, b)] else (i, Nat.min a m, Nat.min b m) :: cutEntry n (i, a - m, b - m)

/-- What changed in a tally since it was last sent. -/
def TauPack.changes (p : TauPack) : List (Nat × Nat × Nat) :=
  p.tally.flatMap fun (i, a, b) =>
    let (a', b') := match p.sent.find? (·.1 == i) with | some (_, c, d) => (a - c, b - d) | none => (a, b)
    if a' = 0 ∧ b' = 0 then [] else cutEntry 256 (i, a', b')

/-- Groups of at most 120 entries. -/
def groups120 : Nat → List (Nat × Nat × Nat) → List (List (Nat × Nat × Nat))
  | 0, _ => []
  | n + 1, l => if l.isEmpty then [] else l.take 120 :: groups120 n (l.drop 120)

/-- The boundary at which tallies go to the parent (R301). -/
def Tau.tallySend (x : Tau) : Tau :=
  if x.rd Reg.AGR_FAIL_TOP = 1 ∨ x.parent = none ∨ x.per % 2 ^ x.rd Reg.AGR_TALLY_DIV ≠ 0 then x
  else forIdx 4 (fun i x => match x.lib.packs.getD i none with
    | none => x
    | some p =>
      let l := p.changes
      let x := { x with lib := { x.lib with packs := modifyAt (Option.map fun p => { p with sent := p.tally }) i x.lib.packs } }
      forEach (groups120 l.length l) (fun g x =>
        let r := mkRecord (x.ownHdr 5 2 0xFFFF 0xFFFF (x.per * 2 ^ 18))
          (digestBody 0 0 0 4 0 p.id (p.ver % 256) 0 g.length x.per ++
            g.flatMap fun (i, a, b) => leBytes 2 i ++ leBytes 3 a ++ leBytes 3 b)
        (x.toParent false r).bump Reg.AGR_TALLY_SENT_CNT) x) x

/-- A child's TALLY (R301): each entry is added, or dropped and counted where the pack version is not held. -/
def Tau.tallyRx (x : Tau) (r : List Byte) : Tau :=
  let n := fieldAt r 38 2
  match x.tallySlot (fieldAt r 34 2) (fieldAt r 36 1) with
  | none => x.bumpBy Reg.AGR_TALLY_REF_CNT n
  | some i => x.setTally i fun l =>
    forIdx n (fun e l => tallyAdd (fieldAt r (48 + 8 * e) 2) (fieldAt r (50 + 8 * e) 3) (fieldAt r (53 + 8 * e) 3) l) l

/-! ## Failures (R302) -/

/-- A SCREEN_FAIL coach: posted at FAIL_TOP, else forwarded under the cap. -/
def Tau.screenFail (x : Tau) (sec : Nat) (yellow : Bool) (r : List Byte) : Tau :=
  let h := Hdr.parse r
  if x.rd Reg.AGR_FAIL_TOP = 1 then
    let id := fieldAt r 34 2
    let low := fieldAt r 36 1
    let ver := match x.lib.packs.filterMap (fun p => p) |>.find? (fun p => p.id == id && p.ver % 256 == low) with
      | some p => p.ver
      | none => low
    (x.postVerdict sec 5
      { kind := 13, unit := fieldAt r 37 1, job := 0xFFFF, step := id + ver * 2 ^ 16, rank := h.rank, aux := fieldAt r 48 2
        value := fieldAt r 56 8, ref := fieldAt r 64 8, thr := fieldAt r 52 4, present := 0, expected := 0
        period := fieldAt r 40 8 }).bump Reg.AGR_FAIL_FWD_CNT
  else if x.agr.failUsed < x.rd Reg.AGR_FAIL_CAP then
    (({ x with agr := { x.agr with failUsed := x.agr.failUsed + 1 } }).toParent yellow r).bump Reg.AGR_FAIL_FWD_CNT
  else x.bump Reg.AGR_FAIL_DROP_CNT

/-! ## Meanings -/

/-- TAP_UNIT_FLIT. -/
def execTapUnitFlit (t : T64) (unit : Fin 8) (tag : Option FlitTag) (payload : List Byte) (s : State) :
    Host.Outcome State Fault Refusal :=
  .next (s.onMain t fun x => x.tapFlit unit tag payload)

/-- TAP_UNIT_IDLE_TIMEOUT. -/
def execTapUnitIdleTimeout (t : T64) (unit : Fin 8) (s : State) : Host.Outcome State Fault Refusal :=
  .next (s.onMain t fun x => x.tapIdle unit)

/-- TAP_UNIT_DEADLINE. -/
def execTapUnitDeadline (t : T64) (unit : Fin 8) (s : State) : Host.Outcome State Fault Refusal :=
  .next (s.onMain t fun x => x.tapDeadline unit)

/-- TALLY_SEND. -/
def execTallySend (t : T64) (s : State) : Host.Outcome State Fault Refusal :=
  .next (s.onMain t fun x => x.tallySend)

end Sys2Proof.Machine
end

