-- ==== Sys2Proof/Machine/Regs.lean ====
section
/-!
DEFINITION. The register engine that both blocks share (R427 to R440): words and their fields, writes by access code, shadows and
their commits, parity and the safe state, and the latches of register pairs.
-/

namespace Sys2Proof.Machine

/-! ## Words -/

/-- A port as it numbers its latches and its outputs (R427). -/
def portIdx : Port → Nat
  | .host => 0
  | .mgmt n => 1 + n.val
  | .tau => 3
  | .core n => 4 + n.val

/-- The instance of a field that stands at byte offset `o` of its page. -/
def Fld.instAt (f : Fld) (o : Nat) : Option Nat :=
  if f.stride = 0 then (if o = f.off then some 0 else none)
  else if f.off ≤ o ∧ (o - f.off) % f.stride = 0 ∧ (o - f.off) / f.stride < f.count then some ((o - f.off) / f.stride)
  else none

/-- The fields of the word at byte offset `o` of a page, with their instances (R433). -/
def wordFields (page o : Nat) : List (Fld × Nat) := (Reg.ofPage page).filterMap fun f => (f.instAt o).map fun i => (f, i)

/-- Every RWS field instance of a page (R435). -/
def rwsFields (page : Nat) : List (Fld × Nat) :=
  ((Reg.functional page).filter (·.acc == .rws)).flatMap fun f => (List.range f.count).map fun i => (f, i)

/-- A field that holds configuration: RW, RWS or MSK (R439). -/
def Fld.cfg (f : Fld) : Bool := f.acc == .rw || f.acc == .rws || f.acc == .msk

/-- Some field of the word may be written (R432). -/
def wordWritable (page o : Nat) : Bool := (wordFields page o).any fun fi => fi.1.acc != .ro

/-- A word of a page's copy in section `s`, as parity names it. -/
def wordKey (page s o : Nat) : Nat := (page * 4 + s % 4) * 1024 + o / 4 % 1024

/-- The low words whose reading latches the word above them (R143, R431 and the page tables). -/
def latchLows : List Fld :=
  [Reg.TIME_FT_LO, Reg.TIME_JUMP_OFFER_LO, Reg.TIME_TEV_START_LO, Reg.TTIME_FT_LO, Reg.TCAP_SH_STAMP_LO, Reg.TCAP_SH_TAG_LO, Reg.TPMU_FIX_LO, Reg.TPMU_PRG_LO,
    Reg.THIST_H_SUM_LO, Reg.SRV_ST_MIN_LO, Reg.TREE_VISIT_CNT_LO, Reg.TREE_OUT_RAW_LO, Reg.TTAP_RES_DIG_LO,
    Reg.TTAP_CH_DIG_LO, Reg.TTAP_F_DIG_LO, Reg.AGR_AU_MIN_LO] ++
  [Reg.AGR_T_DIG_LO, Reg.REC_SEQ_LO, Reg.TTRC_WR_OFS_LO, Reg.TTRC_TRIG_T64_LO, Reg.TTRC_AUTH_NOT_AFTER_LO, Reg.CIP_CTR_LO]

/-- The word at offset `o` of a page latches the next one when it is read. -/
def latches (page o : Nat) : Bool := latchLows.any fun f => f.page == page && (f.instAt o).isSome

/-- The value a word reads, from the values of its fields; reserved bits read zero (R432). -/
def wordValue (page o : Nat) (val : Fld → Nat → Nat) : Nat :=
  (wordFields page o).foldl (fun n fi => n + val fi.1 fi.2 % 2 ^ fi.1.width * 2 ^ fi.1.lsb) 0

/-! ## Writes by access code (R12, R438) -/

/-- What a write of the word `v` does to one field. In its page's safe state an RW field is held at reset and takes the write
when the page leaves that state (assumption 12). -/
def RegFile.writeField (v s : Nat) (safe : Bool) (fi : Fld × Nat) (r : RegFile) : RegFile :=
  let f := fi.1
  let i := fi.2
  let b := bits v f.lsb f.width
  let old := r.get f i s
  match f.acc with
  | .rw => if safe then r.putShadow f i s b else r.put f i s b
  | .rws => r.putShadow f i s b
  | .msk =>
    let m := bits v 16 16
    r.put f i s (Nat.lor (old - Nat.land old m) (Nat.land b m))
  | .w1c => r.put f i s (old - Nat.land old b)
  | .set => r.put f i s (Nat.lor old b)
  | .wo | .ro => r

/-- A write marks its word's parity: inverted under INJECT, good otherwise (R433, R439). -/
def RegFile.markParity (page s o : Nat) (inject : Bool) (r : RegFile) : RegFile :=
  let k := wordKey page s o
  let rest := r.bad.filter (· != k)
  { r with bad := if inject then k :: rest else rest }

/-- A write of the word `v` that the block takes: `keep` names the fields that it ignores. A shadow write under INJECT uses it
up. -/
def RegFile.writeWord (page s o v : Nat) (keep : Fld → Bool) (r : RegFile) : RegFile :=
  let fs := (wordFields page o).filter fun fi => !keep fi.1
  let safe := r.get (Reg.PG_STATUS_SAFE page) 0 s == 1
  let shadow := fs.any fun fi => fi.1.acc == .rws
  let inject := r.get (Reg.PG_PARITY_INJECT page) 0 s == 1
  let r := fs.foldl (fun r fi => r.writeField v s safe fi) r
  if fs.any (fun fi => fi.1.cfg) then
    let r := r.markParity page s o (inject && shadow)
    if inject && shadow then r.put (Reg.PG_PARITY_INJECT page) 0 s 0 else r
  else r

/-! ## Commits (R435, R437) -/

/-- Some shadow of a list of fields differs from its committed value. -/
def RegFile.differs (l : List (Fld × Nat)) (s : Nat) (r : RegFile) : Bool :=
  l.any fun fi => r.get fi.1 fi.2 s != r.getShadow fi.1 fi.2 s

/-- Take the shadows of a list of fields. -/
def RegFile.commit (l : List (Fld × Nat)) (s : Nat) (r : RegFile) : RegFile :=
  l.foldl (fun r fi => r.put fi.1 fi.2 s (r.getShadow fi.1 fi.2 s)) r

/-- Give a field and its shadow the same value, as the hardware does when it writes an RWS field of its own. -/
def RegFile.both (f : Fld) (i s v : Nat) (r : RegFile) : RegFile := (r.put f i s v).putShadow f i s v

/-- The RWS fields of a page that differ from their shadows: those that a commit would change. -/
def RegFile.changed (page s : Nat) (r : RegFile) : List (Fld × Nat) :=
  (rwsFields page).filter fun fi => r.get fi.1 fi.2 s != r.getShadow fi.1 fi.2 s

/-- The words of a page's copy whose parity is inverted. -/
def RegFile.badWords (page s : Nat) (r : RegFile) : List Nat :=
  (r.bad.filter fun k => k / 1024 == page * 4 + s % 4).map (· % 1024)

/-- A word of the page that has no RWS field: its parity is checked on the value in use. -/
def plainWord (page w : Nat) : Bool := !((wordFields page (4 * w)).any fun fi => fi.1.acc == .rws)

/-- PG_PARITY notes mismatches in these words (R433): the first since CFG_PARITY was last cleared, and their count. -/
def RegFile.noteParity (page s : Nat) (ws : List Nat) (r : RegFile) : RegFile :=
  let low := ws.foldl Nat.min (ws.headD 0)
  let r := if r.get (Reg.PG_ERR_CFG_PARITY page) 0 s = 1 then r else r.put (Reg.PG_PARITY_FIRST page) 0 s low
  r.put (Reg.PG_PARITY_CNT page) 0 s (Nat.min 255 (r.get (Reg.PG_PARITY_CNT page) 0 s + ws.length))

/-- The safe state (R439): every RW and RWS field of the page, but for those of `keep`, is held at its reset value. -/
def RegFile.enterSafe (page s : Nat) (keep : Fld → Bool) (r : RegFile) : RegFile :=
  let fs := (Reg.ofPage page).filter fun f => (f.acc == .rw || f.acc == .rws) && !keep f
  let one (f : Fld) (i : Nat) (r : RegFile) : RegFile :=
    let r := r.put f i s (f.resetAt i)
    if f.acc = .rw then r.putShadow f i s (f.resetAt i) else r
  let r := fs.foldl (fun r f => forIdx f.count (one f) r) r
  r.put (Reg.PG_STATUS_SAFE page) 0 s 1

/-- A page leaves its safe state (R439): its RW fields take what was written to them meanwhile. -/
def RegFile.leaveSafe (page s : Nat) (keep : Fld → Bool) (r : RegFile) : RegFile :=
  let fs := (Reg.ofPage page).filter fun f => f.acc == .rw && !keep f
  let one (f : Fld) (i : Nat) (r : RegFile) : RegFile := (r.put f i s (r.getShadow f i s)).putShadow f i s (f.resetAt i)
  (fs.foldl (fun r f => forIdx f.count (one f) r) r).put (Reg.PG_STATUS_SAFE page) 0 s 0

/-! ## Reads (R430, R431) -/

/-- The latch of a register pair at a port. -/
def latchKey (port : Port) (a : Nat) : Nat := portIdx port * 2 ^ 26 + a

/-- Latch a high word. A latch is listed under its value plus one, so that a latched zero is told from an empty latch. -/
def RegFile.setLatch (port : Port) (a v : Nat) (r : RegFile) : RegFile :=
  { r with latch := Store.put (latchKey port a) (v + 1) 0 r.latch }

/-- The high word latched at a port; none before any read of its low word. -/
def RegFile.latched (port : Port) (a : Nat) (r : RegFile) : Option Nat := (Store.find (latchKey port a) r.latch).map (· - 1)

/-! ## What a commit gives back -/

/-- The code and page of the first refusal of a commit in ascending page address (R437); the page is 0x100 while there is
none. -/
structure Verdict where
  code : Nat
  page : Nat

/-- Nothing refused. -/
def Verdict.none : Verdict := ⟨0, 0x100⟩

/-- A refusal on a page joins a verdict. -/
def Verdict.add (page code : Nat) (v : Verdict) : Verdict := if page < v.page then ⟨code, page⟩ else v

/-- A field's committed values must lie in this range (the chapters' checks of single fields). -/
structure Range where
  fld : Fld
  lo : Nat
  hi : Nat

/-- Whether a value lies in every range given for a field. -/
def rangeOk (l : List Range) (f : Fld) (v : Nat) : Bool :=
  l.all fun r => r.fld.id != f.id || (decide (r.lo ≤ v) && decide (v ≤ r.hi))

end Sys2Proof.Machine
end

