-- ==== Sys2Proof/Machine/Straggler.lean ====
section
/-!
DEFINITION. What the TAU reads out of the trains it builds: retained summaries (R213, R214), stragglers and persistence (R225 to R229),
backup pairs (R231), drift (R232, R233) and foresight (R241, R242).
-/

namespace Sys2Proof.Machine

/-! ## Retention (R213, R214) -/

/-- A contribution to a retained stream is written to HBM as it is merged: its summary, and the state after. -/
def Tau.retain (x : Tau) (sec retKey child : Nat) (r : List Byte) : List Summ × Tau :=
  if retKey = 0xFE then ([], x)
  else
    let (x, ok) := x.hbmCharge sec 0 r.length
    if !ok then ([⟨child, r, [], false⟩], x)
    else
      let (x, ok) := x.hbmAlloc sec 0 r.length
      ([⟨child, r, [], ok⟩], x)

/-- The HBM bytes that a list of summaries holds. -/
def summBytes (l : List Summ) : Nat := (l.filter (·.kept)).foldl (fun n m => n + m.bytes.length) 0

/-- The key field of a stream in a context: its descriptor and its value (R213). -/
def Tau.keyField (x : Tau) (s : Stream) (k : Ctx) : Option (Desc × Acc) :=
  match (x.fieldsIn k.consist k.period)[s.retKey]?, k.acc[s.retKey]? with
  | some d, some a => some (d, a)
  | _, _ => none

/-- At CLOSE the key field is empty but may yet be filled: only the build tells whether the period is a key period (R213, R270). -/
def Tau.keyWaits (x : Tau) (k : Ctx) : Bool :=
  match (x.stream k.job k.consist).bind fun s => x.keyField s k with
  | some (d, a) => d.src == 0 && !d.accNonEmpty a
  | none => false

/-- At the end of a context its contributions are kept, for the last four key periods, or discarded (R214). -/
def Tau.keepPeriod (x : Tau) (k : Ctx) : Tau :=
  match x.stream k.job k.consist with
  | none => x.hbmFree 0 (summBytes k.summ)
  | some s =>
    let key := s.retKey = 0xFF || (match x.keyField s k with
      | some (d, a) => d.accNonEmpty a
      | none => false)
    let x := x.setCtx k fun k => { k with summ := [] }
    if !key then x.hbmFree 0 (summBytes k.summ)
    else
      let mine (r : RetPer) : Bool := r.job == k.job && r.consist == k.consist
      let kept := ⟨k.job, k.consist, k.period, k.summ⟩ :: x.srv.ret.filter mine
      let drop := kept.drop 4
      let x := drop.foldl (fun x r => x.hbmFree 0 (summBytes r.summ)) x
      { x with srv := { x.srv with ret := kept.take 4 ++ x.srv.ret.filter fun r => !mine r } }

/-! ## Stragglers (R225 to R229) -/

/-- c_P for P = 32 (R162); a smaller P takes every (32/P)th. -/
def histC32 : List Nat :=
  [0, 1435, 2902, 4400, 5932, 7496, 9096, 10730, 12400, 14106, 15850, 17633, 19454, 21315, 23216, 25160] ++
  [27146, 29175, 31249, 33369, 35534, 37747, 40009, 42320, 44682, 47095, 49562, 52082, 54658, 57289, 59979, 62727]

/-- The lower edge of bucket `m` of a field's law (R162), in units of 2^-16: below 2^16 an edge need not be whole. -/
def Desc.edge (d : Desc) (m : Nat) : Nat :=
  let p := 2 ^ d.hpl
  2 ^ (d.he + m / p) * (65536 + histC32.getD (m % p * (32 / p)) 0)

/-- M_s of a window (R227), in units of 2^-16. -/
def Desc.median (d : Desc) (u o : Nat) (l : List (Nat × Nat)) : Nat :=
  let c := u + o + l.foldl (fun t e => t + e.2) 0
  let need := (c + 1) / 2
  if c = 0 ∨ need ≤ u then 0
  else
    let upto (m : Nat) : Nat := u + (l.filter fun e => decide (e.1 ≤ m)).foldl (fun t e => t + e.2) 0
    d.edge (((List.range d.size).find? fun m => decide (need ≤ upto m)).getD d.size)

/-- Roles of the fields of a straggler unit (R225): 0 STEP, 1 MIN, 2 TOPK, 3 REF. -/
def Tau.stField (x : Tau) (u role : Nat) : Nat := bits (x.rd Reg.SRV_ST_FIELDS u) (8 * role) 8

/-- The state with straggler unit `u` changed; TBL_USED shows its table. -/
def Tau.setSt (x : Tau) (u : Nat) (f : StUnit → StUnit) : Tau :=
  let x := { x with srv := { x.srv with st := modifyAt f u x.srv.st } }
  x.wr Reg.SRV_ST_CTRL_TBL_USED (x.srv.st.getD u StUnit.reset).pers.length u

/-- The descriptor of a straggler unit's field. -/
def Tau.stDesc (x : Tau) (u role : Nat) : Desc :=
  (x.fields (x.rd Reg.SRV_ST_STREAM_CONSIST u)).getD (x.stField u role) ⟨0, 0, 0, 0, 0, 0, 0, 0, 0, 0, 0⟩

/-- A train joins a window (R226). -/
def Tau.stAccumulate (x : Tau) (u : Nat) (k : Ctx) (w : StWin) : StWin :=
  let at_ (role : Nat) : Acc := k.acc.getD (x.stField u role) .keep
  let min := match at_ 1 with | .mm v r n => mergeMm false 0 w.min (v, r, n) | _ => w.min
  let top := match at_ 2 with | .topk e => (mergeTop (x.stDesc u 2).size 0 w.top e).1 | _ => w.top
  let (un, ov, bk) := match at_ 3 with
    | .hist a b l => (w.under + a, w.above + b, addBuckets w.bkt l)
    | _ => (w.under, w.above, w.bkt)
  let first := match at_ 2 with | .topk ((v, _, _) :: _) => some v | _ => none
  { w with
    min := min
    top := top
    under := un
    above := ov
    bkt := bk
    present := if w.periods.isEmpty then k.present else Nat.min w.present k.present
    expected := x.ctxExpected k
    lost := w.lost || k.lost || k.missing != 0
    periods := w.periods ++ [(k.period, first)] }

/-- A window that opens for step `s` at period `p`, with no train yet. -/
def StWin.fresh (s p : Nat) : StWin :=
  { step := s, from_ := p, min := (0, rankNone, 0), top := [], under := 0, above := 0, bkt := [], present := 0, expected := 0
    lost := false, periods := [] }

/-- A verdict of a straggler unit (R230). -/
def Tau.stVerdict (x : Tau) (u kind : Nat) (w : StWin) (rank aux value ref thr period : Nat) : Verdict48 :=
  { kind := kind, unit := u, job := x.rd Reg.SRV_ST_STREAM_JOB u, step := w.step, rank := rank, aux := clipU 8 aux, value := value
    ref := ref, thr := clipU 32 thr, present := w.present, expected := w.expected, period := period }

/-- A history one window later (R229). -/
def shiftHist (m : Nat) (hit : Bool) (h : Nat) : Nat := (2 * h + bit hit) % 2 ^ m

/-- The persistence table with room for one more: the entry with the fewest set bits goes, the highest rank first (R229). -/
def evictPers (l : List (Nat × Nat × Bool)) : List (Nat × Nat × Bool) × Bool :=
  if l.length < 1024 then (l, false)
  else
    let worse (a b : Nat × Nat × Bool) : Bool :=
      let ca := popCount 64 a.2.1
      let cb := popCount 64 b.2.1
      decide (ca < cb) || (ca == cb && decide (b.1 < a.1))
    match l with
    | [] => (l, false)
    | a :: r =>
      let v := r.foldl (fun b e => if worse e b then e else b) a
      (l.filter (·.1 != v.1), true)

/-- The judgement of persistence after a window (R229): `lag` gives each straggler's lag and issue period. Entries whose history has
run out are freed before the new stragglers take theirs. -/
def Tau.judgePers (x : Tau) (sec u : Nat) (w : StWin) (mins thr closing : Nat) (lag : List (Nat × Nat × Nat)) : Tau :=
  let n := x.rd Reg.SRV_ST_PERS_N u
  let m := x.rd Reg.SRV_ST_PERS_M u
  let hit (r : Nat) : Bool := lag.any (·.1 == r)
  let old := (x.srv.st.getD u StUnit.reset).pers.map fun (r, h, p) => (r, shiftHist m (hit r) h, p)
  let (new, evicted) := lag.foldl (fun (a : List (Nat × Nat × Bool) × Nat) e =>
    if a.1.any (·.1 == e.1) then a
    else let (l, ev) := evictPers a.1; (l ++ [(e.1, 1, false)], a.2 + bit ev)) (old.filter (·.2.1 != 0), 0)
  let x := x.bumpBy Reg.SRV_ST_EVICT_CNT evicted u
  let post (x : Tau) (e : Nat × Nat × Bool) : Tau :=
    let c := popCount 64 e.2.1
    if x.isStandby then x
    else if n ≤ c ∧ !e.2.2 then
      let (l, p) := match lag.find? (·.1 == e.1) with | some (_, l, p) => (l, p) | none => (0, closing)
      (x.postVerdict sec 4 (x.stVerdict u 2 w e.1 c l mins thr p)).bump Reg.SRV_ST_PERSIST_CNT u
    else if c < n ∧ e.2.2 then x.postVerdict sec 2 (x.stVerdict u 3 w e.1 c 0 0 0 closing)
    else x
  let x := (old ++ new.filter fun e => !(old.any (·.1 == e.1))).foldl post x
  x.setSt u fun s => { s with pers := new.map fun (r, h, _) => (r, h, decide (n ≤ popCount 64 h)) }

/-- One automatic survey of R228: whether it was issued. Its deadline and MAXANS are not given and are free. -/
def Tau.overflowSurvey (x : Tau) (u period bound : Nat) : Tau × Bool :=
  let job := x.rd Reg.SRV_ST_STREAM_JOB u
  let (d, x) := x.pick (2 ^ 16)
  let (a, x) := x.pick 65535
  let s : Survey :=
    { sid := 0, base := 0, level := 0, consist := x.rd Reg.SRV_ST_STREAM_CONSIST u, job := job
      epoch := (x.epochAt job x.per).getD 0, period := period, deadline := x.per + x.rd Reg.SRV_HOP_MARGIN + 1 + d, lo := x.base
      kind := 0, hi := x.base + x.rd Reg.SCB_RANK_SPAN - 1, flags := 0, maxans := a + 1, fmask := 2 ^ x.stField u 1
      terms := [⟨x.stField u 2, 1, 0, bound % 2 ^ 64⟩], par := [] }
  let (x, code, _, _) := x.issueSurvey s true none
  (x, code == Code.done)

/-- The OVERFLOW of a window (R228). -/
def Tau.judgeOverflow (x : Tau) (sec u : Nat) (w : StWin) (mins thr closing : Nat) : Tau :=
  let k := (x.stDesc u 2).size
  match w.top.getLast? with
  | none => x
  | some (v, r, _) =>
    if w.top.length < k ∨ v ≤ mins + thr ∨ x.isStandby then x
    else
      let want := w.periods.filter fun p => match p.2 with | some f => decide (mins + thr < f) | none => false
      let auto := x.rd Reg.SRV_ST_CTRL_AUTO_OVF u == 1
      let (x, un) := want.foldl (fun (a : Tau × Nat) p =>
        let x := a.1
        let held := (x.kept (x.rd Reg.SRV_ST_STREAM_JOB u) (x.rd Reg.SRV_ST_STREAM_CONSIST u) p.1).isSome
        if auto && held then
          let (x, ok) := x.overflowSurvey u p.1 (mins + thr)
          (x, a.2 + bit (!ok))
        else (x, a.2 + 1)) (x, 0)
      (x.postVerdict sec 4 (x.stVerdict u 4 w r un (v - mins) mins thr closing)).bump Reg.SRV_ST_OVF_CNT u

/-- The entries of a straggler set, one for each rank: rank, lag and period of the issue. -/
def stragglers (mins thr : Nat) (l : List (Nat × Nat × Nat)) : List (Nat × Nat × Nat) :=
  l.foldl (fun a (v, r, _) =>
    if mins + thr < v ∧ !(a.any (·.1 == r)) then a ++ [(r, v - mins, v / 2 ^ 18)] else a) []

/-! ## Backup pairs (R231) -/

/-- The state with pair `i` changed. -/
def Tau.setBk (x : Tau) (i : Nat) (f : BkPair → BkPair) : Tau :=
  { x with srv := { x.srv with bk := modifyAt f i x.srv.bk } }

/-- The earliest answer of a copy in a window's periods. -/
def BkPair.answer (b : BkPair) (copy lo hi : Nat) : Option Nat :=
  ((b.ans.filter fun a => a.1 == copy && decide (lo ≤ a.2.1) && decide (a.2.1 ≤ hi)).map (·.2.2)).foldl
    (fun m v => match m with | none => some v | some w => some (Nat.min v w)) none

/-- Post BACKUP_FIRST for a window. -/
def Tau.postBackup (x : Tau) (i step copy aux margin stamp : Nat) : Tau :=
  let u := x.rd Reg.SRV_BK_CTRL_UNIT i
  let job := x.rd Reg.SRV_ST_STREAM_JOB u
  let rank := if copy = 0 then x.rd Reg.SRV_BK_PRIM i else x.rd Reg.SRV_BK_BACK i
  if x.isStandby then x
  else
    let x := x.postVerdict (x.homeOf job (x.rd Reg.SRV_ST_STREAM_CONSIST u)) 2
      { kind := 5, unit := i, job := job, step := step, rank := rank, aux := aux, value := margin, ref := stamp, thr := 0
        present := 0, expected := 0, period := stamp / 2 ^ 18 }
    (x.wr Reg.SRV_BK_STAT_LAST aux i).bump Reg.SRV_BK_STAT_REPORTS i

/-- Judge a window of pair `i`; `late`: its wait has run out. The state after, and whether the window is settled. -/
def Tau.judgeBackup (x : Tau) (i step lo hi : Nat) (late : Bool) : Tau × Bool :=
  let b := x.srv.bk.getD i { on := false, ans := [], wait := [] }
  let settle (x : Tau) : Tau :=
    x.setBk i fun b => { b with ans := b.ans.filter fun a => decide (hi < a.2.1) }
  match b.answer 0 lo hi, b.answer 1 lo hi with
  | some p, some q =>
    if p ≤ q then (settle (x.postBackup i step 0 0 (q - p) p), true) else (settle (x.postBackup i step 1 1 (p - q) q), true)
  | some p, none => if late then (settle (x.postBackup i step 0 2 0 p), true) else (x, false)
  | none, some q => if late then (settle (x.postBackup i step 1 2 0 q), true) else (x, false)
  | none, none => (x, late)

/-- Judge every window that pair `i` waits for. -/
def Tau.backupWait (x : Tau) (i : Nat) : Tau :=
  let b := x.srv.bk.getD i { on := false, ans := [], wait := [] }
  let max := x.rd Reg.SRV_ST_MAXWIN (x.rd Reg.SRV_BK_CTRL_UNIT i)
  b.wait.foldl (fun x w =>
    let (x, done) := x.judgeBackup i w.1 w.2.1 w.2.2.1 (decide (w.2.2.2 + max ≤ x.per))
    if done then x.setBk i fun b => { b with wait := b.wait.filter (· != w) } else x) x

/-- Every pair that waits, after an answer has come in. -/
def Tau.backupCheck (x : Tau) : Tau := forIdx 16 (fun i x => if (x.srv.bk.getD i ⟨false, [], []⟩).on then x.backupWait i else x) x

/-- A window of straggler unit `u` closes: its pairs are judged, or wait. -/
def Tau.backupWindow (x : Tau) (u step lo hi : Nat) : Tau :=
  forIdx 16 (fun i x =>
    if !(x.srv.bk.getD i ⟨false, [], []⟩).on ∨ x.rd Reg.SRV_BK_CTRL_UNIT i ≠ u then x
    else
      let (x, done) := x.judgeBackup i step lo hi false
      if done then x else x.setBk i fun b => { b with wait := b.wait ++ [(step, lo, hi, x.per)] }) x

/-- The STANDING survey of one copy of a pair (R231). Its deadline and MAXANS are not given and are free. -/
def Tau.pairSurvey (x : Tau) (i copy : Nat) : Survey × Tau :=
  let u := x.rd Reg.SRV_BK_CTRL_UNIT i
  let job := x.rd Reg.SRV_ST_STREAM_JOB u
  let rank := if copy = 0 then x.rd Reg.SRV_BK_PRIM i else x.rd Reg.SRV_BK_BACK i
  let (d, x) := x.pick (2 ^ 46)
  let (a, x) := x.pick 65535
  ({ sid := 0, base := 0, level := 0, consist := x.rd Reg.SRV_ST_STREAM_CONSIST u, job := job
     epoch := (x.epochAt job x.per).getD 0, period := x.per, deadline := x.per + x.rd Reg.SRV_HOP_MARGIN + 1 + d, lo := rank
     kind := 1, hi := rank, flags := 0, maxans := a + 1, fmask := 2 ^ x.stField u 1, terms := [⟨x.stField u 1, 0, 0, 0⟩], par := [] }, x)

/-- Cancel a pair's surveys. -/
def Tau.cancelPair (x : Tau) (i : Nat) : Tau :=
  forIdx 64 (fun k x => match x.srv.slots.getD k none with
    | some v => match v.pair with
      | some (j, _) => if j = i then x.cancelSurvey k else x
      | none => x
    | none => x) x

/-- A pair's EN goes from 0 to 1 (R231). -/
def Tau.enablePair (x : Tau) (i : Nat) : Tau :=
  let off (x : Tau) : Tau := { x with regs := x.regs.both Reg.SRV_BK_CTRL_EN i 0 0 }
  if x.srv.slots.countP (·.isNone) < 2 then off (x.admitRefused Code.capacity)
  else
    let (s, x) := x.pairSurvey i 0
    let (x, c, _, _) := x.issueSurvey s true (some (i, 0))
    if c ≠ Code.done then off x
    else
      let (s, x) := x.pairSurvey i 1
      let (x, c, _, _) := x.issueSurvey s true (some (i, 1))
      if c ≠ Code.done then off (x.cancelPair i)
      else x.setBk i fun _ => { on := true, ans := [], wait := [] }

/-- A pair's EN goes from 1 to 0. -/
def Tau.disablePair (x : Tau) (i : Nat) : Tau := (x.cancelPair i).setBk i fun _ => { on := false, ans := [], wait := [] }

/-! ## Windows of straggler units -/

/-- Judge a window at its close (R227 to R229). -/
def Tau.judgeWindow (x : Tau) (sec u closing : Nat) (w : StWin) : Tau :=
  let mins := w.min.1
  let thr := Nat.max (x.rd Reg.SRV_ST_ABS u) (x.rd Reg.SRV_ST_REL u * (x.stDesc u 3).median w.under w.above w.bkt / 2 ^ 32)
  let lag := if w.min.2.2 = 0 then [] else stragglers mins thr w.top
  let x := ((x.wr Reg.SRV_ST_STEP w.step u).wr64 Reg.SRV_ST_MIN_LO Reg.SRV_ST_MIN_HI mins u).wr Reg.SRV_ST_THR (clipU 32 thr) u
  let m := x.rd Reg.SRV_ST_PERS_M u
  let old := (x.srv.st.getD u StUnit.reset).pers
  let x := lag.foldl (fun x e =>
    if x.isStandby then x
    else
      let h := match old.find? (·.1 == e.1) with | some (_, h, _) => shiftHist m true h | none => 1
      (x.postVerdict sec 3 (x.stVerdict u 1 w e.1 (popCount 64 h) e.2.1 mins thr e.2.2)).bump Reg.SRV_ST_CNT u) x
  let x := x.judgePers sec u w mins thr closing lag
  let x := if w.min.2.2 = 0 then x else x.judgeOverflow sec u w mins thr closing
  x.backupWindow u w.step w.from_ closing

/-- Straggler unit `u` reads a train as it is built (R226). -/
def Tau.stTrain (x : Tau) (sec u : Nat) (k : Ctx) : Tau :=
  if x.rd Reg.SRV_ST_CTRL_EN u = 0 ∨ x.rd Reg.SRV_ST_STREAM_JOB u ≠ k.job ∨ x.rd Reg.SRV_ST_STREAM_CONSIST u ≠ k.consist then x
  else
    let unit := x.srv.st.getD u StUnit.reset
    let step := match k.acc.getD (x.stField u 0) .keep with | .mm v _ n => if n = 0 then none else some v | _ => none
    match unit.win, step with
    | some w, some s =>
      let w := x.stAccumulate u k w
      if w.step < s then
        (x.judgeWindow sec u k.period w).setSt u fun t => { t with win := some (StWin.fresh s (k.period + 1)), step := some s }
      else x.setSt u fun t => { t with win := some w }
    | some w, none => let w := x.stAccumulate u k w; x.setSt u fun t => { t with win := some w }
    | none, some s =>
      let new := match unit.step with | some o => decide (o < s) | none => true
      if new then
        let w := x.stAccumulate u k (StWin.fresh s k.period)
        x.setSt u fun t => { t with win := some w, step := some s }
      else x
    | none, none => x

/-- A window open too long is closed unjudged (R226). -/
def Tau.stTimeout (x : Tau) (u : Nat) : Tau :=
  match (x.srv.st.getD u StUnit.reset).win with
  | some w =>
    if w.from_ + x.rd Reg.SRV_ST_MAXWIN u ≤ x.per then
      (x.setSt u fun t => { t with win := none }).bump Reg.SRV_ST_SKIP_CNT u
    else x
  | none => x

/-- A commit that changes EN, ST_STREAM or ST_FIELDS (R229): the open window ends unjudged and the table empties. -/
def Tau.stRestart (x : Tau) (u : Nat) : Tau :=
  let open_ := (x.srv.st.getD u StUnit.reset).win.isSome
  let x := x.setSt u fun _ => StUnit.reset
  if open_ then x.bump Reg.SRV_ST_SKIP_CNT u else x

/-- A commit of ST_PERS (R229): each history keeps its newest M bits. An entry left with none is freed, but for a rank that still
stands as persistent: it is freed with its CLEARED at the next judged window. -/
def Tau.stTrim (x : Tau) (u : Nat) : Tau :=
  let m := x.rd Reg.SRV_ST_PERS_M u
  x.setSt u fun t => { t with pers := (t.pers.map fun (r, h, p) => (r, h % 2 ^ m, p)).filter fun e => e.2.1 != 0 || e.2.2 }

/-! ## Drift (R232, R233) -/

/-- The state with drift unit `u` changed. -/
def Tau.setDr (x : Tau) (u : Nat) (f : DrUnit → DrUnit) : Tau :=
  { x with srv := { x.srv with dr := modifyAt f u x.srv.dr } }

/-- A verdict of a drift unit (R230). -/
def Tau.postDrift (x : Tau) (sec u kind rank value present expected period : Nat) : Tau :=
  if x.isStandby then x
  else
    (x.postVerdict sec 4
      { kind := kind, unit := u, job := x.rd Reg.SRV_DR_STREAM u % 2 ^ 16, step := 0, rank := rank, aux := x.rd Reg.SRV_DR_CTRL_FIELD u
        value := value, ref := 0, thr := x.rd Reg.SRV_DR_THR u, present := present, expected := expected
        period := period }).bump Reg.SRV_DR_FLAG_CNT u

/-- A rank drift unit reads a train (R232). -/
def Tau.driftRank (x : Tau) (sec u : Nat) (k : Ctx) (e : List (Nat × Nat × Nat)) : Tau :=
  let thr := signed 32 (x.rd Reg.SRV_DR_THR u)
  let wl := x.rd Reg.SRV_DR_CTRL_WL u
  let et := ((x.fieldsIn k.consist k.period).getD (x.rd Reg.SRV_DR_CTRL_FIELD u) ⟨0, 0, 0, 0, 0, 0, 0, 0, 0, 0, 0⟩).etype
  let above := e.filter fun t => decide (thr < ordKey et t.1)
  let listed := (x.srv.dr.getD u DrUnit.reset).above
  let (x, new) := above.foldl (fun (a : Tau × List Nat) t =>
    if listed.any (·.1 == t.2.1) || a.2.contains t.2.1 then a
    else (a.1.postDrift sec u 7 t.2.1 t.1 k.present (a.1.ctxExpected k) k.period, a.2 ++ [t.2.1])) (x, [])
  let now := (listed.map fun (r, n) => if above.any (·.2.1 == r) then (r, 0) else (r, n + 1)).filter
    fun e => decide (e.2 < 2 ^ wl)
  x.setDr u fun d => { d with above := now ++ new.map (·, 0) }

/-- The score of R233: Σ|h_k × N_g − g_k × N_h| over every bucket, UNDER and OVER. -/
def driftScore (h g : HistSum) : Option Nat :=
  let total (s : HistSum) : Nat := s.under + s.above + s.bkt.foldl (fun n e => n + e.2) 0
  let nh := total h
  let ng := total g
  if nh = 0 ∨ ng = 0 then none
  else
    let diff (a b : Nat) : Nat := ((a * ng : Nat) - (b * nh : Nat) : Int).natAbs
    let keys := (List.range 128).map fun i => diff (countAt h.bkt i) (countAt g.bkt i)
    some (32768 * (diff h.under g.under + diff h.above g.above + keys.foldl (· + ·) 0) / (nh * ng))

/-- A due period of a fleet drift unit's stream with the `sum` of its window so far (R233): the window ends with the last of its 2^WL. -/
def Tau.driftDue (x : Tau) (sec u : Nat) (sum : HistSum) (present expected period : Nat) : Tau :=
  let d := x.srv.dr.getD u DrUnit.reset
  if d.n + 1 < 2 ^ x.rd Reg.SRV_DR_CTRL_WL u then
    x.setDr u fun d => { d with sum := sum, n := d.n + 1, present := present, expected := expected, last := some period }
  else
    let ref := if x.rd Reg.SRV_DR_CTRL_MODE u = 0 then d.prev else d.base
    let x := match ref.bind (driftScore sum) with
      | none => x.bump Reg.SRV_DR_SKIP_CNT u
      | some s =>
        let x := (x.wr Reg.SRV_DR_SCORE s u).bump Reg.SRV_DR_WIN_CNT u
        if x.rd Reg.SRV_DR_THR u < s then x.postDrift sec u 6 rankNone s present expected period else x
    x.setDr u fun d =>
      { d with
        sum := ⟨0, 0, []⟩
        n := 0
        present := 0
        last := some period
        prev := some sum
        base := if d.cap then some sum else d.base
        cap := false }

/-- Due periods of a stream after `p` and before `q` within its life. -/
def Stream.dueBetween (s : Stream) (p q : Nat) : List Nat :=
  let w := 2 ^ s.div
  let a := Nat.max (p + 1) s.from_
  let first := a + (s.phase % w + w - a % w) % w
  (List.range ((q - first + w - 1) / w)).map fun i => first + i * w

/-- A fleet drift unit reads a train (R233). Due periods since the last train without one of their own count in their windows with
nothing to add. PRESENT starts with a window's first train. -/
def Tau.driftFleet (x : Tau) (sec u : Nat) (k : Ctx) (un ov : Nat) (l : List (Nat × Nat)) : Tau :=
  let missed := match x.stream k.job k.consist, (x.srv.dr.getD u DrUnit.reset).last with
    | some s, some p => s.dueBetween p k.period
    | _, _ => []
  let x := forEach missed (fun p x =>
    let d := x.srv.dr.getD u DrUnit.reset
    x.driftDue sec u d.sum d.present d.expected p) x
  let d := x.srv.dr.getD u DrUnit.reset
  let present := if d.present = 0 then k.present else Nat.min d.present k.present
  x.driftDue sec u ⟨d.sum.under + un, d.sum.above + ov, addBuckets d.sum.bkt l⟩ present (x.ctxExpected k) k.period

/-- Drift unit `u` reads a train as it is built. -/
def Tau.drTrain (x : Tau) (sec u : Nat) (k : Ctx) : Tau :=
  let st := x.rd Reg.SRV_DR_STREAM u
  if x.rd Reg.SRV_DR_CTRL_EN u = 0 ∨ st % 2 ^ 16 ≠ k.job ∨ st / 2 ^ 16 ≠ k.consist then x
  else match x.rd Reg.SRV_DR_CTRL_KIND u, k.acc.getD (x.rd Reg.SRV_DR_CTRL_FIELD u) .keep with
    | 0, .hist a b l => x.driftFleet sec u k a b l
    | 1, .topk e => x.driftRank sec u k e
    | _, _ => x

/-- A write of SRV.DR_CAP.GO (R233). -/
def Tau.driftCapture (x : Tau) (u : Nat) : Tau := x.setDr u fun d => { d with cap := true }

/-- A failed section takes the state of the straggler and drift units it ran (R226). The step in progress is counted as skipped, and
only a later one opens a window. -/
def Tau.srvUnitsFail (x : Tau) (sec : Nat) : Tau :=
  let x := forIdx 8 (fun u x =>
    if x.homeOf (x.rd Reg.SRV_ST_STREAM_JOB u) (x.rd Reg.SRV_ST_STREAM_CONSIST u) = sec then
      let t := x.srv.st.getD u StUnit.reset
      let x := x.setSt u fun t => { StUnit.reset with step := t.step }
      if t.win.isSome then x.bump Reg.SRV_ST_SKIP_CNT u else x
    else x) x
  forIdx 16 (fun u x =>
    let st := x.rd Reg.SRV_DR_STREAM u
    if x.homeOf (st % 2 ^ 16) (st / 2 ^ 16) = sec then x.setDr u fun _ => DrUnit.reset else x) x

/-! ## Foresight (R241, R242) -/

/-- A cell with nothing filled. -/
def FsCell.blank (child field stream src : Nat) : FsCell :=
  { child := child, field := field, stream := stream, src := src, last := none, fresh := [false, false, false, false]
    rungs := List.replicate 4 ⟨none, none, false⟩, past := [] }

/-- The span of a rung, in periods (R242). -/
def rungSpan : Nat → Nat
  | 0 => 2 ^ 20
  | 1 => 2 ^ 24
  | 2 => 2 ^ 28
  | _ => 2 ^ 33

/-- A coach of the foresight consist gives its child's values (R241, R242). -/
def Tau.foresight (x : Tau) (sec child : Nat) (k : Ctx) (r : List Byte) : Tau :=
  let st := x.rd Reg.SRV_FS_STREAM (s := sec)
  if !x.isTray || st % 2 ^ 16 != k.job || st / 2 ^ 16 != k.consist then x
  else match x.consistIn k.consist k.period with
    | none => x
    | some c =>
      let fields := c.coachFields r
      let vals := (List.range 16).filterMap fun i =>
        let f := x.rd Reg.SRV_FS_FIELD i
        match (x.rd Reg.SRV_FS_EN (s := sec)).testBit i, c.fields[f]?, fields.getD f none with
        | true, some d, some b => some (i, d.num (fieldAt b 0 8), d.src == 2)
        | _, _, _ => none
      let cell (l : List FsCell) (i : Nat) : FsCell := (l.find? fun e => e.child == child && e.field == i).getD (FsCell.blank child i st (x.rd Reg.SRV_FS_FIELD i))
      let fell := vals.any fun (i, v, ctr) => ctr && (match (cell x.srv.fs i).last with | some o => decide (v < o) | none => false)
      let x := if fell then x.bump Reg.SRV_FS_RESET_CNT (s := sec) else x
      let base := if fell then x.srv.fs.map fun e => if e.child = child then { FsCell.blank child e.field e.stream e.src with past := e.past } else e else x.srv.fs
      let fs := vals.foldl (fun l (i, v, _) =>
        { cell l i with last := some v, fresh := [true, true, true, true] } ::
          l.filter fun e => !(e.child == child && e.field == i)) base
      { x with srv := { x.srv with fs := fs } }

/-- The rungs move at the boundaries of their spans (R242), and how they stand after the last four boundaries is kept (R260). -/
def Tau.foresightBoundary (x : Tau) : Tau :=
  let p := x.per
  let move (c : FsCell) (k : Nat) : FsCell :=
    if p % rungSpan k ≠ 0 then c
    else
      { c with
        rungs := modifyAt (fun r => ⟨c.last, r.newer, c.fresh.getD k false⟩) k c.rungs
        fresh := modifyAt (fun _ => false) k c.fresh }
  let keep (c : FsCell) : FsCell := { c with past := (c.rungs :: c.past).take 4 }
  { x with srv := { x.srv with fs := x.srv.fs.map fun c => keep ((List.range 4).foldl move c) } }

/-! ## Meanings -/

/-- STRAGGLER_WINDOW_TIMEOUT. -/
def execStragglerWindowTimeout (t : T64) (unit : Fin 8) (s : State) : Host.Outcome State Fault Refusal :=
  .next (s.onMain t fun x => x.stTimeout unit)

/-- BACKUP_WAIT_EXPIRY. -/
def execBackupWaitExpiry (t : T64) (pair : Fin 16) (s : State) : Host.Outcome State Fault Refusal :=
  .next (s.onMain t fun x => x.backupWait pair)

end Sys2Proof.Machine
end

