-- ==== Sys2Proof/Machine/Liveness.lean ====
section
/-!
DEFINITION. Liveness of children and of the parent (R234 to R236), the job's views (R237, R238), and probes (R239, R240, R460, R461).
-/

namespace Sys2Proof.Machine

/-- The section that runs the pulse stream. -/
def Tau.pulseHome (x : Tau) : Nat := x.homeOf 0xFFFF 0xFF00

/-! ## The job's views (R237) -/

/-- The part of a segment that lies outside [b, e). -/
def cutSeg (b e : Nat) (s : Nat × Nat × Nat × Nat) : List (Nat × Nat × Nat × Nat) :=
  let (j, sb, n, v) := s
  let left := Nat.min (sb + n) b - sb
  let start := Nat.max sb e
  let right := sb + n - start
  (if 0 < left then [(j, sb, left, v)] else []) ++ (if 0 < right ∧ e < sb + n then [(j, start, right, v)] else [])

/-- A view of a rank range replaces what stood for those ranks (R237). -/
def Tau.setView (x : Tau) (job base span view : Nat) : Tau :=
  let rest := x.srv.views.flatMap fun s => if s.1 = job then cutSeg base (base + span) s else [s]
  { x with srv := { x.srv with views := (job, base, span, view) :: rest } }

/-- JV_ALIVE (view 1) or JV_DEAD (view 2) of child `c`: the ranks that some job views so, each counted once. -/
def Tau.jv (x : Tau) (c view : Nat) : Nat :=
  let once := (x.srv.views.filter (·.2.2.2 == view)).foldl (fun l s => s :: l.flatMap (cutSeg s.2.1 (s.2.1 + s.2.2.1))) []
  ranksIn (once.map fun s => (s.2.1, s.2.2.1)) (x.kidBase c) (x.kidBase c + x.kidSpan c)

/-- The views disagree about child `c` in the state that the pulses give (R238). -/
def Tau.disagree (x : Tau) (c st : Nat) : Bool :=
  (st == 2 && decide (0 < x.jv c 1)) ||
    (st == 0 && decide (0 < x.jv c 2) && x.jv c 2 == (if x.isTray then 1 else x.kidSpan c))

/-! ## Children (R234, R235) -/

/-- A LIVENESS verdict payload about child `c` (R230). -/
def Tau.lvVerdict (x : Tau) (c st cls : Nat) : Verdict48 :=
  { kind := 8, unit := c, job := 0xFFFF, step := 0, rank := x.kidBase c, aux := st + 16 * cls, value := 0, ref := 0, thr := 0
    present := 0, expected := 0, period := x.per }

/-- The state that the pulses give after one pulse period: from state `st` with the new MISS and RUN (R235). -/
def pulseStep (suspect absent ret st : Nat) (pulsed : Bool) (miss run : Nat) : Nat :=
  match st, pulsed with
  | 0, false => if miss = suspect then 1 else 0
  | 1, true => 0
  | 1, false => if miss = absent then 2 else 1
  | 2, true => if run = ret then 0 else 2
  | s, _ => s

/-- What a transition of child `c` writes (R235). -/
def Tau.lvMove (x : Tau) (c old new : Nat) : Tau :=
  let sec := x.pulseHome
  if old = new then x
  else match new with
    | 1 => (x.postVerdict sec 4 (x.lvVerdict c 1 0)).bump Reg.SRV_SUSPECT_CNT (s := sec)
    | 2 => (x.postVerdict sec 5 (x.lvVerdict c 2 0)).bump Reg.SRV_ABSENT_CNT (s := sec)
    | _ => if old = 1 then x.record sec 0 2 0x0508 (x.lvVerdict c 0 0).bytes else x.postVerdict sec 4 (x.lvVerdict c 0 0)

/-- Compare the views about child `c` (R235, R238). -/
def Tau.lvViews (x : Tau) (c : Nat) : Tau :=
  let sec := x.pulseHome
  let st := x.rd Reg.SRV_LV_STATE c
  let pulse := x.rd Reg.SRV_LV_PULSE c
  if (x.kid c).isNone then x
  else if st = 3 then
    if x.disagree c pulse then x
    else
      (x.wr Reg.SRV_LV_STATE pulse c).postVerdict sec (if pulse = 2 then 5 else 4) (x.lvVerdict c pulse 0)
  else if x.disagree c st then
    let x := ((x.wr Reg.SRV_LV_STATE 3 c).postVerdict sec 6 (x.lvVerdict c 3 0)).bump Reg.SRV_CONTEST_CNT (s := sec)
    { x with srv := { x.srv with due := x.srv.due ++ [c] } }
  else x

/-- Judge child `c` after a pulse period (R235). -/
def Tau.lvJudge (x : Tau) (c : Nat) (pulsed : Bool) (period : Nat) : Tau :=
  let sec := x.pulseHome
  let miss := if pulsed then 0 else Nat.min 255 (x.rd Reg.SRV_LV_MISS c + 1)
  let run := if pulsed then Nat.min 255 (x.srv.run.getD c 0 + 1) else 0
  let old := x.rd Reg.SRV_LV_PULSE c
  let new := pulseStep (x.rd Reg.SRV_LV_CFG_SUSPECT (s := sec)) (x.rd Reg.SRV_LV_CFG_ABSENT (s := sec))
    (x.rd Reg.SRV_LV_CFG_RETURN (s := sec)) old pulsed miss run
  let x := (x.wr Reg.SRV_LV_MISS miss c).wr Reg.SRV_LV_PULSE new c
  let x := { x with srv := { x.srv with run := modifyAt (fun _ => run) c x.srv.run } }
  let x := if pulsed then x.wr Reg.SRV_LV_LAST period c else x
  if x.rd Reg.SRV_LV_STATE c = 3 then x.lvViews c else ((x.wr Reg.SRV_LV_STATE new c).lvMove c old new).lvViews c

/-- Judge every child that a pulse context expected, at its CLOSE (R234). -/
def Tau.judgePulses (x : Tau) (k : Ctx) : Tau :=
  (bitList k.exp).foldl (fun x c => if (x.kid c).isSome then x.lvJudge c (k.arr.testBit c) k.period else x) x

/-- A child enters PRESENT at attach (R234). -/
def Tau.lvAttach (x : Tau) (c : Nat) : Tau :=
  let x := ((x.wr Reg.SRV_LV_STATE 0 c).wr Reg.SRV_LV_PULSE 0 c).wr Reg.SRV_LV_MISS 0 c
  let x := (x.wr Reg.SRV_LV_CLASS 0 c).wr Reg.SRV_LV_PROBE_PEND 0 c
  { x with srv := { x.srv with
    run := modifyAt (fun _ => (0 : Nat)) c x.srv.run
    lastProbe := modifyAt (fun _ => none) c x.srv.lastProbe
    probes := x.srv.probes.filter (·.child != c)
    due := x.srv.due.filter (· != c) } }

/-! ## Acknowledgements and the parent (R236) -/

/-- The acknowledgement of child c's pulse train (R236, R459), past the DOWN queue (R319). -/
def Tau.ackPulse (x : Tau) (c period present : Nat) : Tau :=
  x.bypassDown c [] (withCrc (leBytes 1 0xB3 ++ zeros 3 ++ leBytes 3 x.base ++ leBytes 1 c ++ leBytes 8 period ++ leBytes 4 present ++
    leBytes 2 (ebUnits x.errBound) ++ leBytes 1 (bit x.hoOut) ++ zeros 5))

/-- A pulse acknowledgement from the parent, which is reached on PTP source port `port` if on any (R56, R236, R459). -/
def Tau.pulseAckRx (x : Tau) (port : Option Nat) (r : List Byte) : Tau :=
  if !(ctlOk 0xB3 r && r.length == 32) || some (fieldAt r 4 3) != x.parent then x.bump Reg.GEN_CTL_DMG_CNT
  else
    { x with
      srv := { x.srv with acked := true, lastAck := fieldAt r 8 8 }
      time := { x.time with parentEb := fieldAt r 20 2, parentHo := (fieldAt r 22 1).testBit 0, parentPort := port } }

/-- The TAU judges its parent, or a standby ROOT the active ROOT, at a boundary where a pulse period is due (R236): the state after,
and whether it has just become ABSENT. -/
def Tau.judgeParent (x : Tau) : Tau × Bool :=
  if x.rd Reg.GEN_ATTACH_STAT_STATE = 0 ∧ !x.isStandby then (x, false)
  else
    let sec := x.pulseHome
    let ok := x.srv.acked
    let miss := if ok then 0 else Nat.min 255 (x.rd Reg.SRV_PARENT_MISS + 1)
    let run := if ok then Nat.min 255 (x.srv.parentRun + 1) else 0
    let old := x.rd Reg.SRV_PARENT_STATE
    let new := pulseStep (x.rd Reg.SRV_LV_CFG_SUSPECT (s := sec)) (x.rd Reg.SRV_LV_CFG_ABSENT (s := sec))
      (x.rd Reg.SRV_LV_CFG_RETURN (s := sec)) old ok miss run
    let x := (x.wr Reg.SRV_PARENT_MISS miss).wr Reg.SRV_PARENT_STATE new
    ({ x with srv := { x.srv with acked := false, parentRun := run } }, new == 2 && old != 2)

/-! ## Probes (R239, R240) -/

/-- A probe record for child `c` (R460): its TARGET is the child's own RANK_BASE, 0 for a ROOT (R451). -/
def Tau.probeRecord (x : Tau) (c link id q : Nat) : List Byte :=
  withCrc (leBytes 1 0xB4 ++ leBytes 1 link ++ zeros 2 ++ leBytes 4 id ++ leBytes 8 q ++ leBytes 3 (if x.role = 4 then 0 else x.kidBase c) ++ zeros 1 ++
    leBytes 3 x.base ++ zeros 5)

/-- Probe child `c` now (R239). The PROBE_ID is of the TAU's choosing, unique among its probes in flight (R460; assumption 3). -/
def Tau.startProbe (x : Tau) (c : Nat) : Tau :=
  let sec := x.pulseHome
  let (id, x) := x.freshId (2 ^ 32) (x.srv.probes.map (·.id))
  let q := x.per
  let p : Probe := { child := c, id := id, q := q, dead := x.rd Reg.SRV_LV_PULSE c == 0, ans := [] }
  let x := { x with srv := { x.srv with
    probeSeq := id
    probes := p :: x.srv.probes.filter (·.child != c)
    lastProbe := modifyAt (fun _ => some q) c x.srv.lastProbe } }
  let x := (x.wr Reg.SRV_LV_PROBE_PEND 1 c).bump Reg.SRV_PROBE_CNT (s := sec)
  if x.isTray then
    let send (x : Tau) (k : Nat) : Tau := if x.links.testBit (c + 16 * k) then x.bypassDown c [c + 16 * k] (x.probeRecord c k id q) else x
    send (send x 0) 1
  else x.bypassDown c [] (x.probeRecord c 0 id q)

/-- The probes due at this boundary (R235). -/
def Tau.probesDue (x : Tau) : Tau :=
  let l := x.srv.due
  ({ x with srv := { x.srv with due := [] } }) |> fun x =>
    l.foldl (fun x c => if x.rd Reg.SRV_LV_STATE c = 3 then x.startProbe c else x) x

/-- LV_REPROBE periods after the last probe of a CONTESTED child (R235). -/
def Tau.reprobe (x : Tau) (c : Nat) : Tau :=
  match x.srv.lastProbe.getD c none with
  | some q =>
    if x.rd Reg.SRV_LV_STATE c = 3 ∧ q + x.rd Reg.SRV_LV_REPROBE (s := x.pulseHome) ≤ x.per then x.startProbe c else x
  | none => x

/-- A probe answer (R239, R461): `link` and the four flit counts of a TDU's; none for a child TAU's. An answer that no probe waits for
is dropped. -/
def Tau.probeAnswer (x : Tau) (c id link : Nat) (flits : List Nat) : Tau :=
  { x with srv := { x.srv with probes := x.srv.probes.map fun p =>
    if p.child = c ∧ p.id = id then { p with ans := p.ans ++ [(link, flits)] } else p } }

/-- The class of a probe (R240): what the link controllers say is each link up, and data flits seen on it. -/
def Tau.probeClass (x : Tau) (p : Probe) (upA upB dataA dataB : Bool) : Nat :=
  let f (i : Nat) : Nat := ((p.ans.head?).map fun a => a.2.getD i 0).getD 0
  let answered := !p.ans.isEmpty
  if x.isTray then
    if !p.dead then
      if p.ans.any (·.1 == 0) then 1 else if answered then 2 else if dataA || dataB then 3 else 4
    else if answered && f 0 + f 2 == 0 then 5
    else if answered && f 1 + f 3 == 0 then 6
    else if (upA != upB) && (if upA then dataA else dataB) then 7
    else if answered then 8 else 15
  else if p.dead then 11 else if answered then 9 else 10

/-- Boundary q + 2 of a probe (R240). -/
def Tau.classify (x : Tau) (c : Nat) (upA upB dataA dataB : Bool) : Tau :=
  match x.srv.probes.find? (·.child == c) with
  | none => x
  | some p =>
    if x.per < p.q + 2 then x
    else
      let cls := x.probeClass p upA upB dataA dataB
      let x := { x with srv := { x.srv with probes := x.srv.probes.filter (·.child != c) } }
      let x := (x.wr Reg.SRV_LV_CLASS cls c).wr Reg.SRV_LV_PROBE_PEND 0 c
      x.postVerdict x.pulseHome 6 (x.lvVerdict c (x.rd Reg.SRV_LV_STATE c) cls)

/-- What the island says of itself in its answer to a probe: as it is, or while the main rails are down as it was when they fell. -/
def Tau.islandSays (x : Tau) : RailsKept :=
  x.boot.kept.getD ⟨x.parent, x.base, x.scb.pulseSent, x.scb.lastPulse, x.scb.pulseDrop⟩

/-- The island answers a probe (R461). -/
def Tau.childProbe (x : Tau) (r : List Byte) : Tau :=
  let k := x.islandSays
  if !(ctlOk 0xB4 r && r.length == 32) || fieldAt r 16 3 != k.base then x.bump Reg.GEN_CTL_DMG_CNT
  else
    let insv := if x.main then 16 + ((List.range 4).foldl (fun n s => n + bit (x.secState s == 0) * 2 ^ s) 0) else 0
    x.bypassTo k.parent (withCrc (leBytes 1 0xB5 ++ zeros 3 ++ (r.drop 4).take 12 ++ leBytes 3 k.base ++ leBytes 1 insv ++
      leBytes 4 (k.sent % 2 ^ 32) ++ leBytes 1 (x.rd Reg.SRV_PARENT_STATE) ++ leBytes 1 (x.rd Reg.TIME_TIME_STATE_STATE) ++ zeros 2 ++
      leBytes 8 k.last ++ leBytes 4 (k.drop % 2 ^ 32) ++ leBytes 8 x.srv.lastAck ++ leBytes 2 (ebUnits x.errBound) ++
      zeros 18))

/-! ## Meanings -/

/-- PULSE_ACK_RX. `port`: the PTP source port on which the tree parent is reached, where it is one (R56). -/
def execPulseAckRx (t : T64) (port : Option (Fin 18)) (r : List Byte) (s : State) : Host.Outcome State Fault Refusal :=
  .next (s.onMain t fun x => x.pulseAckRx (port.map (·.val)) r)

/-- CHILD_PROBE_RX. -/
def execChildProbeRx (t : T64) (r : List Byte) (s : State) : Host.Outcome State Fault Refusal :=
  .next (s.onIsland t fun x => x.childProbe r)

/-- PROBE_CLASSIFY. -/
def execProbeClassify (t : T64) (child : Fin 64) (upA upB dataA dataB : Bool) (s : State) : Host.Outcome State Fault Refusal :=
  .next (s.onMain t fun x => x.classify child upA upB dataA dataB)

/-- LIVENESS_REPROBE. -/
def execLivenessReprobe (t : T64) (child : Fin 64) (s : State) : Host.Outcome State Fault Refusal :=
  .next (s.onMain t fun x => x.reprobe child)

end Sys2Proof.Machine
end

