-- ==== Sys2Proof/Machine/Marshal.lean ====
section
/-!
DEFINITION. The life of a context (R176 to R186, R196 to R207): opening, admission, arrivals and their merge, lateness, close, build,
export of trains (R329 to R332) and release.
-/

namespace Sys2Proof.Machine

/-! ## Opening (R176 to R181) -/

/-- SCB.CTX_USED of section `s`. -/
def Tau.ctxUsed (x : Tau) (s : Nat) : Nat := x.scb.ctxs.countP (·.home == s)

/-- The children that a context of period `p` expects, with their registered counts (R196, R197). -/
def Tau.expects (x : Tau) (j p : Nat) : List (Nat × Nat) :=
  x.children.filterMap fun c => match x.kid c with
    | none => none
    | some k =>
      let on := decide (k.from_ ≤ p) && (match k.until_ with | some q => decide (p < q) | none => true)
      let n := x.regCount j c
      if on && (j == 0xFFFF || decide (0 < n)) then some (c, n) else none

/-- The empty context of a stream's period `p` (R179, R181, R186). -/
def Tau.newCtx (x : Tau) (s : Stream) (p : Nat) : Ctx :=
  let kids := x.expects s.job p
  let b := p * 2 ^ 18
  { job := s.job, consist := s.consist, epoch := (x.epochAt s.job p).getD 0, period := p, home := x.streamHome s, st := 1
    exp := kids.foldl (fun n k => n + 2 ^ k.1) 0, counts := kids, admitAt := b + x.emitOfs + x.shift, close := b + x.closeOfs, arr := 0
    acc := (x.fieldsIn s.consist p).map (·.zeroAcc), parts := [], satc := 0, sev := 0, ho := false, gap := false, order := false, eb := 0
    sigT := -128, sigL := 0, lost := false, early := false, rehome := false, late := 0, summ := [] }

/-- Open the context of one due stream, within its job's reservation (R181, R207). -/
def Tau.openCtx (x : Tau) (s : Stream) : Tau :=
  let p := x.per
  let sec := x.streamHome s
  if !s.due p || !s.live p || (x.ctx s.job s.consist p).isSome then x
  else if x.reserved s.job ≤ x.scb.ctxs.countP (·.job == s.job) then
    let x := { x with scb := { x.scb with shut := (s.job, s.consist, p) :: x.scb.shut } }
    ((x.bump Reg.SCB_QUOTA_REF_CNT (s := sec)).postExc sec 2 s.job s.consist (p % 2 ^ 32) 0).1
  else
    let x := { x with scb := { x.scb with ctxs := x.scb.ctxs ++ [x.newCtx s p] } }
    let n := x.ctxUsed sec
    if x.rd Reg.SCB_CTX_HWM (s := sec) < n then x.wr Reg.SCB_CTX_HWM n (s := sec) else x

/-- Open every context due at this boundary. -/
def Tau.openAll (x : Tau) : Tau := x.scb.streams.foldl (fun x s => x.openCtx s) x

/-! ## Lateness (R185) -/

/-- Post a LATE_BURST when the eighth child is late for one context (R210). -/
def Tau.lateBurst (x : Tau) (sec j c p : Nat) : Tau :=
  let n := x.scb.lateSeen.countP fun e => e.1 == j && e.2.1 == c && e.2.2.1 == p
  if n = 8 then (x.postExc sec 4 j c (p % 2 ^ 32) 0).1 else x

/-- A late arrival of child `c` (R185). -/
def Tau.lateArrival (x : Tau) (s : Stream) (p c t : Nat) : Tau :=
  let sec := x.streamHome s
  let close := match x.ctx s.job s.consist p with | some k => k.close | none => p * 2 ^ 18 + x.closeOfs
  let x := x.bump Reg.SCB_LATE_CNT (s := sec)
  let x := x.setStream s.job s.consist fun s => { s with late := Nat.lor s.late (2 ^ c) }
  let x := { x with scb := { x.scb with lateNow := Nat.lor x.scb.lateNow (2 ^ c) } }
  let key := (s.job, s.consist, p, c)
  if x.scb.lateSeen.contains key then x
  else
    let x := { x with scb := { x.scb with lateSeen := key :: x.scb.lateSeen } }
    let x := x.record sec 0 3 0x0302 (leBytes 2 s.job ++ leBytes 2 s.consist ++ leBytes 1 c ++ zeros 3 ++
      leBytes 4 (unsigned 32 ((t : Int) - (close : Nat))) ++ zeros 4 ++ leBytes 8 p)
    x.lateBurst sec s.job s.consist p

/-! ## Closing (R181, R185, R260) -/

/-- A context stops merging: it takes its stream's LATE bits, forms its aggregate vectors and, on the pulse stream, judges the
children; on any other its contributions are kept or discarded, at the build where its key may still be filled (R181, R185, R213, R214,
R234, R260). No more vectors form of it (R273). -/
def Tau.closeCtx (x : Tau) (k : Ctx) (early : Bool) : Tau :=
  let late := ((x.stream k.job k.consist).map (·.late)).getD 0
  let x := x.setStream k.job k.consist fun s => { s with late := 0 }
  let x := x.setCtx k fun k => { k with st := 3, early := early, late := late }
  let x := if early then x.bump Reg.SCB_EARLY_CLOSE_CNT (s := k.home) else x
  match x.ctx k.job k.consist k.period with
  | some k =>
    let x := x.formAggregate k
    (if k.job = 0xFFFF then x.judgePulses k else if x.keyWaits k then x else x.keepPeriod k).treeFree
  | none => x

/-- Close every collecting context whose CLOSE has passed, the tick `now` included when `incl` (R182). -/
def Tau.closeDue (x : Tau) (incl : Bool) : Tau :=
  let due (k : Ctx) : Bool := k.st == 2 && (if incl then decide (k.close ≤ x.now) else decide (k.close < x.now))
  (x.scb.ctxs.filter due).foldl (fun x k => x.closeCtx k false) x

/-! ## Merging (R186 to R199) -/

/-- The contribution of an arrival (R187, R196): its fields, its part in coverage, its SATC, and CFLAGS[2]. -/
def Tau.contribution (x : Tau) (k : Ctx) (c : Nat) (r : List Byte) : List Acc × Part × Nat × Bool :=
  let fs := x.fieldsIn k.consist k.period
  let h := Hdr.parse r
  if h.cls = 6 then
    let p := Preamble.parse r
    let l := (trainFields fs r).getD (fs.map (·.zeroAcc))
    let l := if x.role = 4 then l.map (·.federate c) else l
    let ad := if x.role = 4 then p.adopts.map fun (b, n) => (fedRank c b, n) else p.adopts
    (l, ⟨c, p.expected, p.present, ad⟩, p.satc, p.cflags.testBit 2)
  else (coachParts fs h.rank r, ⟨c, 1, 1, []⟩, bit h.sat, false)

/-- A gap in a TDU's PSEQ between two merged pulses (R234). -/
def Tau.pseq (x : Tau) (sec c : Nat) (r : List Byte) : Tau :=
  match x.kid c with
  | none => x
  | some kid =>
    let n := fieldAt r 24 2
    let gap := match kid.pseq with | some q => (q + 1) % 2 ^ 16 != n | none => false
    let x := if gap then x.bump Reg.SRV_PSEQ_GAP_CNT (s := sec) else x
    x.setKid c (some { kid with pseq := some n })

/-- Merge an accepted arrival of child `c` (R181, R183). -/
def Tau.mergeArrival (x : Tau) (s : Stream) (k : Ctx) (c : Nat) (r : List Byte) : Tau :=
  let sec := k.home
  let h := Hdr.parse r
  let (l, part, satc, lost) := x.contribution k c r
  let (acc, cut) := mergeAll (x.fieldsIn k.consist k.period) k.acc l
  let (summ, x) := if k.job = 0xFFFF then ([], x) else x.retain sec s.retKey c r
  let t := signed 8 h.sigT
  let x := x.setCtx k fun k =>
    { k with
      arr := Nat.lor k.arr (2 ^ c)
      acc := acc
      parts := k.parts ++ [part]
      satc := (k.satc + satc) % 2 ^ 32
      sev := Nat.max k.sev h.sev
      ho := k.ho || h.ho
      gap := k.gap || h.gap
      order := k.order || h.order
      eb := Nat.max k.eb h.eb
      sigT := if t = -128 then k.sigT else if k.sigT = -128 then t else max k.sigT t
      sigL := Nat.max k.sigL h.sigL
      lost := k.lost || lost
      summ := k.summ ++ summ }
  let x := (x.bump Reg.RED_MERGE_CNT (s := sec)).bumpBy Reg.RED_TOPK_TRUNC_CNT cut (s := sec)
  let x :=
    if k.job = 0xFFFF then (if h.cls = 6 then x.ackPulse c k.period part.present else x.pseq sec c r)
    else
      let x := if h.cls = 6 then x else x.formRank k c r
      x.foresight sec c k r
  match x.ctx k.job k.consist k.period with
  | some k => if k.arr = k.exp then x.closeCtx k true else x
  | none => x

/-! ## Admission (R180 to R182) -/

/-- Bytes in the hold store. -/
def Tau.holdBytes (x : Tau) : Nat := x.scb.hold.foldl (fun n h => n + h.bytes.length) 0

/-- The stream and period that a held arrival is for. -/
def Held.isFor (h : Held) (k : Ctx) : Bool :=
  let d := Hdr.parse h.bytes
  d.consist == k.consist && (d.job == k.job || d.consist == 0xFF00) && d.t / 2 ^ 18 == k.period

/-- One held arrival is released to its context (R180, R182, R183). -/
def Tau.releaseHeld (x : Tau) (k : Ctx) (h : Held) : Tau :=
  match x.stream k.job k.consist, x.ctx k.job k.consist k.period with
  | some s, some k =>
    if k.arr.testBit h.child then x.bump Reg.SCB_DUP_CNT (s := k.home)
    else if k.st = 2 then x.mergeArrival s k h.child h.bytes
    else x.lateArrival s k.period h.child h.t
  | _, _ => x

/-- ADMIT of a context (R181). -/
def Tau.admitCtx (x : Tau) (k : Ctx) : Tau :=
  let x := x.setCtx k fun k => { k with st := 2 }
  let mine := x.scb.hold.filter (·.isFor k)
  let x := { x with scb := { x.scb with hold := x.scb.hold.filter fun h => !h.isFor k } }
  if k.exp = 0 then x.closeCtx { k with st := 2 } false else mine.foldl (fun x h => x.releaseHeld k h) x

/-- Admit every open context whose ADMIT has come. One of a failed section waits to be rebuilt (R201). -/
def Tau.admitDue (x : Tau) : Tau :=
  (x.scb.ctxs.filter fun k => k.st == 1 && decide (k.admitAt ≤ x.now) && !x.dead k.home).foldl (fun x k => x.admitCtx k) x

/-! ## Arrivals (R182, R183) -/

/-- Test 6 of R183: the context's state. -/
def Tau.arriveIn (x : Tau) (s : Stream) (k : Ctx) (c sec : Nat) (r : List Byte) : Tau :=
  match k.st with
  | 1 =>
    if x.shift = 0 then x.bump Reg.SCB_EARLY_CNT (s := k.home)
    else if 8388608 < x.holdBytes + r.length then x.bump Reg.SCB_HOLD_DROP_CNT
    else { x with scb := { x.scb with hold := x.scb.hold ++ [⟨c, sec, x.now, r⟩] } }
  | 2 => if x.now ≤ k.close then x.mergeArrival s k c r else x.lateArrival s k.period c x.now
  | _ => x.lateArrival s k.period c x.now

/-- Judge an arrival of child `c` at section `sec` (R183). It goes to the home of its own context (R33); a failed section takes nothing,
but what is held for a context that has admitted nothing stands outside the sections (R180, R201). Where the stream holds no context at
all, a period up to the current one is late and one after it EARLY; a period between its contexts that has none of its own is UNEXP
(DESIGN CHOICE, assumption 72). -/
def Tau.arrival (x : Tau) (c sec : Nat) (r : List Byte) : Tau :=
  let h := Hdr.parse r
  let j := if h.consist = 0xFF00 then 0xFFFF else h.job
  let p := h.t / 2 ^ 18
  match x.stream j h.consist with
  | none => x.bump Reg.SCB_UNEXP_CNT (s := sec)
  | some s =>
    let x := x.admitDue.closeDue false
    let home := ((x.ctx j h.consist p).map (·.home)).getD (x.streamHome s)
    let x := if home = sec then x else x.bump Reg.SCB_XFWD_CNT (s := sec)
    let mine := x.scb.ctxs.filter fun k => k.job == j && k.consist == h.consist
    match x.ctx j h.consist p with
    | none =>
      if x.dead home then x else
      let older := if mine.isEmpty then decide (p ≤ x.per) else mine.all fun k => decide (p < k.period)
      let newer := if mine.isEmpty then decide (x.per < p) else mine.all fun k => decide (k.period < p)
      if x.scb.shut.contains (j, h.consist, p) then x.bump Reg.SCB_UNEXP_CNT (s := home)
      else if older then x.lateArrival s p c x.now
      else if newer then x.bump Reg.SCB_EARLY_CNT (s := home)
      else x.bump Reg.SCB_UNEXP_CNT (s := home)
    | some k =>
      if x.dead home && k.st != 1 then x
      else if h.late then x.lateArrival s p c x.now
      else if !k.exp.testBit c then x.bump Reg.SCB_UNEXP_CNT (s := home)
      else if k.arr.testBit c then x.bump Reg.SCB_DUP_CNT (s := home)
      else x.arriveIn s k c sec r

/-! ## Export of trains (R329 to R332) -/

/-- A field's tlValue (R331): the value, whether it saturated, and whether it had nothing to give. -/
def exportValue (d : Desc) (a : Acc) : Int × Bool × Bool :=
  let narrow (v : Int) : Int × Bool × Bool := (clipS 64 v, clipS 64 v != v, false)
  match a with
  | .sum v => narrow v
  | .mm v _ n => if n = 0 then (0, false, true) else narrow (ordKey d.etype v)
  | .topk ((v, _, _) :: _) => narrow (ordKey d.etype v)
  | _ => (0, false, true)

/-- Field index `i` of export entry `e` (R335). -/
def Tau.exportField (x : Tau) (e i : Nat) : Nat :=
  let w := match i / 4 with
    | 0 => x.rd Reg.MGMT_EX_FIELDS0 e | 1 => x.rd Reg.MGMT_EX_FIELDS1 e | 2 => x.rd Reg.MGMT_EX_FIELDS2 e
    | _ => x.rd Reg.MGMT_EX_FIELDS3 e
  bits w (8 * (i % 4)) 8

/-- Export entry `e` looks at a finished train (R332). -/
def Tau.exportEntry (x : Tau) (sec : Nat) (k : Ctx) (r : List Byte) (e : Nat) : Tau :=
  if x.rd Reg.MGMT_EX_CTRL_EN e = 0 ∨ x.rd Reg.MGMT_EX_STREAM_JOB e ≠ k.job ∨ x.rd Reg.MGMT_EX_STREAM_CONSIST e ≠ k.consist ∨
      k.period % 2 ^ x.rd Reg.MGMT_EX_CTRL_DIV e ≠ 0 ∨ x.rd Reg.MGMT_EXP_CTRL_EN = 0 then x
  else
    let t := k.period * 2 ^ 18
    let (x, ok) :=
      if x.rd Reg.MGMT_EX_CTRL_FORM e = 0 then x.exportRec sec 1 257 t (ipfixVar r)
      else
        let fs := x.fieldsIn k.consist k.period
        let vs := (List.range (x.rd Reg.MGMT_EX_CTRL_NFIELD e)).map fun i =>
          let f := x.exportField e i
          exportValue (fs.getD f ⟨0, 0, 0, 0, 0, 0, 0, 0, 0, 0, 0⟩) (k.acc.getD f .keep)
        let mask (p : Int × Bool × Bool → Bool) : Nat :=
          (List.range vs.length).foldl (fun n i => n + bit (p (vs.getD i (0, false, false))) * 2 ^ i) 0
        let x := x.bumpBy Reg.RED_SUM_NARROW_CNT (vs.countP (·.2.1)) (s := sec)
        let hd := Hdr.parse r
        x.exportRec sec 1 (272 + e) t (beBytes 2 k.job ++ beBytes 2 k.consist ++ beBytes 4 hd.rank ++ beBytes 4 k.present ++
          beBytes 4 (x.ctxExpected k) ++ beBytes 2 (mask (·.2.1)) ++ beBytes 2 (mask (·.2.2)) ++
          vs.flatMap fun v => beBytes 8 (unsigned 64 v.1))
    if ok then x.bump Reg.MGMT_EX_REC_CNT e else x.bump Reg.MGMT_EX_DROP_CNT e

/-! ## Train digests of two ROOTs (R23) -/

/-- One half of a digest pair arrives; a mismatch is recorded and counted. -/
def Tau.rootDigest (x : Tau) (j c p : Nat) (own got : Option Nat) : Tau :=
  let is (d : RootDig) : Bool := d.job == j && d.consist == c && d.period == p
  let old := (x.scb.digs.find? is).getD ⟨j, c, p, none, none⟩
  let d := { old with own := own.or old.own, got := got.or old.got }
  let rest := x.scb.digs.filter fun e => !is e
  match d.own, d.got with
  | some a, some b =>
    let x := { x with scb := { x.scb with digs := rest } }
    if a = b then x
    else (x.recordTau 0 6 0x0304 (leBytes 8 p ++ leBytes 8 a ++ leBytes 8 b)).bump Reg.GEN_ROOT_DIVERGE_CNT
  | _, _ => { x with scb := { x.scb with digs := d :: rest } }

/-! ## The build (R181, R202 to R206) -/

/-- Queue a finished train upward (R23, R198, R206). `reach`: an orphan, or one that asks for adoption, can still reach its old
parent. -/
def Tau.queueTrain (x : Tau) (k : Ctx) (reach : Bool) (r : List Byte) : Tau :=
  let old := match x.scb.orphanFrom with | some q => decide (k.period < q) | none => false
  let asks := match x.boot.req with | some (_, adopt) => adopt | none => false
  let x := x.toStandby false r
  if x.parent = none && !asks then x
  else if (old || asks) && (!reach || x.parent.isNone) then x.bump Reg.SCB_ORPHAN_DROP_CNT
  else
    let (x, ok) := x.sendUpTo (if old then some (x.rd Reg.GEN_PRI_PARENT) else none) (queueOf r) false r
    if k.job ≠ 0xFFFF then x
    else if ok then
      { x with scb := { x.scb with pulseSent := (x.scb.pulseSent + 1) % 2 ^ 32, lastPulse := k.period } }
    else { x with scb := { x.scb with pulseDrop := (x.scb.pulseDrop + 1) % 2 ^ 32 } }

/-- Coverage below RED.COV_MIN (R210, R212). -/
def Tau.covLow (x : Tau) (k : Ctx) : Tau :=
  let m := x.rd Reg.RED_COV_MIN
  if m ≠ 0 ∧ k.present * 2 ^ 16 < m * x.ctxExpected k then
    ((x.bump Reg.RED_COV_LOW_CNT (s := k.home)).postExc k.home 3 k.job k.consist (k.period % 2 ^ 32) 0).1
  else x

/-- A context's build completes (R181). -/
def Tau.buildCtx (x : Tau) (k : Ctx) (reach : Bool) : Tau :=
  let sec := k.home
  let r := x.train k
  let x := { x with scb := { x.scb with
    built := modifyAt (· + r.length) sec x.scb.built
    lastBuilt := modifyAt (fun p => Nat.max p k.period) sec x.scb.lastBuilt } }
  let x := (x.bump Reg.RED_TRAIN_CNT (s := sec)).bumpBy Reg.RED_ADOPT_NET_CNT (x.netted k).length (s := sec)
  let x := if k.close + 17152 < x.now then x.bump Reg.RED_BUILD_LATE_CNT (s := sec) else x
  let x := x.children.foldl (fun x c => x.wr Reg.SCB_CH_STAT_MISS_LAST (bit (k.missing.testBit c)) c) x
  let x := if k.summ.isEmpty then x else x.keepPeriod k
  let x := x.covLow k
  let x := x.queueTrain k reach r
  let x := x.agreeTrain sec k
  let x := forIdx 8 (fun u x => x.stTrain sec u k) x
  let x := forIdx 16 (fun u x => x.drTrain sec u k) x
  let x := forIdx 16 (fun e x => x.exportEntry sec k r e) x
  let x :=
    if x.roleSet && x.role == 3 then
      let d := Config.trainDigest r % 2 ^ 64
      (x.emitOut (.trainDigest k.job k.consist k.period d)).rootDigest k.job k.consist k.period (some d) none
    else x
  x.setCtx k fun k => { k with st := 4 }

/-- TRAIN_BUILD_COMPLETE of one context: one still collecting is closed first when its CLOSE has come. -/
def Tau.buildComplete (x : Tau) (j c p : Nat) (reach : Bool) : Tau :=
  let x := x.admitDue.closeDue true
  match x.ctx j c p with
  | some k => if k.st = 3 then x.buildCtx k reach else x
  | none => x

/-! ## Release (R181) and boundaries -/

/-- Release the slots of contexts whose READY has come (R181). A period whose context was refused is remembered as long. -/
def Tau.releaseCtxs (x : Tau) : Tau :=
  { x with scb := { x.scb with
    shut := x.scb.shut.filter fun e => decide (x.now < e.2.2 * 2 ^ 18 + x.readyOfs)
    ctxs := x.scb.ctxs.filter fun k => !(k.st == 4 && decide (k.close + 17152 ≤ x.now)) } }

/-- The period counts of the scoreboard (R174, R211, R212). -/
def Tau.scbBoundary (x : Tau) : Tau :=
  let x := x.children.foldl (fun x c => x.wr Reg.SCB_CH_STAT_LATE_LAST (bit (x.scb.lateNow.testBit c)) c) x
  let x := forIdx 4 (fun s x => x.wr Reg.RED_TRAIN_BYTES_LAST (x.scb.built.getD s 0) (s := s)) x
  { x with scb := { x.scb with lateNow := 0, built := [0, 0, 0, 0], dmg := [] } }

/-! ## Meanings -/

/-- CONTEXT_ADMIT. -/
def execContextAdmit (t : T64) (s : State) : Host.Outcome State Fault Refusal :=
  .next (s.onMain t fun x => x.admitDue)

/-- CONTEXT_CLOSE. -/
def execContextClose (t : T64) (s : State) : Host.Outcome State Fault Refusal :=
  .next (s.onMain t fun x => x.admitDue.closeDue true)

/-- TRAIN_BUILD_COMPLETE. `reach`: an orphan's old parent can still be reached (R198). -/
def execTrainBuildComplete (t : T64) (job consist : BitVec 16) (period : Nat) (reach : Bool) (s : State) :
    Host.Outcome State Fault Refusal :=
  .next (s.onMain t fun x => x.buildComplete job.toNat consist.toNat period reach)

/-- TRAIN_DIGEST_RX. A standby ROOT takes it as a sign of the active ROOT (R236). -/
def execTrainDigestRx (t : T64) (job consist : BitVec 16) (period : Nat) (digest : BitVec 64) (s : State) :
    Host.Outcome State Fault Refusal :=
  .next (s.onMain t fun x =>
    if x.roleSet && x.role == 3 then
      let x := if x.isStandby then { x with srv := { x.srv with acked := true } } else x
      x.rootDigest job.toNat consist.toNat period none (some digest.toNat)
    else x)

end Sys2Proof.Machine
end

