-- ==== Sys2Proof/Machine/Neighbor.lean ====
section
/-!
DEFINITION. The addresses of the management ports and their neighbors (R323): duplicate address detection, the resolution of next hops,
and how a datagram leaves.
-/

namespace Sys2Proof.Machine

/-! ## Addresses -/

/-- A four-word address. -/
def Tau.addr128 (x : Tau) (f : Fld) : Nat := (List.range 4).foldl (fun n i => n * 2 ^ 32 + x.rd f i) 0

/-- The global address of a management port. -/
def Tau.portAddr (x : Tau) (port : Nat) : Nat := x.addr128 (if port = 0 then Reg.MGMT_ADDR0 else Reg.MGMT_ADDR1)

/-- The MAC address of a management port. -/
def Tau.portMac (x : Tau) (port : Nat) : Nat := (x.fuses.mac + port) % 2 ^ 48

/-- The link-local address of a management port, by modified EUI-64. -/
def Tau.linkLocal (x : Tau) (port : Nat) : Nat :=
  let mac := x.portMac port
  let hi := Nat.xor (mac / 2 ^ 24) 0x020000
  0xFE80 * 2 ^ 112 + hi * 2 ^ 40 + 0xFFFE * 2 ^ 24 + mac % 2 ^ 24

/-- Address `i` of the block: the global and the link-local address of port 0, then of port 1. None where the port is not enabled or
has no global address. -/
def Tau.ownAddr (x : Tau) (i : Nat) : Option Nat :=
  let a := if i % 2 = 0 then x.portAddr (i / 2) else x.linkLocal (i / 2)
  if (x.rd Reg.MGMT_PORT_CFG_EN).testBit (i / 2) && a != 0 then some a else none

/-! ## Duplicate address detection (RFC 4862) -/

/-- Duplicate address detection of address `i`. -/
def Tau.dadOf (x : Tau) (i : Nat) : Dad := x.mnt.dad.getD i Dad.off

/-- The state with that of one address changed. -/
def Tau.setDad (x : Tau) (i : Nat) (d : Dad) : Tau := { x with mnt := { x.mnt with dad := modifyAt (fun _ => d) i x.mnt.dad } }

/-- Address `i` is tentative: RetransTimer, one second, has not run out since its solicitation. -/
def Tau.tentative (x : Tau) (i : Nat) : Bool := match (x.dadOf i).from_ with
  | some t => !(x.dadOf i).dup && decide (x.now < t + 4000000000)
  | none => false

/-- The solicited-node multicast address of an address. -/
def solicitedNode (a : Nat) : Nat := 0xFF02 * 2 ^ 112 + 2 ^ 32 + 0xFF * 2 ^ 24 + a % 2 ^ 24

/-- A port can send and receive: it is enabled and has an address that is neither tentative nor a duplicate (R323, R335). -/
def Tau.portUp (x : Tau) (port : Nat) : Bool :=
  [2 * port, 2 * port + 1].any fun i => (x.ownAddr i).isSome && !x.tentative i && !(x.dadOf i).dup

/-! ## Neighbors (RFC 4861; its values for hosts, and what the spec leaves open, are in assumption 65) -/

/-- One second of FT. -/
def second : Nat := 4000000000

/-- The datagrams that a neighbor's entry holds while its address is resolved; the newest stay. -/
def nbrQueue : Nat := 16

/-- The state with the entry of a neighbor put in the place of what stood for it. -/
def Tau.putNbr (x : Tau) (n : Nbr) : Tau :=
  { x with mnt := { x.mnt with nbrs := n :: x.mnt.nbrs.filter fun m => !(m.port == n.port && m.addr == n.addr) } }

/-- The entry of a neighbor. -/
def Tau.nbr (x : Tau) (port addr : Nat) : Option Nbr := x.mnt.nbrs.find? fun m => m.port == port && m.addr == addr

/-- A datagram leaves a port for its next hop. -/
def Tau.emitTo (x : Tau) (port hop : Nat) (p : Datagram) : Tau := x.emitOut (.mgmt port p.dst p.dport p.dscp hop p.bytes)

/-- A Neighbor Solicitation for `target`: to itself where its address is known, else to its solicited-node address. -/
def Tau.solicit (x : Tau) (port target : Nat) (known : Bool) : Tau :=
  let dest := if known then target else solicitedNode target
  x.emitTo port dest ⟨dest, 0, 0, leBytes 1 135 ++ zeros 5 ++ (leBytes 16 target).reverse ++ [1, 1] ++ (leBytes 6 (x.portMac port)).reverse⟩

/-- A neighbor not confirmed within ReachableTime, thirty seconds, is stale. -/
def Nbr.stale (n : Nbr) (now : Nat) : Bool := match n.heard with
  | some t => decide (t + 30 * second ≤ now)
  | none => true

/-- Send by way of a unicast next hop: one whose address is not known is solicited and the datagram waits; a stale one gets the datagram
and, DELAY_FIRST_PROBE_TIME or five seconds on, a probe. -/
def Tau.sendHop (x : Tau) (port hop : Nat) (p : Datagram) : Tau :=
  match x.nbr port hop with
  | none => (x.putNbr ⟨port, hop, false, none, some (x.now + second), 1, [p]⟩).solicit port hop false
  | some n =>
    if n.known then
      let x := if n.stale x.now && n.next.isNone then x.putNbr { n with next := some (x.now + 5 * second), tries := 0 } else x
      x.emitTo port hop p
    else x.putNbr { n with wait := (n.wait ++ [p]).drop (n.wait.length + 1 - nbrQueue) }

/-- A neighbor makes its link-layer address known, by an advertisement that `confirms` it or in a solicitation of its own: what waited
for it leaves. Only a solicitation makes an entry. -/
def Tau.nbrHeard (x : Tau) (port addr : Nat) (confirms : Bool) : Tau :=
  match x.nbr port addr with
  | none => if confirms then x else x.putNbr ⟨port, addr, true, none, none, 0, []⟩
  | some n =>
    let n' := { n with
      known := true
      heard := if confirms then some x.now else n.heard
      next := if confirms || !n.known then none else n.next
      tries := if confirms || !n.known then 0 else n.tries
      wait := [] }
    forEach n.wait (fun p x => x.emitTo port addr p) (x.putNbr n')

/-- Solicitations that are due go out again, a second apart; after three unanswered ones the entry goes, with what waits in it. -/
def Tau.nbrTimers (x : Tau) : Tau :=
  forEach (x.mnt.nbrs.filter fun n => n.next.any fun t => decide (t ≤ x.now)) (fun n x =>
    if 3 ≤ n.tries then
      { x with mnt := { x.mnt with nbrs := x.mnt.nbrs.filter fun m => !(m.port == n.port && m.addr == n.addr) } }
    else (x.putNbr { n with next := some (x.now + second), tries := n.tries + 1 }).solicit n.port n.addr n.known) x

/-! ## Sending -/

/-- Send a message on a management port. What is neither link-local nor multicast goes by way of MGMT.ROUTER (R335; DEDUCED,
assumption 65), and a unicast next hop is resolved first. -/
def Tau.mgmtSend (x : Tau) (port dst dport dscp : Nat) (r : List Byte) : Tau :=
  if !x.portUp port then x
  else if dst / 2 ^ 120 = 0xFF then x.emitTo port dst ⟨dst, dport, dscp, r⟩
  else x.sendHop port (if dst / 2 ^ 118 = 0x3FA then dst else x.addr128 Reg.MGMT_ROUTER) ⟨dst, dport, dscp, r⟩

end Sys2Proof.Machine
end

