-- ==== Sys2Proof/Machine/Traffic.lean ====
section
/-!
DEFINITION. Traffic of the TAU (R306 to R333): ingress meters, the start of transmissions and VC_T credit, queue samples, and the
export engine with its templates, messages and relay.
-/

namespace Sys2Proof.Machine

/-! ## Ingress policing (R310 to R312) -/

/-- The buckets `m` of child `c` at the present (R311). -/
def Tau.meterNow (x : Tau) (c : Nat) (m : Meter) : Meter :=
  let dt := x.now - m.t
  ⟨Nat.min (x.rd Reg.SHP_CBS c * 128) (m.tc + x.rd Reg.SHP_CIR c * dt),
    Nat.min (x.rd Reg.SHP_PBS c * 128) (m.tp + x.rd Reg.SHP_PIR c * dt), x.now⟩

/-- Every meter and every shaper brought up to the present at the rates in use, before a commit changes them (R311, R317). -/
def Tau.settleRates (x : Tau) : Tau :=
  let n := x.now
  let x := forIdx 16 (fun c x => x.vcNow c) x
  { x with eg := { x.eg with
    up := x.eg.up.settle (x.rd Reg.SHP_UP_RATE) n
    sb := x.eg.sb.settle (x.rd Reg.SHP_SB_RATE) n
    ex := x.eg.ex.settle (x.rd Reg.SHP_EXP_RATE) n
    down := x.eg.down.map fun p => p.settle (x.rd Reg.SHP_DN_RATE) n
    meter := (List.range x.eg.meter.length).map fun c => x.meterNow c (x.eg.meter.getD c ⟨0, 0, 0⟩) } }

/-- Meter a record of child `c`: the colour, 0 green, 1 yellow, 2 red. -/
def Tau.meterIn (x : Tau) (c len : Nat) : Tau × Nat :=
  let m := x.meterNow c (x.eg.meter.getD c ⟨0, 0, 0⟩)
  let tc := m.tc
  let tp := m.tp
  let n := len * 128
  let put (tc tp : Nat) : Tau := { x with eg := { x.eg with meter := modifyAt (fun _ => ⟨tc, tp, x.now⟩) c x.eg.meter } }
  if tp < n then ((put tc tp).bump Reg.SHP_POL_RED_CNT c, 2)
  else if tc < n then ((put tc (tp - n)).bump Reg.SHP_POL_YEL_CNT c, 1)
  else (put (tc - n) (tp - n), 0)

/-- The buckets of child `c` are full when it attaches (R311). -/
def Tau.meterFill (x : Tau) (c : Nat) : Tau :=
  let m : Meter := ⟨x.rd Reg.SHP_CBS c * 128, x.rd Reg.SHP_PBS c * 128, x.now⟩
  { x with eg := { x.eg with meter := modifyAt (fun _ => m) c x.eg.meter } }

/-- A record of `len` bytes from child `c` (R310, R312): a red one is dropped before anything else, and any other goes on with whether
it is yellow. -/
def Tau.metered (x : Tau) (c len : Nat) (f : Tau → Bool → Tau) : Tau :=
  if (x.kid c).isNone then f x false
  else match x.meterIn c len with
    | (x, 2) => x
    | (x, k) => f x (k == 1)

/-- The parsers that child `c` of a TRAY TAU reaches belong to a failed section (R32, R201). -/
def Tau.kidLost (x : Tau) (c : Nat) : Bool := x.isTray && (match x.dieLinks c with | l :: _ => x.dead (x.linkHome l) | [] => false)

/-- A record of `len` bytes from child `c`, where the parsers it reaches take it. -/
def Tau.fromKid (x : Tau) (c len : Nat) (f : Tau → Bool → Tau) : Tau := if x.kidLost c then x else x.metered c len f

/-- A commit of child c's block keeps its token counts, clipped to the new buckets (R313). -/
def Tau.meterClip (x : Tau) (c : Nat) : Tau :=
  let clip (m : Meter) : Meter :=
    ⟨Nat.min m.tc (x.rd Reg.SHP_CBS c * 128), Nat.min m.tp (x.rd Reg.SHP_PBS c * 128), m.t⟩
  { x with eg := { x.eg with meter := modifyAt clip c x.eg.meter } }

/-! ## Export messages (R326, R327, R333) -/

/-- The template of the message's last record, and the length of the message. -/
def msgLast (m : List (Nat × List Byte)) : Nat := ((m.getLast?).map (·.1)).getD 0
def msgLen : Nat → List (Nat × List Byte) → Nat
  | _, [] => 0
  | last, (t, r) :: rest => (if t = last then 0 else 4) + r.length + msgLen t rest

/-- The Data Sets of a message: a run of records of one template makes one set. -/
def dataSets : List (Nat × List Byte) → List (Nat × List Byte)
  | [] => []
  | (t, r) :: rest => match dataSets rest with
    | (u, b) :: more => if t = u then (t, r ++ b) :: more else (t, r) :: (u, b) :: more
    | [] => [(t, r)]

/-- UTC seconds of FT (R330). -/
def Tau.utc (x : Tau) : Nat :=
  (x.now / 4000000000 + 2 ^ 32 - x.rd Reg.TIME_PTP_CFG_UTC_OFFSET % 2 ^ 32) % 2 ^ 32

/-- An IPFIX Message (R326). -/
def Tau.ipfix (x : Tau) (sets : List (Nat × List Byte)) : List Byte :=
  let body := sets.flatMap fun (id, b) => beBytes 2 id ++ beBytes 2 (4 + b.length) ++ b
  let dom := x.rd Reg.MGMT_OBS_DOMAIN
  let dom := if dom = 0 then x.role * 2 ^ 24 + x.base else dom
  beBytes 2 10 ++ beBytes 2 (16 + body.length) ++ beBytes 4 x.utc ++ beBytes 4 (x.rd Reg.MGMT_EXP_SEQ) ++ beBytes 4 dom ++ body

/-- Send an export payload to the collector: on port 0, port 1, or both; a relay that relays itself uses both (R333). Only a port that can
send counts (R335). -/
def Tau.sendCollector (x : Tau) (e : List Byte) : Tau × Nat :=
  let ports := match x.rd Reg.MGMT_EXP_CTRL_VIA with
    | 0 => [0]
    | 1 => [1]
    | _ => [0, 1]
  let ports := ports.filter x.portUp
  (forEach ports (fun p x =>
    x.mgmtSend p (x.addr128 Reg.MGMT_COLL_ADDR) (x.rd Reg.MGMT_COLL_PORT) (x.rd Reg.MGMT_COLL_DSCP) e) x, ports.length)

/-- The plaintext of an export envelope (R333, R367): the message, or its CBLK where the encoder shortens it. -/
def Tau.exportPlain (x : Tau) (m : List Byte) : Tau × List Byte × Bool :=
  if x.rd Reg.MGMT_EXP_CTRL_VIA = 3 ∧ x.rd Reg.MGMT_EXP_CTRL_DEFLATE = 1 then
    let s := x.anySec
    match (encodeCblk (x.rd Reg.CMP_EFFORT) 0 true m).block with
    | some b => ((x.encoded s m.length).ctxMoved s 3 0 m.length b.length, b, true)
    | none => ((x.bump Reg.CMP_INC_CNT (s := s)).ctxMoved s 3 0 m.length 0, m, false)
  else (x, m, false)

/-- A payload of `n` Data Records leaves, to the relay or the collector (R327, R333). With no port that can send it is lost, uncounted
(DESIGN CHOICE, assumption 65). -/
def Tau.sendPayload (x : Tau) (n : Nat) (e : List Byte) : Tau :=
  let base := x.rd Reg.MGMT_RELAY_BASE
  let (x, k) := if x.rd Reg.MGMT_EXP_CTRL_VIA = 3 then (x.sendTo 2 base (reachedOver base) e, 1) else x.sendCollector e
  if k = 0 then x else (x.bumpBy Reg.MGMT_EXP_MSG_CNT k).bumpBy Reg.MGMT_EXP_REC_CNT n

/-- The EXPORT queue in which a payload waits for the relay: that of its latest record, and QUEUE for templates (DESIGN CHOICE,
assumption 78). -/
def payloadQueue (tpl : Nat) : Nat := if tpl = 256 then 0 else if tpl = 257 ∨ 272 ≤ tpl then 1 else if tpl = 258 then 3 else 2

/-- Seal and send one message of `n` Data Records, the latest of template `tpl` (R327, R333, R377). `reach`: the relay can be reached; a
payload for it otherwise goes into an EXPORT queue, where it may be refused. -/
def Tau.sendMessage (x : Tau) (reach : Bool) (tpl n : Nat) (m : List Byte) : Tau :=
  let (x, p, z) := x.exportPlain m
  match x.sealMsg x.anySec Purpose.exporter z 0 p with
  | (x, none) => x
  | (x, some e) =>
    let x := x.wr Reg.MGMT_EXP_SEQ ((x.rd Reg.MGMT_EXP_SEQ + n) % 2 ^ 32)
    if x.rd Reg.MGMT_EXP_CTRL_VIA = 3 && !reach then (x.exportPut x.anySec (payloadQueue tpl) (65536 + n) e).1
    else x.sendPayload n e

/-- Send the pending message. -/
def Tau.flushExport (x : Tau) (reach : Bool) : Tau :=
  if x.eg.msg.isEmpty then x
  else
    let m := x.ipfix (dataSets x.eg.msg)
    let n := x.eg.msg.length
    ({ x with eg := { x.eg with msg := [] } }).sendMessage reach (msgLast x.eg.msg) n m

/-- The information elements of a template after the two leading ones: id and length (R328, R329). -/
def Tau.tplFields (x : Tau) (t : Nat) : List (Nat × Nat) :=
  match t with
  | 256 => [(2, 48)]
  | 257 => [(3, 65535)]
  | 258 => [(3, 65535)]
  | 259 => [(12, 1), (13, 4), (14, 4)]
  | _ => [(4, 2), (5, 2), (6, 4), (7, 4), (8, 4), (9, 2), (10, 2)] ++
      List.replicate (x.rd Reg.MGMT_EX_CTRL_NFIELD (t - 272)) (11, 8)

/-- A template record (R326, R328). -/
def Tau.template (x : Tau) (t : Nat) : List Byte :=
  let fs := (1, 8) :: x.tplFields t
  beBytes 2 t ++ beBytes 2 (1 + fs.length) ++ beBytes 2 325 ++ beBytes 2 8 ++
    fs.flatMap fun (id, n) => beBytes 2 (0x8000 + id) ++ beBytes 2 n ++ beBytes 4 58731

/-- Group templates into messages that fit. -/
def tplGroups (cap : Nat) : List (List Byte) → List Byte → List (List Byte)
  | [], b => if b.isEmpty then [] else [b]
  | t :: rest, b =>
    if b.isEmpty ∨ 20 + b.length + t.length ≤ cap then tplGroups cap rest (b ++ t) else b :: tplGroups cap rest t

/-- Send templates, in messages of their own (R327). -/
def Tau.sendTemplates (x : Tau) (reach : Bool) (ts : List Nat) : Tau :=
  let x := (tplGroups (x.rd Reg.MGMT_MTU - 80) (ts.map x.template) []).foldl
    (fun x b => x.sendMessage reach 0 0 (x.ipfix [(2, b)])) x
  { x with eg := { x.eg with tplSent := x.eg.tplSent ++ ts.filter fun t => !x.eg.tplSent.contains t } }

/-- The templates in use: the four fixed ones and those of enabled SUMMARY entries. -/
def Tau.templatesUsed (x : Tau) : List Nat :=
  [256, 257, 258, 259] ++ ((List.range 16).filter fun e =>
    x.rd Reg.MGMT_EX_CTRL_EN e == 1 && x.rd Reg.MGMT_EX_CTRL_FORM e == 1).map (272 + ·)

/-- Send every template anew (R327), as after a commit of the export configuration; for a relay they wait in the EXPORT queues. -/
def Tau.refreshTemplates (x : Tau) : Tau :=
  if x.rd Reg.MGMT_EXP_CTRL_EN = 0 || !x.on || x.cip.cur.isNone then x
  else ({ x with eg := { x.eg with tplSent := [], tplAt := x.now } }).sendTemplates false x.templatesUsed

/-- TPL_REFRESH seconds of FT have passed since every template was last sent (R327); FT may have been set since. -/
def Tau.templatesDue (x : Tau) : Bool :=
  decide (x.now < x.eg.tplAt) || decide (x.eg.tplAt + x.rd Reg.MGMT_TPL_REFRESH * 4000000000 ≤ x.now)

/-! ## Starts of transmission (R314 to R320) -/

/-- A credit after the start of a record of `n` bytes (R317). -/
def startCharge (c : Int) (n : Nat) : Int := c - (128 * n : Nat)

/-- Take the next record of a fair-queueing port where its shaper permits (R316, R317). -/
def EgPort.start (r now : Nat) (p : EgPort) : Option (QRec × EgPort) :=
  let p := p.settle r now
  if p.credit < 0 then none
  else match p.choice with
    | none => none
    | some q => (p.take q).map fun (e, p) => (e, { p with credit := startCharge p.credit e.bytes.length })

/-- A start on UP (R314): the record goes to the current parent, or to the TAU it is for. A train for an old parent that is out of
`reach` is dropped instead (R198). -/
def Tau.startUp (x : Tau) (reach : Bool) : Tau :=
  match x.eg.up.start (x.rd Reg.SHP_UP_RATE) x.now with
  | none => x
  | some (e, p) => match e.dst, x.parent with
    | some base, _ =>
      if isTrain e.bytes && !reach then
        ({ x with eg := { x.eg with up := { p with credit := p.credit + (128 * e.bytes.length : Nat) } } }).bump Reg.SCB_ORPHAN_DROP_CNT
      else ({ x with eg := { x.eg with up := p } }).ctlTo base (reachedOver base) e.bytes
    | none, some base => ({ x with eg := { x.eg with up := p } }).sendTo 0 base (reachedOver base) e.bytes
    | none, none => x

/-- A start on STANDBY (R23, R314). -/
def Tau.startStandby (x : Tau) : Tau :=
  match x.eg.sb.start (x.rd Reg.SHP_SB_RATE) x.now with
  | some (e, p) =>
    let base := x.rd Reg.GEN_STANDBY_ROOT
    ({ x with eg := { x.eg with sb := p } }).sendTo 1 base (reachedOver base) e.bytes
  | none => x

/-- A start on EXPORT (R327, R333): the record joins the message being packed; a payload that waited for the relay leaves. `reach`: the
relay can be reached. -/
def Tau.startExport (x : Tau) (reach : Bool) : Tau :=
  if x.rd Reg.MGMT_EXP_CTRL_EN = 0 ∨ x.cip.cur.isNone ∨ (x.rd Reg.MGMT_EXP_CTRL_VIA = 3 ∧ !reach) then x
  else match x.eg.ex.start (x.rd Reg.SHP_EXP_RATE) x.now with
    | none => x
    | some (e, p) =>
      let x := { x with eg := { x.eg with ex := p } }
      if 65536 ≤ e.tpl then x.sendPayload (e.tpl - 65536) e.bytes
      else
      let add := (if msgLast x.eg.msg = e.tpl then 0 else 4) + e.bytes.length
      let x := if x.rd Reg.MGMT_MTU - 80 < 16 + msgLen 0 x.eg.msg + add then x.flushExport reach else x
      let x := if x.eg.tplSent.contains e.tpl then x else x.sendTemplates reach [e.tpl]
      { x with eg := { x.eg with msg := x.eg.msg ++ [(e.tpl, e.bytes)] } }

/-- The state with DOWN port `c` changed. -/
def Tau.setDown (x : Tau) (c : Nat) (f : DownPort → DownPort) : Tau :=
  { x with eg := { x.eg with down := modifyAt f c x.eg.down } }

/-- A start on DOWN `c` (R32, R307, R314, R317). On a TRAY TAU the record goes on link A while it is up, else on link B, and needs
that link's VC_T credit. -/
def Tau.startDown (x : Tau) (c : Nat) : Tau :=
  let x := x.vcNow c
  let p := ((x.eg.down.getD c DownPort.reset).settle (x.rd Reg.SHP_DN_RATE) x.now).letIn x.now 4096
  match p.fifo with
  | [] => x.setDown c fun _ => p
  | e :: rest =>
    let n := vcUnits e.bytes
    let go (p : DownPort) : DownPort := ({ p with fifo := rest, credit := startCharge p.credit e.bytes.length } : DownPort).letIn x.now 4096
    if p.credit < 0 then x.setDown c fun _ => p
    else if x.isTray then
      match x.dieLinks c with
      | [] => x.setDown c fun _ => p
      | l :: _ =>
        if !(x.vc l).wait.isEmpty ∨ (x.vc l).credit < n then x.setDown c fun _ => p
        else ((x.setVc l fun v => { v with credit := v.credit - n }).setDown c fun _ => { go p with last := some (l, e.bytes) }).emitOut
          (.vct l e.bytes)
    else (x.setDown c fun _ => go p).sendTo (3 + c) (x.kidBase c) ((x.kid c).bind (·.via)) e.bytes

/-- EGRESS_TRANSMIT_START on one port. -/
def Tau.transmitStart (x : Tau) (p : EgressPort) (reach : Bool) : Tau :=
  match p with
  | .up => x.startUp reach
  | .standby => x.startStandby
  | .exporter => x.startExport reach
  | .down c => x.startDown c.val

/-! ## Links of the TAU (R32, R307) -/

/-- VC_T credit returns on link `l` (R307): records past the queues that waited for it go. -/
def Tau.creditIn (x : Tau) (l n : Nat) : Tau :=
  let x := (x.vcCount l).setVc l fun v => { v with credit := Nat.min 128 (v.credit + n) }
  Tau.vcFlush (x.vc l).wait.length l x

/-- GEN.TDU_STATE.LINKS of die `d`. -/
def Tau.showLinks (x : Tau) (d : Nat) : Tau :=
  x.wr Reg.GEN_TDU_STATE_LINKS (bit (x.links.testBit d) + 2 * bit (x.links.testBit (d + 16))) d

/-- Link `l` comes up, with its receiver's buffer empty. -/
def Tau.linkUp (x : Tau) (l : Nat) : Tau :=
  let x := { x with links := Nat.lor x.links (2 ^ l) }.setVc l fun v => { v with credit := 128, upd := x.now }
  (Tau.vcFlush (x.vc l).wait.length l x).showLinks (l % 16)

/-- Link `l` goes down; `cut`: it cut off a record part-way, which is sent again whole (R32). -/
def Tau.linkDown (x : Tau) (l : Nat) (cut : Bool) : Tau :=
  let x := x.vcCount l
  let x := { x with links := x.links - Nat.land x.links (2 ^ l) }.setVc l fun v => { v with credit := 0 }
  let x := x.setDown (l % 16) fun p => match p.last with
    | some (m, r) => if cut ∧ m = l then { p with fifo := ⟨r, none, x.now, 0, none⟩ :: p.fifo, last := none } else p
    | none => p
  x.showLinks (l % 16)

/-! ## Samples (R322) -/

/-- Depth and head delay of a queue. -/
def sampleOf (now : Nat) (q : List QRec) : Nat × Nat := (clipU 32 (qBytes q), clipU 32 (match q with | [] => 0 | r :: _ => now - r.at_))

/-- The 21 queues sampled. -/
def Tau.queues (x : Tau) : List (Nat × Nat) :=
  let s := sampleOf x.now
  let dn := x.eg.down.map fun p => s p.fifo
  x.eg.up.qs.map s ++ x.eg.sb.qs.map s ++ x.eg.ex.qs.map s ++
    [(clipU 32 (dn.foldl (fun n d => n + d.1) 0), dn.foldl (fun m d => Nat.max m d.2) 0)]

/-- The samples of a path boundary. -/
def Tau.sample (x : Tau) : Tau :=
  let s := x.queues
  let x := forIdx 21 (fun q x =>
    let v := s.getD q (0, 0)
    (x.wr Reg.SHP_QS_DEPTH_LAST v.1 q).wr Reg.SHP_QS_DELAY_LAST v.2 q) x
  let mx := List.zipWith (fun (a b : Nat × Nat) => (Nat.max a.1 b.1, Nat.max a.2 b.2)) x.eg.sampMax s
  { x with eg := { x.eg with sampMax := mx } }

/-- A period boundary freezes the maxima, and exports them with EXP_CTRL.QUEUE set (R322, R329). -/
def Tau.freezeSamples (x : Tau) : Tau :=
  let one (q : Nat) (x : Tau) : Tau :=
    let v := x.eg.sampMax.getD q (0, 0)
    let x := (x.wr Reg.SHP_QS_DEPTH_MAX v.1 q).wr Reg.SHP_QS_DELAY_MAX v.2 q
    if x.rd Reg.MGMT_EXP_CTRL_QUEUE = 0 then x
    else (x.exportRec x.anySec 2 259 (x.per * 2 ^ 18) (beBytes 1 q ++ beBytes 4 v.1 ++ beBytes 4 v.2)).1
  let x := forIdx 21 one x
  { x with eg := { x.eg with sampMax := List.replicate 21 (0, 0) } }

/-! ## The relay (R333) -/

/-- A relayed export payload goes unchanged to this TAU's collector, from its own management ports. -/
def Tau.relay (x : Tau) (e : List Byte) : Tau :=
  let (x, k) := x.sendCollector e
  if k = 0 then x else x.bump Reg.MGMT_RELAY_CNT

/-! ## Meanings -/

/-- EGRESS_TRANSMIT_START. `reach`: the export relay, or on UP an old parent, can be reached (R198, R333). -/
def execEgressTransmitStart (t : T64) (port : EgressPort) (reach : Bool) (s : State) : Host.Outcome State Fault Refusal :=
  .next (s.onMain t fun x => x.transmitStart port reach)

/-- TAU_PATH_BOUNDARY. `reach`: the export relay can be reached (R333). -/
def execTauPathBoundary (t : T64) (reach : Bool) (s : State) : Host.Outcome State Fault Refusal :=
  .next (s.onMain t fun x => x.sample.flushExport reach)

/-- TEMPLATE_REFRESH. -/
def execTemplateRefresh (t : T64) (s : State) : Host.Outcome State Fault Refusal :=
  .next (s.onMain t fun x => if x.templatesDue then x.refreshTemplates else x)

/-- RELAY_PAYLOAD_RX. `child`: the child that the payload comes from, where it is one; its meter counts the payload (R310). -/
def execRelayPayloadRx (t : T64) (child : Option (Fin 64)) (e : List Byte) (s : State) : Host.Outcome State Fault Refusal :=
  .next (s.onMain t fun x => match child with
    | some c => x.metered c e.length fun x _ => x.relay e
    | none => x.relay e)

/-- VC_CREDIT_RETURN of `n` units. -/
def execVcCreditReturn (t : T64) (e : LinkEnd) (n : Nat) (s : State) : Host.Outcome State Fault Refusal :=
  match e with
  | .tau l => .next (s.onMain t fun x => x.creditIn l.val n)
  | .tdu l => .next (s.onDie t fun d => (d.credit l.val n).flushCtl)

end Sys2Proof.Machine
end

