-- ==== Sys2Proof/Machine/Network.lean ====
section
/-!
DEFINITION. What the management ports do as IPv6 nodes (R323): duplicate address detection, Neighbor Discovery and echo.
-/

namespace Sys2Proof.Machine

/-! ## Duplicate address detection (RFC 4862) -/

/-- A port takes address `i`: one solicitation leaves, and the address is tentative. -/
def Tau.dadStart (i : Nat) (x : Tau) : Tau :=
  match x.ownAddr i with
  | none => x.setDad i Dad.off
  | some a => (x.setDad i ⟨some x.now, false⟩).emitTo (i / 2) (solicitedNode a)
      ⟨solicitedNode a, 0, 0, leBytes 1 135 ++ zeros 5 ++ (leBytes 16 a).reverse⟩

/-- After a commit: each address that is not the one of the state `old` is detected afresh. -/
def Tau.dadCheck (old x : Tau) : Tau := forIdx 4 (fun i x => if x.ownAddr i = old.ownAddr i then x else x.dadStart i) x

/-! ## Messages -/

/-- An ICMPv6 echo request: type 128, answered with type 129 and the same identifier, sequence number and data (RFC 4443). The
checksum is the sender's of the packet, and no part of the message here. -/
def Tau.echoRequest (x : Tau) (port src : Nat) (r : List Byte) : Tau :=
  x.mgmtSend port src 0 0 (leBytes 1 129 ++ leBytes 1 0 ++ r)

/-- The advertisement of an address of a port to `dst`, overriding, solicited unless a node without an address asks (RFC 4861). -/
def Tau.advertise (x : Tau) (port dst flags target : Nat) : Tau :=
  x.mgmtSend port dst 0 0 (leBytes 1 136 ++ leBytes 1 0 ++ leBytes 1 flags ++ zeros 3 ++
    (leBytes 16 target).reverse ++ [2, 1] ++ (leBytes 6 (x.portMac port)).reverse)

/-- A Neighbor Solicitation for `target`, or with `adv` a Neighbor Advertisement of it (RFC 4861, RFC 4862). For an address of the port
a solicitation is answered, one from the unspecified address to all nodes. A tentative address that another node solicits for
itself or advertises is a duplicate, and a duplicate is never answered for. What else an advertisement is of, and who solicits, is a
neighbor's address learned. -/
def Tau.neighbor (x : Tau) (port src target : Nat) (adv : Bool) : Tau :=
  match [2 * port, 2 * port + 1].find? fun i => x.ownAddr i == some target with
  | none => if adv && (x.rd Reg.MGMT_PORT_CFG_EN).testBit port then x.nbrHeard port target true else x
  | some i =>
    if x.tentative i then (if adv || src == 0 then x.setDad i { x.dadOf i with dup := true } else x)
    else if adv || (x.dadOf i).dup then x
    else if src = 0 then x.advertise port (0xFF02 * 2 ^ 112 + 1) 0x20 target
    else (x.nbrHeard port src false).advertise port src 0x60 target

/-! ## Meanings -/

/-- ICMPV6_ECHO_REQUEST. `r`: identifier, sequence number and data. -/
def execIcmpv6EchoRequest (t : T64) (port : Fin 2) (src : BitVec 128) (r : List Byte) (s : State) : Host.Outcome State Fault Refusal :=
  .next (s.onIsland t fun x => x.echoRequest port src.toNat r)

/-- NEIGHBOR_DISCOVERY. -/
def execNeighborDiscovery (t : T64) (port : Fin 2) (src target : BitVec 128) (adv : Bool) (s : State) : Host.Outcome State Fault Refusal :=
  .next (s.onIsland t fun x => x.neighbor port src.toNat target.toNat adv)

end Sys2Proof.Machine
end

