-- ==== Sys2Proof/Machine/Trace.lean ====
section
/-!
DEFINITION. The command-processor trace of the die unit (R348 to R359): packets, the ring and its modes, triggers, debug
authorisations, and the drain into BULK records.
-/

namespace Sys2Proof.Machine

/-! ## Packets (R349) -/

/-- An unsigned LEB128 number (R349). -/
def varBytes : Nat → Nat → List Byte
  | 0, _ => []
  | f + 1, n => if n < 128 then [BitVec.ofNat 8 n] else BitVec.ofNat 8 (n % 128 + 128) :: varBytes f (n / 128)

/-- The zigzag form of the 64-bit difference `a` − `b` (R349). -/
def zigzag (a b : Nat) : Nat :=
  let d := signed 64 (a + 2 ^ 64 - b % 2 ^ 64)
  if 0 ≤ d then (2 * d).toNat else (-2 * d - 1).toNat

/-- A packet of the given bytes. -/
def pkt (b : List Byte) : TPkt := ⟨b, true, false, false⟩

/-- RUN or RUN_LONG (R350). -/
def runPkts (n : Nat) : List TPkt :=
  if n = 0 then []
  else if n ≤ 128 then [pkt (leBytes 1 (128 + (n - 1)))]
  else [pkt (leBytes 1 1 ++ varBytes 10 n)]

/-- SYNC (R349). -/
def syncPkt (s : TraceSt) (addr reason : Nat) : TPkt :=
  pkt (leBytes 1 0x0A ++ leBytes 1 (bit s.priv + 2 * bit s.sec) ++ leBytes 8 addr ++ leBytes 2 s.ctx ++ leBytes 1 reason)

/-- EXCL (R349). -/
def exclPkt (s : TraceSt) : TPkt := pkt (leBytes 1 0x0C ++ leBytes 1 (bit s.priv + 2 * bit s.sec))

/-- PWR (R349). -/
def pwrPkt (st : Nat) (exit : Bool) : TPkt := pkt (leBytes 1 0x0D ++ leBytes 1 (st % 128 + 128 * bit exit))

/-- STOP (R349). -/
def stopPkt (reason : Nat) : TPkt := ⟨leBytes 1 0x0F ++ leBytes 1 reason, true, false, true⟩

/-! ## The ring (R355) -/

/-- Undrained bytes. -/
def TraceSt.fill (s : TraceSt) : Nat := s.ring.foldl (fun n p => n + p.bytes.length) 0

/-- `n` packets are lost at the end of the stream (R355, R359). -/
def TraceSt.lose (n : Nat) (s : TraceSt) : TraceSt :=
  if n = 0 then s else { s with losing := some (s.losing.getD 0 + n), lost := s.lost ++ [(s.wr, n)] }

/-- The stream offset that the next byte gets: evicted bytes leave no hole in the stream's offsets (R359; assumption 58). -/
def TraceSt.nextOfs (s : TraceSt) : Nat := s.wr - s.evicted

/-- The ring's capacity (R355). -/
def ringCap : Nat := 1048576

/-- Bytes of a list of packets. -/
def pktBytes (l : List TPkt) : Nat := l.foldl (fun n p => n + p.bytes.length) 0

/-- How many of the oldest unprotected packets go so that `need` bytes fit (R355). `o` counts the bytes written before the first. -/
def evictPkts (need : Nat) (window : Option Nat) : Nat → Nat → List TPkt → Nat
  | _, _, [] => 0
  | fill, o, p :: ps =>
    if fill + need ≤ ringCap || (match window with | some w => decide (w ≤ o) | none => false) then 0
    else evictPkts need window (fill - p.bytes.length) (o + p.bytes.length) ps + 1

/-- The trace writes packets (R356): it is ARMED, in RUN or in POST. -/
def Tdu.tracing (d : Tdu) : Bool := [1, 2, 3].contains (d.rd Reg.TTRC_STATE)

/-- The state with the trace changed; the fill and the write offset show in their registers (R364). -/
def Tdu.setTrc (d : Tdu) (s : TraceSt) : Tdu :=
  (({ d with trc := s }).wr Reg.TTRC_RING_FILL s.fill).wr64 Reg.TTRC_WR_OFS_LO Reg.TTRC_WR_OFS_HI s.nextOfs

/-- Append a packet that fits. -/
def TraceSt.append (s : TraceSt) (p : TPkt) : TraceSt :=
  { s with ring := s.ring ++ [p], wr := s.wr + p.bytes.length, sinceSync := s.sinceSync + p.bytes.length }

/-- A packet goes to the ring (R355). -/
def Tdu.putPkt (p : TPkt) (d : Tdu) : Tdu :=
  let s := d.trc
  let lose (d : Tdu) : Tdu := (d.setTrc (s.lose 1)).bump Reg.TTRC_OVF_PKT_CNT
  if s.losing.isSome then lose d
  else if s.fill + p.bytes.length ≤ ringCap then d.setTrc (s.append p)
  else if d.rd Reg.TTRC_CTRL_MODE = 0 then lose d
  else
    let head := s.wr - s.fill
    let n := evictPkts p.bytes.length s.window s.fill head s.ring
    let gone := pktBytes (s.ring.take n)
    let s' := { s with ring := s.ring.drop n, evicted := s.evicted + gone, lost := if n = 0 then s.lost else s.lost ++ [(head + gone, n)] }
    if s'.fill + p.bytes.length ≤ ringCap then (d.setTrc (s'.append p)).bumpBy Reg.TTRC_OVW_PKT_CNT n else lose d

/-! ## Time in the stream (R351) -/

/-- A TS_FULL, where FT is valid (R349, R351). -/
def Tdu.tsFull (d : Tdu) (s : TraceSt) (lpExit : Bool) : List TPkt × TraceSt :=
  if !d.timed then ([], s)
  else
    let gap := decide (s.tsGap ≠ d.rd Reg.TTIME_GAP_CNT)
    ([pkt (leBytes 1 9 ++ leBytes 1 (bit d.ho + 2 * bit gap + 4 * bit lpExit) ++ leBytes 8 d.now)],
      { s with lastTs := d.now, tsHo := d.tt == 2, tsGap := d.rd Reg.TTIME_GAP_CNT })

/-- The TDU's time state has changed since the latest TS_FULL (R351). -/
def Tdu.tsStateDue (d : Tdu) (s : TraceSt) : Bool := s.tsHo != (d.tt == 2) || s.tsGap != d.rd Reg.TTIME_GAP_CNT

/-- The timestamp that precedes an event's packet, if any is due (R351). -/
def Tdu.tsDue (d : Tdu) (s : TraceSt) : List TPkt × TraceSt :=
  if !d.timed then ([], s)
  else if d.tsStateDue s then d.tsFull s false
  else if d.rd Reg.TTRC_TS_GRAN ≤ d.now - s.lastTs then
    ([pkt (leBytes 1 8 ++ varBytes 10 (d.now - s.lastTs))], { s with lastTs := d.now })
  else ([], s)

/-! ## Packets enter the ring (R355, R356) -/

/-- The stream recovers from a loss once 64 bytes are free: OVF with the exact count, TS_FULL and a SYNC of reason 1 (R355). While
excluded code runs the SYNC shows the last address that the stream has shown, so nothing of that code (R353; assumption 58). -/
def Tdu.recover (d : Tdu) : Tdu :=
  match d.trc.losing with
  | some n =>
    if d.trc.fill + 64 ≤ ringCap ∨ d.rd Reg.TTRC_CTRL_MODE = 1 then
      let (ts, s) := d.tsFull { d.trc with losing := none } false
      let s := { s with sinceSync := 0 }
      forEach ([pkt (leBytes 1 0x0B ++ varBytes 10 n)] ++ ts ++ [syncPkt s s.la 1]) Tdu.putPkt (d.setTrc s)
    else d
  | none => d

/-- The trace has stopped once POST bytes follow TRIG: STOP of reason 0 (R356). -/
def Tdu.checkPost (d : Tdu) : Tdu :=
  if d.rd Reg.TTRC_STATE = 3 ∧ d.rd Reg.TTRC_POST ≤ d.trc.post then (d.putPkt (stopPkt 0)).wr Reg.TTRC_STATE 4 else d

/-- What `f` writes into the ring: in POST its bytes count towards the stop (R356). -/
def Tdu.counted (f : Tdu → Tdu) (d : Tdu) : Tdu :=
  let e := f d
  if e.rd Reg.TTRC_STATE = 3 then
    ({ e with trc := { e.trc with post := e.trc.post + (e.trc.wr - d.trc.wr) } }).checkPost
  else e

/-- Put packets while the trace writes. -/
def Tdu.putPkts (l : List TPkt) (d : Tdu) : Tdu :=
  forEach l (fun p d => if d.tracing then d.counted (Tdu.putPkt p) else d) (if d.tracing then d.counted Tdu.recover else d)

/-! ## Coding an event (R350 to R353) -/

/-- An event that carries a target (R348). -/
def hasTarget (k : Nat) : Bool := decide (k < 4) || k == 5

/-- The packets of an event and the trace state after it, but for the ring (R350 to R353). -/
def Tdu.codeEvent (d : Tdu) (e : FlowEvent) : List TPkt × TraceSt :=
  let s := { d.trc with priv := e.priv, sec := e.sec, ctx := if e.kind = 6 then e.addr % 65536 else d.trc.ctx }
  let adm := d.admits e.priv e.sec
  let sync (s : TraceSt) (reason : Nat) (lp : Bool) : List TPkt × TraceSt :=
    let (ts, s) := d.tsFull s lp
    (ts ++ [syncPkt s e.addr reason], { s with la := e.addr, sinceSync := 0 })
  let pwr : List TPkt := if e.kind = 4 then [pwrPkt e.addr false] else if e.kind = 5 then [pwrPkt 0 true] else []
  if !s.started then
    if hasTarget e.kind && adm then
      let (l, s) := sync s 0 (e.kind == 5)
      (l, { s with started := true })
    else ([], s)
  else if s.excl then
    if hasTarget e.kind && adm then
      let (l, s) := sync { s with excl := false } 2 (e.kind == 5)
      (pwr ++ l, s)
    else if e.kind = 5 then
      let (ts, s) := d.tsFull s true
      (pwr ++ ts, s)
    else
      let (ts, s) := if d.tsStateDue s then d.tsFull s false else ([], s)
      (ts ++ pwr, s)
  else if hasTarget e.kind && !adm then
    let (ts, s) := if e.kind = 5 then d.tsFull s true else d.tsDue s
    (runPkts e.nret ++ pwr ++ ts ++ [exclPkt s], { s with excl := true })
  else match e.kind with
    | 5 =>
      let (l, s) := sync s 4 true
      (runPkts e.nret ++ pwr ++ l, s)
    | k =>
      if k < 4 ∧ 2 ^ (d.rd Reg.TTRC_SYNC_INTV + 8) ≤ s.sinceSync then
        let (l, s) := sync s 3 false
        (runPkts e.nret ++ l, s)
      else
        let (ts, s) := d.tsDue s
        let own : List TPkt := match k with
          | 0 => [pkt (leBytes 1 2)]
          | 1 => [pkt (leBytes 1 3 ++ varBytes 10 (zigzag e.addr s.la))]
          | 2 => [pkt (leBytes 1 4 ++ varBytes 10 (zigzag e.addr s.la))]
          | 3 => [pkt (leBytes 1 5 ++ varBytes 10 (zigzag e.addr s.la))]
          | 4 => pwr
          | 6 => [pkt (leBytes 1 6 ++ leBytes 2 e.addr)]
          | _ => []
        (runPkts e.nret ++ ts ++ own, if k < 4 then { s with la := e.addr } else s)

/-! ## Triggers (R356, R357) -/

/-- The stream offset of the oldest packet that starts at or after `w`; that of the next byte where none does. -/
def windowStart (w : Nat) : Nat → List TPkt → Nat
  | o, [] => o
  | o, p :: ps => if p.start && decide (w ≤ o) then o else windowStart w (o + p.bytes.length) ps

/-- The selected trigger fires (R356). -/
def Tdu.fireTrace (d : Tdu) : Tdu :=
  match d.rd Reg.TTRC_STATE with
  | 2 =>
    let d := d.recover
    let (ts, s) := d.tsFull d.trc false
    let d := forEach ts Tdu.putPkt (d.setTrc s)
    let at_ := d.trc.wr
    let d := d.putPkt ⟨leBytes 1 0x0E ++ leBytes 1 (d.rd Reg.TTRC_TRIG_SRC), true, true, false⟩
    let w := windowStart (at_ - 65536 * d.rd Reg.TTRC_PRE) (d.trc.wr - d.trc.fill) d.trc.ring
    let d := { d with trc := { d.trc with post := 0, window := some w } }
    ((d.wr64 Reg.TTRC_TRIG_T64_LO Reg.TTRC_TRIG_T64_HI d.now).wr Reg.TTRC_STATE 3).checkPost
  | 1 | 3 => d.bump Reg.TTRC_TRIG_IGN_CNT
  | _ => d

/-- A trigger source `src` with argument `arg` fires (R357). -/
def Tdu.traceTrigger (d : Tdu) (src arg : Nat) : Tdu :=
  if d.live && d.rd Reg.TTRC_TRIG_SRC == src && (src == 0 || src == 1 || d.rd Reg.TTRC_TRIG_ARG == arg) then d.fireTrace else d

/-- A flow event (R348). `full`: it finds the event queue full. -/
def Tdu.flowEvent (d : Tdu) (full : Bool) (e : FlowEvent) : Tdu :=
  if !d.live || !d.tracing then d
  else
    let d := if full then d else (d.bump Reg.TTRC_EVT_CNT).counted Tdu.recover
    let (l, s) := d.codeEvent e
    let d := if s.excl && !d.trc.excl then d.bump Reg.TTRC_EXCL_CNT else d
    if full then (d.setTrc (s.lose l.length)).bumpBy Reg.TTRC_OVF_PKT_CNT l.length
    else
    let d := (d.setTrc s).putPkts l
    if hasTarget e.kind && d.admits e.priv e.sec && e.addr == d.rd64 Reg.TTRC_TRIG_ADDR_LO Reg.TTRC_TRIG_ADDR_HI then
      d.traceTrigger 1 0
    else d

/-- CTRL.EN commits 1 (R356). -/
def Tdu.traceOn (d : Tdu) : Tdu :=
  ({ d with
     trc := { d.trc with started := false, excl := false, losing := none, window := none, post := 0, sinceSync := 0 } }).wr
    Reg.TTRC_STATE (if d.rd Reg.TTRC_CTRL_MODE = 0 then 1 else 2)

/-- CTRL.EN commits 0 (R356): STOP of reason 1; the drain empties the ring. -/
def Tdu.traceOff (d : Tdu) : Tdu :=
  if d.rd Reg.TTRC_STATE = 0 then d
  else
    let d := if d.tracing then d.recover.putPkt (stopPkt 1) else d
    ({ d with trc := { d.trc with window := none } }).wr Reg.TTRC_STATE 0

/-- CMD.ARM (R356). -/
def Tdu.traceArm (d : Tdu) : Tdu :=
  if d.rd Reg.TTRC_STATE = 4 then
    ({ d with
       trc := { d.trc with started := false, excl := false, losing := none, window := none, post := 0, sinceSync := 0 } }).wr
      Reg.TTRC_STATE 2
  else d

/-- The region is gated: STOP of reason 2 is the last packet (R349), and the ring is not retained (R352). -/
def Tdu.traceGate (d : Tdu) : Tdu :=
  let d := if d.tracing then d.recover.putPkt (stopPkt 2) else d
  let n := d.trc.ring.length
  (d.setTrc { d.trc with
    ring := [], wr := 0, started := false, excl := false, losing := none, lost := [], evicted := 0, window := none, post := 0,
    rst := true, sinceSync := 0 }).bumpBy Reg.TTRC_GAP_LOST_CNT n

/-! ## Debug authorisation (R354) -/

/-- An authorisation ends (R354): excluded code that runs is marked at once. -/
def Tdu.endAuth (d : Tdu) : Tdu :=
  if d.rd Reg.TTRC_AUTH_STATE = 0 ∨ d.rd Reg.TTRC_AUTH_STATE = 3 then d
  else
    let was := d.admits d.trc.priv d.trc.sec && (d.trc.priv || d.trc.sec)
    let d := d.wr Reg.TTRC_AUTH_STATE 3
    if was && d.tracing && d.trc.started && !d.trc.excl then
      (({ d with trc := { d.trc with excl := true } }).putPkts [exclPkt d.trc]).bump Reg.TTRC_EXCL_CNT
    else d

/-- FT reaches NOT_BEFORE (R354). -/
def Tdu.startAuth (d : Tdu) : Tdu :=
  match d.trc.auth with
  | some a =>
    if d.rd Reg.TTRC_AUTH_STATE = 1 ∧ d.timed ∧ a.notBefore ≤ d.now ∧ d.now < a.notAfter then d.wr Reg.TTRC_AUTH_STATE 2 else d
  | none => d

/-- FT reaches NOT_AFTER (R354). -/
def Tdu.expireAuth (d : Tdu) : Tdu :=
  match d.trc.auth with
  | some a => if a.notAfter ≤ d.now then d.endAuth else d
  | none => d

/-- A debug authorisation payload reaches the TDU (R354): the completion code and the state after. -/
def Tdu.authIn (d : Tdu) (p : List Byte) : Nat × Tdu :=
  let nb := fieldAt p 8 8
  let na := fieldAt p 16 8
  let refuse (c : Nat) : Nat × Tdu := (c, d.bump Reg.TTRC_AUTH_REF_CNT)
  if d.fuses.lc < 3 then refuse Code.lifecycle
  else if p.length ≠ 32 ∨ fieldAt p 24 1 ≥ 4 ∨ !allZero ((p.drop 25).take 3) ∨ fieldAt p 0 8 ≠ d.fuses.dieId ∨ na ≤ d.now ∨
      345600000000000 < na - nb then refuse Code.fit
  else
    let d := { d with trc := { d.trc with auth := some ⟨nb, na, fieldAt p 24 1⟩ } }
    let d := ((d.wr Reg.TTRC_AUTH_STATE 1).wr Reg.TTRC_AUTH_ADMIT (fieldAt p 24 1)).wr Reg.TTRC_AUTH_ID (fieldAt p 28 4)
    (Code.done, (d.wr64 Reg.TTRC_AUTH_NOT_AFTER_LO Reg.TTRC_AUTH_NOT_AFTER_HI na).startAuth)

/-! ## The drain (R358, R359) -/

/-- What a BULK record takes from the ring. -/
structure Taken where
  data : List Byte
  first : Option Nat
  trig : Bool
  stop : Bool
  window : Bool
  rest : List TPkt

/-- Take `n` bytes from the ring; `o` is the offset of the next byte in the data and `ofs` its stream offset. -/
def takePkts (window : Option Nat) : Nat → Nat → Nat → List TPkt → Taken
  | _, _, _, [] => ⟨[], none, false, false, false, []⟩
  | n, o, ofs, p :: ps =>
    if n = 0 then ⟨[], none, false, false, false, p :: ps⟩
    else
      let b := p.bytes.take n
      let all := decide (p.bytes.length ≤ n)
      let t := if all then takePkts window (n - b.length) (o + b.length) (ofs + b.length) ps
        else ⟨[], none, false, false, false, { p with bytes := p.bytes.drop n, start := false } :: ps⟩
      ⟨b ++ t.data, if p.start then some o else t.first, t.trig || (p.trig && p.start), t.stop || (p.stop && all),
        t.window || (p.start && window == some ofs), t.rest⟩

/-- One BULK record of the period whose boundary is `t64`, within the allowance, the grant and the link's credit (R307, R358, R359),
or none; a TDU without a rank sends none (R153). HO and EB are those held when it is built (assumption 58). -/
def Tdu.drainOne (d : Tdu) (t64 : Nat) : Option Tdu :=
  let len := Nat.min (Nat.min d.emit.left 1024) (52 + d.rd Reg.TTRC_GRANT) / 8 * 8
  let fill := d.trc.fill
  match d.sendLink with
  | none => none
  | some l =>
    if len < 56 ∨ fill = 0 ∨ d.rd Reg.TGEN_RANK = 0xFFFFFF then none
    else
      let n := Nat.min fill (len - 52)
      let s := d.trc
      let head := s.wr - fill
      let k := takePkts s.window n 0 head s.ring
      let lost := (s.lost.filter fun e => decide (e.1 ≤ head)).foldl (fun m e => m + e.2) 0
      let fl := bit s.rst + 2 * bit k.trig + 4 * bit k.stop + 16 * bit k.window
      let r := mkRecord
        { ver := 1, cls := 7, sev := 0, ho := d.ho, gap := d.gapIn (t64 / 2 ^ 18), late := false, order := false, sat := false,
          len := 0, consist := 0xFFFF, rank := d.rd Reg.TGEN_RANK, epochLo := 0, job := 0xFFFF, eb := ebUnits d.errBound,
          sigT := d.cap.sigTemp, sigL := d.cap.sigLoad, t := t64, rsv := false }
        (bulkBody (s.nextOfs - fill) lost (k.first.getD 0xFFFF) 0 fl 0 k.data)
      if (d.lnk l).credit < ceilDiv r.length 64 then none
      else
        let d := d.setLnk l fun k => { k with credit := k.credit - ceilDiv r.length 64 }
        let d := { d with emit := { d.emit with left := d.emit.left - r.length, sent := d.emit.sent + r.length } }
        let d := (d.setTrc { s with ring := k.rest, lost := s.lost.filter fun e => decide (head + n ≤ e.1), rst := false }).wr Reg.TTRC_GRANT (d.rd Reg.TTRC_GRANT - n)
        some ((d.bump Reg.TTRC_BULK_CNT).emitOut (.vct l r))

/-- The drain of a path that ends: what remained of its allowance goes to BULK records, oldest data first (R358). -/
def Tdu.drain (d : Tdu) (t64 : Nat) : Nat → Tdu
  | 0 => d
  | n + 1 => match d.drainOne t64 with | some d => d.drain t64 n | none => d

/-! ## Meanings -/

/-- FLOW_EVENT. -/
def execFlowEvent (t : T64) (full : Bool) (e : FlowEvent) (s : State) : Host.Outcome State Fault Refusal :=
  .next (s.onDie t fun d => d.flowEvent full e)

/-- DEBUG_AUTH_START. -/
def execDebugAuthStart (t : T64) (s : State) : Host.Outcome State Fault Refusal :=
  .next (s.onDie t fun d => if d.live then d.startAuth else d)

/-- DEBUG_AUTH_EXPIRY. -/
def execDebugAuthExpiry (t : T64) (s : State) : Host.Outcome State Fault Refusal :=
  .next (s.onDie t fun d => if d.live then d.expireAuth else d)

/-- TRIGGER_FIRE: the generator fires (R88), and so does a trace trigger that names it (R357). -/
def execTriggerFire (t : T64) (k : Fin 8) (s : State) : Host.Outcome State Fault Refusal :=
  .next (s.onDie t fun d =>
    let e := d.trigger k
    if e.out.length = d.out.length then e else e.traceTrigger 4 k)

end Sys2Proof.Machine
end

