-- ==== Sys2Proof/Machine/Counters.lean ====
section
/-!
DEFINITION. The core-clock side of capture (R105 to R115, R139): the core cycles that a command tells of drive the fixed and the
programmable counters, the overflow samples, the event lines and the stretches of the core clock.
-/

namespace Sys2Proof.Machine

/-! ## One core cycle (R107, R108, R112 to R115) -/

/-- The increments of the fixed counters in a core cycle (R107). Counters 7 to 10 count at their own strobes, and 14 with REFCLK. -/
def fixedIncs (stretched : Bool) (c : CoreCycle) : List (Nat × Nat) :=
  [(0, 1), (1, bit stretched), (2, min c.tp.ret 2), (3, bit c.mxIssue), (4, bit c.expStall), (5, bit c.memRd), (6, bit c.memWr),
    (11, bit c.eccCe), (12, bit c.eccUe), (13, bit c.throttle), (15, bit c.idle)]

/-- Programmable counter `k` counts a cycle in which the event lines are `now`, after one in which they were `was` (R108). -/
def Tdu.prgHit (d : Tdu) (k : Nat) (was now : BitVec 256) : Bool :=
  let l := d.rd Reg.TPMU_CFG_SEL k
  let hit := match d.rd Reg.TPMU_CFG_MODE k with
    | 0 => now.getLsbD l
    | 1 => !was.getLsbD l && now.getLsbD l
    | _ => was.getLsbD l && !now.getLsbD l
  let qual := now.getLsbD (d.rd Reg.TPMU_CFG_QUAL k) != (d.rd Reg.TPMU_CFG_QUAL_INV k == 1)
  d.ctrEnabled (16 + k) && hit && (d.rd Reg.TPMU_CFG_QUAL_EN k == 0 || qual)

/-- Capture the sample of an overflow of counter `k` in cycle `tp` (R112 to R115). `next` is the trace port in the three cycles that
follow. Without a stamp, in REACQUIRE or with the reference clock stopped, nothing is captured (R67). The stamp is the instant of
the command (assumption 59). Waiting samples pass to the queue after this and at path and period boundaries, and a full buffer is judged
before they do (DESIGN CHOICE; assumption 70). -/
def Tdu.overflow (d : Tdu) (k : Nat) (tp : TraceCycle) (next : List TraceCycle) : Tdu :=
  let d := d.bump Reg.TPMU_SMP_CNT
  let d := if d.rd Reg.TPMU_CFG_OVF_INTR k = 1 then d.raise 0 else d
  if d.tt = 3 || !d.clocked then d
  else if 64 ≤ d.cap.samples.length then d.bump Reg.TPMU_SMP_DROP_CNT
  else
    let skid := next.foldl (fun n c => n + min c.ret 2) 0
    let hit := ((tp :: next).filter (fun c => c.ret != 0)).getLast?.getD d.cap.lastRet
    let excl := !d.admits hit.priv hit.sec
    let s : Sample := ⟨k, d.now, if excl then 0 else hit.pc % 2 ^ 64, skid, excl, d.ho, d.errBound⟩
    let d := { d with cap := { d.cap with samples := d.cap.samples ++ [s] } }
    d.drainSamples d.cap.samples.length

/-- One increment of programmable counter `k` (R108, R109, R112); the overflow of one that samples fires the trace trigger that names
it (R357). -/
def Tdu.prgCount (d : Tdu) (k : Nat) (tp : TraceCycle) (next : List TraceCycle) : Tdu :=
  let passes := d.rd Reg.TPMU_CFG_OVF_SMP k == 1 && decide (2 ^ 48 ≤ d.cap.cnt.getD (16 + k) 0 + 1)
  let d := d.count (16 + k) 1
  if passes then (d.overflow k tp next).traceTrigger 5 k else d

/-- One core cycle: every counter takes its increment, in ascending index. -/
def Tdu.coreCycle (d : Tdu) (c : CoreCycle) (next : List TraceCycle) : Tdu :=
  let was := d.cap.evtWas
  let now := d.cap.evtNow &&& ~~~c.low
  let d := forEach (fixedIncs (d.rd Reg.TCAP_STRETCH_STATE_ACTIVE == 1) c) (fun p d => d.count p.1 p.2) d
  let d := forIdx 64 (fun k d => if d.prgHit k was now then d.prgCount k c.tp next else d) d
  { d with
    cap := { d.cap with
      evtWas := now, evtNow := now, lastRet := if c.tp.ret = 0 then d.cap.lastRet else c.tp
      expBlk := if c.expStall then c.expBlk.toNat else d.cap.expBlk } }

/-- Core cycles in order; `after` is the trace port in the cycles that follow the last. -/
def Tdu.coreCycles (after : List TraceCycle) : List CoreCycle → Tdu → Tdu
  | [], d => d
  | c :: r, d => Tdu.coreCycles after r (d.coreCycle c (((r.take 3).map (·.tp) ++ after).take 3))

/-- The core cycles of a command. A region that is off or gated counts nothing (R109). -/
def Tdu.core (act : CoreAct) (d : Tdu) : Tdu :=
  if d.live then Tdu.coreCycles act.after (act.runs.flatMap fun r => List.replicate r.1 r.2) d else d

/-- What a command that tells of core cycles does to the TDU at the instant `t`: the cycles first, then its own effect. -/
def State.onCore (t : T64) (act : CoreAct) (f : Tdu → Tdu) (s : State) : State := s.onDie t fun d => f (d.core act)

/-- An event line rises (R105): the next core cycle counted shows it, and the trace trigger that names it fires (R357). -/
def Tdu.lineRise (d : Tdu) (line : Nat) : Tdu :=
  ({ d with cap := { d.cap with evtNow := d.cap.evtNow ||| BitVec.ofNat 256 (2 ^ line) } }).traceTrigger 3 line

/-! ## Stretches of the core clock (R67, R139) -/

/-- Queue the CORE_STRETCH event of the merged stretch (R139, R141, R151). -/
def Tdu.flushStretch (d : Tdu) : Tdu :=
  match d.cap.stretch with
  | none => d
  | some m =>
    let d := { d with cap := { d.cap with stretch := none } }
    let ho := m.first.ho || m.stop.ho
    d.queueUnsched (d.eventCoach 2 (min m.members 255) (2 * bit ho) 0 (leBytes 8 m.stop.t ++ leBytes 8 m.cyc) 2
      ⟨m.first.t, ho, max m.first.eb m.stop.eb⟩ (decide (255 < m.members)))

/-- A STRETCH edge that is counted in the gap record and not stamped (R67). -/
def Tdu.lostEdge (d : Tdu) : Tdu := { d with time := { d.time with lostEvt := d.time.lostEvt + 1 } }

/-- STRETCH is asserted (R139). An edge in REACQUIRE is counted and not stamped, and with the reference clock stopped, before the
restart, it is neither (R67). -/
def Tdu.stretchOn (d : Tdu) : Tdu :=
  if !d.live then d
  else
    let d := d.wr Reg.TCAP_STRETCH_STATE_ACTIVE 1
    if !d.clocked then d
    else if d.tt = 3 then d.lostEdge
    else
      let merge := match d.cap.stretch with
        | some m => decide (0 < d.rd Reg.TCAP_STRETCH_MERGE) && decide (d.now - m.stop.t ≤ d.rd Reg.TCAP_STRETCH_MERGE)
        | none => true
      let d := if merge then d else d.flushStretch
      { d with cap := { d.cap with stretchStart := some (d.stamp, d.cap.cnt.getD 1 0) } }

/-- STRETCH is deasserted (R139); every stretch is counted (R64). -/
def Tdu.stretchOff (d : Tdu) : Tdu :=
  if !d.live then d
  else
    let d := (d.wr Reg.TCAP_STRETCH_STATE_ACTIVE 0).bump Reg.TTIME_STRETCH_CNT
    let start := d.cap.stretchStart
    let d := { d with cap := { d.cap with stretchStart := none } }
    if !d.clocked then d
    else if d.tt = 3 then d.lostEdge
    else match start with
      | none => d
      | some (m0, c0) =>
        let cyc := (d.cap.cnt.getD 1 0 + 2 ^ 48 - c0) % 2 ^ 48
        let v : Stretch := match d.cap.stretch with
          | none => ⟨m0, d.stamp, 1, cyc⟩
          | some m => ⟨m.first, d.stamp, m.members + 1, m.cyc + cyc⟩
        { d with cap := { d.cap with stretch := some v } }

/-- STRETCH_MERGE ticks have passed after an end (R139): with no new start, the event is queued. -/
def Tdu.stretchExpiry (d : Tdu) : Tdu :=
  match d.cap.stretch with
  | some m =>
    if d.clocked && d.cap.stretchStart.isNone && (decide (d.now < m.stop.t) || decide (d.rd Reg.TCAP_STRETCH_MERGE ≤ d.now - m.stop.t)) then
      d.flushStretch
    else d
  | none => d

/-! ## Meanings -/

/-- STRETCH_ASSERT. -/
def execStretchAssert (t : T64) (act : CoreAct) (s : State) : Host.Outcome State Fault Refusal :=
  .next (s.onCore t act fun d => d.stretchOn)

/-- STRETCH_DEASSERT. -/
def execStretchDeassert (t : T64) (act : CoreAct) (s : State) : Host.Outcome State Fault Refusal :=
  .next (s.onCore t act fun d => d.stretchOff)

/-- STRETCH_MERGE_EXPIRY. -/
def execStretchMergeExpiry (t : T64) (s : State) : Host.Outcome State Fault Refusal :=
  .next (s.onDie t fun d => d.stretchExpiry)

/-- EVENT_LINE_RISE. -/
def execEventLineRise (t : T64) (line : Fin 256) (act : CoreAct) (s : State) : Host.Outcome State Fault Refusal :=
  .next (s.onCore t act fun d => d.lineRise line)

/-- COUNTER_OVERFLOW: a counter that samples overflows in the last of the core cycles, or several do. -/
def execCounterOverflow (t : T64) (act : CoreAct) (s : State) : Host.Outcome State Fault Refusal :=
  .next (s.onCore t act id)

end Sys2Proof.Machine
end

