-- ==== Sys2Proof/Machine/Screen.lean ====
section
/-!
DEFINITION. Known-answer screening in the die unit (R295 to R300, R304): packs, slices and their outcome.
-/

namespace Sys2Proof.Machine

/-! ## Pattern packs (R296, R297) -/

/-- A pattern of a pack image (R296). -/
def Pat.parse (b : List Byte) : Pat :=
  ⟨fieldAt b 0 4, fieldAt b 4 1, fieldAt b 8 4, fieldAt b 12 4, fieldAt b 16 4, fieldAt b 20 4, fieldAt b 24 8⟩

/-- A margin point of a pack image (R296). -/
def MarginPt.parse (b : List Byte) : MarginPt := ⟨fieldAt b 0 2, fieldAt b 2 2, fieldAt b 4 1⟩

/-- Read a pack payload (R296). -/
def Pack.parse (p : List Byte) : Pack :=
  let n := fieldAt p 4 2
  { id := fieldAt p 0 2, ver := fieldAt p 2 2, h := fieldAt p 8 8, nmargin := fieldAt p 6 1,
    margins := (chunks 8 7 (p.drop 32)).map MarginPt.parse, pats := (chunks 32 n (p.drop 96)).map Pat.parse,
    blob := p.drop (96 + 32 * n), size := p.length, posM := 0, posP := 0, last := 0, run := none, staged := false, stop := none }

/-- The payload follows the layout of R296 and its PDIGEST matches. -/
def packOk (p : List Byte) : Bool :=
  let n := fieldAt p 4 2
  let nm := fieldAt p 6 1
  let bl := fieldAt p 16 4
  let k := Pack.parse p
  decide (96 ≤ p.length) && decide (fieldAt p 0 2 ≤ 0xFEFF) && decide (1 ≤ n) && decide (n ≤ 256) && decide (nm ≤ 7) &&
    fieldAt p 7 1 == 0 && fieldAt p 8 8 != 0 && p.length == 96 + 32 * n + bl &&
    ((chunks 8 7 (p.drop 32)).all fun b => allZero (b.drop 5)) &&
    ((chunks 32 n (p.drop 96)).all fun b => allZero ((b.drop 5).take 3)) &&
    (k.pats.all fun q => decide (q.margin ≤ nm) && decide (q.ofs + q.len ≤ bl)) &&
    (sha384 (p.drop 32)).take 8 == (p.drop 20).take 8

/-- Free bytes of the pattern store (R297). -/
def Tdu.storeFree (d : Tdu) : Nat :=
  524288 - d.scr.packs.foldl (fun n k => n + (match k with | some k => k.size | none => 0)) 0

/-- The registers of the pack slots (R304). -/
def Tdu.showPacks (d : Tdu) : Tdu :=
  let d := forIdx 4 (fun i d => match d.scr.packs.getD i none with
    | none =>
      ((((((d.wr Reg.TSCR_PK_ID_ID 0xFFFF i).wr Reg.TSCR_PK_ID_VER 0 i).wr Reg.TSCR_PK_INFO_NPAT 0 i).wr
        Reg.TSCR_PK_INFO_NMARGIN 0 i).wr Reg.TSCR_PK_POS_MARGIN 0 i).wr Reg.TSCR_PK_POS_PAT 0 i).wr Reg.TSCR_PK_LAST 0 i
    | some k =>
      ((((((d.wr Reg.TSCR_PK_ID_ID k.id i).wr Reg.TSCR_PK_ID_VER k.ver i).wr Reg.TSCR_PK_INFO_NPAT k.pats.length i).wr
        Reg.TSCR_PK_INFO_NMARGIN k.nmargin i).wr Reg.TSCR_PK_POS_MARGIN k.posM i).wr Reg.TSCR_PK_POS_PAT k.posP i).wr
        Reg.TSCR_PK_LAST k.last i) d
  d.wr Reg.TSCR_STORE_FREE (min d.storeFree (2 ^ 20 - 1))

/-- The state with the pack slots changed. -/
def Tdu.setPacks (d : Tdu) (l : List (Option Pack)) : Tdu := ({ d with scr := { d.scr with packs := l } }).showPacks

/-- A pattern of the pack could never be granted under these limits (R297). -/
def Pack.tooLong (k : Pack) (sliceMax settle scrMax : Nat) : Bool :=
  k.pats.any fun q => decide (Nat.min sliceMax scrMax < q.run + 2 * settle)

/-- The pack slot whose slice is in progress. -/
def Tdu.sliceSlot (d : Tdu) : Option Nat := d.scr.slice.map (·.slot)

/-- The TDU takes a pack from its TRAY TAU (R297): the completion code and the state after. -/
def Tdu.packIn (d : Tdu) (p : List Byte) : Nat × Tdu :=
  let k := Pack.parse p
  let refuse (c : Nat) : Nat × Tdu := (c, d.bump Reg.TSCR_PK_REFUSED_CNT)
  let old := firstIdx (fun o => match o with | some q => q.id == k.id && !q.staged | none => false) d.scr.packs
  let freeSlot := firstIdx Option.isNone d.scr.packs
  if !packOk p then refuse Code.fit
  else if k.tooLong (d.rd Reg.TSCR_SLICE_MAX) (d.rd Reg.TSCR_MG_SETTLE) (d.rd Reg.TEMIT_SCR_MAX) then refuse Code.fit
  else match old with
    | some i =>
      if d.sliceSlot = some i then
        let l := d.scr.packs.map fun o => match o with
          | some q => if q.id = k.id ∧ q.staged then none else some q
          | none => none
        match firstIdx Option.isNone l with
        | some j =>
          if k.size ≤ ({ d with scr := { d.scr with packs := l } }).storeFree then
            (Code.done, d.setPacks (modifyAt (fun _ => some { k with staged := true }) j l))
          else refuse Code.busy
        | none => refuse Code.busy
      else
        let q := d.scr.packs.getD i none
        let size := match q with | some q => q.size | none => 0
        let run := match q with | some q => q.run | none => none
        if d.storeFree + size < k.size then refuse Code.capacity
        else (Code.done, d.setPacks (modifyAt (fun _ => some { k with run := run }) i d.scr.packs))
    | none =>
      if d.storeFree < k.size then refuse Code.capacity
      else match freeSlot with
        | none => refuse Code.capacity
        | some j => (Code.done, d.setPacks (modifyAt (fun _ => some k) j d.scr.packs))

/-! ## Slices (R298, R299) -/

/-- The patterns of a margin point from a position on, in pack order. -/
def Pack.at_ (k : Pack) (m p : Nat) : List Nat :=
  (List.range k.pats.length).filter fun i => decide (p ≤ i) && (match k.pats[i]? with | some q => q.margin == m | none => false)

/-- The first position at or after (m, p) that has a pattern; none where the run is complete. -/
def Pack.seek (k : Pack) : Nat → Nat → Nat → Option (Nat × Nat)
  | 0, _, _ => none
  | n + 1, m, p =>
    if !(k.at_ m p).isEmpty then some (m, p) else if m < k.nmargin then k.seek n (m + 1) 0 else none

/-- RUN_TICKS of a pattern. -/
def Pack.ticks (k : Pack) (i : Nat) : Nat := match k.pats[i]? with | some q => q.run | none => 0

/-- The longest prefix whose RUN_TICKS fit in `room` (R298). -/
def Pack.prefix_ (k : Pack) : Nat → List Nat → List Nat
  | _, [] => []
  | room, i :: is => if k.ticks i ≤ room then i :: k.prefix_ (room - k.ticks i) is else []

/-- The next slice of a pack: margin, patterns and length (R298). -/
def Tdu.nextSlice (d : Tdu) (k : Pack) : Option (Nat × List Nat × Nat) :=
  match k.seek 9 k.posM k.posP with
  | none => none
  | some (m, p) =>
    let settle := d.rd Reg.TSCR_MG_SETTLE
    match k.prefix_ (d.rd Reg.TSCR_SLICE_MAX - 2 * settle) (k.at_ m p) with
    | [] => none
    | l => some (m, l, 2 * settle + l.foldl (fun n i => n + k.ticks i) 0)

/-- The pack slots with a run due now. -/
def Tdu.dueRuns (d : Tdu) : List Nat :=
  (List.range 4).filter fun i => match d.scr.packs.getD i none with
    | some k => !k.staged && (match k.run with | some p => decide (p ≤ d.per) | none => false) &&
        (match k.stop with | some p => decide (d.per < p) | none => true)
    | none => false

/-- The blob bytes of patterns. -/
def Pack.blobs (k : Pack) (l : List Nat) : List Byte :=
  l.flatMap fun i => match k.pats[i]? with | some q => (k.blob.drop q.ofs).take q.len | none => []

/-- The die address of the staging area (R304). -/
def Tdu.stageBase (d : Tdu) : Nat := d.rd Reg.TSCR_STAGE_BASE_LO * 4096 + 2 ^ 32 * d.rd Reg.TSCR_STAGE_BASE_HI

/-- Copy the blobs of pack slot `i`'s next slice to the staging area, unless they stand there, and whether they now do (R298). A copy that
the budget refuses waits for the next period (R96, R98). -/
def Tdu.stage (d : Tdu) (i : Nat) (blob : List Byte) : Tdu × Bool :=
  let there := some (d.stageBase, blob)
  if d.scr.copied = there then (d, true)
  else if d.rd Reg.TSCR_STAGE_SIZE * 4096 < blob.length || d.rd Reg.TSCR_STAGE_SIZE == 0 then (d, false)
  else match d.memCharge blob.length with
    | (d, true) => (({ d with scr := { d.scr with copied := there } }).emitOut (.die d.stageBase blob), true)
    | (d, false) => ({ d with scr := { d.scr with waits := some (d.per, i) } }, false)

/-- The pack in slot `i` asks for its next slice: its blobs are copied, and then it asserts SCR_REQ or is refused for credit (R298,
R299). -/
def Tdu.requestFor (d : Tdu) (i : Nat) : Tdu :=
  match d.scr.packs.getD i none with
  | none => d
  | some k => match d.nextSlice k with
    | none => d
    | some (m, l, len) => match d.stage i (k.blobs l) with
      | (d, false) => d
      | (d, true) =>
        if d.rd Reg.TEMIT_SCR_CREDIT < len then d.bump Reg.TEMIT_SCR_REFUSED_CNT
        else
          let s : Slice := ⟨i, m, l, len, d.per, 0, 0, 0, [], [], 0⟩
          (({ d with scr := { d.scr with slice := some s } }).wr Reg.TSCR_STATE 1).emitOut (.screen 0 [1, len])

/-- A slice may be requested: TSCR is enabled, no slice is in progress, and a run is due. -/
def Tdu.mayRequest (d : Tdu) : Bool :=
  d.clocked && d.rd Reg.TSCR_EN != 0 && d.scr.slice.isNone && !d.dueRuns.isEmpty

/-- The slice that is ready is requested (R298, R299), unless its copy waits for the next period. -/
def Tdu.sliceRequest (d : Tdu) : Tdu :=
  if !d.mayRequest || d.scr.waits.any (·.1 == d.per) then d
  else
    let due := d.dueRuns
    let (c, d) := d.pick due.length
    ({ d with scr := { d.scr with waits := none } }).requestFor (due.getD c 0)

/-- A copy refused in the last period is issued again (R96, R98). -/
def Tdu.stageAgain (d : Tdu) : Tdu :=
  match d.scr.waits with
  | none => d
  | some (_, i) =>
    let d := { d with scr := { d.scr with waits := none } }
    if d.mayRequest && d.dueRuns.contains i then d.requestFor i else d

/-- The state with the slice changed. -/
def Tdu.setSlice (d : Tdu) (s : Slice) : Tdu := { d with scr := { d.scr with slice := some s } }

/-- Request margin point `m` of a pack (R295, R299); index 0 is the die's nominal point. -/
def Tdu.marginReq (d : Tdu) (k : Option Pack) (m : Nat) : Tdu :=
  let p : MarginPt := match k with
    | some k => if m = 0 then ⟨0, 0, 128⟩ else k.margins.getD (m - 1) ⟨0, 0, 128⟩
    | none => ⟨0, 0, 128⟩
  d.emitOut (.screen 1 [m, p.dv, p.df, p.t])

/-- Patterns are left NOT_RUN and index 0 is requested (R299). -/
def Tdu.restore (d : Tdu) (s : Slice) (notRun : Nat) : Tdu :=
  let d := (d.bumpBy Reg.TSCR_NOTRUN_CNT notRun).setSlice { s with todo := [], notRun := s.notRun + notRun }
  (d.wr Reg.TSCR_STATE 4).marginReq none 0

/-- The die address at which the blobs of the slice in progress stand. -/
def Tdu.stagedAt (d : Tdu) : Nat := match d.scr.copied with | some c => c.1 | none => d.stageBase

/-- Start the next pattern of the slice, or restore (R299). The blobs stand one after another in the staging area. -/
def Tdu.startPattern (d : Tdu) (s : Slice) (k : Pack) : Tdu :=
  match s.todo with
  | [] => d.restore s 0
  | i :: _ =>
    let done := (k.blobs (s.ran.reverse)).length
    let len := (k.blobs [i]).length
    ((d.setSlice { s with acc := 0, n := 0 }).wr Reg.TSCR_STATE 3).emitOut (.screen 2 [d.stagedAt + done, len])

/-- SCR_GNT (R299): the slice's length is debited and its margin point requested. -/
def Tdu.sliceGrant (d : Tdu) : Tdu :=
  match d.scr.slice with
  | some s =>
    if d.rd Reg.TSCR_STATE ≠ 1 then d
    else
      let d := (d.wr Reg.TEMIT_SCR_CREDIT (d.rd Reg.TEMIT_SCR_CREDIT - s.len)).bump Reg.TSCR_SLICE_CNT
      ((d.setSlice { s with start := d.now }).wr Reg.TSCR_STATE 2).marginReq (d.scr.packs.getD s.slot none) s.margin
  | none => d

/-- The pack `k` stands in slot `i` once its slice has returned to IDLE, or the version staged beside it replaces it (R297), from the
first pattern of margin point 0. -/
def Tdu.install (d : Tdu) (i : Nat) (k : Pack) : Tdu :=
  let staged := d.scr.packs.findSome? fun o => match o with
    | some q => if q.id = k.id ∧ q.staged then some q else none
    | none => none
  let l := d.scr.packs.map fun o => match o with
    | some q => if q.id = k.id ∧ q.staged then none else some q
    | none => none
  let v := match staged with
    | some q => { q with staged := false, run := k.run, stop := k.stop, last := k.last }
    | none => k
  d.setPacks (modifyAt (fun _ => some v) i l)

/-- Withdraw the request (R299). -/
def Tdu.withdraw (d : Tdu) : Tdu :=
  match d.scr.slice with
  | none => d
  | some s =>
    if d.rd Reg.TSCR_STATE ≠ 1 then d
    else
      let d := ((({ d with scr := { d.scr with slice := none } }).wr Reg.TSCR_STATE 0).bump Reg.TSCR_WITHDRAW_CNT).emitOut
        (.screen 0 [0, 0])
      match d.scr.packs.getD s.slot none with
      | some k => d.install s.slot k
      | none => d

/-- REQ_TMO periods have passed without a grant (R299). -/
def Tdu.sliceTimeout (d : Tdu) : Tdu :=
  match d.scr.slice with
  | some s => if d.rd Reg.TSCR_STATE = 1 ∧ s.reqAt + d.rd Reg.TSCR_REQ_TMO ≤ d.per then d.withdraw else d
  | none => d

/-- SIG_TEMP of a screening coach: the temperature channel's latest value (R152, R291). -/
def Tdu.tempNow (d : Tdu) : Nat :=
  match d.cap.sensor.getD (d.rd Reg.TCAP_SIG_CFG_TEMP_CH) none with
  | some e => if e.err then 128 else unsigned 8 (max (-127) (min 127 e.val))
  | none => 128

/-- A bitmap of 256 bits. -/
def bitmap256 (l : List Nat) : List Byte := leBytes 32 (l.foldl (fun n i => Nat.lor n (2 ^ i)) 0)

/-- The SCREEN_SUM coach of a slice that ends now, and the SCREEN_FAIL coaches of its first eight failures (R291, R300). -/
def Tdu.screenCoaches (d : Tdu) (s : Slice) (k : Pack) : List (List Byte) :=
  let head (dk : Nat) : List Byte := digestBody 0 0 0 dk 0 k.id k.ver s.margin 0 d.per
  let sum := d.digestCoach 2 0xFFFF 0 d.tempNow
    (head 2 ++ leBytes 2 (s.ran.length - s.failed.length) ++ leBytes 2 s.failed.length ++ leBytes 2 s.notRun ++ zeros 2 ++
      leBytes 4 s.len ++ leBytes 4 (d.now - s.start) ++ bitmap256 s.ran ++ bitmap256 (s.failed.map (·.1)))
  sum :: (s.failed.take 8).map fun (i, dig, n) =>
    let (pid, ex) := match k.pats[i]? with | some q => (q.patId, q.expect) | none => (0, 0)
    d.digestCoach 5 0xFFFF 0 d.tempNow
      (head 3 ++ leBytes 2 i ++ zeros 2 ++ leBytes 4 pid ++ leBytes 8 dig ++ leBytes 8 ex ++ leBytes 4 n)

/-- Remove packs whose disabling has come and which are idle (R407). -/
def Tdu.reapPacks (d : Tdu) : Tdu :=
  let l := (List.range 4).map fun i => match d.scr.packs.getD i none with
    | some k => (match k.stop with
      | some p => if p ≤ d.per ∧ d.sliceSlot ≠ some i then none else some k
      | none => some k)
    | none => none
  if l = d.scr.packs then d else d.setPacks l

/-- The slice returns to IDLE (R297 to R300): position, a staged version, and the coaches. -/
def Tdu.endSlice (d : Tdu) (s : Slice) : Tdu :=
  let d := (({ d with scr := { d.scr with slice := none, copied := none } }).wr Reg.TSCR_STATE 0).emitOut (.screen 0 [0, 0])
  match d.scr.packs.getD s.slot none with
  | none => d
  | some k =>
    let d := forEach (d.screenCoaches s k) (fun r d => d.queueUnsched r) d
    let d := d.bumpBy Reg.TSCR_FAIL_COACH_DROP (s.failed.length - 8)
    let k := match k.seek 9 k.posM k.posP with
      | none => { k with posM := 0, posP := 0, last := d.per, run := none }
      | some (m, p) => { k with posM := m, posP := p }
    (d.install s.slot k).reapPacks

/-- The position of the pack of a slice moves past the patterns that it took (R298, R299). -/
def Tdu.movePast (d : Tdu) (s : Slice) : Tdu :=
  match d.scr.packs.getD s.slot none, s.todo.getLast? with
  | some k, some i => d.setPacks (modifyAt (fun _ => some { k with posM := s.margin, posP := i + 1 }) s.slot d.scr.packs)
  | _, _ => d

/-- MG_ACK (R299). -/
def Tdu.marginAck (d : Tdu) : Tdu :=
  match d.scr.slice with
  | none => d
  | some s =>
    match d.rd Reg.TSCR_STATE with
    | 2 =>
      if d.now - s.start ≤ d.rd Reg.TSCR_MG_SETTLE then
        match d.scr.packs.getD s.slot none with
        | some k => (d.movePast s).startPattern s k
        | none => d
      else d
    | 4 => d.endSlice s
    | _ => d

/-- MG_NAK, or no answer within MG_SETTLE (R299). -/
def Tdu.marginRefused (d : Tdu) : Tdu :=
  match d.scr.slice with
  | some s =>
    if d.rd Reg.TSCR_STATE = 2 then ((d.movePast s).bump Reg.TSCR_MG_NAK_CNT).restore s s.todo.length else d
  | none => d

/-- MG_SETTLE has passed since the grant without an answer (R299). -/
def Tdu.settleTimeout (d : Tdu) : Tdu :=
  match d.scr.slice with
  | some s => if s.start + d.rd Reg.TSCR_MG_SETTLE ≤ d.now then d.marginRefused else d
  | none => d

/-- PT_VALID presents a result word (R300). -/
def Tdu.patternWord (d : Tdu) (w : Nat) : Tdu :=
  match d.scr.slice with
  | some s =>
    if d.rd Reg.TSCR_STATE ≠ 3 then d
    else match d.scr.packs.getD s.slot none with
      | some k => d.setSlice { s with acc := Nat.xor s.acc (gfSum k.h s.n [w]), n := s.n + 1 }
      | none => d
  | none => d

/-- PT_DONE judges the pattern and starts the next (R299, R300). A disabled pack finishes no more than this one (R407). -/
def Tdu.patternDone (d : Tdu) : Tdu :=
  match d.scr.slice with
  | some s =>
    if d.rd Reg.TSCR_STATE ≠ 3 then d
    else match d.scr.packs.getD s.slot none, s.todo with
      | some k, i :: rest =>
        let dig := Nat.xor s.n s.acc
        let pass := match k.pats[i]? with | some q => s.n == q.words && dig == q.expect | none => false
        let d := if pass then d.bump Reg.TSCR_PASS_CNT else d.bump Reg.TSCR_FAIL_CNT
        let s := { s with todo := rest, ran := i :: s.ran, failed := if pass then s.failed else s.failed ++ [(i, dig, s.n)] }
        let stop := match k.stop with | some p => decide (p ≤ d.per) | none => false
        if stop then d.restore s rest.length else d.startPattern s k
      | _, _ => d
  | none => d

/-- The running pattern is aborted: it and the rest of the slice are NOT_RUN (R299). -/
def Tdu.abortPattern (d : Tdu) (cnt : Fld) : Tdu :=
  match d.scr.slice with
  | some s => ((d.emitOut (.screen 3 [])).bump cnt).restore s s.todo.length
  | none => d

/-- SCR_REVOKE (R299). -/
def Tdu.sliceRevoke (d : Tdu) : Tdu :=
  match d.rd Reg.TSCR_STATE, d.scr.slice with
  | 3, some _ => d.abortPattern Reg.TSCR_REVOKE_CNT
  | 4, some s => d.endSlice s
  | _, _ => d

/-- The slice's end is reached while a pattern runs (R299). -/
def Tdu.sliceOverrun (d : Tdu) : Tdu :=
  match d.scr.slice with
  | some s =>
    if d.rd Reg.TSCR_STATE = 3 ∧ s.start + s.len ≤ d.now + d.rd Reg.TSCR_MG_SETTLE then d.abortPattern Reg.TSCR_OVERRUN_CNT
    else d
  | none => d

/-! ## Meanings -/

/-- SLICE_REQUEST. -/
def execSliceRequest (t : T64) (s : State) : Host.Outcome State Fault Refusal := .next (s.onDie t fun d => d.sliceRequest)

/-- SLICE_GRANT. -/
def execSliceGrant (t : T64) (s : State) : Host.Outcome State Fault Refusal :=
  .next (s.onDie t fun d => if d.clocked then d.sliceGrant else d)

/-- SLICE_REQUEST_TIMEOUT. -/
def execSliceRequestTimeout (t : T64) (s : State) : Host.Outcome State Fault Refusal :=
  .next (s.onDie t fun d => if d.clocked then d.sliceTimeout else d)

/-- MARGIN_ACK. -/
def execMarginAck (t : T64) (s : State) : Host.Outcome State Fault Refusal :=
  .next (s.onDie t fun d => if d.clocked then d.marginAck else d)

/-- MARGIN_NAK. -/
def execMarginNak (t : T64) (s : State) : Host.Outcome State Fault Refusal :=
  .next (s.onDie t fun d => if d.clocked then d.marginRefused else d)

/-- MARGIN_SETTLE_TIMEOUT. -/
def execMarginSettleTimeout (t : T64) (s : State) : Host.Outcome State Fault Refusal :=
  .next (s.onDie t fun d => if d.clocked then d.settleTimeout else d)

/-- PATTERN_WORD. -/
def execPatternWord (t : T64) (w : BitVec 64) (s : State) : Host.Outcome State Fault Refusal :=
  .next (s.onDie t fun d => if d.clocked then d.patternWord w.toNat else d)

/-- PATTERN_DONE. -/
def execPatternDone (t : T64) (s : State) : Host.Outcome State Fault Refusal :=
  .next (s.onDie t fun d => if d.clocked then d.patternDone else d)

/-- SLICE_REVOKE. -/
def execSliceRevoke (t : T64) (s : State) : Host.Outcome State Fault Refusal :=
  .next (s.onDie t fun d => if d.clocked then d.sliceRevoke else d)

/-- SLICE_OVERRUN. -/
def execSliceOverrun (t : T64) (s : State) : Host.Outcome State Fault Refusal :=
  .next (s.onDie t fun d => if d.clocked then d.sliceOverrun else d)

end Sys2Proof.Machine
end

