-- ==== Sys2Proof/Machine/DieRegs.lean ====
section
/-!
DEFINITION. The registers of the die unit: what they read, the rights of its two ports (R474), commits and their checks (R74 to
R80, R97, R104, R129, R136, R142, R297, R357, R437), and the commands that a write gives.
-/

namespace Sys2Proof.Machine

/-! ## What the registers read -/

/-- POWER_RSV (R97): the base charge and that of every function enabled. -/
def Tdu.powerRsv (d : Tdu) : Nat :=
  let en := d.rd Reg.TTAP_LINK_EN
  420 + 240 * (bit (en.testBit 0) + bit (en.testBit 1)) + 260 * d.rd Reg.TTRC_CTRL_EN + 180 * d.rd Reg.TSCR_EN

/-- The mask of groups with a scheduled commit pending (R84). -/
def schedMask (l : List (Option SchedSlot)) : Nat :=
  l.foldl (fun m o => match o with | some c => Nat.lor m c.mask | none => m) 0

/-- A signed value held at the limits of 32 bits. -/
def clip32 (v : Int) : Nat := unsigned 32 (clipS 32 v)

/-- A least or greatest sample as it reads (R144): saturating upwards, and a negative one in two's complement (assumption 54). -/
def sample32 (v : Int) : Nat := if v < 0 then clip32 v else clipU 32 v.toNat

/-- The sensor entry shown (R142). -/
def Tdu.shownSensor (d : Tdu) : Option Sensor := d.cap.sensorSnap.getD (d.rd Reg.TCAP_SH_SEL) none

/-- The result slot shown (R303). -/
def Tdu.shownRes (d : Tdu) : Option ResSlot := d.tap.res.getD (d.rd Reg.TTAP_RES_SEL) none

/-- The digest shown; it reads 0 unless one is held (DEDUCED; assumption 13). -/
def Tdu.shownDig (d : Tdu) : Nat := match d.shownRes with | some r => if r.st = 2 then r.dig else 0 | none => 0

/-- The tap key of the slot shown. -/
def Tdu.shownKey (d : Tdu) : Option TapKey := match d.shownRes with | some r => d.tapKey r.job | none => none

/-- A field that reads what the block holds elsewhere, and what it reads. -/
def dieView (f : Fld) (v : Tdu → Nat → Nat) : Fld × (Tdu → Nat → Nat) := (f, v)

/-- Fields of TGEN, TTIME and TEMIT that read what the block holds elsewhere. -/
def dieViewsA : List (Fld × (Tdu → Nat → Nat)) :=
  [dieView Reg.TGEN_DIE_ID_LO (fun d _ => d.fuses.dieId % 2 ^ 32), dieView Reg.TGEN_DIE_ID_HI (fun d _ => d.fuses.dieId / 2 ^ 32),
    dieView Reg.TGEN_LC_STATE (fun d _ => d.fuses.lc), dieView Reg.TGEN_CST_USED (fun d _ => d.held.length),
    dieView Reg.TGEN_SCHED_PEND (fun d _ => schedMask d.emit.sc),
    dieView Reg.TGEN_SC_PER_LO (fun d j => match d.emit.sc.getD j none with | some c => c.period % 2 ^ 32 | none => 0),
    dieView Reg.TGEN_SC_PER_HI (fun d j => match d.emit.sc.getD j none with | some c => c.period / 2 ^ 32 | none => 0),
    dieView Reg.TGEN_SC_MASK (fun d j => match d.emit.sc.getD j none with | some c => c.mask | none => 0),
    dieView Reg.TGEN_SC_STATE_PENDING (fun d j => bit (d.emit.sc.getD j none).isSome),
    dieView Reg.TTIME_FT_LO (fun d _ => d.now % 2 ^ 32), dieView Reg.TTIME_FT_HI (fun d _ => d.now / 2 ^ 32),
    dieView Reg.TTIME_ERR_BOUND (fun d _ => ebUnits d.errBound),
    dieView Reg.TEMIT_PATH_BYTES (fun d _ => 128 * d.rd Reg.TEMIT_RATE), dieView Reg.TEMIT_POWER_RSV (fun d _ => d.powerRsv)]

/-- Fields of TCAP, TPMU, THIST and TDET that read the latest snapshot or the counters (R142 to R145). -/
def dieViewsB : List (Fld × (Tdu → Nat → Nat)) :=
  [dieView Reg.TCAP_SH_VAL (fun d _ => match d.shownSensor with | some e => unsigned 32 e.val | none => 0),
    dieView Reg.TCAP_SH_STAMP_LO (fun d _ => match d.shownSensor with | some e => e.t % 2 ^ 32 | none => 0),
    dieView Reg.TCAP_SH_STAMP_HI (fun d _ => match d.shownSensor with | some e => e.t / 2 ^ 32 | none => 0),
    dieView Reg.TCAP_SH_TAG_LO (fun d _ => match d.shownSensor with | some e => e.tag.getD 0 % 2 ^ 32 | none => 0),
    dieView Reg.TCAP_SH_TAG_HI (fun d _ => match d.shownSensor with | some e => e.tag.getD 0 / 2 ^ 32 | none => 0),
    dieView Reg.TCAP_SH_INFO_TAGGED (fun d _ => match d.shownSensor with | some e => bit e.tag.isSome | none => 0),
    dieView Reg.TCAP_SH_INFO_ERR (fun d _ => match d.shownSensor with | some e => bit e.err | none => 0),
    dieView Reg.TCAP_SH_INFO_HO (fun d _ => match d.shownSensor with | some e => bit e.ho | none => 0),
    dieView Reg.TCAP_SH_INFO_SAMPLES (fun d _ => match d.shownSensor with | some e => e.samples | none => 0),
    dieView Reg.TPMU_SMP_FILL (fun d _ => d.cap.samples.length),
    dieView Reg.TPMU_FIX_LO (fun d j => d.cap.cnt.getD j 0 % 2 ^ 32), dieView Reg.TPMU_FIX_HI (fun d j => d.cap.cnt.getD j 0 / 2 ^ 32),
    dieView Reg.TPMU_PRG_LO (fun d i => d.cap.cnt.getD (16 + i) 0 % 2 ^ 32),
    dieView Reg.TPMU_PRG_HI (fun d i => d.cap.cnt.getD (16 + i) 0 / 2 ^ 32)] ++
  [dieView Reg.THIST_H_UNDER (fun d u => (d.snapBank u).under), dieView Reg.THIST_H_OVER (fun d u => (d.snapBank u).above),
    dieView Reg.THIST_H_COUNT (fun d u => clipU 32 (d.snapBank u).count), dieView Reg.THIST_H_MIN (fun d u => sample32 (d.snapBank u).min),
    dieView Reg.THIST_H_MAX (fun d u => sample32 (d.snapBank u).max),
    dieView Reg.THIST_H_DROP_CNT (fun d u => countUp Reg.THIST_H_DROP_CNT u 0 (d.snapBank u).drop),
    dieView Reg.THIST_BKT (fun d k => countAt (d.snapBank (d.rd Reg.THIST_BKT_SEL)).bkt k),
    dieView Reg.THIST_H_SUM_LO (fun d _ => unsigned 64 (d.snapBank (d.rd Reg.THIST_BKT_SEL)).sum % 2 ^ 32),
    dieView Reg.THIST_H_SUM_HI (fun d _ => unsigned 64 (d.snapBank (d.rd Reg.THIST_BKT_SEL)).sum / 2 ^ 32),
    dieView Reg.THIST_SL_COUNT (fun d s => (d.snapSlot s).count), dieView Reg.THIST_SL_OVER (fun d s => (d.snapSlot s).above),
    dieView Reg.THIST_SL_MAX (fun d s => (d.snapSlot s).max),
    dieView Reg.TDET_FLAGS_LO (fun d _ => d.cap.flagSnap % 2 ^ 32), dieView Reg.TDET_FLAGS_HI (fun d _ => d.cap.flagSnap / 2 ^ 32),
    dieView Reg.TDET_D_STATE_A (fun d i => clip32 ((d.cap.det.getD i ⟨0, 0, false⟩).a / 65536)),
    dieView Reg.TDET_D_STATE_B (fun d i => clip32 ((d.cap.det.getD i ⟨0, 0, false⟩).b / 65536))]

/-- Fields of TTAP that read the slot, the chunk entry or the store shown (R303). -/
def dieViewsC : List (Fld × (Tdu → Nat → Nat)) :=
  [dieView Reg.TTAP_KEY_STATE_LOADED (fun d _ => bit d.shownKey.isSome),
    dieView Reg.TTAP_KEY_STATE_EPOCH_LO (fun d _ => match d.shownKey with | some k => k.epoch | none => 0),
    dieView Reg.TTAP_RES_STATE_STATE (fun d _ => match d.shownRes with | some r => r.st | none => 0),
    dieView Reg.TTAP_RES_STATE_COLL (fun d _ => match d.shownRes with | some r => r.coll | none => 0),
    dieView Reg.TTAP_RES_STATE_INST (fun d _ => match d.shownRes with | some r => r.inst | none => 0),
    dieView Reg.TTAP_RES_DIG_LO (fun d _ => d.shownDig % 2 ^ 32), dieView Reg.TTAP_RES_DIG_HI (fun d _ => d.shownDig / 2 ^ 32),
    dieView Reg.TTAP_RES_WORDS (fun d _ => match d.shownRes with | some r => if r.st = 2 then r.words else 0 | none => 0),
    dieView Reg.TTAP_RES_JOB (fun d _ => match d.shownRes with | some r => r.job | none => 0xFFFF),
    dieView Reg.TTAP_CH_STATE_VALID (fun d _ => bit d.tap.store.stored.isSome),
    dieView Reg.TTAP_CH_STATE_FROZEN (fun d _ => bit d.tap.store.frozen.isSome),
    dieView Reg.TTAP_CH_STATE_INST (fun d _ => match d.tap.store.stored with | some (_, i, _) => i | none => 0),
    dieView Reg.TTAP_CH_PERIOD (fun d _ => match d.tap.store.stored with | some (_, _, p) => p | none => 0),
    dieView Reg.TTAP_CH_DIG_LO (fun d _ => countAt d.tap.store.entries (d.rd Reg.TTAP_CH_IDX) % 2 ^ 32)] ++
  [dieView Reg.TTAP_CH_DIG_HI (fun d _ => countAt d.tap.store.entries (d.rd Reg.TTAP_CH_IDX) / 2 ^ 32)]

/-- What a header field of a TDU page reads (R433), where it is no stored register. -/
def Tdu.headerView (d : Tdu) (f : Fld) : Option Nat :=
  let p := f.page
  if f.id = (Reg.PG_ID_PAGE p).id then some p
  else if f.id = (Reg.PG_ID_PVER p).id then some 1
  else if f.id = (Reg.PG_ID_REV p).id then some 0x20
  else if f.id = (Reg.PG_ID_BLOCK p).id then some 2
  else if f.id = (Reg.PG_CAP_SECTION p).id then some 0xF
  else if f.id = (Reg.PG_CAP_ISLAND p).id then some 0
  else if f.id = (Reg.PG_CAP_SHADOWED p).id then some (bit ((Reg.functional p).any (·.acc == .rws)))
  else if f.id = (Reg.PG_STATUS_LOCKED p).id then some (d.rd (Reg.PG_LOCK p))
  else if f.id = (Reg.PG_STATUS_SHADOW_DIFF p).id then some (bit (!(d.regs.changed p 0).isEmpty))
  else if f.id = (Reg.PG_STATUS_SCHED p).id then some (bit ((schedMask d.emit.sc).testBit (p - 0x20)))
  else if f.id = (Reg.PG_STROBE_GRP p).id then some (p - 0x20)
  else none

/-- The value that a field instance reads (R12, R430): in the shadow view an RWS field reads its shadow. -/
def Tdu.view (d : Tdu) (shadow : Bool) (f : Fld) (i : Nat) : Nat :=
  match d.headerView f with
  | some v => v
  | none =>
    match (dieViewsA ++ dieViewsB ++ dieViewsC).find? fun v => v.1.id == f.id with
    | some v => v.2 d i
    | none =>
      if f.acc = .wo then 0
      else if shadow && f.acc == .rws then d.regs.getShadow f i 0
      else d.rd f i

/-- The page and byte offset of an address of the TDU window, and whether it lies in the shadow view (R429, R430). -/
def dieAddr (a : Nat) : Option (Nat × Nat × Bool) :=
  let b := a % 0x20000
  if a < 0x40000 ∧ b < 0xA000 then some (0x20 + b / 4096, b % 4096, decide (0x20000 ≤ a)) else none

/-- A whole read of a word through a port (R430, R431): its value, and the state with the pair's latch set. A high word whose low word the
port has not read since reset reads live (DESIGN CHOICE; assumption 70). -/
def Tdu.readWord (d : Tdu) (port : Port) (a : Nat) : Nat × Tdu :=
  match dieAddr (a / 4 * 4) with
  | none => (0, d)
  | some (p, o, sh) =>
    let live (o : Nat) : Nat := wordValue p o (d.view sh)
    let n := (p - 0x20) * 4096 + o
    if latches p o then (live o, { d with regs := d.regs.setLatch port (n + 4) (live (o + 4)) })
    else ((d.regs.latched port n).getD (live o), d)

/-! ## Commits (R435 to R439) -/

/-- A parity mismatch on a page (R439): flag, note, safe state. The record's carriage is not laid down (assumption 15). -/
def Tdu.parityFault (d : Tdu) (page : Nat) (ws : List Nat) : Tdu :=
  let d := { d with regs := d.regs.noteParity page 0 ws }
  let d := d.pageErr page 0
  let d := { d with regs := d.regs.enterSafe page 0 fun _ => false }
  d.emitOut (.note 6 0x1001 (leBytes 1 page ++ zeros 3 ++ leBytes 4 (d.rd (Reg.PG_PARITY_FIRST page))))

/-- One unit of a commit (R437): it is taken whole where `ok` holds of the state that would follow, otherwise refused, flagged
and counted. A unit that nothing is staged for is left alone. -/
def dieUnit (page code : Nat) (fs : List (Fld × Nat)) (ok : Tdu → Bool) (count after : Tdu → Tdu) (a : Tdu × Verdict) :
    Tdu × Verdict :=
  let d := a.1
  if !d.regs.differs fs 0 then a
  else
    let d' := { d with regs := d.regs.commit fs 0 }
    if ok d' then (after d', a.2) else ((count d).pageErr page 1, a.2.add page code)

/-- Ranges of single fields of the TDU (R73, R104, R142, R303, R364). -/
def dieRanges : List Range :=
  [⟨Reg.TTIME_TW_TOL, 8, 4000⟩, ⟨Reg.TTIME_TW_LOST, 16, 1024⟩, ⟨Reg.TTIME_ECHO_INTV, 6, 14⟩, ⟨Reg.TCAP_EXP_CFG_N, 1, 255⟩,
    ⟨Reg.TTAP_CH_HOLD, 1, 1048575⟩, ⟨Reg.TTRC_SYNC_INTV, 0, 12⟩, ⟨Reg.TEMIT_POWER_CAP, 420, 1500⟩,
    ⟨Reg.TEMIT_MEMBW_CAP, 0, 262144⟩, ⟨Reg.TEMIT_SCR_PPM, 0, 200⟩, ⟨Reg.TEMIT_SCR_MAX, 0, 40000000⟩, ⟨Reg.TEMIT_RATE, 1, 32⟩,
    ⟨Reg.TEMIT_PATH_MASK, 0, 0x1FFF⟩]

/-- The counter in which a refused single field is counted beside PG_ERR (R74, R75, R104). -/
def dieRefCnt (f : Fld) (d : Tdu) : Tdu :=
  if f.id = Reg.TEMIT_POWER_CAP.id then d.bump Reg.TEMIT_POWER_REFUSED_CNT
  else if f.id = Reg.TEMIT_MEMBW_CAP.id then d.bump Reg.TEMIT_MEMBW_REFUSED_CNT
  else if f.id = Reg.TEMIT_SCR_PPM.id ∨ f.id = Reg.TEMIT_SCR_MAX.id then d.bump Reg.TEMIT_SCR_REFUSED_CNT
  else if f.id = Reg.TEMIT_RATE.id ∨ f.id = Reg.TEMIT_PATH_MASK.id then d.bump Reg.TEMIT_EMIT_FIT_REFUSED_CNT
  else d

/-- Commit fields one by one under their ranges. -/
def dieSingles (page : Nat) (fs : List (Fld × Nat)) (a : Tdu × Verdict) : Tdu × Verdict :=
  fs.foldl (fun a fi => dieUnit page Code.fit [fi] (fun d => rangeOk dieRanges fi.1 (d.rd fi.1 fi.2)) (dieRefCnt fi.1) id a) a

/-- Emission entry `i` (R78, R104): enabled, consist, divisor, phase and path. -/
structure Entry where
  en : Bool
  consist : Nat
  div : Nat
  phase : Nat
  path : Nat

/-- Emission entry `i` as committed. -/
def Tdu.entry (d : Tdu) (i : Nat) : Entry :=
  ⟨d.rd Reg.TEMIT_ENT_EN i == 1, d.rd Reg.TEMIT_ENT_CONSIST i, d.rd Reg.TEMIT_ENT_DIV i, d.rd Reg.TEMIT_ENT_PHASE i,
    d.rd Reg.TEMIT_ENT_PATH i⟩

/-- The enabled entries with their indices. -/
def Tdu.entries (d : Tdu) : List (Nat × Entry) := ((List.range 16).map fun i => (i, d.entry i)).filter (·.2.en)

/-- The largest length of a consist that the TDU holds (R80, R166, R141); none where it holds none of that id. -/
def Tdu.consistMax (d : Tdu) (id : Nat) : Option Nat :=
  if id = 0xFF00 then some 32
  else if id = 0xFF01 ∨ id = 0xFF02 then some 56
  else (d.held.find? (·.id == id)).map (·.maxLen)

/-- Serve a queue of lengths from an allowance: what is left of the queue (R80). -/
def serveLens : Nat → List Nat → List Nat
  | _, [] => []
  | left, n :: q => if n ≤ left then serveLens (left - n) q else n :: q

/-- The packing check of R80 over entries given as path and largest length. -/
def packOk80 (rate mask : Nat) (ents : List (Nat × Nat)) : Bool :=
  let b := rate * 128
  let q := (List.range 13).foldl (fun q k =>
    let q := q ++ (ents.filter (·.1 == k)).map (·.2)
    if mask.testBit k then serveLens b q else q) []
  ents.all (fun e => decide (e.2 ≤ b)) && q.isEmpty

/-- The configuration in place passes R78 and R80. With a mask of 0 no pulse entry is needed, and R80 still refuses any enabled
entry, whose queue would never empty. -/
def Tdu.emitFits (d : Tdu) : Bool :=
  let es := d.entries.map (·.2)
  let mask := d.rd Reg.TEMIT_PATH_MASK
  (List.range 16).all (fun i => decide ((d.entry i).path ≤ 12)) && es.all (fun e => (d.consistMax e.consist).isSome) &&
    (mask == 0 || es.any (fun e => e.consist == 0xFF00)) &&
    packOk80 (d.rd Reg.TEMIT_RATE) mask (es.map fun e => (e.path, (d.consistMax e.consist).getD 0))

/-- The fields of the emission entries. -/
def entryFields : List (Fld × Nat) := (rwsFields 0x29).filter fun fi => fi.1.off == 0x100

/-- Commit RATE, PATH_MASK and the entries (R74, R75, R78, R80): each of the first two under its own range, then all together
under the packing check; where that fails the previous values stay in force. -/
def dieEmitUnit (a : Tdu × Verdict) : Tdu × Verdict :=
  let rm := [(Reg.TEMIT_RATE, 0), (Reg.TEMIT_PATH_MASK, 0)]
  let old := a.1.regs
  if !old.differs (rm ++ entryFields) 0 then a
  else
    let b := dieSingles 0x29 rm a
    let d' := { b.1 with regs := b.1.regs.commit entryFields 0 }
    if d'.emitFits then (d', b.2)
    else
      let keep (r : RegFile) : RegFile := rm.foldl (fun r fi => r.put fi.1 fi.2 0 (old.get fi.1 fi.2 0)) r
      ((({ b.1 with regs := keep b.1.regs }).bump Reg.TEMIT_EMIT_FIT_REFUSED_CNT).pageErr 0x29 1, b.2.add 0x29 Code.fit)

/-- The fields of instance `i` of a page's RWS fields with offsets from `lo` to `hi`. -/
def unitFields (page lo hi i : Nat) : List (Fld × Nat) :=
  ((Reg.functional page).filter fun f => f.acc == .rws && decide (lo ≤ f.off) && decide (f.off ≤ hi)).map fun f => (f, i)

/-- Trigger generator `k` (R88, R89): KIND 3 is refused; a firing of the running period whose instant has passed is missed. -/
def dieTrgUnit (k : Nat) : Tdu × Verdict → Tdu × Verdict :=
  dieUnit 0x29 Code.fit (unitFields 0x29 0x200 0x204 k) (fun d => d.rd Reg.TEMIT_TRG_CTRL_KIND k != 3)
    (·.bump Reg.TEMIT_EMIT_FIT_REFUSED_CNT) fun d =>
      let at_ := d.per * 2 ^ 18 + d.rd Reg.TEMIT_TRG_OFFSET k
      if d.timed && d.trgDue k at_ && decide (at_ < d.now) then d.bump Reg.TEMIT_TRG_MISS_CNT k else d

/-- Histogram unit `u` (R129). -/
def dieHistUnit (u : Nat) : Tdu × Verdict → Tdu × Verdict :=
  dieUnit 0x24 Code.fit (unitFields 0x24 0x100 0x104 u)
    (fun d => decide (d.rd Reg.THIST_H_CTRL_SRC u ≤ 5) && decide (d.rd Reg.THIST_H_CTRL_E u ≤ 32)) id
    fun d => d.setHist u fun h => { h with live := Bank.reset, held := [] }

/-- The configuration of detector slot `i` meets R136. -/
def Tdu.detOk (d : Tdu) (i : Nat) : Bool :=
  let kind := d.rd Reg.TDET_D_CTRL_KIND i
  let src := d.rd Reg.TDET_D_CTRL_SRC i
  let arg := d.rd Reg.TDET_D_ARG i
  let p0 := signed 32 (d.rd Reg.TDET_D_P0 i)
  let p1 := signed 32 (d.rd Reg.TDET_D_P1 i)
  let p2 := d.rd Reg.TDET_D_P2 i
  (match kind with
    | 0 => decide (p1 ≤ p0)
    | 1 => decide (0 ≤ p1) && decide (0 < signed 32 p2)
    | 2 => decide (p1 ≤ p0) && decide (1 ≤ bits p2 0 16) && decide (1 ≤ bits p2 16 16)
    | _ => false) &&
  decide (src ≤ 10) && (src != 10 || (decide (arg < i) && d.rd Reg.TDET_D_CTRL_KIND arg == 0))

/-- Detector slot `i` (R136). -/
def dieDetUnit (i : Nat) : Tdu × Verdict → Tdu × Verdict :=
  dieUnit 0x25 Code.fit (unitFields 0x25 0x100 0x110 i) (·.detOk i) (·.bump Reg.TDET_CFG_REFUSED_CNT) fun d =>
    let d := { d with cap := { d.cap with det := modifyAt (fun _ => ⟨0, 0, false⟩) i d.cap.det } }
    (d.wr Reg.TDET_D_FLAG_UPPER 0 i).wr Reg.TDET_D_FLAG_LOWER 0 i

/-- An enable under the power cap (R96, R97): `d` has it set. -/
def Tdu.powerOk (d : Tdu) : Bool := decide (d.powerRsv ≤ d.rd Reg.TEMIT_POWER_CAP)

/-- Take bit `b` of LINK_EN from its shadow; a rise beyond the power cap is refused (R97). -/
def dieLinkBit (b : Nat) (a : Tdu × Verdict) : Tdu × Verdict :=
  let d := a.1
  let cur := d.rd Reg.TTAP_LINK_EN
  let want := (d.regs.getShadow Reg.TTAP_LINK_EN 0 0).testBit b
  if cur.testBit b = want then a
  else if !want then (d.wr Reg.TTAP_LINK_EN (cur - 2 ^ b), a.2)
  else
    let d' := d.wr Reg.TTAP_LINK_EN (cur + 2 ^ b)
    if d'.powerOk then (d', a.2)
    else ((d.bump Reg.TEMIT_POWER_REFUSED_CNT).pageErr 0x26 1, a.2.add 0x26 Code.quota)

/-- Every loaded pattern could still be granted (R297). -/
def Tdu.packsFit (d : Tdu) : Bool :=
  d.scr.packs.all fun o => match o with
    | some k => !k.tooLong (d.rd Reg.TSCR_SLICE_MAX) (d.rd Reg.TSCR_MG_SETTLE) (d.rd Reg.TEMIT_SCR_MAX)
    | none => true

/-- An enable of one bit that charges power (R97); `off` follows its fall. -/
def dieEnable (page : Nat) (f : Fld) (off : Tdu → Tdu) (a : Tdu × Verdict) : Tdu × Verdict :=
  dieUnit page Code.quota [(f, 0)] (fun d => d.rd f == 0 || d.powerOk) (·.bump Reg.TEMIT_POWER_REFUSED_CNT)
    (fun d => if d.rd f = 0 then off d else d) a

/-- The trace configuration but for its enable (R357). -/
def traceFields : List (Fld × Nat) := (rwsFields 0x28).filter fun fi => fi.1.id != Reg.TTRC_CTRL_EN.id

/-- Commit the trace page (R356, R357): where its configuration is refused, nothing of it is taken. -/
def dieTraceUnit (a : Tdu × Verdict) : Tdu × Verdict :=
  let d := a.1
  if !d.regs.differs (rwsFields 0x28) 0 then a
  else
    let sh (f : Fld) : Nat := d.regs.getShadow f 0 0
    if 5 < sh Reg.TTRC_TRIG_SRC ∨ 1048512 < 65536 * sh Reg.TTRC_PRE + sh Reg.TTRC_POST then
      ((d.bump Reg.TTRC_CFG_REF_CNT).pageErr 0x28 1, a.2.add 0x28 Code.fit)
    else
      let was := d.rd Reg.TTRC_CTRL_EN
      let a := dieSingles 0x28 traceFields a
      let a := dieEnable 0x28 Reg.TTRC_CTRL_EN (fun d => d.traceOff) a
      if was = 0 ∧ a.1.rd Reg.TTRC_CTRL_EN = 1 then (a.1.traceOn, a.2) else a

/-- SCR_MAX under both its range and the loaded patterns (R104, R297). -/
def dieScrMax (a : Tdu × Verdict) : Tdu × Verdict :=
  let sh := a.1.regs.getShadow Reg.TEMIT_SCR_MAX 0 0
  let cnt (d : Tdu) : Tdu :=
    if 40000000 < sh then d.bump Reg.TEMIT_SCR_REFUSED_CNT else d.bump Reg.TSCR_PK_REFUSED_CNT
  dieUnit 0x29 Code.fit [(Reg.TEMIT_SCR_MAX, 0)] (fun d => decide (sh ≤ 40000000) && d.packsFit) cnt id a

/-- The fields of TEMIT that no unit above takes. -/
def emitSingles : List (Fld × Nat) :=
  [(Reg.TEMIT_POWER_CAP, 0), (Reg.TEMIT_MEMBW_CAP, 0), (Reg.TEMIT_INTR_CAP, 0), (Reg.TEMIT_SCR_PPM, 0)]

/-- Commit one page's shadows under its chapter's checks. -/
def dieCommitFields (page : Nat) (a : Tdu × Verdict) : Tdu × Verdict :=
  match page with
  | 0x23 => forIdx 64 (fun i => dieUnit 0x23 Code.fit (unitFields 0x23 0x400 0x400 i)
      (fun d => d.rd Reg.TPMU_CFG_MODE i != 3) id id) (dieSingles 0x23 ((rwsFields 0x23).filter fun fi => fi.1.off != 0x400) a)
  | 0x24 => forIdx 16 dieHistUnit (dieSingles 0x24 [(Reg.THIST_SLOT_THR, 0)] a)
  | 0x25 => forIdx 32 dieDetUnit a
  | 0x26 => dieSingles 0x26 [(Reg.TTAP_CH_SLOT, 0), (Reg.TTAP_CH_HOLD, 0)] (dieLinkBit 1 (dieLinkBit 0 a))
  | 0x27 =>
    let a := dieUnit 0x27 Code.fit [(Reg.TSCR_SLICE_MAX, 0), (Reg.TSCR_MG_SETTLE, 0)] (·.packsFit)
      (·.bump Reg.TSCR_PK_REFUSED_CNT) id a
    let a := dieEnable 0x27 Reg.TSCR_EN (fun d => d.withdraw) a
    dieSingles 0x27 [(Reg.TSCR_STAGE_BASE_LO, 0), (Reg.TSCR_STAGE_BASE_HI, 0), (Reg.TSCR_STAGE_SIZE, 0), (Reg.TSCR_REQ_TMO, 0)] a
  | 0x28 => dieTraceUnit a
  | 0x29 =>
    forIdx 8 dieTrgUnit (dieEmitUnit (dieScrMax (dieSingles 0x29 emitSingles a)))
  | _ => dieSingles page (rwsFields page) a

/-- Commit one page (R437, R439): parity first, then the safe state, then its shadows. -/
def dieCommitPage (page : Nat) (a : Tdu × Verdict) : Tdu × Verdict :=
  let d := a.1
  let safe := d.rd (Reg.PG_STATUS_SAFE page) == 1
  let bad := d.regs.badWords page 0
  if safe && d.rd (Reg.PG_ERR_CFG_PARITY page) == 1 then a
  else if !bad.isEmpty then (d.parityFault page bad, a.2.add page Code.fit)
  else
    let d := if safe then { d with regs := d.regs.leaveSafe page 0 fun _ => false } else d
    dieCommitFields page (d, a.2)

/-- Commit the groups of a mask, in one cycle (R437). TEMIT comes first, so that every enable is judged by the cap that the same
commit leaves (assumption 16). -/
def Tdu.commitGroups (d : Tdu) (mask : Nat) : Tdu :=
  let gs := [9, 0, 1, 2, 3, 4, 5, 6, 7, 8].filter (mask.testBit ·)
  if gs.isEmpty then d
  else
    let (d, v) := gs.foldl (fun a g => dieCommitPage (0x20 + g) a) (d, Verdict.none)
    (d.wr Reg.TGEN_UPD_STAT_CODE v.code).wr Reg.TGEN_UPD_STAT_PAGE (if v.page = 0x100 then 0 else v.page)

/-- The groups whose shadows a scheduled commit freezes (R85). -/
def Tdu.frozen (d : Tdu) (g : Nat) : Bool := (schedMask d.emit.sc).testBit g

/-- The groups that an immediate strobe commits at once (R436). -/
def dieImmediate : Nat := 0x1CB

/-- A write of UPD_STROBE (R85, R435, R436). -/
def Tdu.strobe (d : Tdu) (mask : Nat) (imm : Bool) : Tdu :=
  let refused := (List.range 16).filter fun g => mask.testBit g && d.frozen g
  let d := forEach refused (fun g d =>
    let d := d.bump Reg.TGEN_SCHED_BUSY_CNT
    if g < 10 then d.pageErr (0x20 + g) 2 else d) d
  let rest := mask - Nat.land mask (schedMask d.emit.sc)
  let now := if imm then Nat.land rest dieImmediate else 0
  let d := d.wr Reg.TGEN_UPD_PEND (Nat.lor (d.rd Reg.TGEN_UPD_PEND) (rest - now))
  let d := d.commitGroups now
  match refused with
  | [] => d
  | g :: _ => (d.wr Reg.TGEN_UPD_STAT_CODE Code.busy).wr Reg.TGEN_UPD_STAT_PAGE (0x20 + g)

/-! ## Writes (R432, R440, R474) -/

/-- The die host may not write a field (R474). -/
def hostBarred (f : Fld) : Bool :=
  f.page == 0x21 || f.page == 0x29 || f.page == 0x27 || f.id == Reg.TGEN_RANK.id ||
    [Reg.TTAP_LINK_EN, Reg.TTAP_CH_SLOT, Reg.TTAP_CH_HOLD].any (·.id == f.id) ||
    (f.page == 0x28 && !([Reg.TTRC_CTRL_EN, Reg.TTRC_CTRL_MODE, Reg.TTRC_PRE, Reg.TTRC_POST, Reg.TTRC_TRIG_SRC, Reg.TTRC_TRIG_ARG,
      Reg.TTRC_TS_GRAN, Reg.TTRC_SYNC_INTV, Reg.TTRC_AUTH_REVOKE, Reg.TTRC_CMD_ARM, Reg.TTRC_CMD_TRIG_GO].any (·.id == f.id)))

/-- A field that PG_LOCK protects (R440). -/
def lockable (f : Fld) : Bool := f.cfg && f.id != (Reg.PG_SCRATCH f.page).id

/-- A revocation ends the authorisation (R354, R364). -/
def Tdu.authRevoke (d : Tdu) : Tdu := d.endAuth

/-- What a write starts beyond its fields: PG_ERR.CNT_CLR, UPD_STROBE, the programmable counters, the trace commands. -/
def Tdu.command (d : Tdu) (page o v : Nat) (locked : Bool) : Tdu :=
  let d := if o = 0xC ∧ v.testBit 15 then d.wr (Reg.PG_ERR_CNT page) 0 else d
  let at_ (f : Fld) : Option Nat := if f.page = page then f.instAt o else none
  if (at_ Reg.TGEN_UPD_STROBE_MASK).isSome then d.strobe (bits v 0 16) (v.testBit 16)
  else match at_ Reg.TPMU_PRG_LO, at_ Reg.TPMU_PRG_HI with
    | some k, _ => if locked then d else d.prgLo k v
    | _, some k => if locked then d else d.prgHi k v
    | none, none =>
      if (at_ Reg.TTRC_CMD_ARM).isSome then
        let d := if v.testBit 0 then d.traceArm else d
        if v.testBit 1 then d.traceTrigger 0 0 else d
      else if (at_ Reg.TTRC_AUTH_REVOKE).isSome && v.testBit 0 then d.authRevoke
      else d

/-- PG_PARITY.INJECT is taken in BLANK, FIELD_DEBUG and RETURNED (R433, R445). -/
def injectAllowed (lc : Nat) : Bool := lc == 0 || decide (3 ≤ lc)

/-- A write of `len` bytes at an address of the TDU window through a port (R427 to R440, R474). -/
def Tdu.regWrite (d : Tdu) (port : Port) (a len v : Nat) : Tdu :=
  if !d.reachable then d
  else if len ≠ 4 ∨ a % 4 ≠ 0 then d.bump Reg.TGEN_ACC_ERR_CNT
  else match dieAddr a with
    | none => d.bump Reg.TGEN_ACC_ERR_CNT
    | some (p, o, _) =>
      let fs := wordFields p o
      if !wordWritable p o then d.bump Reg.TGEN_ACC_ERR_CNT
      else if port = .host ∧ fs.any (fun fi => hostBarred fi.1) then
        let d := d.pageErr p 4
        if p = 0x29 then d.bump Reg.TEMIT_HOST_WR_REFUSED_CNT else d.bump Reg.TGEN_HOST_WR_REF_CNT
      else
        let locked := d.rd (Reg.PG_LOCK p) == 1
        let d := if locked && fs.any (fun fi => lockable fi.1) then d.pageErr p 3 else d
        if !locked && d.frozen (p - 0x20) && fs.any (fun fi => fi.1.acc == .rws) then
          (d.bump Reg.TGEN_SCHED_BUSY_CNT).pageErr p 2
        else
          let keep (f : Fld) : Bool := (locked && lockable f) ||
            (f.id == (Reg.PG_PARITY_INJECT p).id && !injectAllowed d.fuses.lc) || f.id == Reg.TPMU_PRG_LO.id ||
            f.id == Reg.TPMU_PRG_HI.id
          (({ d with regs := d.regs.writeWord p 0 o v keep }).driveWritten d).command p o v locked

/-- A write that R431 or R432 would refuse on the TAU path (R466). -/
def dieWriteRefused (a : Nat) : Bool :=
  a % 4 != 0 || (match dieAddr a with | none => true | some (p, o, _) => !wordWritable p o)

/-- Parity of the values in use, checked at a period boundary (R439): words that `upset` names, and configuration written with
inverted parity that has no shadow of its own. -/
def Tdu.checkParity (d : Tdu) (upset : List (Nat × Nat)) : Tdu :=
  forEach Reg.tduPages (fun p d =>
    let ws := (upset.filter (·.1 == p)).map (·.2) ++ (d.regs.badWords p 0).filter (plainWord p)
    if ws.isEmpty || d.rd (Reg.PG_STATUS_SAFE p) == 1 then d else d.parityFault p ws) d

end Sys2Proof.Machine
end

