-- ==== Sys2Proof/Machine/Siding.lean ====
section
/-!
DEFINITION. The sidings of a TRAY TAU's trace channels (R360 to R362, R369).
-/

namespace Sys2Proof.Machine

/-- Trace channel `c`. -/
def Tau.chan (x : Tau) (c : Nat) : TraceCh := x.chans.getD c TraceCh.reset

/-- The state with trace channel `c` changed. -/
def Tau.setChan (x : Tau) (c : Nat) (f : TraceCh → TraceCh) : Tau := { x with chans := modifyAt f c x.chans }

/-- The section that serves channel `c`: that of the die's link A (R35, R360). -/
def Tau.chanHome (x : Tau) (c : Nat) : Nat := x.linkHome c

/-- Channel `c` runs. -/
def Tau.chanOn (x : Tau) (c : Nat) : Bool := x.isTray && x.rd Reg.REC_SD_CTRL_EN c (x.chanHome c) == 1

/-- Channel `c` is compressed. -/
def Tau.chanZip (x : Tau) (c : Nat) : Bool := x.rd Reg.REC_SD_CTRL_DEFLATE c (x.chanHome c) == 1

/-! ## Grants (R361, R369, R465) -/

/-- Bytes that the posted sidings can still take. -/
def TraceCh.room (k : TraceCh) : Nat := k.posted.foldl (fun n q => n + (q.size - q.fill)) 0

/-- Trace data that the posted sidings can take: records are stored whole, each in one siding, with up to 972 data bytes and 52 of
overhead (R359, R361). -/
def TraceCh.dataRoom (k : TraceCh) : Nat :=
  k.posted.foldl (fun n q =>
    let free := q.size - q.fill
    n + free / 1024 * 972 + (free % 1024 / 8 * 8 - 52)) 0

/-- The most bytes that a channel may have granted and not received. -/
def Tau.grantMost (x : Tau) (c : Nat) : Nat :=
  let k := x.chan c
  if x.chanZip c then
    let held := k.orig.length + (k.more.map (·.2.length)).foldl (· + ·) 0
    let avail := k.room - held - k.wait.length
    let blk := Nat.max 1 (x.rd Reg.CMP_BLK_OLEN)
    Nat.min (x.rd Reg.REC_SD_WIN) (avail - 16 * ceilDiv (held + avail) blk)
  else Nat.min (x.rd Reg.REC_SD_WIN) k.dataRoom

/-- A trace grant record (R465). -/
def grantRecord (reset : Bool) (n : Nat) : List Byte :=
  mkControl (leBytes 1 0xB6 ++ leBytes 1 (bit reset) ++ zeros 2 ++ leBytes 4 n)

/-- Grant what channel `c` may still be granted; a channel with nothing posted is dry, and counted once (R361). -/
def Tau.sidingGrant (x : Tau) (c : Nat) : Tau :=
  let h := x.chanHome c
  let k := x.chan c
  if !x.chanOn c then x
  else if k.posted.isEmpty then
    if x.rd Reg.REC_SD_STAT_DRY c h = 1 then x else (x.wr Reg.REC_SD_STAT_DRY 1 c h).bump Reg.REC_SD_DRY_CNT c h
  else
    let x := x.wr Reg.REC_SD_STAT_DRY 0 c h
    let n := x.grantMost c - k.granted
    if n = 0 then x
    else (x.setChan c fun k => { k with granted := k.granted + n, fresh := false }).sendDown c (grantRecord k.fresh n)

/-! ## Sidings -/

/-- A siding completes (R361): what the TAU writes into its descriptor, its count and its interrupt. -/
def Tau.sidingDone (x : Tau) (c : Nat) (q : Siding) (stopped : Bool) : Tau :=
  let st := 1 + 2 * bit q.gap + 4 * bit (x.chanZip c || (x.chan c).closing) + 8 * bit stopped
  let x := x.emitOut (.hbm (q.ofs + 12) (leBytes 4 q.fill ++ leBytes 8 (q.t0.getD 0) ++ leBytes 4 st))
  (x.bump Reg.REC_SD_DONE_CNT c (x.chanHome c)).raise 2

/-- The current siding completes, and the chain goes to the next. -/
def Tau.sidingNext (x : Tau) (c : Nat) (stopped : Bool) : Tau :=
  match (x.chan c).posted with
  | [] => x
  | q :: qs => (x.setChan c fun k => { k with posted := qs }).sidingDone c q stopped

/-- Complete sidings while record bytes `n` do not fit in the rest of the current one. -/
def Tau.sidingFit (x : Tau) (c n : Nat) : Nat → Tau
  | 0 => x
  | k + 1 =>
    match (x.chan c).posted with
    | [] => x
    | q :: _ => if q.fill + n ≤ q.size then x else (x.sidingNext c false).sidingFit c n k

/-- A record, whole, into the current siding of a stored channel, which has room for it. -/
def Tau.sidingPut (x : Tau) (c t64 : Nat) (gap : Bool) (r : List Byte) : Tau :=
  match (x.chan c).posted with
  | [] => x
  | q :: qs =>
    let q' := { q with fill := q.fill + r.length, t0 := some (q.t0.getD t64), gap := q.gap || gap }
    (x.emitOut (.hbm (q.base + q.fill) r)).setChan c fun k => { k with posted := q' :: qs }

/-! ## Compressed channels (R361, R369, R372, R373) -/

/-- Write waiting compressed bytes into the chain; a siding that fills is complete once no CBLK that begins in it is still being
written. -/
def Tau.sidingPump (x : Tau) (c : Nat) : Nat → Tau
  | 0 => x
  | n + 1 =>
    let k := x.chan c
    if k.wait.isEmpty then
      let x := k.full.foldl (fun x q => x.sidingDone c q false) (x.setChan c fun k => { k with full := [] })
      match k.posted with
      | q :: _ => if q.fill = q.size then x.sidingNext c false else x
      | [] => x
    else
      match k.posted with
      | [] => x
      | q :: qs =>
        let b := k.wait.take (q.size - q.fill)
        let q' := { q with fill := q.fill + b.length, t0 := if q.t0.isSome || b.isEmpty then q.t0 else k.waitT }
        let x := if b.isEmpty then x else (x.emitOut (.hbm (q.base + q.fill) b)).ctxMoved (x.chanHome c) 1 c 0 b.length
        let rest := k.wait.drop b.length
        let waitT := if b.isEmpty then k.waitT else none
        let x := x.setChan c fun k =>
          if rest.isEmpty then { k with posted := q' :: qs, wait := [], waitT := none }
          else { k with posted := qs, full := k.full ++ [q'], wait := rest, waitT := waitT }
        x.sidingPump c n

/-- Close the open CBLK of channel `c` and write it out; a stop for want of room is counted (R373). -/
def Tau.sidingClose (x : Tau) (c : Nat) : Tau :=
  let k := x.chan c
  if k.orig.isEmpty || !k.wait.isEmpty then x
  else
    let h := x.chanHome c
    let e := encodeCblk (x.rd Reg.CMP_EFFORT) 0 false k.orig
    let x := (x.encoded h k.orig.length).bumpBy Reg.CMP_RAW_CNT (bit e.raw) (s := h)
    let x := x.setChan c fun k => { k with orig := [], wait := e.block.getD [], waitT := some k.origT }
    let x := x.sidingPump c 18
    if (x.chan c).wait.isEmpty then x else x.bump Reg.CMP_WAIT_OUT_CNT (s := h)

/-- A record joins the open CBLK, which closes when it reaches BLK_OLEN (R369). -/
def Tau.sidingAdd (x : Tau) (c t64 : Nat) (r : List Byte) : Tau :=
  let x := x.setChan c fun k => { k with orig := k.orig ++ r, origT := if k.orig.isEmpty then t64 else k.origT }
  let x := x.ctxMoved (x.chanHome c) 1 c r.length 0
  if Nat.max 1 (x.rd Reg.CMP_BLK_OLEN) ≤ (x.chan c).orig.length then x.sidingClose c else x

/-- The records that wait are taken up to the next stop of the output (R373). -/
def Tau.sidingFeed (x : Tau) (c : Nat) : Nat → Tau
  | 0 => x
  | n + 1 => match (x.chan c).more with
    | [] => x
    | (t, r) :: rest =>
      if !(x.chan c).wait.isEmpty then x else ((x.setChan c fun k => { k with more := rest }).sidingAdd c t r).sidingFeed c n

/-- Channel `c` ends: its current siding completes with STOPPED (R362). -/
def Tau.sidingStop (x : Tau) (c : Nat) : Tau :=
  (x.sidingNext c true).setChan c fun k => { k with granted := 0, orig := [], wait := [], waitT := none, more := [], closing := false }

/-- A channel that was switched off closes its CBLK and ends, once its output has room (R373, R375). -/
def Tau.sidingEnd (x : Tau) (c : Nat) : Tau :=
  let x := x.sidingClose c
  if (x.chan c).wait.isEmpty then x.sidingStop c else x

/-- A channel goes on as far as its output has room: one that has to stop again is counted again (R373). -/
def Tau.sidingResume (x : Tau) (c : Nat) : Tau :=
  let was := (x.chan c).wait.length
  let x := x.sidingPump c 18
  let left := (x.chan c).wait.length
  let x := if left ≠ 0 ∧ left < was then x.bump Reg.CMP_WAIT_OUT_CNT (s := x.chanHome c) else x
  let x := x.sidingFeed c (x.chan c).more.length
  if (x.chan c).closing then x.sidingEnd c else x.sidingGrant c

/-! ## Posting (R360) -/

/-- A write of SD_POST (R360, R372). `mem`: the 32-byte descriptor. -/
def Tau.sidingPost (x : Tau) (v : Nat) (mem : List Byte) : Tau :=
  if !v.testBit 31 then x
  else
    let c := v % 16
    let ofs := x.rd Reg.REC_SD_OFS_LO * 32 + x.rd Reg.REC_SD_OFS_HI * 2 ^ 32
    let base := fieldAt mem 0 8
    let size := fieldAt mem 8 4
    let k := x.chan c
    if !x.isTray then (x.wr Reg.REC_SD_POST_STAT_CODE Code.fit).bump Reg.CMP_POST_REF_CNT (s := x.chanHome c)
    else if size < 4096 ∨ 2 ^ 30 < size ∨ size % 4096 ≠ 0 ∨ base % 4096 ≠ 0 ∨ x.rd Reg.TTB_HBM_PART * 2 ^ 30 < base + size then
      (x.wr Reg.REC_SD_POST_STAT_CODE Code.fit).bump Reg.CMP_POST_REF_CNT (s := x.chanHome c)
    else if 16 ≤ k.posted.length + k.full.length then
      (x.wr Reg.REC_SD_POST_STAT_CODE Code.busy).bump Reg.CMP_POST_REF_CNT (s := x.chanHome c)
    else
      let x := (x.wr Reg.REC_SD_POST_STAT_CODE Code.done).wr Reg.REC_SD_STAT_DRY 0 c (x.chanHome c)
      let x := x.setChan c fun k => { k with posted := k.posted ++ [⟨ofs, base, size, 0, none, false⟩] }
      x.sidingResume c

/-! ## Records (R361, R362) -/

/-- A TRACE BULK record of die `c`, which has passed the checks of R174. One that no posted siding of a stored channel has room for is
dropped like one that the SIDING quota refuses, and shows as a gap (assumption 26). -/
def Tau.bulkIn (x : Tau) (c : Nat) (r : List Byte) : Tau :=
  let h := x.chanHome c
  let ofs := fieldAt r 24 8
  let dlen := fieldAt r 36 2
  let reset := (fieldAt r 41 1).testBit 0
  let t64 := (Hdr.parse r).t
  if !x.chanOn c then x
  else
    let x := x.setChan c fun k =>
      if reset then { k with granted := 0, fresh := true } else { k with granted := k.granted - dlen }
    let x := if x.chanZip c then x else x.sidingFit c r.length 17
    if !x.chanZip c && (x.chan c).posted.isEmpty then (x.bump Reg.TTB_HBM_REF_CNT1 (s := h)).sidingGrant c
    else match x.hbmCharge h 1 r.length with
    | (x, false) => x.sidingGrant c
    | (x, true) =>
      let gap := decide (ofs ≠ (x.chan c).expect) && !reset
      let x := if gap then x.bump Reg.REC_SD_GAP_CNT c h else x
      let x := x.setChan c fun k => { k with expect := (ofs + dlen) % 2 ^ 64 }
      if x.chanZip c then
        let x := x.setChan c fun k =>
          { k with more := k.more ++ [(t64, r)], idle := x.per,
                   posted := if gap then modifyAt (fun q => { q with gap := true }) 0 k.posted else k.posted }
        x.sidingResume c
      else (x.sidingPut c t64 gap r).sidingGrant c

/-! ## Ends of a stream -/

/-- A channel idle for FLUSH_IDLE periods closes its CBLK (R369, R375). -/
def Tau.sidingFlush (x : Tau) (c : Nat) : Tau :=
  if x.chanOn c ∧ (x.chan c).idle + x.rd Reg.CMP_FLUSH_IDLE ≤ x.per then (x.sidingClose c).sidingGrant c else x

/-- Channel `c` is disabled (R362, R375). `zip`: it was compressed, and ends when its CBLK is written. -/
def Tau.sidingOff (x : Tau) (c : Nat) (zip : Bool) : Tau :=
  if zip then (x.setChan c fun k => { k with granted := 0, closing := true }).sidingEnd c else x.sidingStop c

/-- Channel `c` is enabled while it still ends: what it had left is given up. -/
def Tau.sidingOn (x : Tau) (c : Nat) : Tau := if (x.chan c).closing then x.sidingStop c else x

/-- The mode of a running channel is about to change: the CBLK closes, and a siding begun in the old mode completes. -/
def Tau.sidingMode (x : Tau) (c : Nat) : Tau :=
  let x := x.sidingClose c
  match (x.chan c).posted with
  | q :: _ => if 0 < q.fill then x.sidingNext c false else x
  | [] => x

/-- What the compression engine of section `s` loses when the section fails (R375): the open CBLK of each of its channels. -/
def Tau.sidingLost (x : Tau) (s : Nat) : Tau :=
  (List.range 16).foldl (fun x c =>
    if x.chanHome c ≠ s then x
    else if (x.chan c).closing then x.sidingStop c
    else if x.chanOn c && x.chanZip c then x.setChan c fun k => { k with orig := [], wait := [], waitT := none, more := [] }
    else x) x

/-- The channels of section `s` close their CBLKs at a drain's commit (R375). -/
def Tau.sidingDrain (x : Tau) (s : Nat) : Tau :=
  (List.range 16).foldl (fun x c => if x.chanOn c && x.chanZip c && x.chanHome c == s then x.sidingClose c else x) x

/-! ## Meanings -/

/-- CMP_FLUSH_IDLE. -/
def execCmpFlushIdle (t : T64) (s : State) : Host.Outcome State Fault Refusal :=
  .next (s.onIsland t fun x => (List.range 16).foldl Tau.sidingFlush x)

end Sys2Proof.Machine
end

