-- ==== Sys2Proof/Machine/Compress.lean ====
section
/-!
DEFINITION. The compression engine's host jobs and its contexts (R372 to R376).
-/

namespace Sys2Proof.Machine

/-- The engine of section `s`. -/
def Tau.eng (x : Tau) (s : Nat) : CmpSt := x.cmp.getD s CmpSt.reset

/-- The state with the engine of section `s` changed. -/
def Tau.setEng (x : Tau) (s : Nat) (f : CmpSt → CmpSt) : Tau := { x with cmp := modifyAt f s x.cmp }

/-! ## Descriptors (R372, R376) -/

/-- A buffer descriptor at an offset: the offset, base, size and nothing written yet. -/
def bufAt (ofs : Nat) (b : List Byte) : Nat × Nat × Nat × Nat := (ofs, fieldAt b 0 8, fieldAt b 8 4, 0)

/-- A buffer lies within R372; one in HBM within the partition. -/
def bufOk (part : Nat) (host : Bool) (q : Nat × Nat × Nat × Nat) : Bool :=
  decide (64 ≤ q.2.2.1 ∧ q.2.2.1 ≤ 2 ^ 30 ∧ q.2.2.1 % 64 = 0) && (host || decide (q.2.1 + q.2.2.1 ≤ part))

/-- Read a job: its 64-byte descriptor, its buffer descriptors and its source bytes (R376). What is out of range becomes OP 255. -/
def jobOf (part : Nat) (desc bufs src : List Byte) : CmpJob :=
  let op := fieldAt desc 0 1
  let fl := fieldAt desc 1 1
  let n := fieldAt desc 2 2
  let climit := fieldAt desc 4 4
  let slen := fieldAt desc 16 4
  let at_ := fieldAt desc 24 8
  let qs := (List.range n).map fun i => bufAt (at_ + 16 * i) (bufs.drop (16 * i))
  let len := if op = 0 then slen else Nat.min src.length (16 + fieldAt src 0 4)
  let ok := decide (op ≤ 1 ∧ fl < 4 ∧ 1 ≤ n ∧ n ≤ 16) && qs.all (bufOk part (fl.testBit 1)) && allZero ((desc.drop 40).take 24) &&
    (op == 1 || (decide (1 ≤ slen ∧ slen ≤ 2 ^ 24) && (climit == 0 || decide (17 ≤ climit))))
  { op := if ok then op else 255, error := fl.testBit 0, host := fl.testBit 1, climit := climit, src := src.take len,
    tag := fieldAt desc 20 4, cpl := fieldAt desc 32 8, bufs := if ok then qs else [] }

/-! ## Contexts -/

/-- The streaming users of section `s`, each of which reserves a context (R374): user and channel. -/
def Tau.cmpUsers (x : Tau) (s : Nat) : List (Nat × Nat) :=
  ((List.range 16).filter fun c => ((x.chanOn c && x.chanZip c) || (x.chan c).closing) && x.chanHome c == s).map (fun c => ((1 : Nat), c)) ++
    (if x.inService s && x.rd Reg.REC_LOG_SIZE != 0 && x.rd Reg.REC_LOG_CTRL_DEFLATE == 1 then [(2, 0)] else []) ++
    (if x.inService s && s == x.anySec && x.rd Reg.MGMT_EXP_CTRL_EN == 1 && x.rd Reg.MGMT_EXP_CTRL_VIA == 3 &&
        x.rd Reg.MGMT_EXP_CTRL_DEFLATE == 1 then [(3, 0)] else [])

/-- An empty job. -/
def CmpJob.empty : CmpJob := { op := 255, error := false, host := false, climit := 0, src := [], tag := 0, cpl := 0, bufs := [] }

/-- The context of a streaming user. -/
def CmpCtx.stream (u : Nat × Nat) : CmpCtx :=
  { user := u.1, ch := u.2, job := CmpJob.empty, todo := [], done := 0, inLen := 0, code := 0, detail := 0, raw := false,
    crcOk := false, crc := 0, stopped := false, resumed := false, owed := 0, ends := [], ending := false }

/-- The first context that is FREE. -/
def CmpSt.free (e : CmpSt) : Option Nat := firstIdx (fun c => c.isNone) e.ctxs

/-- The streaming users of section `s` hold a context each, and users that ended hold none. -/
def Tau.cmpReserve (x : Tau) (s : Nat) : Tau :=
  let us := x.cmpUsers s
  let x := x.setEng s fun e => { e with ctxs := e.ctxs.map fun c => match c with
    | some k => if k.user = 0 || us.contains (k.user, k.ch) then some k else none
    | none => none }
  us.foldl (fun x u =>
    let e := x.eng s
    if e.ctxs.any fun c => match c with | some k => decide (k.user = u.1 ∧ k.ch = u.2) | none => false then x
    else match e.free with
      | some i => x.setEng s fun e => { e with ctxs := modifyAt (fun _ => some (CmpCtx.stream u)) i e.ctxs }
      | none => x) x

/-! ## Charges (R102, R376) -/

/-- The most bytes of class `c` that section `s` may still be charged in this period (R102). -/
def Tau.hbmRoom (x : Tau) (s c : Nat) : Nat :=
  let used := x.eg.hbm.getD s []
  let rsv := x.hbmRsv s 0 + x.hbmRsv s 1 + x.hbmRsv s 2 + x.hbmRsv s 3
  let free := x.hbmShare s (x.rd Reg.TTB_HBM_QUOTA * 65536) - rsv
  let others := (List.range 4).foldl (fun n k => if k = c then n else n + (used.getD k 0 - x.hbmRsv s k)) 0
  Nat.max (x.hbmRsv s c - used.getD c 0) (if others ≤ free then x.hbmRsv s c + (free - others) - used.getD c 0 else 0)

/-- Charge up to `n` bytes of class RECORDER to section `s`: the state, and how many were granted. A part refused is counted. -/
def Tau.chargeUpTo (x : Tau) (s n : Nat) : Tau × Nat :=
  let k := Nat.min n (x.hbmRoom s 2)
  let x := if k = 0 then x else (x.hbmCharge s 2 k).1
  (if k < n then x.bump Reg.TTB_HBM_REF_CNT2 (s := s) else x, k)

/-! ## Running a job -/

/-- What a job gives, computed when its context takes it (R367 to R371). -/
def Tau.jobCtx (x : Tau) (j : CmpJob) : CmpCtx × Tau :=
  let k := { CmpCtx.stream (0, 0) with job := j, owed := 64 + 16 * j.bufs.length + j.src.length }
  if j.op = 0 then
    let e := encodeCblk (x.rd Reg.CMP_EFFORT) j.climit j.error j.src
    let (b, x) := x.pick 2
    ({ k with todo := e.block.getD [], inLen := e.taken, code := if e.block.isSome then Code.done else Code.incompressible,
              raw := e.raw, crcOk := b == 1, crc := crc32c (j.src.take e.taken),
              ends := if e.raw then [] else blockEnds ((e.block.getD []).drop 16) e.taken }, x)
  else if j.op = 1 then
    let d := decodeCblk j.src
    ({ k with todo := d.out, inLen := d.inLen, code := d.code, detail := d.detail, raw := (fieldAt j.src 13 1).testBit 0,
              crcOk := d.crcOk, crc := d.crc }, x)
  else ({ k with code := if j.op = 254 then Code.aborted else Code.fit, owed := if j.op = 254 then 0 else 64 }, x)

/-- How much input a job has consumed and the CRC over what it has (R373): a decoder up to the symbol in which its output stands, an
encoder up to the end of the block in which it stands (DEDUCED, assumption 80). A streaming context counts what has passed. -/
def CmpCtx.sofar (k : CmpCtx) : Nat × Nat :=
  if k.user ≠ 0 ∨ k.todo.isEmpty then (k.inLen, k.crc)
  else if k.done = 0 ∧ k.owed ≠ 0 then (0, crc32c [])
  else if k.job.op = 0 then
    let n := if k.raw then k.done - 16 else (((k.ends.filter fun e => decide (e.1 ≤ k.done)).getLast?).map (·.2)).getD 0
    (n, crc32c (k.job.src.take n))
  else
    let d := decodeTo k.job.src k.done
    (d.inLen, d.crc)

/-- Write bytes into a chain of buffers: the chain after, the writes as address and bytes, and what did not fit. -/
def fillBufs : List Byte → List (Nat × Nat × Nat × Nat) → List (Nat × Nat × Nat × Nat) × List (Nat × List Byte)
  | _, [] => ([], [])
  | b, (o, base, size, fill) :: qs =>
    let part := b.take (size - fill)
    let (qs', ws) := fillBufs (b.drop part.length) qs
    ((o, base, size, fill + part.length) :: qs', if part.isEmpty then ws else (base + fill, part) :: ws)

/-- Room left in a chain of buffers. -/
def bufRoom (l : List (Nat × Nat × Nat × Nat)) : Nat := l.foldl (fun n q => n + (q.2.2.1 - q.2.2.2)) 0

/-- Context `i` of section `s`. -/
def Tau.cctx (x : Tau) (s i : Nat) : Option CmpCtx := ((x.eng s).ctxs[i]?).join

/-- Change context `i` of section `s`. -/
def Tau.setCctx (x : Tau) (s i : Nat) (k : Option CmpCtx) : Tau :=
  x.setEng s fun e => { e with ctxs := modifyAt (fun _ => k) i e.ctxs }

/-- What a job still owes the quota is charged as far as it goes (R376). -/
def Tau.cmpOwe (x : Tau) (s : Nat) (k : CmpCtx) : Tau × CmpCtx :=
  if k.owed = 0 then (x, k)
  else
    let (x, n) := x.chargeUpTo s k.owed
    (x, { k with owed := k.owed - n })

/-- All output of a job is written: its completion record and FILLs are owed. -/
def CmpCtx.end (k : CmpCtx) : CmpCtx :=
  { k with ending := true, owed := 32 + if k.code = Code.incompressible then 0 else 4 * k.job.bufs.length }

/-- A host job goes on as far as the quota and its buffers let it (R373, R376). -/
def Tau.cmpPump (x : Tau) (s i : Nat) : Tau :=
  match x.cctx s i with
  | none => x
  | some k =>
    if k.user ≠ 0 || !x.inService s then x
    else
      let (x, k) := x.cmpOwe s k
      if 0 < k.owed || k.ending then x.setCctx s i (some k)
      else
        let want := Nat.min k.todo.length (bufRoom k.job.bufs)
        let (x, n) := if k.job.host || want == 0 then (x, want) else x.chargeUpTo s want
        let (bufs, ws) := fillBufs (k.todo.take n) k.job.bufs
        let x := ws.foldl (fun x w => x.emitOut (if k.job.host then .host w.1 w.2 else .hbm w.1 w.2)) x
        let k := { k with todo := k.todo.drop n, done := k.done + n, job := { k.job with bufs := bufs } }
        let stop := !k.todo.isEmpty && bufRoom bufs == 0
        let x := if stop && !k.stopped then x.bump Reg.CMP_WAIT_OUT_CNT (s := s) else x
        let (x, k) := if k.todo.isEmpty then x.cmpOwe s k.end else (x, { k with stopped := stop })
        x.setCctx s i (some k)

/-- Take queued jobs of section `s` into contexts that are FREE and not reserved (R374, R375). -/
def Tau.cmpTake (x : Tau) (s : Nat) : Nat → Tau
  | 0 => x
  | n + 1 =>
    let x := x.cmpReserve s
    let e := x.eng s
    match e.queue, e.free with
    | j :: q, some i =>
      if !x.inService s then x
      else
        let (k, x) := x.jobCtx j
        let x := x.setEng s fun e => { e with queue := q, ctxs := modifyAt (fun _ => some k) i e.ctxs }
        (x.cmpPump s i).cmpTake s n
    | _, _ => x

/-- A write of JOB_POST.GO of section `s` (R376). -/
def Tau.cmpPost (x : Tau) (s : Nat) (desc bufs src : List Byte) : Tau :=
  if 16 ≤ (x.eng s).queue.length then
    (x.wr Reg.CMP_JOB_POST_STAT_CODE Code.busy (s := s)).bump Reg.CMP_POST_REF_CNT (s := s)
  else
    let x := x.wr Reg.CMP_JOB_POST_STAT_CODE Code.done (s := s)
    let j := jobOf (x.rd Reg.TTB_HBM_PART * 2 ^ 30) desc bufs src
    (x.setEng s fun e => { e with queue := e.queue ++ [j] }).cmpTake s 24

/-- A write of BUF_POST of section `s` (R372, R373). `mem`: the buffer descriptor. A post that names no host job, or a buffer out of
range, changes nothing and is counted, since no refusal goes uncounted (R18; assumption 26). A seventeenth buffer shows BUSY where
posts do (DEDUCED, assumption 80). -/
def Tau.cmpBuffer (x : Tau) (s v : Nat) (mem : List Byte) : Tau :=
  let i := v % 32
  let q := bufAt (x.rd Reg.CMP_BUF_OFS_LO (s := s) + 2 ^ 32 * x.rd Reg.CMP_BUF_OFS_HI (s := s)) mem
  match x.cctx s i with
  | some k =>
    if k.user != 0 || !bufOk (x.rd Reg.TTB_HBM_PART * 2 ^ 30) k.job.host q then x.bump Reg.CMP_POST_REF_CNT (s := s)
    else if 16 ≤ k.job.bufs.length then
      (x.wr Reg.CMP_JOB_POST_STAT_CODE Code.busy (s := s)).bump Reg.CMP_POST_REF_CNT (s := s)
    else
      let k := { k with
        job := { k.job with bufs := k.job.bufs ++ [q] }
        resumed := k.resumed || k.stopped
        stopped := false
        owed := k.owed + 16 + if k.ending && k.code != Code.incompressible then 4 else 0 }
      (x.setCctx s i (some k)).cmpPump s i
  | none => x.bump Reg.CMP_POST_REF_CNT (s := s)

/-! ## Ends of a job (R370, R375, R376) -/

/-- The counter of an outcome; a job refused with FIT counts with the posts refused (R18; DESIGN CHOICE, assumption 77). -/
def cmpCounter (code : Nat) : Option Fld :=
  if code = Code.illegal then some Reg.CMP_ILL_CNT
  else if code = Code.distance then some Reg.CMP_DIST_CNT
  else if code = Code.overrun then some Reg.CMP_OVR_CNT
  else if code = Code.short then some Reg.CMP_SHORT_CNT
  else if code = Code.mismatch then some Reg.CMP_CHK_CNT
  else if code = Code.incompressible then some Reg.CMP_INC_CNT
  else if code = Code.aborted then some Reg.CMP_ABORT_CNT
  else if code = Code.fit then some Reg.CMP_POST_REF_CNT
  else none

/-- Write a job's completion record and the FILLs of its buffers, and raise CMP_DONE. -/
def Tau.cmpFinish (x : Tau) (s : Nat) (k : CmpCtx) : Tau :=
  let j := k.job
  let fl := bit k.raw + 2 * bit k.crcOk + 4 * bit k.resumed
  let x := if k.code = Code.incompressible then x
    else j.bufs.foldl (fun x q => x.emitOut (.hbm (q.1 + 12) (leBytes 4 q.2.2.2))) x
  let x := x.emitOut (.hbm j.cpl (leBytes 1 k.code ++ leBytes 1 k.detail ++ leBytes 1 fl ++ zeros 1 ++ leBytes 4 k.inLen ++
    leBytes 4 k.done ++ leBytes 4 k.crc ++ leBytes 4 j.tag ++ zeros 12))
  let x := match cmpCounter k.code with | some f => x.bump f (s := s) | none => x
  x.raise 3

/-- CMP_JOB_COMPLETE of context `i` of section `s`: the job in it, if it has nothing left to do, ends. -/
def Tau.cmpComplete (x : Tau) (s i : Nat) : Tau :=
  match x.cctx s i with
  | none => x
  | some k =>
    if k.user ≠ 0 ∨ k.owed ≠ 0 ∨ k.ending = false then x
    else
      let x := if k.code = Code.aborted then x else if k.job.op = 0 then (x.encoded s k.inLen).bumpBy Reg.CMP_RAW_CNT (bit k.raw) (s := s)
        else if k.job.op = 1 then x.decoded s k.done else x
      ((x.cmpFinish s k).setCctx s i none).cmpTake s 24

/-- A write of JOB_ABORT of section `s`: the running job of that TAG, or else the oldest queued one, ends. Where the quota refuses its
completion record it is held for the next period. -/
def Tau.cmpAbort (x : Tau) (s tag : Nat) : Tau :=
  let e := x.eng s
  match firstIdx (fun c => match c with | some k => decide (k.user = 0 ∧ k.job.tag = tag) | none => false) e.ctxs with
  | some i =>
    match x.cctx s i with
    | some k =>
      let (n, crc) := k.sofar
      let (x, k) := x.cmpOwe s { k with
        code := Code.aborted, detail := 0, inLen := n, crc := crc, crcOk := k.crcOk && k.job.op == 0, todo := [] }.end
      if 0 < k.owed then x.setCctx s i (some k) else ((x.cmpFinish s k).setCctx s i none).cmpTake s 24
    | none => x
  | none =>
    match firstIdx (fun (j : CmpJob) => j.tag == tag) e.queue with
    | some i =>
      match e.queue[i]? with
      | some j =>
        let j := { j with bufs := [], op := 254 }
        let (x, k) := x.cmpOwe s { CmpCtx.stream (0, 0) with job := j, code := Code.aborted }.end
        if 0 < k.owed then x.setEng s fun e => { e with queue := modifyAt (fun _ => j) i e.queue }
        else (x.setEng s fun e => { e with queue := e.queue.eraseIdx i }).cmpFinish s k
      | none => x
    | none => x

/-- Context `i` of section `s` runs a host job. -/
def Tau.hostCtx (x : Tau) (s i : Nat) : Bool := (x.cctx s i).any fun k => k.user == 0

/-- Every held job tries again at a period boundary, and reservations follow the sections in service. Host jobs take turns at being
first (R374, R376). -/
def Tau.cmpRetry (x : Tau) : Tau :=
  x.sections.foldl (fun x s =>
    let x := (x.cmpReserve s).cmpTake s 24
    let order := (List.range 24).map fun i => ((x.eng s).turn + i) % 24
    let next := ((order.drop 1).find? (x.hostCtx s)).getD 0
    (order.foldl (fun x i => x.cmpPump s i) x).setEng s fun e => { e with turn := next }) x

/-- What the compression engine loses when section `s` fails (R375): contexts and queued jobs, without a completion. -/
def Tau.cmpLost (x : Tau) (s : Nat) : Tau :=
  let x := x.sidingLost s
  let n := (x.eng s).ctxs.countP fun c => c.isSome
  (x.setEng s fun e => { e with queue := [], ctxs := List.replicate 24 none }).bumpBy Reg.CMP_LOST_CNT n (s := s)

/-- Section `s` still has work that a drain waits for (R375). -/
def Tau.cmpBusy (x : Tau) (s : Nat) : Bool :=
  !(x.eng s).queue.isEmpty || (x.eng s).ctxs.any fun c => match c with | some k => k.user == 0 | none => false

/-! ## Meanings -/

/-- CMP_JOB_COMPLETE. -/
def execCmpJobComplete (t : T64) (sec : Fin 4) (ctx : Fin 24) (s : State) : Host.Outcome State Fault Refusal :=
  .next (s.onIsland t fun x => x.cmpComplete sec ctx)

end Sys2Proof.Machine
end

