-- ==== Sys2Proof/Machine/Signatures.lean ====
section
/-!
DEFINITION. The two signature schemes of a Zicon image (R387, R388), which the manual takes from FIPS 186-5 and FIPS 204: the
verification of ECDSA over P-384 and of ML-DSA-87. What a standard says and the manual only names is PRESUMED from it (assumption 27).
-/

namespace Sys2Proof.Machine

/-! ## Arithmetic modulo a prime -/

/-- b to a power of at most `n` bits. -/
def powMod (m : Nat) : Nat → Nat → Nat → Nat
  | 0, _, _ => 1 % m
  | n + 1, b, e => (if e % 2 = 1 then b else 1) * powMod m n (b * b % m) (e / 2) % m

/-- The inverse modulo a prime below 2^384. -/
def invMod (m a : Nat) : Nat := powMod m 384 a (m - 2)

/-! ## ECDSA over P-384 -/

/-- The field, the order of the group, and the coefficient b of the curve y² = x³ − 3x + b. -/
def p384 : Nat := 2 ^ 384 - 2 ^ 128 - 2 ^ 96 + 2 ^ 32 - 1
def n384 : Nat := 2 ^ 384 - 0x389CB27E0BC8D220A7E5F24DB74F58851313E695333AD68D
def b384 : Nat :=
  0xB3312FA7E23EE7E4988E056BE3F82D19181D9C6EFE8141120314088F5013875AC656398D8A2ED19D2A85C8EDD3EC2AEF

/-- A point of the curve; none is the point at infinity. -/
abbrev EcPoint := Option (Nat × Nat)

/-- The base point. -/
def g384 : EcPoint := some
  (0xAA87CA22BE8B05378EB1C71EF320AD746E1D3B628BA79B9859F741E082542A385502F25DBF55296C3A545E3872760AB7,
   0x3617DE4A96262C6F5D9E98BF9292DC29F8F41DBD289A147CE9DA3113B5F0B8C00A60B1CE1D7E819D7A431D7C90EA0E5F)

/-- A point lies on the curve. -/
def onCurve (x y : Nat) : Bool :=
  decide (x < p384) && decide (y < p384) && (y * y + 3 * x) % p384 == (x * x % p384 * x + b384) % p384

/-- The third point on the line of slope `l` through two points, mirrored. -/
def ecThird (l x y u : Nat) : EcPoint :=
  let z := (l * l + 2 * p384 - x - u) % p384
  some (z, (l * (x + p384 - z) + p384 - y) % p384)

/-- The sum of two points. -/
def ecAdd : EcPoint → EcPoint → EcPoint
  | none, q => q
  | p, none => p
  | some (x, y), some (u, v) =>
    if x = u then
      if (y + v) % p384 = 0 then none else ecThird ((3 * x * x + p384 - 3) * invMod p384 (2 * y) % p384) x y u
    else ecThird ((v + p384 - y) * invMod p384 (u + p384 - x) % p384) x y u

/-- The multiple of a point by a number of at most `n` bits. -/
def ecMul : Nat → Nat → EcPoint → EcPoint
  | 0, _, _ => none
  | n + 1, k, p => ecAdd (if k % 2 = 1 then p else none) (ecMul n (k / 2) (ecAdd p p))

/-- An ECDSA signature, r then s, verifies under an uncompressed public key over a SHA-384 digest (FIPS 186-5). -/
def ecdsaOk (key digest sig : List Byte) : Bool :=
  let x := beNat ((key.drop 1).take 48)
  let y := beNat ((key.drop 49).take 48)
  let r := beNat (sig.take 48)
  let s := beNat (sig.drop 48)
  let w := invMod n384 s
  key.head? == some 4 && onCurve x y && decide (0 < r) && decide (r < n384) && decide (0 < s) && decide (s < n384) &&
    (match ecAdd (ecMul 384 (beNat digest * w % n384) g384) (ecMul 384 (r * w % n384) (some (x, y))) with
      | some (u, _) => u % n384 == r
      | none => false)

/-! ## SHAKE (FIPS 202), on 25 lanes that are numbers below 2^64 -/

/-- The state of the register that gives the round constants, after `n` steps. -/
def rcLfsr : Nat → Nat
  | 0 => 1
  | n + 1 =>
    let r := rcLfsr n
    Nat.xor (2 * r) (r / 128 * 0x71) % 256

/-- The constant of a round. -/
def rcOf (i : Nat) : Nat := (List.range 7).foldl (fun c j => c + bit ((rcLfsr (7 * i + j + 1)).testBit 1) * 2 ^ (2 ^ j - 1)) 0

/-- The lane at which step `n` of the walk over the lanes stands. -/
def rhoLane : Nat → Nat × Nat
  | 0 => (1, 0)
  | n + 1 => match rhoLane n with
    | (x, y) => (y, (2 * x + 3 * y) % 5)

/-- How far a lane is rotated. -/
def rhoOf (x y : Nat) : Nat := match (List.range 24).find? fun n => rhoLane n == (x, y) with
  | some n => (n + 1) * (n + 2) / 2 % 64
  | none => 0

/-- Rotations of all lanes, and the constants of all rounds. -/
def rhos : Array Nat := ((List.range 25).map fun k => rhoOf (k % 5) (k / 5)).toArray
def roundConsts : List Nat := (List.range 24).map rcOf

/-- A lane rotated left. -/
def laneTurn (n w : Nat) : Nat := w * 2 ^ n % 2 ^ 64 + w / 2 ^ (64 - n)

/-- One round of Keccak-f. -/
def keccakRound (rc : Nat) (a : Array Nat) : Array Nat :=
  let at_ (x y : Nat) : Nat := a.getD (x % 5 + 5 * y) 0
  let c := ((List.range 5).map fun x => (List.range 5).foldl (fun n y => Nat.xor n (at_ x y)) 0).toArray
  let d := ((List.range 5).map fun x => Nat.xor (c.getD ((x + 4) % 5) 0) (laneTurn 1 (c.getD ((x + 1) % 5) 0))).toArray
  let b := ((List.range 25).map fun k =>
    let x := (k % 5 + 3 * (k / 5)) % 5
    let y := k % 5
    laneTurn (rhos.getD (x + 5 * y) 0) (Nat.xor (at_ x y) (d.getD x 0))).toArray
  ((List.range 25).map fun k =>
    let l (x : Nat) : Nat := b.getD (x % 5 + 5 * (k / 5)) 0
    let v := Nat.xor (l (k % 5)) (Nat.land (2 ^ 64 - 1 - l (k % 5 + 1)) (l (k % 5 + 2)))
    if k = 0 then Nat.xor v rc else v).toArray

/-- Keccak-f[1600]. -/
def keccakF (a : Array Nat) : Array Nat := roundConsts.foldl (fun a rc => keccakRound rc a) a

/-- The state after absorbing `n` blocks of `rate` bytes. -/
def absorb (rate : Nat) : Nat → List Byte → Array Nat → Array Nat
  | 0, _, a => a
  | n + 1, m, a =>
    absorb rate n (m.drop rate) (keccakF (((List.range 25).map fun k =>
      Nat.xor (a.getD k 0) (if 8 * k < rate then leNat ((m.drop (8 * k)).take 8) else 0)).toArray))

/-- The state of SHAKE with a rate after a message. -/
def shakeState (rate : Nat) (m : List Byte) : Array Nat :=
  let n := m.length / rate + 1
  let k := n * rate - m.length
  let pad := if k = 1 then [(0x9F : Byte)] else (0x1F : Byte) :: zeros (k - 2) ++ [(0x80 : Byte)]
  absorb rate n (m ++ pad) (Array.replicate 25 0)

/-- `n` blocks of output from a state. -/
def squeeze (rate : Nat) : Nat → Array Nat → List Byte
  | 0, _ => []
  | n + 1, a => (a.toList.flatMap (leBytes 8)).take rate ++ squeeze rate n (keccakF a)

/-- H of FIPS 204: SHAKE256 with `n` bytes of output. -/
def hashH (n : Nat) (m : List Byte) : List Byte := (squeeze 136 (n / 136 + 1) (shakeState 136 m)).take n

/-! ## Polynomials of ML-DSA -/

/-- The modulus, and the powers of the root of unity. -/
def dsaQ : Nat := 8380417
def dsaZetas : Array Nat := ((List.range 512).map fun e => powMod dsaQ 9 1753 e).toArray

/-- The exponent of the root at which entry `i` of a transform stands: its eight bits mirrored, doubled, and one. -/
def dsaRoot (i : Nat) : Nat := 2 * ((List.range 8).foldl (fun n k => n + bit (i.testBit k) * 2 ^ (7 - k)) 0) + 1
def dsaRoots : Array Nat := ((List.range 256).map dsaRoot).toArray

/-- The transform of a polynomial: its values at the roots. -/
def dsaNtt (w : Array Nat) : Array Nat :=
  ((List.range 256).map fun i =>
    let e := dsaRoots.getD i 0
    (List.range 256).foldl (fun n j => (n + w.getD j 0 * dsaZetas.getD (e * j % 512) 0) % dsaQ) 0).toArray

/-- The polynomial of a transform. -/
def dsaInv (w : Array Nat) : Array Nat :=
  ((List.range 256).map fun j =>
    (List.range 256).foldl (fun n i =>
      (n + w.getD i 0 * dsaZetas.getD (511 * (dsaRoots.getD i 0) * j % 512) 0) % dsaQ) 0 * powMod dsaQ 23 256 (dsaQ - 2) % dsaQ).toArray

/-- `n` numbers of `w` bits, the least significant first. -/
def unpackBits (w n : Nat) (b : List Byte) : List Nat :=
  let v := leNat b
  (List.range n).map fun i => v / 2 ^ (w * i) % 2 ^ w

/-- Coefficients by rejection: three bytes each, of 23 bits, below the modulus. -/
def rejCoeffs : List Byte → List Nat
  | a :: b :: c :: l =>
    let z := a.toNat + 256 * b.toNat + 65536 * (c.toNat % 128)
    if z < dsaQ then z :: rejCoeffs l else rejCoeffs l
  | _ => []

/-- An entry of the matrix of a key, as a transform, from at most `fuel` blocks. -/
def dsaEntry : Nat → Array Nat → List Nat → Array Nat
  | 0, _, l => (l.take 256).toArray
  | fuel + 1, a, l => if 256 ≤ l.length then (l.take 256).toArray else dsaEntry fuel (keccakF a) (l ++ rejCoeffs (squeeze 168 1 a))

/-- The challenge: sixty coefficients of ±1, placed by the bytes of a stream with the signs in `h`. -/
def inBall (h : Nat) : Nat → Nat → List Byte → Array Nat → Option (Array Nat)
  | 0, _, _, _ => none
  | fuel + 1, i, l, c =>
    if i = 256 then some c
    else match l with
      | [] => none
      | j :: l =>
        if i < j.toNat then inBall h fuel i l c
        else inBall h fuel (i + 1) l ((c.setIfInBounds i (c.getD j.toNat 0)).setIfInBounds j.toNat
          (if h.testBit (i - 196) then dsaQ - 1 else 1))

/-- The challenge of a commitment hash. -/
def challenge (c : List Byte) : Option (Array Nat) :=
  let s := hashH 4096 c
  inBall (leNat (s.take 8)) 4097 196 (s.drop 8) (Array.replicate 256 0)

/-- The positions of the hints of one polynomial rise. -/
def rises : List Nat → Bool
  | a :: b :: l => decide (a < b) && rises (b :: l)
  | _ => true

/-- The hints, by polynomial: positions, where they are well formed. -/
def hintsOf (b : List Byte) : Option (List (List Nat)) :=
  let y := (b.take 75).map (·.toNat)
  let ends := ((b.drop 75).take 8).map (·.toNat)
  let parts := ((0 :: ends).zip ends).map fun (s, e) => (y.drop s).take (e - s)
  if ((0 :: ends).zip ends).all (fun (s, e) => decide (s ≤ e) && decide (e ≤ 75)) && parts.all rises &&
      (y.drop (ends.getD 7 0)).all (· == 0) then some parts else none

/-- The high part of a coefficient, moved by its hint. -/
def useHint (hint : Bool) (r : Nat) : Nat :=
  let a := 523776
  let low : Int := if r % a ≤ a / 2 then (r % a : Nat) else (r % a : Nat) - (a : Nat)
  let (hi, low) : Nat × Int := if (r : Int) - low = dsaQ - 1 then (0, low - 1) else (((r - low) / a).toNat, low)
  if !hint then hi else if 0 < low then (hi + 1) % 16 else (hi + 15) % 16

/-! ## ML-DSA-87 -/

/-- An ML-DSA-87 signature verifies under a public key over a message, in pure mode with an empty context string (FIPS 204). -/
def mldsaOk (key msg sig : List Byte) : Bool :=
  let rho := key.take 32
  let t1 := (List.range 8).map fun i => dsaNtt (((unpackBits 10 256 ((key.drop (32 + 320 * i)).take 320)).map (· * 8192)).toArray)
  let c0 := sig.take 64
  let zs := (List.range 7).map fun i => unpackBits 20 256 ((sig.drop (64 + 640 * i)).take 640)
  let short := zs.all fun z => z.all fun v => decide (v < 524288 + 524168) && decide (524288 < v + 524168)
  match hintsOf (sig.drop 4544), challenge c0 with
  | some hs, some c =>
    let zn := zs.map fun z => dsaNtt ((z.map fun v => (524288 + dsaQ - v) % dsaQ).toArray)
    let cn := dsaNtt c
    let mu := hashH 64 (hashH 64 key ++ zeros 2 ++ msg)
    let w1 := (List.range 8).flatMap fun r =>
      let row := (List.range 7).map fun s => dsaEntry 64 (shakeState 168 (rho ++ leBytes 1 s ++ leBytes 1 r)) []
      let sum := ((List.range 256).map fun i =>
        ((row.zip zn).foldl (fun n (a, z) => n + a.getD i 0 * z.getD i 0) 0 +
          (dsaQ - cn.getD i 0) * (t1.getD r #[]).getD i 0) % dsaQ).toArray
      let w := dsaInv sum
      let h := hs.getD r []
      (List.range 128).map fun i =>
        BitVec.ofNat 8 (useHint (h.contains (2 * i)) (w.getD (2 * i) 0) + 16 * useHint (h.contains (2 * i + 1)) (w.getD (2 * i + 1) 0))
    short && hashH 64 (mu ++ w1) == c0
  | _, _ => false

end Sys2Proof.Machine
end

