-- ==== Sys2Proof/Machine/Images.lean ====
section
/-!
DEFINITION. Signed images: the Zicon container (R441 to R443), its signatures (R387, R388), what each lifecycle state permits
(R445), the checks of each type of image (R171, R250, R259, R297, R452, R454), key grants (R381), debug authorisations (R354) and
lifecycle orders (R446).
-/

namespace Sys2Proof.Machine

/-! ## The container (R387, R441, R443) -/

/-- The length of a signature block (R387). -/
def sigBlkLen : Nat := 7424

/-- A container as read (R441). -/
structure Image where
  type : Nat
  ver : Nat
  payload : List Byte
  /-- M: the bytes that the signatures cover. -/
  covered : List Byte
  sig : List Byte
  deriving DecidableEq, Repr

/-- Read a container of one of the given types: none where it fails R443. -/
def Image.read (types : List Nat) (b : List Byte) : Option Image :=
  let plen := fieldAt b 8 4
  let full := 32 + ceilDiv plen 8 * 8
  let sig := b.drop full
  let type := fieldAt b 4 1
  let magic := b.take 4 == [0x5A, 0x43, 0x4E, 0x31]
  let zero := allZero ((b.drop 6).take 2) && allZero ((b.drop 24).take 8) && allZero ((b.drop (32 + plen)).take (full - 32 - plen)) &&
    fieldAt sig 0 2 == 1 && fieldAt sig 3 1 == 0 && allZero ((sig.drop 197).take 3) && allZero ((sig.drop 7419).take 5)
  if magic && fieldAt b 5 1 == 1 && decide (1 ≤ plen ∧ plen ≤ 67108864) && b.length == full + sigBlkLen && types.contains type && zero then
    some { type := type, ver := fieldAt b 12 4, payload := (b.drop 32).take plen, covered := b.take full, sig := sig }
  else none

/-- SLOT of a signature block. -/
def Image.slot (i : Image) : Nat := fieldAt i.sig 2 1

/-- Both signatures of an image, and that its slot is one of `slots` (R388). -/
def Tau.sigVerifies (x : Tau) (slots : List Nat) (i : Image) : Bool :=
  let ec := (i.sig.drop 100).take 97
  let ml := (i.sig.drop 200).take 2592
  i.slot < 4 && x.fuses.slotValid.testBit i.slot && sha384 (ec ++ ml) == x.fuses.slotHash.getD i.slot [] &&
    ecdsaOk ec (sha384 i.covered) ((i.sig.drop 4).take 96) && mldsaOk ml i.covered ((i.sig.drop 2792).take 4627) &&
    slots.contains i.slot

/-- Verify an image and count the outcome (R388). -/
def Tau.verify (x : Tau) (slots : List Nat) (i : Image) : Tau × Bool :=
  if x.sigVerifies slots i then (x.bump Reg.CIP_SIG_OK_CNT, true) else (x.bump Reg.CIP_SIG_FAIL_CNT, false)

/-- The slots that may sign an image of TYPE 1 to 8 (R442). -/
def slotsOf (type : Nat) : List Nat := if type = 1 ∨ type = 2 ∨ type = 7 then [0] else [2, 3]

/-! ## Lifecycle (R444, R445) -/

/-- The TAU's lifecycle state; values that are never fused act as RETURNED. -/
def Tau.lc (x : Tau) : Nat := Nat.min 4 x.fuses.lc

/-- Consists, timetables, feature maps and models may be loaded. -/
def Tau.lcLoads (x : Tau) (type : Nat) : Bool := decide (1 ≤ x.lc) && (decide (x.lc ≤ 3) || type == 7)

/-! ## Models (R246 to R250, R255) -/

/-- A 64-bit field as a signed number. -/
def s64 (n : Nat) : Int := signed 64 n

/-- A node is well formed (R247, R250 check 4). -/
def nodeOk (types : List Nat) (nfeat nnodes nsets : Nat) (iw : Nat × Nat) : Bool :=
  let w := iw.2
  if w.testBit 63 then bits w 32 31 == 0
  else
    let kind := bits w 61 2
    let f := bits w 50 10
    let left := bits w 33 17
    let ty := types.getD f 0
    !w.testBit 32 && decide (kind ≤ 1 ∧ f < nfeat ∧ iw.1 < left ∧ left + 1 < nnodes) &&
      (if kind = 1 then ty == 3 && bits w 12 20 == 0 && decide (bits w 0 12 < nsets)
       else ty != 3 && (ty != 0 || decide (0x007FFFFF ≤ bits w 0 32 ∧ bits w 0 32 ≤ 0xFF800000)))

/-- The depths of the nodes, from the last to the first: children stand after their parent. -/
def nodeDepths (nodes : List Nat) : Array Nat :=
  let n := nodes.length
  let one (iw : Nat × Nat) (a : Array Nat) : Array Nat :=
    if iw.2.testBit 63 then a else a.set! iw.1 (1 + Nat.max (a.getD (bits iw.2 33 17) 0) (a.getD (bits iw.2 33 17 + 1) 0))
  ((List.range n).zip nodes).foldr one (Array.replicate n 0)

/-- How often each node is named as a child or a root. -/
def nodeParents (nodes trees : List Nat) : Array Nat :=
  let inc (a : Array Nat) (i : Nat) : Array Nat := a.set! i (a.getD i 0 + 1)
  let a := nodes.foldl (fun a w => if w.testBit 63 then a else inc (inc a (bits w 33 17)) (bits w 33 17 + 1))
    (Array.replicate nodes.length 0)
  trees.foldl (fun a t => inc a (bits t 0 17)) a

/-- Read the calibration tables of the outputs in `os` (R255), and whether they are well formed and fill the bytes. -/
def calTables : List Nat → List Byte → List (Nat × Int × List (Int × Int)) × Bool
  | [], b => ([], b.isEmpty)
  | o :: os, b =>
    let n := fieldAt b 0 2
    let scale := signed 8 (fieldAt b 2 1)
    let raw := chunks 16 n (b.drop 8)
    let pts := raw.map fun p => (s64 (fieldAt p 0 8), signed 32 (fieldAt p 8 4))
    let rising := (pts.zip (pts.drop 1)).all fun (p, q) => decide (p.1 < q.1)
    let ok := decide (2 ≤ n ∧ n ≤ 1024) && decide (-63 ≤ scale ∧ scale ≤ 63) && allZero ((b.drop 3).take 5) && rising &&
      (raw.all fun p => allZero ((p.drop 12).take 4)) && decide (8 + 16 * n ≤ b.length)
    let (l, k) := calTables os (b.drop (8 + 16 * n))
    ((o, scale, pts) :: l, ok && k)

/-- Read a model payload (R246): the model, and whether it passes checks 3 to 7 of R250. -/
def modelOf (p : List Byte) : Model × Bool :=
  let nout := fieldAt p 2 1
  let ntrees := fieldAt p 4 2
  let nfeat := fieldAt p 6 2
  let nn := fieldAt p 8 4
  let ns := fieldAt p 12 2
  let calmask := fieldAt p 20 2
  let types := (List.range nfeat).map fun i => bits (fieldAt p (64 + i / 4) 1) (2 * (i % 4)) 2
  let bias := (List.range nout).map fun o => s64 (fieldAt p (320 + 8 * o) 8)
  let t0 := 320 + 8 * nout
  let trees := (chunks 4 ntrees (p.drop t0)).map leNat
  let n0 := t0 + ceilDiv (4 * ntrees) 8 * 8
  let nodes := (chunks 8 nn (p.drop n0)).map leNat
  let s0 := n0 + 8 * nn
  let sets := (chunks 64 ns (p.drop s0)).map leNat
  let (cal, calOk) := calTables ((List.range 16).filter calmask.testBit) (p.drop (s0 + 64 * ns))
  let lscale := signed 8 (fieldAt p 14 1)
  let depths := nodeDepths nodes
  let wmax := trees.foldl (fun n t => n + bits t 21 5 + 1) 0
  let m : Model :=
    { id := fieldAt p 0 2, digest := (p.drop 24).take 8, nout := nout, nfeat := nfeat, lscale := lscale, wmax := wmax,
      types := types, bias := bias, trees := trees, nodes := nodes, sets := sets, cal := cal, name := fieldAt p 32 4 }
  let shape := decide (m.id ≤ 0xFEFF ∧ 1 ≤ nout ∧ nout ≤ 16 ∧ 1 ≤ ntrees ∧ ntrees ≤ 2048 ∧ 1 ≤ nfeat ∧ nfeat ≤ 1024 ∧ 1 ≤ nn ∧
      nn ≤ 131072 ∧ ns ≤ 4096) && fieldAt p 3 1 == 0 && fieldAt p 22 2 == 0 && allZero ((p.drop 36).take 28) &&
    decide (-63 ≤ lscale ∧ lscale ≤ 63 ∧ fieldAt p 15 1 ≤ 20) && decide (s0 + 64 * ns ≤ p.length) &&
    ((List.range (1024 - nfeat)).all fun i => bits (fieldAt p (64 + (nfeat + i) / 4) 1) (2 * ((nfeat + i) % 4)) 2 == 0) &&
    (bias.all fun b => decide (-(2 ^ 62) ≤ b ∧ b ≤ 2 ^ 62)) && allZero ((p.drop (t0 + 4 * ntrees)).take (n0 - t0 - 4 * ntrees))
  let nodesOk := ((List.range nn).zip nodes).all (nodeOk types nfeat nn ns)
  let treesOk := trees.all fun t =>
    decide (bits t 0 17 < nn ∧ bits t 17 4 < nout) && bits t 26 6 == 0 && bits t 21 5 == depths.getD (bits t 0 17) 0 &&
      decide (bits t 21 5 ≤ 20)
  let reach := (nodeParents nodes trees).toList.all (· == 1)
  let deep := trees.foldl (fun n t => Nat.max n (bits t 21 5)) 0 == fieldAt p 15 1
  let cals := calOk && decide (calmask < 2 ^ nout)
  (m, shape && nodesOk && treesOk && reach && deep && cals && fieldAt p 16 4 == wmax && (sha384 (p.drop 64)).take 8 == m.digest)

/-- Checks 3 to 9 of R250, and the load: the state after and its code. -/
def Tau.loadModel (x : Tau) (p : List Byte) : Tau × Nat :=
  let (m, ok) := modelOf p
  let held := x.lib.models.filterMap id
  if !ok then (x, Code.fit)
  else match held.find? (·.id == m.id) with
    | some q => (x, if q.digest = m.digest then Code.done else Code.busy)
    | none =>
      let total (f : Model → Nat) : Nat := held.foldl (fun n q => n + f q) (f m)
      match firstIdx Option.isNone x.lib.models with
      | some i =>
        if total (·.nodes.length) ≤ 131072 ∧ total (·.sets.length) ≤ 4096 ∧ total (·.cal.length) ≤ 16 then
          ({ x with lib := { x.lib with models := modifyAt (fun _ => some m) i x.lib.models } }, Code.done)
        else (x, Code.capacity)
      | none => (x, Code.capacity)

/-! ## Feature maps (R256 to R259, R266, R270) -/

/-- A field is in the records that a map of the scope reads (R156, R158). -/
def Desc.readable (d : Desc) (perRank : Bool) : Bool := if perRank then d.src != 0 else d.op != 15

/-- A field may feed a source kind (R257). -/
def Desc.feeds (d : Desc) (perRank : Bool) (kind elem : Nat) : Bool :=
  d.readable perRank && (match kind with
    | 0 => d.op == 0 || d.op == 15 || d.op == 3 || d.op == 4
    | 1 => d.op == 3 || d.op == 4 || d.op == 7
    | 2 => d.op == 2 && decide (elem < d.size)
    | 3 => d.op == 1 && decide (1 ≤ elem ∧ elem ≤ 255)
    | 4 => d.op == 1
    | 5 => d.type == 6 && decide (elem < d.size)
    | 6 => d.type == 6
    | 10 => d.op == 7
    | _ => false)

/-- Entry check 4 of R259. -/
def MapEnt.ok (fs : List Desc) (perRank : Bool) (e : MapEnt) : Bool :=
  let field (f kind elem : Nat) : Bool := match fs[f]? with | some d => d.feeds perRank kind elem | none => false
  let src := match e.kind with
    | 5 => field e.field 5 (e.elem + 256 * e.elemB)
    | 7 => !perRank && decide (e.elem ≤ 4)
    | 8 => decide (e.elem ≤ 2)
    | 9 => perRank && decide (e.field ≤ 15 ∧ e.elem ≤ 3)
    | k => field e.field k e.elem
  src && decide (-64 ≤ e.s ∧ e.s ≤ 63) && (e.fieldB == 255 || field e.fieldB 0 0 || field e.fieldB 2 e.elemB)

/-- A field may take a fill of scale `scale` (R270). -/
def Desc.fillable (d : Desc) (scale : Int) : Bool :=
  let el := if d.op = 0 then d.type else d.etype
  d.src == 0 && ((d.op == 5 && d.type == 6) ||
    ((d.op == 0 || d.op == 2 || d.op == 3 || d.op == 4) && (el == 1 || (el == 2 && d.scale == scale))))

/-- Output check 5 of R259 (R266, R270). -/
def MapOut.ok (fs : List Desc) (perRank : Bool) (scale : Int) (o : MapOut) : Bool :=
  decide (o.act < 16 ∧ o.sev ≤ 7 ∧ o.template ≤ 7) &&
    (if perRank then
      o.subj == 255 && (o.fill == 255 || (match fs[o.fill]? with | some d => d.fillable scale | none => false)) &&
        (o.count == 255 || (match fs[o.count]? with | some d => d.src == 0 && d.type == 0 && d.op == 0 | none => false))
    else
      o.fill == 255 && o.count == 255 && (o.subj != 255 || !o.act.testBit 3) &&
        (o.subj == 255 || (match fs[o.subj]? with | some d => d.op == 2 || d.op == 3 || d.op == 4 | none => false)))

/-- Read a feature entry (R256). -/
def mapEntOf (b : List Byte) : MapEnt :=
  { feature := fieldAt b 0 2, kind := fieldAt b 2 1, field := fieldAt b 3 1, elem := fieldAt b 4 1, fieldB := fieldAt b 5 1,
    elemB := fieldAt b 6 1, ftype := fieldAt b 7 1 % 4, s := signed 8 (fieldAt b 8 1) }

/-- Read an output entry (R266). -/
def mapOutOf (b : List Byte) : MapOut :=
  { thr := s64 (fieldAt b 0 8), act := fieldAt b 8 1, sev := fieldAt b 9 1, template := fieldAt b 10 1, subj := fieldAt b 11 1,
    fill := fieldAt b 12 1, count := fieldAt b 13 1, holdoff := fieldAt b 14 2 }

/-- Checks 3 to 7 of R259, and the load. Entries are kept by feature. -/
def Tau.loadMap (x : Tau) (p : List Byte) : Tau × Nat :=
  let nent := fieldAt p 8 2
  let nout := fieldAt p 10 1
  let per := fieldAt p 6 1 == 0
  let roles := fieldAt p 7 1
  let raw := chunks 16 nent (p.drop 32)
  let rawo := chunks 32 nout (p.drop (32 + 16 * nent))
  let ents := raw.map mapEntOf
  let outs := rawo.map mapOutOf
  let m : FMap :=
    { id := fieldAt p 0 2, model := fieldAt p 2 2, consist := fieldAt p 4 2, perRank := per, roles := roles,
      digest := (p.drop 12).take 8, ents := isort (fun a b => decide (a.feature ≤ b.feature)) ents, outs := outs, until_ := none }
  match (x.lib.models.filterMap id).find? (·.id == m.model), x.consist m.consist with
  | some e, some c =>
    let shape := p.length == 32 + 16 * nent + 32 * nout && decide (m.id ≤ 0xFEFF) && decide (fieldAt p 6 1 ≤ 1) && fieldAt p 11 1 == 0 &&
      allZero ((p.drop 20).take 12) && (if per then roles == 1 else decide (roles < 32) && !roles.testBit 0) &&
      (raw.all fun b => allZero ((b.drop 9).take 7) && decide (fieldAt b 7 1 < 4)) && (rawo.all fun b => allZero ((b.drop 16).take 16))
    let feats := nent == e.nfeat && nout == e.nout && m.ents.map (·.feature) == List.range nent &&
      (ents.all fun k => k.ftype == e.types.getD k.feature 4)
    if !(shape && feats && ents.all (·.ok c.fields per)) then (x, Code.fit)
    else if !(((List.range nout).zip outs).all fun io => io.2.ok c.fields per (e.scaleOf io.1)) then (x, Code.fit)
    else if (sha384 (p.drop 32)).take 8 ≠ m.digest then (x, Code.fit)
    else match x.fmap m.id with
      | some q => (x, if q.digest = m.digest then Code.done else Code.busy)
      | none => ({ x with lib := { x.lib with maps := x.lib.maps ++ [m] } }, Code.done)
  | _, _ => (x, Code.fit)

/-! ## Consists, timetables and packs (R171, R297, R454) -/

/-- Checks of R171 after the lifecycle, with the largest train of R205, and the load: the consist is usable from period `from_`
(R173). -/
def Tau.loadConsist (x : Tau) (p : List Byte) (from_ : Nat) : Tau × Nat :=
  let (c, ok) := Consist.parse p
  if !(ok && c.lengthsOk && (sha384 (p.drop 32)).take 8 == c.digest && decide (c.maxLen ≤ 1024) &&
      decide (trainLen c.fields ≤ 4096)) then (x, Code.fit)
  else match x.consist c.id with
    | some q => (x, if q.digest = c.digest then Code.done else Code.busy)
    | none =>
      if 256 ≤ x.lib.consists.length then (x, Code.capacity)
      else ({ x with lib := { x.lib with consists := x.lib.consists ++ [{ c with from_ := from_ }] } }, Code.done)

/-- A consist as its image carries it (R169). -/
def Consist.payload (c : Consist) : List Byte :=
  leBytes 2 c.id ++ leBytes 1 c.fields.length ++ leBytes 1 c.sev ++ leBytes 2 c.maxLen ++ leBytes 2 c.minLen ++ c.digest ++
    leBytes 4 c.nameId ++ zeros 12 ++ c.fields.flatMap fun f =>
      leBytes 1 (f.type + 16 * f.op) ++ leBytes 1 f.etype ++ leBytes 1 (unsigned 8 f.scale) ++ leBytes 1 f.src ++ leBytes 2 f.arg ++
        leBytes 2 f.size ++ leBytes 1 f.he ++ leBytes 1 f.hpl ++ leBytes 2 f.arg2 ++ leBytes 4 f.nameId

/-- The layout of a timetable holds (R454), and each consist that it names has one rhythm (R176). -/
def timetableOk (p : List Byte) : Bool :=
  p.length == 1224 && decide (fieldAt p 0 2 ≤ 0xFEFF) && allZero ((p.drop 2).take 6) && allZero ((p.drop 68).take 4) &&
    ((List.range 16).all fun d =>
      let o := 72 + 72 * d
      fieldAt p (o + 1) 1 == 0 && decide (fieldAt p (o + 4) 1 ≤ 16) && allZero ((p.drop (o + 5)).take 3)) &&
    Timetable.rhythmOk ⟨fieldAt p 0 2, p⟩

/-- The levels of role `r` in the deepest chain (R21): the block of the role above gives the READY offset of the highest of them as its
EMIT_OFS, and each level adds its own part to it (R179; DEDUCED, assumption 31). Only ROW and SITE stack. -/
def Timetable.levels (t : Timetable) (r : Nat) : Nat :=
  let (g, _, e) := t.roleBlk r
  if r = 1 ∨ r = 2 then Nat.max 1 (((t.roleBlk (r + 1)).2.2 - e) / (230144 + g)) else 1

/-- GUARD and LEVEL_BUDGET of a role block meet R83 here, and at a ROOT or FEDERATION TAU the budgets along the deepest chain meet R28. -/
def Tau.depthFits (x : Tau) (t : Timetable) : Bool :=
  let (g, l, _) := t.roleBlk x.role
  decide (g + x.shift ≤ l) &&
    (decide (x.role < 3) || decide ((List.range (x.role + 1)).foldl (fun n r => n + t.levels r * (t.roleBlk r).2.1) 0 ≤ 64000000))

/-- Load a timetable (R81, R83); a TRAY TAU shows the load that it computes, of an image taken or refused. The same id with other
bytes is held until its removal. -/
def Tau.loadTimetable (x : Tau) (p : List Byte) : Tau × Nat :=
  let t : Timetable := ⟨fieldAt p 0 2, p⟩
  if !timetableOk p then (x, Code.fit)
  else if x.roleSet && !x.depthFits t then (x.bump Reg.TTB_DEPTH_REFUSED_CNT, Code.fit)
  else
    let x := if x.isTray then x.wr Reg.TTB_PATH_LOAD_MAX (clipU 16 (pathLoadMax t)) else x
    if x.isTray && decide (16384 < pathLoadMax t) then (x, Code.capacity)
    else match x.timetable (fieldAt p 0 2) with
      | some q => (x, if q.bytes = p then Code.done else Code.busy)
      | none => ({ x with lib := { x.lib with tts := x.lib.tts ++ [⟨fieldAt p 0 2, p⟩] } }, Code.done)

/-- Load a pattern pack (R297). Another version of a loaded PACK_ID replaces it at once, with an empty tally (R301). -/
def Tau.loadPack (x : Tau) (p : List Byte) : Tau × Nat :=
  let id := fieldAt p 0 2
  let new : TauPack := { id := id, ver := fieldAt p 2 2, bytes := p, tally := [], sent := [] }
  let put (i : Nat) : Tau := { x with lib := { x.lib with packs := modifyAt (fun _ => some new) i x.lib.packs } }
  if !packOk p then (x, Code.fit)
  else match firstIdx (fun q => match q with | some q => q.id == id | none => false) x.lib.packs with
    | some i => (if (x.lib.packs.getD i none).any (·.bytes == p) then x else put i, Code.done)
    | none => match firstIdx Option.isNone x.lib.packs with
      | some i => (put i, Code.done)
      | none => (x, Code.capacity)

/-- The id that a payload of TYPE 3 to 7 carries. -/
def payloadId (p : List Byte) : Nat := fieldAt p 0 2

/-- An image of a type and id is loaded. -/
def Tau.imageHeld (x : Tau) (type id : Nat) : Bool :=
  match type with
  | 3 => (x.consist id).isSome
  | 4 => (x.timetable id).isSome
  | 5 => (x.fmap id).isSome
  | 6 => x.lib.models.any fun m => match m with | some m => m.id == id | none => false
  | _ => x.lib.packs.any fun p => match p with | some p => p.id == id | none => false

/-- An image of TYPE 3 to 7 that a notice carries (R171, R250, R259, R297, R406): the state after and the completion code. Each
refusal is counted in GEN.LOAD_REFUSED_CNT. One that is loaded already changes nothing. -/
def Tau.loadImage (x : Tau) (b : List Byte) (from_ : Nat) : Tau × Nat :=
  let (x, code) := match Image.read [3, 4, 5, 6, 7] b with
    | none => (x, Code.fit)
    | some i =>
      match x.verify (slotsOf i.type) i with
      | (x, false) => (x, Code.signature)
      | (x, true) =>
        if !x.lcLoads i.type then (x, Code.lifecycle)
        else
          let had := i.type != 7 && x.imageHeld i.type (payloadId i.payload)
          let (x, c) := match i.type with
            | 3 => x.loadConsist i.payload from_
            | 4 => x.loadTimetable i.payload
            | 5 => x.loadMap i.payload
            | 6 => x.loadModel i.payload
            | _ => x.loadPack i.payload
          if c = Code.done ∧ !had then
            let id := payloadId i.payload
            let vs := x.lib.vers.filter fun v => !(v.1 == i.type && v.2.1 == id)
            ({ x with lib := { x.lib with vers := (i.type, id, i.ver) :: vs } }, c)
          else (x, c)
  (if code = Code.done then x else x.bump Reg.GEN_LOAD_REFUSED_CNT, code)

/-- IMG_VER of a loaded image. -/
def Tau.imgVer (x : Tau) (type id : Nat) : Nat :=
  ((x.lib.vers.find? fun v => v.1 == type && v.2.1 == id).map (·.2.2)).getD 0

/-! ## Images to a die (R467) -/

/-- The fragments of an image payload. -/
def imageFragments (itype ver job epoch nseq : Nat) (p : List Byte) : List (List Byte) :=
  let n := ceilDiv p.length 4056
  (List.range n).map fun i =>
    let d := (p.drop (4056 * i)).take 4056
    mkControl (leBytes 1 0xB8 ++ leBytes 1 itype ++ leBytes 2 d.length ++ leBytes 2 i ++ leBytes 2 n ++ leBytes 4 p.length ++
      leBytes 4 ver ++ leBytes 2 job ++ zeros 2 ++ leBytes 4 epoch ++ leBytes 4 nseq ++ zeros 4 ++ d)

/-- Send an image's payload to die `c`. -/
def Tau.sendImage (x : Tau) (c itype ver job epoch nseq : Nat) (p : List Byte) : Tau :=
  (imageFragments itype ver job epoch nseq p).foldl (fun x r => x.sendDown c r) x

/-! ## Key grants (R381) -/

/-- Judge a key grant: the state after and the code. -/
def Tau.takeGrant (x : Tau) (i : Image) : Tau × Nat :=
  let p := i.payload
  let epoch := fieldAt p 12 4
  match x.verify [2, 3] i with
  | (x, false) => (x, Code.signature)
  | (x, true) =>
    if !(decide (1 ≤ x.lc ∧ x.lc ≤ 3)) then (x, Code.lifecycle)
    else if p.length ≠ 64 ∨ 8 ≤ fieldAt p 4 1 ∨ !allZero ((p.drop 5).take 3) ∨ fieldAt p 8 4 % 8 ≠ 0 then (x, Code.fit)
    else if (x.cip.cur.toList ++ x.cip.staged.toList).any fun g => decide (epoch ≤ g.epoch) then (x, Code.stale)
    else
      let wrap := nats (kdf (x.fuses.kd.getD (zeros 32)) (kdfContext (fieldAt p 0 4) 0xFF 0 0 epoch) 256)
      let iv := gcmIv 0 epoch
      let ct := nats ((p.drop 16).take 32)
      if x.fuses.kd.isNone ∨ gcmTag wrap iv (nats (p.take 16)) ct ≠ nats ((p.drop 48).take 16) then (x, Code.signature)
      else
        let g : Grant :=
          { fleet := fieldAt p 0 4, site := fieldAt p 4 1, base := fieldAt p 8 4, epoch := epoch, key := bytesOf (gcmStream wrap iv ct) }
        ({ x with cip := { x.cip with staged := some g } }, Code.done)

/-! ## Debug authorisations (R354) -/

/-- A DEBUG_AUTH record (R337). -/
def Tau.authRecord (x : Tau) (authId rank code notAfter : Nat) : Tau :=
  x.recordTau 1 7 0x0E01 (leBytes 4 authId ++ leBytes 3 rank ++ leBytes 1 code ++ leBytes 8 notAfter)

/-- The slots that may sign an authorisation for a die in the given lifecycle state (R442). -/
def authSlots (lc : Nat) : List Nat := if lc = 3 then [2, 3] else if 4 ≤ lc then [1] else [1, 2, 3]

/-- Judge a debug authorisation for the TDU of rank `rank` and forward it: none while the TDU's answer is out. -/
def Tau.takeAuth (x : Tau) (rank : Nat) (i : Image) : Tau × Option Nat :=
  let d := rank - x.base
  let here := x.isTray && decide (x.base ≤ rank ∧ d < 16) && decide (3 ≤ x.rd Reg.GEN_TDU_STATE_STATE d ∧ x.rd Reg.GEN_TDU_STATE_STATE d ≤ 4)
  let id := fieldAt i.payload 28 4
  let na := fieldAt i.payload 16 8
  let refuse (x : Tau) (c : Nat) : Tau × Option Nat := (x.authRecord id rank c na, some c)
  match x.verify (authSlots (x.rd Reg.GEN_TDU_STATE_LC d)) i with
  | (x, false) => refuse x Code.signature
  | (x, true) =>
    if x.lc < 3 then refuse x Code.lifecycle
    else if !here || i.payload.length != 32 then refuse x Code.fit
    else
      let x := x.sendImage d 9 i.ver 0xFFFF 0 0 i.payload
      ({ x with boot := { x.boot with auth := x.boot.auth ++ [(d, id, na)] } }, none)

/-! ## Lifecycle orders (R446) -/

/-- Judge a lifecycle order; an accepted one waits for the next period boundary. -/
def Tau.takeOrder (x : Tau) (i : Image) : Tau × Nat :=
  let p := i.payload
  let from_ := fieldAt p 8 1
  let to_ := fieldAt p 9 1
  match x.verify (if to_ = 1 then [0] else [2, 3]) i with
  | (x, false) => (x, Code.signature)
  | (x, true) =>
    if p.length ≠ (if to_ = 1 then 144 else 16) ∨ fieldAt p 0 8 ≠ x.fuses.devId ∨ from_ ≠ x.fuses.lc ∨ to_ ≤ from_ ∨ 4 < to_ ∨
        !allZero ((p.drop 10).take 6) then (x, Code.fit)
    else
      let o : FuseOrder :=
        { from_ := from_, to_ := to_, kd := (p.drop 16).take 32, h2 := (p.drop 48).take 48, h3 := (p.drop 96).take 48 }
      ({ x with boot := { x.boot with order := some o } }, Code.done)

/-- A write batch of one access without a notice (R466). -/
def accessBatch (write : Bool) (a v : Nat) : List Byte :=
  mkControl (leBytes 1 0xB7 ++ leBytes 1 (if write then 0 else 2) ++ leBytes 2 1 ++ leBytes 2 0xFFFF ++ zeros 2 ++ zeros 8 ++
    zeros 8 ++ zeros 8 ++ leBytes 4 a ++ leBytes 4 v)

/-- Every authorisation open at a TDU ends with the lifecycle change (R354, R446): the TAU writes AUTH_REVOKE (assumption 73). -/
def Tau.revokeAuths (x : Tau) : Tau :=
  forIdx 16 (fun d x =>
    let st := x.rd Reg.GEN_TDU_STATE_STATE d
    if x.isTray && x.on && decide (3 ≤ st ∧ st ≤ 4) then x.sendDown d (accessBatch true 0x80B4 1) else x) x

/-- At a period boundary the fuses of an accepted order are programmed. -/
def Tau.programFuses (x : Tau) : Tau :=
  match x.boot.order with
  | none => x
  | some o =>
    let f := { x.fuses with lc := o.to_ }
    let f := if o.to_ = 1 then
        { f with kd := some o.kd, slotValid := Nat.lor f.slotValid 0xC,
                 slotHash := (f.slotHash.take 2) ++ [o.h2, o.h3] }
      else f
    let cip := if o.to_ = 4 then { x.cip with cur := none, prev := none, staged := none } else x.cip
    let x := { x with fuses := f, cip := cip, boot := { x.boot with order := none } }
    x.revokeAuths.recordTau 1 7 0x1002 (leBytes 1 o.from_ ++ leBytes 1 o.to_)

/-! ## GEN.IMG_LOAD and GEN.UCODE_LOAD (R452, R473) -/

/-- The result of an image load shows in IMG_STAT and raises IMG_DONE. -/
def Tau.imgDone (x : Tau) (type code : Nat) : Tau :=
  (((x.wr Reg.GEN_IMG_STAT_CODE code).wr Reg.GEN_IMG_STAT_TYPE type).wr Reg.GEN_IMG_STAT_VALID 1).raise 6

/-- A write of IMG_LOAD. `b`: the image at IMG_OFS. -/
def Tau.imgLoad (x : Tau) (v : Nat) (b : List Byte) : Tau :=
  let type := fieldAt b 4 1
  if !v.testBit 0 then x
  else match Image.read [8, 9, 10] b with
    | none =>
      let x := if type = 8 then x.bump Reg.CIP_GRANT_REF_CNT else x.bump Reg.GEN_LOAD_REFUSED_CNT
      x.imgDone type Code.fit
    | some i =>
      if i.type = 8 then
        let (x, c) := x.takeGrant i
        (if c = Code.done then x else x.bump Reg.CIP_GRANT_REF_CNT).imgDone 8 c
      else if i.type = 9 then
        match x.takeAuth (v / 256) i with
        | (x, some c) => (x.bump Reg.GEN_LOAD_REFUSED_CNT).imgDone 9 c
        | (x, none) => x.wr Reg.GEN_IMG_STAT_VALID 0
      else
        let (x, c) := x.takeOrder i
        (if c = Code.done then x else x.bump Reg.GEN_LOAD_REFUSED_CNT).imgDone 10 c

/-- The TDU of die `d` has judged a debug authorisation (R354, R467): its record and its result. -/
def Tau.authAnswer (x : Tau) (d code : Nat) : Tau :=
  match x.boot.auth.find? (·.1 == d) with
  | none => x
  | some a =>
    let x := { x with boot := { x.boot with auth := x.boot.auth.erase a } }
    (x.authRecord a.2.1 (x.base + d) code a.2.2).imgDone 9 code

/-- Start the microcode held in die `d` (R455): its fragments go down, and the die is LOADING. -/
def Tau.startUcode (x : Tau) (d : Nat) : Tau :=
  match x.lib.ucode with
  | some p => (x.sendImage d 2 (x.imgVer 2 0) 0xFFFF 0 0 p).wr Reg.GEN_TDU_STATE_STATE 2 d
  | none => x

/-- A write of UCODE_LOAD. `b`: the image at UCODE_OFS. -/
def Tau.ucodeLoad (x : Tau) (v : Nat) (b : List Byte) : Tau :=
  let refuse (x : Tau) (c : Nat) : Tau := (x.wr Reg.GEN_UCODE_STAT_CODE c).bump Reg.GEN_LOAD_REFUSED_CNT
  if !v.testBit 0 then x
  else match Image.read [2] b with
    | none => refuse x Code.fit
    | some i =>
      match x.verify [0] i with
      | (x, false) => refuse x Code.signature
      | (x, true) =>
        let p := i.payload
        let n := fieldAt p 4 4
        if n = 0 ∨ 262144 < n ∨ p.length ≠ 64 + n ∨ fieldAt p 1 1 ≠ 0 ∨ !allZero ((p.drop 8).take 8) then refuse x Code.fit
        else
          let vs := (2, 0, i.ver) :: x.lib.vers.filter (·.1 != 2)
          let x := { x with lib := { x.lib with ucode := some p, vers := vs } }
          let x := (x.wr Reg.GEN_UCODE_STAT_CODE Code.done).wr Reg.GEN_UCODE_STAT_VER (fieldAt p 2 2)
          if !x.isTray then x
          else (List.range 16).foldl (fun x d =>
            let st := x.rd Reg.GEN_TDU_STATE_STATE d
            if st = 1 ∨ st = 5 then x.startUcode d else x) x

end Sys2Proof.Machine
end

