-- ==== Sys2Proof/Machine/Acks.lean ====
section
/-!
DEFINITION. Notices as records (R391), what they are for (R393, R396), their acknowledgements and how these merge (R396, R397), and the
status slots of an issuing TAU (R394, R398, R399).
-/

namespace Sys2Proof.Machine

/-! ## Records of a notice (R391) -/

/-- The period whose low 32 bits are `v` and that lies nearest period `per`. -/
def nearPeriod (per v : Nat) : Nat :=
  let d := (v + 2 ^ 32 - per % 2 ^ 32) % 2 ^ 32
  if d ≤ 2 ^ 31 then per + d else per + d - 2 ^ 32

/-- The fragment records of a notice. -/
def Notice.frags (n : Notice) : List (List Byte) :=
  let cnt := Nat.max 1 (ceilDiv n.body.length 4032)
  (List.range cnt).map fun i =>
    let d := (n.body.drop (4032 * i)).take 4032
    mkControl (leBytes 1 (0x80 + n.kind) ++ leBytes 1 (bit n.replay) ++ leBytes 2 n.job ++ leBytes 4 n.epoch ++ leBytes 4 n.nseq ++
      leBytes 2 i ++ leBytes 2 cnt ++ leBytes 8 n.effect ++ leBytes 4 (n.dl % 2 ^ 32) ++ leBytes 2 d.length ++ zeros 2 ++ d)

/-- A fragment is well formed (R391, R458). -/
def noticeFragOk (r : List Byte) : Bool :=
  let kind := fieldAt r 0 1 - 0x80
  let flen := fieldAt r 28 2
  crcOk r && decide (1 ≤ kind) && decide (kind ≤ 12) && decide (0x80 ≤ fieldAt r 0 1) && decide (flen ≤ 4032) &&
    r.length == ceilDiv (36 + flen) 8 * 8 && decide (fieldAt r 12 2 < fieldAt r 14 2) && decide (fieldAt r 14 2 ≤ 16645) &&
    decide (fieldAt r 1 1 ≤ 1) && allZero ((r.drop 30).take 2)

/-- Two notices have the same NID. -/
def Notice.is (n : Notice) (job epoch nseq : Nat) : Bool := n.job == job && n.epoch == epoch && n.nseq == nseq

/-! ## Ranks in scope (R393, R396) -/

/-- The ranges that a JOB_START body lists (R400). -/
def startRanges (b : List Byte) : List (Nat × Nat) :=
  let o := 64 + 8 * fieldAt b 2 1 + ceilDiv (2 * fieldAt b 3 1) 8 * 8
  (List.range (fieldAt b 4 2)).map fun i => (fieldAt b (o + 8 * i) 3, fieldAt b (o + 8 * i + 4) 4)

/-- The ranges of the job that a notice is for; none for a fleet notice. -/
def Tau.noticeRanges (x : Tau) (n : Notice) : List (Nat × Nat) :=
  if n.job = 0xFFFF then [] else if n.kind = 1 then startRanges n.body else ((x.job n.job).map (·.ranges)).getD []

/-- The ranks in scope in child `c`: every attached TDU for a fleet notice, else the job's ranks. -/
def Tau.scopeCount (x : Tau) (job : Nat) (rs : List (Nat × Nat)) (c : Nat) : Nat :=
  if job = 0xFFFF then x.regCount 0xFFFF c else ranksIn rs (x.kidBase c) (x.kidBase c + x.kidSpan c)

/-- The ranks in scope that this TAU holds. -/
def Tau.ownCount (x : Tau) (job : Nat) (rs : List (Nat × Nat)) : Nat :=
  x.children.foldl (fun n c => n + x.scopeCount job rs c) 0

/-- The children that a notice is forwarded to (R393). -/
def Tau.scopeKids (x : Tau) (job : Nat) (rs : List (Nat × Nat)) : List Nat :=
  x.children.filter fun c => job == 0xFFFF || decide (0 < x.scopeCount job rs c)

/-- The lowest rank in scope in child `c`. -/
def Tau.scopeLow (x : Tau) (job : Nat) (rs : List (Nat × Nat)) (c : Nat) : Nat :=
  if job = 0xFFFF then x.kidBase c
  else (rs.filter fun (b, s) => decide (Nat.max b (x.kidBase c) < Nat.min (b + s) (x.kidBase c + x.kidSpan c))).foldl
    (fun m (b, _) => Nat.min m (Nat.max b (x.kidBase c))) rankNone

/-! ## Acknowledgements (R396) -/

/-- Ranges sorted, and joined where they touch. -/
def joinRanges (l : List (Nat × Nat)) : List (Nat × Nat) :=
  ((isort (fun a b => decide (a.1 ≤ b.1)) l).foldl (fun acc (b, s) => match acc with
    | (c, n) :: rest => if b ≤ c + n then (c, Nat.max n (b + s - c)) :: rest else (b, s) :: acc
    | [] => [(b, s)]) []).reverse

/-- An acknowledgement cut to eight ranges. -/
def Ack.cut (a : Ack) : Ack :=
  let l := joinRanges a.ranges
  { a with ranges := l.take 8, ovf := a.ovf || decide (8 < l.length) }

/-- The record of an acknowledgement. -/
def Ack.bytes (a : Ack) : List Byte :=
  let rs := a.ranges.flatMap fun (b, s) => leBytes 3 b ++ zeros 1 ++ leBytes 4 s
  withCrc (leBytes 1 0xA0 ++ leBytes 1 (bit a.replay + 2 * bit a.ovf) ++ leBytes 2 a.job ++ leBytes 4 a.epoch ++ leBytes 4 a.nseq ++
    leBytes 4 a.applied ++ leBytes 4 a.refused ++ leBytes 4 a.unreached ++ leBytes 1 a.code ++ leBytes 3 a.codeRank ++
    leBytes 1 a.kind ++ zeros 3 ++ leBytes 8 a.actual ++ leBytes 1 a.ranges.length ++ zeros 7 ++ padLen 64 rs ++ zeros 4)

/-- Read an acknowledgement record. -/
def Ack.parse (r : List Byte) : Ack :=
  { replay := (fieldAt r 1 1).testBit 0, ovf := (fieldAt r 1 1).testBit 1, job := fieldAt r 2 2, epoch := fieldAt r 4 4,
    nseq := fieldAt r 8 4, applied := fieldAt r 12 4, refused := fieldAt r 16 4, unreached := fieldAt r 20 4,
    code := fieldAt r 24 1, codeRank := fieldAt r 25 3, kind := fieldAt r 28 1, actual := fieldAt r 32 8,
    ranges := (List.range (fieldAt r 40 1)).map fun i => (fieldAt r (48 + 8 * i) 3, fieldAt r (52 + 8 * i) 4) }

/-- An acknowledgement record passes R458. -/
def ackOk (r : List Byte) : Bool := ctlOk 0xA0 r && r.length == 120 && decide (fieldAt r 40 1 ≤ 8)

/-- Two acknowledgements merge: counts add, CODE comes from the lowest CODE_RANK and ACTUAL from the largest. -/
def Ack.add (a b : Ack) : Ack :=
  let low := b.code != 0 && (a.code == 0 || decide (b.codeRank < a.codeRank))
  { a with
    ovf := a.ovf || b.ovf
    applied := a.applied + b.applied
    refused := a.refused + b.refused
    unreached := a.unreached + b.unreached
    code := if low then b.code else a.code
    codeRank := if low then b.codeRank else a.codeRank
    actual := Nat.max a.actual b.actual
    ranges := a.ranges ++ b.ranges }

/-- An acknowledgement of a notice that counts nothing yet. -/
def Notice.ack (n : Notice) : Ack := ⟨n.replay, false, n.job, n.epoch, n.nseq, 0, 0, 0, 0, 0, n.kind, 0, []⟩

/-! ## Status slots (R398, R399) -/

/-- A slot is for a NID. -/
def NtcSlot.is (s : NtcSlot) (job epoch nseq : Nat) : Bool := s.a.job == job && s.a.epoch == epoch && s.a.nseq == nseq

/-- Change the slots of a NID. -/
def Tau.setSlot (x : Tau) (job epoch nseq : Nat) (f : NtcSlot → NtcSlot) : Tau :=
  { x with ntc := { x.ntc with slots := x.ntc.slots.map fun s => if s.is job epoch nseq then f s else s } }

/-- Ranks of the ranges of `l` (disjoint) that lie in those of `m`. -/
def ranksShared (l m : List (Nat × Nat)) : Nat := l.foldl (fun n (b, k) => n + ranksIn m b (b + k)) 0

/-- Ranges cut to [base, base + span). -/
def cutRanges (base span : Nat) (l : List (Nat × Nat)) : List (Nat × Nat) :=
  l.filterMap fun (b, k) =>
    let lo := Nat.max b base
    let hi := Nat.min (b + k) (base + span)
    if lo < hi then some (lo, hi - lo) else none

/-- RECOVERED (R398, R399), from the deadline on: the unreached ranks that resyncs have named, each once, and those that replayed
acknowledgements count. Such a record names no rank, so the ranks of each child are counted no further than the child's unreached
ones that no resync has named (DEDUCED, assumption 76). -/
def NtcSlot.recov (per : Nat) (s : NtcSlot) : Nat :=
  if !s.closed || decide (per < s.dl) then 0
  else
    let more := s.acks.foldl (fun n (base, span, k) =>
      let lost := cutRanges base span s.a.ranges
      n + (if s.a.ovf then k else Nat.min k (ranksShared lost s.a.ranges - ranksShared (cutRanges base span s.back) lost))) 0
    Nat.min s.a.unreached (ranksShared s.back s.a.ranges + more)

/-- A replayed acknowledgement reaches the issuer over the child whose ranks are [base, base + span). -/
def NtcSlot.replayed (base span n : Nat) (s : NtcSlot) : NtcSlot :=
  let old := ((s.acks.find? fun e => e.1 == base && e.2.1 == span).map (·.2.2)).getD 0
  { s with acks := (base, span, old + n) :: s.acks.filter fun e => !(e.1 == base && e.2.1 == span) }

/-- A slot takes its merged acknowledgement. -/
def NtcSlot.close (a : Ack) (s : NtcSlot) : NtcSlot := { s with a := a, closed := true }

/-- A node's resync reaches the ROOT (R398): `last` is its last NID of a handle, and [base, base + span) its ranks. -/
def NtcSlot.resync (job epoch nseq base span : Nat) (s : NtcSlot) : NtcSlot :=
  if s.a.job = job ∧ (s.a.epoch < epoch ∨ (s.a.epoch = epoch ∧ s.a.nseq ≤ nseq)) then
    { s with back := joinRanges (s.back ++ [(base, span)]) }
  else s

/-- An acknowledgement of the ranks in [base, base + span) is complete (R396): into the issuer's status slot, or up to the parent. A
replayed one counts as recovered at the issuer (R398). -/
def Tau.ackUp (x : Tau) (base span : Nat) (a : Ack) : Tau :=
  let a := a.cut
  if x.ntc.slots.any fun s => s.is a.job a.epoch a.nseq then
    x.setSlot a.job a.epoch a.nseq fun s => if a.replay then s.replayed base span a.applied else s.close a
  else x.toParent false a.bytes

/-- This TAU's own acknowledgement is complete. -/
def Tau.sendAck (x : Tau) (a : Ack) : Tau := x.ackUp x.base (x.rd Reg.SCB_RANK_SPAN) a

/-! ## Merging (R396, R397) -/

/-- A merge is for the notice of an acknowledgement. -/
def AckMerge.is (m : AckMerge) (job epoch nseq : Nat) : Bool := m.a.job == job && m.a.epoch == epoch && m.a.nseq == nseq

/-- Change the merges that `p` names. -/
def Tau.setMerges (x : Tau) (p : AckMerge → Bool) (f : AckMerge → AckMerge) : Tau :=
  { x with ntc := { x.ntc with merge := x.ntc.merge.map fun m => if p m then f m else m } }

/-- Merges that are complete leave (R396). -/
def Tau.finishAcks (x : Tau) : Tau :=
  let ready (m : AckMerge) : Bool := m.pend == 0 && m.own && m.hold.isNone
  let done := x.ntc.merge.filter ready
  forEach done (fun m x => x.sendAck m.a) { x with ntc := { x.ntc with merge := x.ntc.merge.filter fun m => !ready m } }

/-- This TAU answers a notice for all its ranks in scope with one code (R392, R396). -/
def Tau.ackOwn (x : Tau) (n : Notice) (rs : List (Nat × Nat)) (code : Nat) : Tau :=
  let k := x.ownCount n.job rs
  let low := (x.scopeKids n.job rs).foldl (fun m c => Nat.min m (x.scopeLow n.job rs c)) rankNone
  let act := if n.effect = 0 then x.per else Nat.max n.effect (x.per + 1)
  let a := n.ack
  x.sendAck (if code = 0 then { a with applied := k, actual := act } else { a with refused := k, code := code, codeRank := low })

/-- Bit `c` is cleared. -/
def clearBit (m c : Nat) : Nat := if m.testBit c then m - 2 ^ c else m

/-- Child `c` has answered a merge with `b`. -/
def AckMerge.take (c : Nat) (b : Ack) (m : AckMerge) : AckMerge := { m with a := m.a.add b, pend := clearBit m.pend c }

/-- A NOTICE_UNREACHED record about child `c` (R397, R423). -/
def Tau.unreachedRecord (x : Tau) (a : Ack) (c : Nat) : Tau :=
  x.recordTau 1 5 0x0C01 (leBytes 2 a.job ++ leBytes 1 a.kind ++ zeros 1 ++ leBytes 4 a.epoch ++ leBytes 4 a.nseq ++
    leBytes 3 (x.kidBase c) ++ zeros 1 ++ leBytes 4 (x.kidSpan c))

/-- The deadline of a merge has come (R397): its silent children are unreached. -/
def Tau.timeOutMerge (x : Tau) (m : AckMerge) : Tau :=
  let cs := (List.range 64).filter m.pend.testBit
  let x := forEach cs (fun c x => (x.bump Reg.MNT_NTC_TMO_CNT).unreachedRecord m.a c) x
  let n := cs.foldl (fun n c => n + x.scopeCount m.a.job m.scope c) 0
  let rs := cs.map fun c => (x.kidBase c, x.kidSpan c)
  x.setMerges (· == m) fun m => { m with pend := 0, a := { m.a with unreached := m.a.unreached + n, ranges := m.a.ranges ++ rs } }

/-- Deadlines that have come, at a boundary (R397). -/
def Tau.ackDeadlines (x : Tau) : Tau :=
  let due := x.ntc.merge.filter fun m => decide (m.dl ≤ x.per) && m.pend != 0
  (forEach due (fun m x => x.timeOutMerge m) x).finishAcks

/-! ## Replay requests (R398, R464) -/

/-- Replay requests of this TAU, of at most 254 handles each, to its parent. -/
def Tau.requestReplay (x : Tau) : Tau :=
  let all := if x.ntc.last.isEmpty then [(0xFFFF, 0, 0)] else x.ntc.last
  let groups := (List.range (ceilDiv all.length 254)).map fun i => (all.drop (254 * i)).take 254
  forEach groups (fun g x =>
    x.toParent false (mkControl (leBytes 1 0xA1 ++ zeros 1 ++ leBytes 2 g.length ++ leBytes 3 x.base ++ zeros 1 ++
      leBytes 4 (x.rd Reg.SCB_RANK_SPAN) ++ zeros 4 ++ g.flatMap fun (j, e, n) => leBytes 2 j ++ zeros 2 ++ leBytes 4 e ++ leBytes 4 n ++ zeros 4))) x

/-- A replay request or resync of the given CTYPE passes R458. -/
def replayOk (ctype : Nat) (r : List Byte) : Bool :=
  ctlOk ctype r && decide (1 ≤ fieldAt r 2 2) && decide (fieldAt r 2 2 ≤ 254) && r.length == 24 + 16 * fieldAt r 2 2

/-- The handles and last NIDs that a replay request or resync lists. -/
def replayEntries (r : List Byte) : List (Nat × Nat × Nat) :=
  (List.range (fieldAt r 2 2)).map fun i => (fieldAt r (16 + 16 * i) 2, fieldAt r (20 + 16 * i) 4, fieldAt r (24 + 16 * i) 4)

/-- A resync (R398, R464): the ROOT counts, others pass it on. A FEDERATION TAU has status slots of its own. -/
def Tau.resync (x : Tau) (r : List Byte) : Tau :=
  let base := fieldAt r 4 3
  let span := fieldAt r 8 4
  let x := forEach (replayEntries r) (fun (j, e, n) x =>
    { x with ntc := { x.ntc with slots := x.ntc.slots.map (NtcSlot.resync j e n base span) } }) x
  if x.roleSet && decide (3 ≤ x.role) then x else x.toParent false r

end Sys2Proof.Machine
end

