-- ==== Sys2Proof/Machine/Emit.lean ====
section
/-!
DEFINITION. Emission in the die unit: the coaches that its entries build from the snapshot (R78, R146 to R167), and the paths in
which they leave (R74 to R79, R358).
-/

namespace Sys2Proof.Machine

/-! ## Sources (R157, R159, R160) -/

/-- A value from a source, whether an out-of-order marker or phase gave it, whether the source holds it at its limit (R146), and the
flag and bound of a value that is a stamp (R151). -/
structure Given where
  val : SrcVal
  order : Bool := false
  sat : Bool := false
  stamp : Option (Bool × Nat) := none

/-- An integer from a source. -/
def Given.int (n : Int) : Given := { val := .exact n 0 }

/-- A count from a source that saturates at `m`. -/
def Given.upTo (m n : Nat) : Given := { val := .exact (Nat.min n m : Nat) 0, sat := decide (m < n) }

/-- Nothing to give (R157). -/
def Given.none : Given := { val := .nothing }

/-- A histogram statistic (R159 SRC 4). -/
def histStat (b : Bank) (k : Nat) : Given :=
  match k with
  | 0 => .int b.count
  | 1 => if b.count = 0 then .none else .int b.sum
  | 2 => if b.count = 0 then .none else .int b.min
  | 3 => if b.count = 0 then .none else .int b.max
  | 4 => if b.count = 0 then .none else .upTo countMax b.under
  | _ => if b.count = 0 then .none else .upTo countMax b.above

/-- The slots of the snapshot from SLOT_LO to SLOT_HI. -/
def Tdu.slotRange (d : Tdu) (arg2 : Nat) : List SlotStat :=
  d.cap.slotSnap.filter fun s => decide (bits arg2 0 8 ≤ s.slot) && decide (s.slot ≤ bits arg2 8 8)

/-- A slot's own statistic chosen by ARG: COUNT, OVER or MAX. -/
def SlotStat.stat (s : SlotStat) (k : Nat) : Nat := match k with | 0 => s.count | 1 => s.above | _ => s.max

/-- The slot holds a statistic at its limit (R130). -/
def SlotStat.atLimit (s : SlotStat) (k : Nat) : Bool := decide (s.clip.stat k < s.stat k)

/-- A slot statistic over a range (R159 SRC 5). -/
def Tdu.slotTotal (d : Tdu) (arg arg2 : Nat) : Given :=
  let l := d.slotRange arg2
  let k := arg % 4
  let n := if k = 2 then l.foldl (fun n s => Nat.max n s.clip.max) 0 else l.foldl (fun n s => n + s.clip.stat k) 0
  { val := .exact (n : Nat) 0, sat := l.any (·.atLimit k) }

/-- The first or last marker of the period that a descriptor names (R159 SRC 10). -/
def Tdu.markGiven (d : Tdu) (arg coll : Nat) : Given :=
  let l := d.cap.markSnap.filter fun m => m.code == bits arg 0 3 && (!arg.testBit 3 || m.coll == coll)
  match (if arg.testBit 4 then l.getLast? else l.head?) with
  | some m =>
    if arg.testBit 5 then { val := .exact m.step 0, order := m.order }
    else { val := .exact m.t 0, order := m.order, stamp := some (m.ho, m.eb) }
  | none => .none

/-- The first stamp of a collective phase in the period (R159 SRC 11). -/
def Tdu.phaseGiven (d : Tdu) (code coll : Nat) : Given :=
  match d.cap.phaseSnap.find? fun m => m.code == code && m.coll == coll with
  | some m => { val := .exact m.t 0, order := m.order, stamp := some (m.ho, m.eb) }
  | none => .none

/-- A sensor's latest value (R159 SRC 7). -/
def Tdu.sensorGiven (d : Tdu) (arg : Nat) : Given :=
  match d.cap.sensorSnap.getD (bits arg 0 6) none with
  | some e => if e.err then .none else if arg.testBit 8 then { val := fp32 (unsigned 32 e.val) } else .int e.val
  | none => .none

/-- The element type of a field: 0 U64, 1 S64, 2 FX. -/
def Desc.elem (f : Desc) : Nat := if f.type = 4 ∨ f.type = 5 then f.etype else f.type

/-- What a scalar source gives for a descriptor (R159). A detector state in Q.16 is rounded first where the element is an integer
(R165). -/
def Tdu.given (d : Tdu) (f : Desc) : Given :=
  match f.src with
  | 1 => .int (d.cap.snapInc.getD f.arg 0 : Nat)
  | 2 => .int (d.cap.snapCnt.getD f.arg 0 : Nat)
  | 4 => histStat (d.cap.hist.getD (bits f.arg 0 4) HistUnit.reset).snap (bits f.arg 4 3)
  | 5 => d.slotTotal f.arg f.arg2
  | 7 => d.sensorGiven f.arg
  | 8 =>
    let a := (d.cap.detSnap.getD f.arg ⟨0, 0, false⟩).a
    if f.elem = 2 then { val := .exact a (-16) } else .int (roundPow a (-16))
  | 10 => d.markGiven f.arg f.arg2
  | 11 => d.phaseGiven f.arg f.arg2
  | 13 => .int 1
  | _ => .none

/-! ## Fields (R156, R161 to R164) -/

/-- A field as built: its bytes, how many of its values were saturated, clipped or converted from NaN or infinity as they were
converted (R164), whether an out-of-order marker or phase gave one, whether a source or a count of the field stood at its limit, and
the flag and bound of the stamp that it carries. -/
structure Built where
  bytes : List Byte
  sat : Nat := 0
  order : Bool := false
  limit : Bool := false
  stamp : Option (Bool × Nat) := none

/-- What is noted of a field as built. -/
def Built.note (b : Built) : FieldNote := ⟨b.stamp, b.order, decide (0 < b.sat) || b.limit⟩

/-- A scalar field. -/
def Desc.buildScalar (f : Desc) (g : Given) : Built :=
  let (n, sat) := convert f.elem f.scale g.val
  { bytes := leBytes 8 n, sat := bit sat, order := g.order, limit := g.sat, stamp := g.stamp }

/-- A MINMAX field (R157): the value with holder count 1 and the TDU's rank, or nothing. -/
def Desc.buildMinMax (f : Desc) (rank : Nat) (g : Given) : Built :=
  if g.val = .nothing then { bytes := f.empty }
  else
    let (n, sat) := convert f.elem f.scale g.val
    { bytes := leBytes 8 n ++ leBytes 3 rank ++ zeros 1 ++ leBytes 4 1, sat := bit sat, order := g.order, limit := g.sat,
      stamp := g.stamp }

/-- Entries of a TOPK field in their order (R156): descending value, and ascending TAG among equals; the first K of them. -/
def Desc.topOrder (f : Desc) (l : List (Nat × Nat)) : List (Nat × Nat) :=
  (isort (fun a b => decide (f.num b.1 < f.num a.1) || (f.num a.1 == f.num b.1 && decide (a.2 ≤ b.2))) l).take f.size

/-- A TOPK field (R157, R159). -/
def Desc.buildTop (f : Desc) (rank : Nat) (d : Tdu) : Built :=
  let gs : List (Given × Nat) :=
    if f.src = 5 then ((d.slotRange f.arg2).filter (fun s => decide (0 < s.count))).map fun s =>
      ({ val := .exact (s.clip.stat (f.arg % 4) : Nat) 0, sat := s.atLimit (f.arg % 4) }, s.slot)
    else [(d.given f, 0)].filter fun g => g.1.val != .nothing
  let es := gs.map fun g => (convert f.elem f.scale g.1.val, g.2, g.1.order)
  let kept := f.topOrder (es.map fun e => (e.1.1, e.2.1))
  { bytes := leBytes 1 kept.length ++ zeros 7 ++ (kept.map fun e => leBytes 8 e.1 ++ leBytes 3 rank ++ leBytes 1 e.2).flatten,
    sat := (es.filter fun e => e.1.2).length, order := es.any fun e => e.2.2, limit := gs.any (·.1.sat),
    stamp := gs.head?.bind (·.1.stamp) }

/-- A BMAP field (R159 SRC 6, 9, 14). -/
def Desc.buildMap (f : Desc) (rank : Nat) (d : Tdu) : Built :=
  let n := match f.src with
    | 6 => d.cap.slotSnap.foldl (fun n s => if 0 < s.above then Nat.lor n (2 ^ s.slot) else n) 0
    | 9 => d.cap.flagSnap
    | _ => 2 ^ (rank % f.size)
  { bytes := leBytes (f.size / 8) n }

/-- A DIGEST64 field (R284). -/
def Desc.buildDigest (f : Desc) (d : Tdu) : Built :=
  match d.cap.digSnap.find? (·.1 == f.arg) with
  | some (c, dig, v) => { bytes := leBytes 8 (if v then dig else 0) ++ leBytes 2 c ++ leBytes 1 (bit v) ++ zeros 5 }
  | none => { bytes := f.empty }

/-- An HLL field (R159 SRC 15, R161). -/
def Desc.buildHll (f : Desc) (rank : Nat) (d : Tdu) : Built :=
  let ms := d.cap.markSnap.filter (·.code == 2)
  let items := if f.arg = 0 then [rank] else ms.map (·.coll)
  { bytes := hllBytes (items.foldl (fun l x => let (i, r) := hllSlot x; hllMax i r l) []),
    order := f.arg != 0 && ms.any (·.order) }

/-- Build a field of a coach from the snapshot (R156 to R164). -/
def Desc.build (f : Desc) (d : Tdu) : Built :=
  let rank := d.rd Reg.TGEN_RANK
  if f.src = 0 then { bytes := [] }
  else match f.type with
    | 3 =>
      let h := d.cap.hist.getD f.arg HistUnit.reset
      let (u, o, l) := mapHist f h.snapE h.snap
      let m (n : Nat) : Nat := Nat.min n countMax
      { bytes := histBytes (m u) (m o) (l.map fun kn => (kn.1, m kn.2)),
        limit := decide (countMax < u) || decide (countMax < o) || l.any fun kn => decide (countMax < kn.2) }
    | 4 => f.buildTop rank d
    | 5 => f.buildMinMax rank (d.given f)
    | 6 => f.buildMap rank d
    | 7 => f.buildDigest d
    | 8 => f.buildHll rank d
    | _ => f.buildScalar (d.given f)

/-! ## Coaches (R150 to R155, R167) -/

/-- The common header of a DATA or PULSE coach about period `p` (R146, R151 to R155). -/
def Tdu.coachHdr (d : Tdu) (cls sev consist p job epoch : Nat) (order sat : Bool) : Hdr :=
  { ver := 1, cls := cls, sev := sev, ho := d.time.hoPrev, gap := d.gapIn p, late := false, order := order, sat := sat, len := 0,
    consist := consist, rank := d.rd Reg.TGEN_RANK, epochLo := if job = 0xFFFF then 0 else epoch % 256, job := job,
    eb := ebUnits d.time.ebPrev, sigT := d.cap.sigTemp, sigL := d.cap.sigLoad, t := p * 2 ^ 18, rsv := false }

/-- The loss counters that a pulse compares with the previous one: Q_LOSS, L_LOSS, M_LOSS, S_LOSS, B_REF (R167). -/
def Tdu.lossNow (d : Tdu) : List Nat :=
  let r (f : Fld) : Nat := d.rd f
  [r Reg.TEMIT_QUEUE_DROP_CNT, r Reg.TEMIT_LATE_EMIT_CNT, r Reg.TEMIT_MARK_DROP_CNT, r Reg.TCAP_PH_DROP_CNT,
    r Reg.TPMU_SMP_DROP_CNT, r Reg.TEMIT_DEFER_CNT, r Reg.TEMIT_POWER_REFUSED_CNT, r Reg.TEMIT_MEMBW_REFUSED_CNT,
    r Reg.TEMIT_INTR_REFUSED_CNT, r Reg.TEMIT_SCR_REFUSED_CNT]

/-- The loss byte of a pulse (R167). The link share's refusal counters, DEFER_CNT and QUEUE_DROP_CNT, count under B_REF too
(R96). -/
def lossByte (seen now : List Nat) : Nat :=
  let ch (i : Nat) : Bool := seen.getD i 0 != now.getD i 0
  bit (ch 0) + 2 * bit (ch 1) + 4 * bit (ch 2 || ch 3) + 8 * bit (ch 4) + 16 * bit (ch 0 || ch 5 || ch 6 || ch 7 || ch 8 || ch 9)

/-- The PULSE coach about period `p` (R167). -/
def Tdu.pulseCoach (d : Tdu) (p : Nat) : List Byte :=
  let (job, ep) := d.pulseJob p
  let now := d.lossNow
  let st := d.tt + 4 * d.rd Reg.TTIME_TT_STATE_SRC_LINK + 8 * bit (d.lnk 0).up + 16 * bit (d.lnk 1).up +
    32 * bit (d.jobs.any (·.activeIn p))
  mkRecord (d.coachHdr 0 0 0xFF00 p job ep false false)
    (leBytes 2 d.emit.pseq ++ leBytes 1 st ++ leBytes 1 (lossByte d.emit.seen now))

/-- The pulse about period `p` enters the scheduled queue; one that is refused there is never sent, so neither PSEQ nor the counts
that the next pulse compares with move (R77, R167). -/
def Tdu.queuePulse (d : Tdu) (p : Nat) : Tdu :=
  let now := d.lossNow
  let e := d.queueSched ⟨d.pulseCoach p, some p⟩
  if e.emit.sched.length = d.emit.sched.length then e
  else { e with emit := { e.emit with pseq := (e.emit.pseq + 1) % 65536, seen := now } }

/-- The DATA coach of a consist about period `p` for a job (R150 to R155), and what is noted of its fields. -/
def Tdu.dataCoach (d : Tdu) (c : Consist) (j : DieJob) (p : Nat) : List Byte × List FieldNote × Tdu :=
  let bs := c.fields.map (·.build d)
  let notes := bs.map (·.note)
  let sat : Nat := bs.foldl (fun (n : Nat) b => n + b.sat) 0
  let r := mkRecord (d.coachHdr 1 c.sev c.id p j.handle (j.epochIn p) (notes.any (·.order)) (notes.any (·.sat)))
    (joinFields (bs.map (·.bytes)))
  (r, notes, d.bumpBy Reg.TGEN_CONV_SAT_CNT sat)

/-- The entry is due for data period `p` (R78). -/
def Entry.due (e : Entry) (p : Nat) : Bool := p % 2 ^ e.div == e.phase % 2 ^ e.div

/-- A due entry's coach about period `p` enters the scheduled queue (R78); it meets the detail store and the standing surveys
(R215, R220). -/
def Tdu.emitEntry (d : Tdu) (p : Nat) (ie : Nat × Entry) : Tdu :=
  let (i, e) := ie
  if e.consist = 0xFF00 then d.queuePulse p
  else if d.rd Reg.TGEN_RANK = 0xFFFFFF then d
  else match d.emit.jobs.getD i none, d.consists.find? fun c => c.id == e.consist && c.usable p with
    | some h, some c => match d.job h with
      | some j =>
        if j.activeIn p then
          let (r, notes, d) := d.dataCoach c j p
          ((d.queueSched ⟨r, some p⟩).keepCoach c j p r notes).standing c p r notes
        else d
      | none => d
    | _, _ => d

/-! ## Paths (R75 to R79, R358) -/

/-- The path that ends at FT: what is left of its allowance drains the trace (R358), and coaches still queued are deferred
(R76). -/
def Tdu.endPath (d : Tdu) : Tdu :=
  let t := d.now - 1
  let k := t / 2 ^ 14 % 16
  if d.clocked && d.timed && (d.rd Reg.TEMIT_PATH_MASK).testBit k then
    let d := if d.sendLink.isSome && d.emit.resend.isNone && d.emit.gap.isEmpty then
        d.drain (t / 2 ^ 18 * 2 ^ 18) (d.emit.left / 56)
      else d
    d.bumpBy Reg.TEMIT_DEFER_CNT
      (bit d.emit.resend.isSome + d.emit.gap.length + d.emit.sched.length + d.emit.unsched.length)
  else d

/-- A path begins (R74 to R78): its allowance, its due entries, and service of the queues. -/
def Tdu.beginPath (d : Tdu) : Tdu :=
  let k := T64.path d.ft
  let d := d.markLateAll
  let b := d.rd Reg.TEMIT_RATE * 128
  let open_ := (d.rd Reg.TEMIT_PATH_MASK).testBit k
  let owed := d.srv.owed
  let d := { d with
    emit := { d.emit with left := if open_ then b - owed else 0, busy := d.now, paced := 0 }
    srv := { d.srv with owed := if open_ then owed - b else owed } }
  let d := if d.per = 0 then d else
    forEach (d.entries.filter fun ie => ie.2.path == k && ie.2.due (d.per - 1)) (fun ie d => d.emitEntry (d.per - 1) ie) d
  (d.drainSamples 64).serveSurveys.serveAll

/-- A path boundary (R76): the path that ends and the one that begins. Without FT there is none. -/
def Tdu.pathBoundary (d : Tdu) : Tdu := if d.clocked && d.timed then d.endPath.beginPath else d

end Sys2Proof.Machine
end

