-- ==== Sys2Proof/Machine/DieLoad.lean ====
section
/-!
DEFINITION. The control records that the die unit takes from its TRAY TAU (R392, R396, R464 to R470): write batches, image
fragments, keys, commands and trace grants, and the acknowledgements it gives.
-/

namespace Sys2Proof.Machine

/-! ## Acknowledgements (R392, R396, R464, R470) -/

/-- The acknowledgement of a notice by one node of `n` ranks (R396). -/
def ackRecord (n rank kind job epoch nseq code actual : Nat) : List Byte :=
  let ok := code == 0
  withCrc (leBytes 1 0xA0 ++ zeros 1 ++ leBytes 2 job ++ leBytes 4 epoch ++ leBytes 4 nseq ++ leBytes 4 (if ok then n else 0) ++
    leBytes 4 (if ok then 0 else n) ++ zeros 4 ++ leBytes 1 code ++ leBytes 3 (if ok then 0 else rank) ++ leBytes 1 kind ++
    zeros 3 ++ leBytes 8 (if ok then actual else 0) ++ zeros 76)

/-- Send the acknowledgement of a notice. ACTUAL is the period named, the next boundary where that has passed, or for what acts on receipt
(EFFECT 0) the running period (R396). A node without valid FT cannot name the boundary at which it acts: the acknowledgement waits for
it (R87). -/
def Tdu.sendAck (d : Tdu) (kind job epoch nseq code effect : Nat) : Tdu :=
  if code = 0 ∧ effect ≠ 0 ∧ !d.timed then
    { d with ctl := { d.ctl with owed := (kind, job, epoch, nseq, effect) :: d.ctl.owed.filter (· != (kind, job, epoch, nseq, effect)) } }
  else d.sendCtl (ackRecord 1 (d.rd Reg.TGEN_RANK) kind job epoch nseq code (if effect = 0 then d.per else max effect (d.per + 1)))

/-- Acknowledge a notice and remember it: its code with those of the last 64, and its NID as the last of its handle (R392, R470). -/
def Tdu.ack (d : Tdu) (kind job epoch nseq code effect : Nat) : Tdu :=
  ({ d with
    ctl := { d.ctl with
      acked := ((job, epoch, nseq, code) :: d.ctl.acked).take 64
      last := (job, epoch, nseq) :: d.ctl.last.filter (·.1 != job) } }).sendAck kind job epoch nseq code effect

/-- At a boundary with valid FT the acknowledgements that waited for it leave, oldest first (R87). -/
def Tdu.sendOwed (d : Tdu) : Tdu :=
  forEach d.ctl.owed.reverse (fun (k, j, e, n, p) d => d.sendCtl (ackRecord 1 (d.rd Reg.TGEN_RANK) k j e n 0 (max p d.per)))
    { d with ctl := { d.ctl with owed := [] } }

/-- The replay request of the TDU (R464): the last NID of every handle it holds. -/
def Tdu.replayRequest (d : Tdu) : List Byte :=
  let last := d.ctl.last.take 254
  mkControl (leBytes 1 0xA1 ++ zeros 1 ++ leBytes 2 last.length ++ leBytes 3 (d.rd Reg.TGEN_RANK) ++ zeros 1 ++ leBytes 4 1 ++
    zeros 4 ++ (last.map fun (j, e, n) => leBytes 2 j ++ zeros 2 ++ leBytes 4 e ++ leBytes 4 n ++ zeros 4).flatten)

/-- How the NID of a record stands to what the TDU has applied (R392). -/
inductive NidStand where
  /-- The next of its handle, or the first that the TDU has of it. -/
  | next
  /-- Answered before, with this code. -/
  | answered (code : Nat)
  /-- Of an older epoch, or older than the codes kept. -/
  | stale
  /-- It skips a NID. -/
  | gap
  deriving DecidableEq, Repr

/-- The standing of a NID (R392). A pack refused with BUSY comes again and is judged afresh (R297). -/
def Tdu.nidStand (d : Tdu) (kind job epoch nseq : Nat) : NidStand :=
  match d.ctl.acked.find? fun e => e.1 == job && e.2.1 == epoch && e.2.2.1 == nseq with
  | some (_, _, _, code) => if kind = 10 ∧ code = Code.busy then .next else .answered code
  | none => match d.ctl.last.find? (·.1 == job) with
    | none => .next
    | some (_, e, n) =>
      if epoch < e ∨ epoch = e ∧ nseq ≤ n then .stale
      else if nseq = (if epoch = e then n + 1 else 1) then .next
      else .gap

/-- Apply a record of a notice. `final` tells the record whose success completes the notice, which is acknowledged then or when a
record of it is refused (R470). -/
def Tdu.takeRecord (d : Tdu) (kind job epoch nseq effect : Nat) (final : Bool) (act : Tdu → Nat × Tdu) : Tdu :=
  let (c, d) := act d
  let d := if c ≠ 0 ∧ !final then { d with ctl := { d.ctl with half := ((job, epoch, nseq) :: d.ctl.half).take 64 } } else d
  if c ≠ 0 ∨ final then d.ack kind job epoch nseq c effect else d

/-- Act on the record `r` of a notice (R392, R470). A record of a notice already answered is not applied again, and where it is the
notice's last it is answered as before, unless it ends the very delivery that was refused. A record that skips a NID is held and the
replay of its handle asked for (R464). The replay brings, in order, what the TDU has missed and then the record held, whose second coming
shows that nothing else is missing: a notice may have carried this TDU nothing (R470; DEDUCED, assumption 17). -/
def Tdu.underNid (d : Tdu) (r : List Byte) (kind job epoch nseq effect : Nat) (final : Bool) (act : Tdu → Nat × Tdu) : Tdu :=
  let take (d : Tdu) : Tdu :=
    ({ d with ctl := { d.ctl with held := d.ctl.held.filter (·.2 != r) } }).takeRecord kind job epoch nseq effect final act
  if nseq = 0 then (act d).2
  else match d.nidStand kind job epoch nseq with
    | .answered code =>
      if !final then d
      else if d.ctl.half.contains (job, epoch, nseq) then
        { d with ctl := { d.ctl with half := d.ctl.half.filter (· != (job, epoch, nseq)) } }
      else d.sendAck kind job epoch nseq code effect
    | .stale => if final then d.sendAck kind job epoch nseq Code.stale effect else d
    | .next => take d
    | .gap =>
      if d.ctl.held.any (·.2 == r) then take d
      else
        let known := d.ctl.held.any (·.1 == (job, epoch, nseq))
        let d := { d with ctl := { d.ctl with held := d.ctl.held ++ [((job, epoch, nseq), r)] } }
        if known then d else d.sendCtl d.replayRequest

/-- A refusal counted in TGEN.CST_REFUSED_CNT (R172, R282, R466, R469). -/
def Tdu.refuseCst (d : Tdu) (code : Nat) : Nat × Tdu := (code, d.bump Reg.TGEN_CST_REFUSED_CNT)

/-- Hold a record for the boundary of its EFFECT, or let it act at once (R466 to R469). -/
def Tdu.atEffect (d : Tdu) (effect : Nat) (r : List Byte) (now : Tdu → Tdu) : Tdu :=
  if effect = 0 then now d else { d with ctl := { d.ctl with due := d.ctl.due ++ [(effect, r)] } }

/-! ## Result slots of jobs (R282) -/

/-- The collective indices that a consist names with SRC 12. -/
def Consist.colls (c : Consist) : List Nat :=
  (c.fields.filter (·.src == 12)).foldl (fun l f => if l.contains f.arg then l else l ++ [f.arg]) []

/-- Give job `h` a slot for each index; none where one is watched for another job or a fifth slot is needed. -/
def claimSlots (h : Nat) : List Nat → List (Option ResSlot) → Option (List (Option ResSlot))
  | [], l => some l
  | c :: cs, l =>
    match l.findSome? fun o => match o with | some s => if s.coll = c then some s.job else none | none => none with
    | some j => if j = h then claimSlots h cs l else none
    | none =>
      match firstIdx Option.isNone l with
      | none => none
      | some i =>
        let s : ResSlot := ⟨c, h, 0, 0, true, 0, 0, [], 0, 0⟩
        claimSlots h cs (modifyAt (fun _ => some s) i l)

/-- The consists of a job on this die: those loaded for it and those its entries name. -/
def Tdu.jobConsists (d : Tdu) (h : Nat) : List Consist :=
  d.consists.filter fun c => c.job == h ||
    d.entries.any fun ie => d.emit.jobs.getD ie.1 none == some h && ie.2.consist == c.id

/-- The writes of a batch: address and data (R466). -/
def batchWrites (r : List Byte) : List (Nat × Nat) :=
  (chunks 8 (fieldAt r 2 2) (r.drop 32)).map fun b => (fieldAt b 0 4, fieldAt b 4 4)

/-- The emission entry that an address of the TDU window holds (R104). -/
def entryAt (a : Nat) : Option Nat := if 0x9100 ≤ a ∧ a < 0x9140 then some ((a - 0x9100) / 4) else none

/-- The collective indices of the consists that a batch's entries would put into use. -/
def Tdu.batchColls (d : Tdu) (r : List Byte) : List Nat :=
  ((batchWrites r).filter fun w => (entryAt w.1).isSome && w.2.testBit 31).flatMap fun w =>
    match d.consist (w.2 % 65536) with | some c => c.colls | none => []

/-- Free the slots whose index no consist of their job names (R282); the entries of a batch that waits for its boundary name
theirs. -/
def Tdu.freeSlots (d : Tdu) : Tdu :=
  let waits (s : ResSlot) : Bool :=
    d.ctl.due.any fun e => fieldAt e.2 0 1 == 0xB7 && fieldAt e.2 4 2 == s.job && (d.batchColls e.2).contains s.coll
  let used (s : ResSlot) : Bool := ((d.jobConsists s.job).any fun c => c.colls.contains s.coll) || waits s
  let d := d.clearRes fun s => !used s
  { d with tap := { d.tap with res := d.tap.res.map fun o => match o with | some s => if used s then some s else none | none => none } }

/-! ## Write batches (R466) -/

/-- Apply a batch's writes, note the owner of each entry written (R454), and commit its groups in the same cycle (R466), but for those
that a scheduled commit has frozen (R85). -/
def Tdu.applyBatch (d : Tdu) (r : List Byte) : Tdu :=
  let job := fieldAt r 4 2
  let mask := fieldAt r 6 2
  let d := forEach (batchWrites r) (fun w d =>
    let d := d.regWrite .tau w.1 4 w.2
    match entryAt w.1 with
    | some i => { d with emit := { d.emit with jobs := modifyAt (fun _ => if job = 0xFFFF then none else some job) i d.emit.jobs } }
    | none => d) d
  if !(fieldAt r 1 1).testBit 0 then d
  else
    let d := d.strobe (Nat.land mask (schedMask d.emit.sc)) true
    d.commitGroups (mask - Nat.land mask (schedMask d.emit.sc))

/-- The response to a batch without a notice (R466). -/
def readResponse (code addr data : Nat) : List Byte :=
  withCrc (leBytes 1 0xBB ++ leBytes 1 code ++ zeros 2 ++ leBytes 4 addr ++ leBytes 4 data ++ zeros 8)

/-- The page of a shadow write that a scheduled commit will still bar when the write comes to act: at once for an EFFECT of 0,
else at the boundary of `effect`, where scheduled commits go first (R85). -/
def Tdu.frozenWrite (d : Tdu) (effect a : Nat) : Option Nat :=
  match dieAddr a with
  | none => none
  | some (p, o, _) =>
    let bars (o : Option SchedSlot) : Bool := match o with
      | some c => c.mask.testBit (p - 0x20) && (effect == 0 || decide (effect < c.period))
      | none => false
    if d.rd (Reg.PG_LOCK p) = 0 ∧ d.emit.sc.any bars ∧ (wordFields p o).any (fun fi => fi.1.acc == .rws) then some p else none

/-- The TDU as the batches that wait for their EFFECT will leave it: their entries count in every check of R80 (R401). -/
def Tdu.withDue (d : Tdu) : Tdu :=
  forEach (d.ctl.due.filter fun e => fieldAt e.2 0 1 == 0xB7) (fun e d => d.applyBatch e.2) d

/-- Check a batch before it is taken (R80, R85, R172, R282, R401, R466): its code and the state with what it claims. -/
def Tdu.batchCheck (d : Tdu) (r : List Byte) : Nat × Tdu :=
  let job := fieldAt r 4 2
  let barred := (batchWrites r).filterMap fun w => d.frozenWrite (fieldAt r 8 8) w.1
  if (batchWrites r).any fun w => dieWriteRefused w.1 then d.refuseCst Code.fit
  else if !barred.isEmpty then
    (Code.busy, forEach barred (fun p d => (d.bump Reg.TGEN_SCHED_BUSY_CNT).pageErr p 2) d)
  else
    let before := d.withDue
    if (fieldAt r 1 1).testBit 0 && (fieldAt r 6 2).testBit 9 &&
        (before.applyBatch r).rd Reg.TEMIT_EMIT_FIT_REFUSED_CNT != before.rd Reg.TEMIT_EMIT_FIT_REFUSED_CNT then
      (d.bump Reg.TEMIT_EMIT_FIT_REFUSED_CNT).refuseCst Code.fit
    else if job = 0xFFFF then (0, d)
    else match claimSlots job (d.batchColls r) d.tap.res with
      | some l => (0, { d with tap := { d.tap with res := l } })
      | none => d.refuseCst Code.capacity

/-- A TDU write batch (R466). -/
def Tdu.batchIn (d : Tdu) (r : List Byte) : Tdu :=
  let nwr := fieldAt r 2 2
  d.ctlIn (ctlOk 0xB7 r && r.length == 40 + 8 * nwr && decide (1 ≤ nwr) && decide (nwr ≤ 507)) fun d =>
    let effect := fieldAt r 8 8
    let nseq := fieldAt r 20 4
    let addr := ((batchWrites r).getLast?.map (·.1)).getD 0
    if (fieldAt r 1 1).testBit 1 then
      let (v, d) := d.readWord .tau addr
      d.sendCtl (readResponse 0 addr v)
    else
      let act (d : Tdu) : Nat × Tdu :=
        match d.batchCheck r with
        | (0, d) => (0, d.atEffect effect r fun d => d.applyBatch r)
        | (c, d) => (c, d)
      if nseq = 0 then
        let (c, d) := act d
        d.sendCtl (readResponse c addr 0)
      else d.underNid r (if fieldAt r 4 2 = 0xFFFF then 12 else 1) (fieldAt r 4 2) (fieldAt r 16 4) nseq effect true act

/-! ## Images (R172, R282, R297, R354, R452, R455, R467) -/

/-- A consist image reaches the TDU (R172, R282). -/
def Tdu.consistIn (d : Tdu) (job : Nat) (p : List Byte) : Nat × Tdu :=
  let (c, ok) := Consist.parse p
  let c := { c with job := job }
  if !ok || !c.lengthsOk || (sha384 (p.drop 32)).take 8 != c.digest then d.refuseCst Code.fit
  else if 128 * d.rd Reg.TEMIT_RATE < c.maxLen then d.refuseCst Code.fit
  else match d.consist c.id with
    | some old =>
      if old.digest != c.digest then d.refuseCst Code.busy
      else if job = 0xFFFF then (0, d)
      else match claimSlots job c.colls d.tap.res with
        | some l => (0, { d with tap := { d.tap with res := l } })
        | none => d.refuseCst Code.capacity
    | none =>
      if 32 ≤ d.held.length then d.refuseCst Code.capacity
      else if !({ d with consists := d.consists ++ [c] }).emitFits then d.refuseCst Code.fit
      else if job = 0xFFFF then (0, { d with consists := d.consists ++ [c] })
      else match claimSlots job c.colls d.tap.res with
        | some l => (0, { d with consists := d.consists ++ [c], tap := { d.tap with res := l } })
        | none => d.refuseCst Code.capacity

/-- A microcode payload is complete in a die in ROM or FAILED (R452, R455). -/
def Tdu.microcodeIn (d : Tdu) (p : List Byte) : Tdu :=
  let ver := fieldAt p 2 2
  let refuse (c : Nat) : Tdu :=
    ({ d with ctl := { d.ctl with refVer := ver, refCode := c } }).wr Reg.TGEN_BOOT_STATE 3
  if fieldAt p 0 1 ≠ 0x20 ∨ fieldAt p 4 4 + 64 ≠ p.length then refuse Code.fit
  else if sha384 (p.drop 64) ≠ (p.drop 16).take 48 then refuse Code.signature
  else ((d.wr Reg.TGEN_BOOT_STATE 2).wr Reg.TGEN_UCODE_VER ver).wr Reg.TTIME_TT_STATE_STATE 0

/-- The collection that a fragment belongs to. -/
def Gather.of (r : List Byte) : Gather :=
  ⟨fieldAt r 1 1, fieldAt r 6 2, fieldAt r 8 4, fieldAt r 12 4, fieldAt r 16 2, fieldAt r 20 4, fieldAt r 24 4, []⟩

/-- Two collections gather the same image. -/
def Gather.same (a b : Gather) : Bool := { a with frags := [] } == { b with frags := [] }

/-- The payload of a complete collection. -/
def Gather.payload (g : Gather) : Option (List Byte) :=
  (List.range g.nfrag).foldl (fun acc i => match acc, g.frags.find? (·.1 == i) with
    | some b, some f => some (b ++ f.2)
    | _, _ => none) (some [])

/-- A fragment agrees with its own fields (R458, R467). -/
def fragOk (r : List Byte) : Bool :=
  let dlen := fieldAt r 2 2
  let frag := fieldAt r 4 2
  let total := fieldAt r 8 4
  ctlOk 0xB8 r && r.length == (32 + dlen + 4 + 7) / 8 * 8 && decide (frag < fieldAt r 6 2) &&
    fieldAt r 6 2 == ceilDiv total 4056 && dlen == min 4056 (total - frag * 4056) && decide (1 ≤ dlen)

/-- A TDU image fragment (R467): the image is taken when every fragment is held. -/
def Tdu.fragmentIn (d : Tdu) (r : List Byte) : Tdu :=
  let itype := fieldAt r 1 1
  let boot := d.rd Reg.TGEN_BOOT_STATE
  let awake := d.time.por && d.time.vdd && !d.time.gated
  if !awake then d
  else if !fragOk r || !([2, 3, 7, 9].contains itype) then d.ctlDrop
  else if (itype == 2) != (boot != 2) then d
  else
    let g := Gather.of r
    let d := if itype = 2 then d.wr Reg.TGEN_BOOT_STATE 1 else d
    let old := (d.ctl.gather.find? (·.same g)).getD g
    let frag := (fieldAt r 4 2, (r.drop 32).take (fieldAt r 2 2))
    let now := { old with frags := frag :: old.frags.filter (·.1 != frag.1) }
    let rest := d.ctl.gather.filter fun x => !x.same g
    match now.payload with
    | none => { d with ctl := { d.ctl with gather := now :: rest } }
    | some p =>
      let d := { d with ctl := { d.ctl with gather := rest } }
      match itype with
      | 2 => d.microcodeIn p
      | 3 => d.underNid r 1 g.job g.epoch g.nseq 0 false (·.consistIn g.job p)
      | 7 => d.underNid r 10 g.job g.epoch g.nseq 0 true (·.packIn p)
      | _ =>
        let (c, d) := d.authIn p
        d.sendCtl (ackRecord 1 (d.rd Reg.TGEN_RANK) 0 0 0 0 c (d.per + 1))

/-! ## Keys (R280, R283, R468) -/

/-- A key takes effect (R280, R283, R468): the job's slots are cleared, and where its epoch changes its filters close (R288); at a
job start screening's credit is zeroed and its request withdrawn (R100, R299). -/
def Tdu.applyKey (d : Tdu) (r : List Byte) : Tdu :=
  let job := fieldAt r 4 2
  let starts := (d.tapKey job).isNone
  let keys := ⟨job, fieldAt r 8 4, fieldAt r 16 8⟩ :: d.tap.keys.filter (·.job != job)
  let d := ({ d with tap := { d.tap with keys := keys } }).clearRes fun s => s.job == job
  let d := if starts then d else d.cancelFilters job
  if starts then (d.wr Reg.TEMIT_SCR_CREDIT 0).withdraw else d

/-- Keys held, and those that wait for their EFFECT. -/
def Tdu.keyJobs (d : Tdu) : List Nat :=
  let l := d.tap.keys.map (·.job) ++ (d.ctl.due.filter fun e => fieldAt e.2 0 1 == 0xB9).map fun e => fieldAt e.2 4 2
  l.foldl (fun m j => if m.contains j then m else m ++ [j]) []

/-- A TDU key (R468). A key of an unknown job starts it; its notice is complete with the batch that follows (R470). `ret`: the
RET_KEY of each consist of a job that starts (R215; assumption 11). -/
def Tdu.keyIn (d : Tdu) (r : List Byte) (ret : List (Nat × Nat)) : Tdu :=
  d.ctlIn (ctlOk 0xB9 r && r.length == 40) fun d =>
    let job := fieldAt r 4 2
    let epoch := fieldAt r 8 4
    let effect := fieldAt r 24 8
    let known := (d.job job).isSome
    let act (d : Tdu) : Nat × Tdu :=
      if !(d.keyJobs.contains job) && decide (4 ≤ d.keyJobs.length) then d.refuseCst Code.capacity
      else
        let js := match d.job job with
          | some j => ({ j with epochs := (effect, epoch) :: j.epochs } : DieJob) :: d.jobs.filter (·.handle != job)
          | none => ⟨job, [(effect, epoch)], max effect (if effect = 0 then d.per else d.per + 1), none, ret⟩ :: d.jobs
        (0, ({ d with jobs := js }).atEffect effect r fun d => d.applyKey r)
    d.underNid r (if known then 6 else 1) job epoch (fieldAt r 12 4) effect known act

/-! ## Commands (R469) -/

/-- Job `h` ends at period `p` (R282, R283, R404): its key and slots go; its entries build no coach about `p` or later. -/
def Tdu.endJob (d : Tdu) (h p : Nat) : Tdu :=
  let d := d.clearRes fun s => s.job == h
  let res := d.tap.res.map fun o => match o with | some s => if s.job = h then none else some s | none => none
  { d with
    tap := { d.tap with keys := d.tap.keys.filter (·.job != h), res := res }
    jobs := d.jobs.map fun j => if j.handle = h then { j with until_ := some (min p (j.until_.getD p)) } else j }

/-- Entries of job `h` are disabled, and the job is past. -/
def Tdu.dropJob (d : Tdu) (h : Nat) : Tdu :=
  let off (i : Nat) (d : Tdu) : Tdu :=
    if d.emit.jobs.getD i none = some h then
      { d with
        regs := d.regs.both Reg.TEMIT_ENT_EN i 0 0
        emit := { d.emit with jobs := modifyAt (fun _ => none) i d.emit.jobs } }
    else d
  let d := forIdx 16 off d
  { d with
    jobs := d.jobs.filter (·.handle != h)
    past := d.jobs.filter (·.handle == h) ++ d.past
    ctl := { d.ctl with due := d.ctl.due.filter fun e => !((fieldAt e.2 0 1 == 0xB7 || fieldAt e.2 0 1 == 0xB9) && fieldAt e.2 4 2 == h) } }

/-- Jobs and consists whose end lies before the running period leave (R173, R404): the coaches about the period before their end
have been built. -/
def Tdu.reap (d : Tdu) : Tdu :=
  let above (u : Option Nat) : Bool := match u with | some p => decide (p < d.per) | none => false
  let d := forEach ((d.jobs.filter fun j => above j.until_).map (·.handle)) (fun h d => d.dropJob h) d
  let gone := (d.consists.filter fun c => above c.until_).map (·.id)
  ({ d with
    consists := d.consists.filter fun c => !above c.until_
    srv := { d.srv with kept := d.srv.kept.filter fun k => !gone.contains k.consist } }).freeSlots

/-- A TDU command passes R458 and names `cmd`. -/
def cmdOk (cmd : Nat) (r : List Byte) : Bool := ctlOk 0xBA r && r.length == 32 && fieldAt r 1 1 == cmd

/-- Take a TDU command of the given number and notice kind (R469, R470). A SCHED_CANCEL acts on receipt: its EFFECT names what it
cancels. -/
def Tdu.cmdIn (d : Tdu) (cmd kind : Nat) (r : List Byte) (act : Tdu → Nat × Tdu) : Tdu :=
  d.ctlIn (cmdOk cmd r) fun d =>
    d.underNid r kind (fieldAt r 2 2) (fieldAt r 4 4) (fieldAt r 8 4) (if cmd = 5 then 0 else fieldAt r 16 8) true act

/-- EFFECT of a command as a period: 0 stands for the running one. -/
def Tdu.effectOf (d : Tdu) (r : List Byte) : Nat := if fieldAt r 16 8 = 0 then d.per else fieldAt r 16 8

/-- RUN_PACK (R298, R420). -/
def Tdu.cmdRunPack (d : Tdu) (r : List Byte) : Nat × Tdu :=
  let is (k : Pack) : Bool := k.id == fieldAt r 12 2 && k.ver == fieldAt r 14 2 && !k.staged
  match firstIdx (fun o => match o with | some k => is k | none => false) d.scr.packs with
  | some i => (0, (d.setPacks (modifyAt (Option.map fun k => { k with run := some (d.effectOf r) }) i d.scr.packs)).atEffect
      (fieldAt r 16 8) r id)
  | none => (Code.fit, d)

/-- JOB_END (R402, R404): at EFFECT 0 an abort, which leaves nothing of the job. -/
def Tdu.cmdJobEnd (d : Tdu) (r : List Byte) : Nat × Tdu :=
  let h := fieldAt r 2 2
  let e := fieldAt r 16 8
  if e = 0 then (0, ((d.endJob h d.per).dropJob h).freeSlots)
  else
    let stop (j : DieJob) : DieJob := if j.handle = h then { j with until_ := some e } else j
    let d := { d with jobs := d.jobs.map stop }
    (0, d.atEffect e r id)

/-- SCHED_COMMIT (R84, R87). -/
def Tdu.cmdSchedCommit (d : Tdu) (r : List Byte) : Nat × Tdu :=
  let mask := fieldAt r 24 2
  let clash := Nat.land mask (schedMask d.emit.sc) != 0 || Nat.land mask (d.rd Reg.TGEN_UPD_PEND) != 0
  match firstIdx Option.isNone d.emit.sc with
  | some i =>
    if clash then (Code.busy, d.bump Reg.TGEN_SCHED_BUSY_CNT)
    else (0, { d with emit := { d.emit with sc := modifyAt (fun _ => some ⟨fieldAt r 16 8, mask⟩) i d.emit.sc } })
  | none => (Code.busy, d.bump Reg.TGEN_SCHED_BUSY_CNT)

/-- SCHED_CANCEL (R85). -/
def Tdu.cmdSchedCancel (d : Tdu) (r : List Byte) : Nat × Tdu :=
  let c : SchedSlot := ⟨fieldAt r 16 8, fieldAt r 24 2⟩
  match firstIdx (· == some c) d.emit.sc with
  | some i => (0, { d with emit := { d.emit with sc := modifyAt (fun _ => none) i d.emit.sc } })
  | none => (Code.fit, d.bump Reg.TGEN_SCHED_BUSY_CNT)

/-- CONSIST_DISABLE (R173, R407). -/
def Tdu.cmdConsistDisable (d : Tdu) (r : List Byte) : Nat × Tdu :=
  let id := fieldAt r 12 2
  let stop (c : Consist) : Consist := if c.id = id then { c with until_ := some (min (d.effectOf r) (c.until_.getD (d.effectOf r))) } else c
  (0, ({ d with consists := d.consists.map stop }).atEffect (fieldAt r 16 8) r fun d => d)

/-- PACK_DISABLE (R407). -/
def Tdu.cmdPackDisable (d : Tdu) (r : List Byte) : Nat × Tdu :=
  let id := fieldAt r 12 2
  let d := (d.setPacks (d.scr.packs.map (Option.map fun k => if k.id = id then { k with stop := some (d.effectOf r) } else k))).reapPacks
  (0, d.atEffect (fieldAt r 16 8) r fun d => d)

/-- TEST_OVERDUE (R420). -/
def Tdu.cmdTestOverdue (d : Tdu) (r : List Byte) : Nat × Tdu := (0, d.atEffect (fieldAt r 16 8) r fun d => d.raise 2)

/-- A CMD that R469 does not list. -/
def Tdu.cmdUnknown (d : Tdu) (r : List Byte) : Tdu :=
  d.ctlIn (ctlOk 0xBA r && r.length == 32 && (decide (fieldAt r 1 1 = 0) || decide (7 < fieldAt r 1 1))) fun d =>
    d.underNid r 0 (fieldAt r 2 2) (fieldAt r 4 4) (fieldAt r 8 4) 0 true (·.refuseCst Code.fit)

/-- A notice with the period `effect` is applied now: late where that has passed, and then counted and recorded, with the groups that
it commits (R87, R393). -/
def Tdu.noteLate (d : Tdu) (effect mask : Nat) : Tdu :=
  if effect < d.per then
    (d.bump Reg.TGEN_SCHED_LATE_CNT).emitOut (.note 5 0x0201 (leBytes 8 effect ++ leBytes 8 d.per ++ leBytes 2 mask))
  else d

/-- A record whose EFFECT boundary has come acts (R87, R466 to R469). The key of a job start is of one notice with the batch that follows,
which alone is noted as late. -/
def Tdu.applyDue (d : Tdu) (effect : Nat) (r : List Byte) : Tdu :=
  match fieldAt r 0 1 with
  | 0xB7 => (d.applyBatch r).noteLate effect (fieldAt r 6 2)
  | 0xB9 => if (d.tapKey (fieldAt r 4 2)).isNone then d.applyKey r else (d.applyKey r).noteLate effect 0
  | _ => match fieldAt r 1 1 with
    | 2 => d.raise 2
    | 3 => (d.endJob (fieldAt r 2 2) effect).noteLate effect 0
    | _ => d.noteLate effect 0

/-- At a boundary every record whose EFFECT is not after it acts, in order of arrival. -/
def Tdu.runDue (d : Tdu) : Tdu :=
  let now := d.ctl.due.filter fun e => decide (e.1 ≤ d.per)
  let d := { d with ctl := { d.ctl with due := d.ctl.due.filter fun e => !decide (e.1 ≤ d.per) } }
  forEach now (fun e d => d.applyDue e.1 e.2) d

/-! ## Trace grants (R465) -/

/-- A trace grant (R465). -/
def Tdu.traceGrant (d : Tdu) (r : List Byte) : Tdu :=
  d.ctlIn (ctlOk 0xB6 r && r.length == 16) fun d =>
  if (fieldAt r 1 1).testBit 0 then d.wr Reg.TTRC_GRANT (fieldAt r 4 4)
  else d.bumpBy Reg.TTRC_GRANT (fieldAt r 4 4)

/-! ## Meanings -/

/-- TDU_WRITE_BATCH_RX. -/
def execTduWriteBatchRx (t : T64) (r : List Byte) (act : CoreAct) (s : State) : Host.Outcome State Fault Refusal :=
  .next (s.onCore t act fun d => d.batchIn r)

/-- TDU_IMAGE_FRAGMENT_RX. -/
def execTduImageFragmentRx (t : T64) (r : List Byte) (s : State) : Host.Outcome State Fault Refusal :=
  .next (s.onDie t fun d => d.fragmentIn r)

/-- TDU_KEY_RX. -/
def execTduKeyRx (t : T64) (r : List Byte) (ret : List (BitVec 16 × BitVec 8)) (s : State) : Host.Outcome State Fault Refusal :=
  .next (s.onDie t fun d => d.keyIn r (ret.map fun k => (k.1.toNat, k.2.toNat)))

/-- TDU_CMD_RUN_PACK. -/
def execTduCmdRunPack (t : T64) (r : List Byte) (s : State) : Host.Outcome State Fault Refusal :=
  .next (s.onDie t fun d => d.cmdIn 1 11 r (·.cmdRunPack r))

/-- TDU_CMD_TEST_OVERDUE. -/
def execTduCmdTestOverdue (t : T64) (r : List Byte) (s : State) : Host.Outcome State Fault Refusal :=
  .next (s.onDie t fun d => d.cmdIn 2 11 r (·.cmdTestOverdue r))

/-- TDU_CMD_JOB_END. -/
def execTduCmdJobEnd (t : T64) (r : List Byte) (s : State) : Host.Outcome State Fault Refusal :=
  .next (s.onDie t fun d => d.cmdIn 3 (if fieldAt r 16 8 = 0 then 2 else 3) r (·.cmdJobEnd r))

/-- TDU_CMD_SCHED_COMMIT. -/
def execTduCmdSchedCommit (t : T64) (r : List Byte) (s : State) : Host.Outcome State Fault Refusal :=
  .next (s.onDie t fun d => d.cmdIn 4 7 r (·.cmdSchedCommit r))

/-- TDU_CMD_SCHED_CANCEL. -/
def execTduCmdSchedCancel (t : T64) (r : List Byte) (s : State) : Host.Outcome State Fault Refusal :=
  .next (s.onDie t fun d => d.cmdIn 5 8 r (·.cmdSchedCancel r))

/-- TDU_CMD_CONSIST_DISABLE. -/
def execTduCmdConsistDisable (t : T64) (r : List Byte) (s : State) : Host.Outcome State Fault Refusal :=
  .next (s.onDie t fun d => d.cmdIn 6 9 r (·.cmdConsistDisable r))

/-- TDU_CMD_PACK_DISABLE. -/
def execTduCmdPackDisable (t : T64) (r : List Byte) (s : State) : Host.Outcome State Fault Refusal :=
  .next (s.onDie t fun d => d.cmdIn 7 9 r (·.cmdPackDisable r))

/-- TDU_CMD_UNKNOWN. -/
def execTduCmdUnknown (t : T64) (r : List Byte) (s : State) : Host.Outcome State Fault Refusal :=
  .next (s.onDie t fun d => d.cmdUnknown r)

/-- TRACE_GRANT_RX. -/
def execTraceGrantRx (t : T64) (r : List Byte) (s : State) : Host.Outcome State Fault Refusal :=
  .next (s.onDie t fun d => d.traceGrant r)

end Sys2Proof.Machine
end

