-- ==== Sys2Proof/Machine/Jobs.lean ====
section
/-!
DEFINITION. Jobs at the TAU (R399 to R406): the checks of a start, what a start reserves, its emission entries (R454), its activation,
its teardown and its release.
-/

namespace Sys2Proof.Machine

/-! ## JOB_START (R400, R401) -/

/-- The streams of a JOB_START body: consist and retention key. -/
def startStreams (b : List Byte) : List (Nat × Nat) :=
  (List.range (fieldAt b 2 1)).map fun i => (fieldAt b (64 + 8 * i) 2, fieldAt b (66 + 8 * i) 1)

/-- The map ids of a JOB_START body. -/
def startMaps (b : List Byte) : List Nat :=
  (List.range (fieldAt b 3 1)).map fun i => fieldAt b (64 + 8 * fieldAt b 2 1 + 2 * i) 2

/-- The layout of R400 holds: counts within their ranges, the length they give, and zeros where it has zeros. -/
def startFormOk (b : List Byte) : Bool :=
  let ns := fieldAt b 2 1
  let nm := fieldAt b 3 1
  let nr := fieldAt b 4 2
  let mo := 64 + 8 * ns
  let ro := mo + ceilDiv (2 * nm) 8 * 8
  decide (1 ≤ ns) && decide (ns ≤ 16) && decide (nm ≤ 16) && decide (1 ≤ nr) && decide (nr ≤ 256) && b.length == ro + 8 * nr &&
    allZero ((b.drop 6).take 2) && allZero ((b.drop 18).take 6) &&
    (List.range ns).all (fun i => allZero ((b.drop (67 + 8 * i)).take 5)) && allZero ((b.drop (mo + 2 * nm)).take (ro - mo - 2 * nm)) &&
    (List.range nr).all fun i => fieldAt b (ro + 8 * i + 3) 1 == 0

/-- An item that is to be removed from a period on is being disabled for a start effective at `q` (R406). -/
def endsBy (u : Option Nat) (q : Nat) : Bool := match u with | some p => decide (p ≤ q) | none => false

/-- The ensemble slot of a model that is loaded and not disabled by period `q`. -/
def Tau.modelSlot (x : Tau) (id q : Nat) : Option Nat :=
  (List.range 8).find? fun e => (match x.model e with | some m => m.id == id | none => false) && !endsBy (x.tree.ensOff.getD e none) q

/-- Check 4 of R401. Only an issuing TAU sees the whole job inside its own range (DEDUCED from R393). -/
def Tau.startNamesOk (x : Tau) (b : List Byte) (q : Nat) : Bool :=
  startFormOk b && (x.timetable (fieldAt b 0 2)).isSome &&
    (startStreams b).all (fun s => match x.consist s.1 with | some c => !endsBy c.until_ q | none => false) &&
    (startMaps b).all (fun id => match x.fmap id with
      | some m => !endsBy m.until_ q && (x.modelSlot m.model q).isSome
      | none => false) &&
    (x.role < 3 || (startRanges b).all fun (lo, n) => decide (x.base ≤ lo) && decide (lo + n ≤ x.base + x.rd Reg.SCB_RANK_SPAN))

/-- The lowest placement index that no stream of a section uses (R208). -/
def freePlace (ss : List Stream) (sec : Nat) : Nat :=
  let l := ss.filter (·.home == sec)
  ((List.range (l.length + 1)).find? fun i => !(l.any (·.place == i))).getD 0

/-- A stream joins a set, at the first section from `h` on where the set still fits (R208). -/
def Tau.place (x : Tau) (h : Nat) (ss : List Stream) (s : Stream) : List Stream :=
  let cand (d : Nat) : List Stream := let sec := (h + d) % 4; ss ++ [{ s with home := sec, place := freePlace ss sec }]
  (((List.range 4).map cand).find? x.placementFits).getD (cand 0)

/-- The streams of a start, with the rhythm of the job's timetable. -/
def Tau.startSet (x : Tau) (h from_ : Nat) (n : Notice) : List Stream :=
  let tt := x.timetable (fieldAt n.body 0 2)
  (startStreams n.body).foldl (fun ss (c, key) =>
    let (div, ph) := (tt.bind fun t => t.rhythm c).getD (0, 0)
    x.place h ss { job := n.job, consist := c, div := div, phase := ph, home := 0, place := 0, retKey := key, from_ := from_,
                   until_ := none, late := 0 }) x.scb.streams

/-- The bindings of a start: the maps whose ROLES hold this TAU's role (R260). -/
def Tau.startBinds (x : Tau) (from_ : Nat) (n : Notice) : List Bind :=
  (startMaps n.body).filterMap fun id => match x.fmap id with
    | some m => if m.roles.testBit x.role then (x.modelSlot m.model from_).map fun e => ⟨n.job, id, e, from_, none⟩ else none
    | none => none

/-- Put bindings into the lowest free map slots; none where they do not fit. -/
def putBinds : List Bind → List (Option Bind) → Option (List (Option Bind))
  | [], l => some l
  | b :: bs, l => match firstIdx Option.isNone l with
    | some i => putBinds bs (modifyAt (fun _ => some b) i l)
    | none => none

/-! ## Emission entries (R454) -/

/-- Entries of die `d` that the base timetable and the jobs use. -/
def Tau.usedEntries (x : Tau) (d : Nat) : List Nat :=
  let base := ((x.baseTt.map fun t => (t.die d).ents.length).getD 0)
  List.range base ++ x.jobs.flatMap fun j => (j.slots.filter (·.1 == d)).flatMap (·.2)

/-- Entries laid one after another from entry `n` on: what each job of the list then has, and the first entry after them. -/
def laidFrom (n : Nat) (l : List (Nat × List Nat)) : List (Nat × List Nat) × Nat :=
  l.foldl (fun (out, i) (h, g) => (out ++ [(h, (List.range g.length).map (i + ·))], i + g.length)) (([] : List (Nat × List Nat)), n)

/-- The entries of each job on die `d`, in the order the jobs started. -/
def Tau.jobEntries (x : Tau) (d : Nat) : List (Nat × List Nat) :=
  x.jobs.filterMap fun j => (j.slots.find? (·.1 == d)).map fun g => (j.handle, g.2)

/-- A job with entries on die `d` waits for its EFFECT: its batch is at the die already, so its entries cannot move. -/
def Tau.entriesWait (x : Tau) (d : Nat) : Bool := x.jobs.any fun j => j.st == 1 && j.slots.any (·.1 == d)

/-- The first entry of die `d` after all in use. -/
def Tau.nextEntry (x : Tau) (d : Nat) : Nat := (x.usedEntries d).foldl (fun m i => Nat.max m (i + 1)) 0

/-- `n` more entries do not follow those in use on die `d`, so that the earlier jobs' entries close up first (R454). -/
def Tau.crowded (x : Tau) (d n : Nat) : Bool := decide (16 < x.nextEntry d + n)

/-- The entries given to `n` more of die `d`: after all earlier ones (R454), which close up where room is short; none where the
sixteen do not hold them, or those to be moved wait for their EFFECT. -/
def Tau.giveEntries (x : Tau) (d n : Nat) : Option (List Nat) :=
  if !x.crowded d n then some ((List.range n).map (x.nextEntry d + ·))
  else
    let next := (laidFrom ((x.baseTt.map fun t => (t.die d).ents.length).getD 0) (x.jobEntries d)).2
    if next + n ≤ 16 ∧ !x.entriesWait d then some ((List.range n).map (next + ·)) else none

/-- A TDU write batch for a notice (R466). -/
def dieBatch (commit : Bool) (job mask effect epoch nseq : Nat) (ws : List (Nat × Nat)) : List Byte :=
  mkControl (leBytes 1 0xB7 ++ leBytes 1 (bit commit) ++ leBytes 2 ws.length ++ leBytes 2 job ++ leBytes 2 mask ++ leBytes 8 effect ++
    leBytes 4 epoch ++ leBytes 4 nseq ++ zeros 8 ++ ws.flatMap fun (a, v) => leBytes 4 a ++ leBytes 4 v)

/-- The entry words of a job's timetable on die `d`, by entry. -/
def Tau.jobWords (x : Tau) (d : Nat) (j : TauJob) : List (Nat × Nat) :=
  let ents := ((x.timetable j.tt).map fun t => (t.die d).ents).getD []
  (((j.slots.find? (·.1 == d)).map (·.2)).getD []).zip ents

/-- A job has started, and still emits from the next boundary on. -/
def Tau.emits (x : Tau) (j : TauJob) : Bool :=
  j.st == 2 && !(x.ntc.due.any fun n => n.kind == 3 && n.job == j.handle && decide (n.effect ≤ x.per + 1))

/-- Write all entries of die `d` anew, from the next boundary on: RATE, PATH_MASK and the base's, then those of each job under its
handle, by which the TDU knows whose they are (R404, R466). -/
def Tau.writeEntries (x : Tau) (d : Nat) (b : DieBlock) : Tau :=
  let word (i w : Nat) : Nat × Nat := (0x9100 + 4 * i, w)
  let base := [(0x9040, b.rate), (0x9044, b.mask)] ++ (List.range 16).map fun i => word i (b.ents.getD i 0)
  let x := x.sendDown d (dieBatch true 0xFFFF (2 ^ 9) (x.per + 1) 0 0 base)
  forEach (x.jobs.filter fun j => x.emits j && !(x.jobWords d j).isEmpty) (fun j x =>
    x.sendDown d (dieBatch true j.handle (2 ^ 9) (x.per + 1) 0 0 ((x.jobWords d j).map fun (i, w) => word i w))) x

/-- The jobs take the entries on die `d` that a plan gives them. -/
def Tau.takePlan (x : Tau) (plan : List (Nat × List Nat)) (d : Nat) : Tau :=
  let move (j : TauJob) : TauJob := match plan.find? (·.1 == j.handle) with
    | some (_, g) => { j with slots := (d, g) :: j.slots.filter (·.1 != d) }
    | none => j
  { x with jobs := x.jobs.map move }

/-- The jobs' entries on die `d` close up after the base's where `n` more would find no room after them (R454). -/
def Tau.closeUp (x : Tau) (d n : Nat) : Tau :=
  match x.baseTt with
  | some t =>
    if !x.crowded d n then x
    else (x.takePlan (laidFrom (t.die d).ents.length (x.jobEntries d)).1 d).writeEntries d (t.die d)
  | none => x

/-- The entries of a job's timetable on each die in range of a TRAY TAU, none where some die has no room. -/
def Tau.startSlots (x : Tau) (tt : Nat) (rs : List (Nat × Nat)) : Option (List (Nat × List Nat)) :=
  if !x.isTray then some []
  else (x.scopeKids 0 rs).foldl (fun acc d => match acc, x.timetable tt with
    | some l, some t => (x.giveEntries d (t.die d).ents.length).map fun g => l ++ [(d, g)]
    | _, _ => none) (some [])

/-! ## Starting (R401, R403) -/

/-- Check 7 of R401 over the resources that would then be in use. -/
def Tau.startFits (x : Tau) (j : TauJob) (ss : List Stream) (bs : List Bind) : Bool :=
  x.placementFits ss && decide (x.holdNeed ss ≤ 8388608) && (match x.baseTt with | some t => decide (pathLoadMax t ≤ 16384) | none => true) &&
    ({ x with jobs := x.jobs ++ [j] }).visitsFit ss bs && x.trainsFitRate ss (x.rd Reg.SHP_UP_RATE) && (x.role != 2 || x.trainsFitRate ss (x.rd Reg.SHP_SB_RATE))

/-- The end of a JOB_START whose names and key are good (R401): its streams are placed from section `h` on, and the job starts, or
does not fit. -/
def Tau.jobStartAt (x : Tau) (h key from_ : Nat) (n : Notice) : Tau × Nat :=
  let b := n.body
  let ss := x.startSet h from_ n
  let mine := ss.filter (·.job == n.job)
  if fieldAt b (8 + 2 * x.role) 2 < mine.foldl (fun k s => k + slotsFor x.readyOfs s.div) 0 then (x, Code.quota)
  else match putBinds (x.startBinds from_ n) x.tree.binds, x.startSlots (fieldAt b 0 2) (startRanges b) with
    | some bs, some slots =>
      let j : TauJob :=
        { handle := n.job, st := if n.effect = 0 then 2 else 1, epochs := [(from_, n.epoch)], keys := [(from_, key)],
          tt := fieldAt b 0 2, streams := startStreams b, maps := startMaps b, ranges := startRanges b, effect := from_,
          slots := slots, quota := fieldAt b (8 + 2 * x.role) 2, rel := false }
      if !x.startFits j ss (bs.filterMap id) then (x, Code.capacity)
      else
        let x := forEach slots (fun (d, g) x => x.closeUp d g.length) x
        ({ x with jobs := x.jobs ++ [j], scb := { x.scb with streams := ss }, tree := { x.tree with binds := bs } }, Code.done)
    | _, _ => (x, Code.capacity)

/-- Take a JOB_START, or give the code of the first check that fails (R401). -/
def Tau.jobStart (x : Tau) (n : Notice) : Tau × Nat :=
  let last := ((x.ntc.last.find? (·.1 == n.job)).map (·.2.1)).getD 0
  let from_ := Nat.max n.effect (x.per + 1)
  let b := n.body
  if n.epoch ≤ last then (x, Code.stale)
  else if (x.job n.job).isSome then (x, Code.busy)
  else if x.lc ≠ 2 ∧ x.lc ≠ 3 then (x, Code.lifecycle)
  else if !x.startNamesOk b from_ then (x, Code.fit)
  else match x.openJobKey n.job ((b.drop 24).take 40) with
    | (x, none) => (x, Code.signature)
    | (x, some key) =>
      let (h, x) := x.pick 4
      x.jobStartAt h key from_ n

/-- Free everything that a job holds (R402, R405). -/
def Tau.dropJob (x : Tau) (h : Nat) : Tau :=
  let gone := x.srv.ret.filter (·.job == h)
  let x := gone.foldl (fun x r => x.hbmFree 0 (summBytes r.summ)) x
  { x with
    jobs := x.jobs.filter (·.handle != h)
    scb := { x.scb with streams := x.scb.streams.filter (·.job != h) }
    tree := { x.tree with binds := x.tree.binds.map fun o => match o with | some b => if b.job = h then none else some b | none => none }
    srv := { x.srv with
      ret := x.srv.ret.filter (·.job != h)
      views := x.srv.views.filter (·.1 != h) } }

/-! ## Teardown and release (R404, R405) -/

/-- An earlier end of a use. -/
def endAt (q : Nat) (u : Option Nat) : Option Nat := some (Nat.min q (u.getD q))

/-- Bindings that `p` names form no vector from period `q` on (R273). -/
def Tau.endBinds (x : Tau) (p : Bind → Bool) (q : Nat) : Tau :=
  let f (b : Bind) : Bind := if p b then { b with until_ := endAt q b.until_ } else b
  { x with tree := { x.tree with binds := x.tree.binds.map (Option.map f) } }

/-- Streams that `p` names open no context from period `q` on. -/
def Tau.endStreams (x : Tau) (p : Stream → Bool) (q : Nat) : Tau :=
  { x with scb := { x.scb with streams := x.scb.streams.map fun s => if p s then { s with until_ := endAt q s.until_ } else s } }

/-- An enable of the SRV page reads 0, in force and in its shadow. -/
def Tau.unitOff (f : Fld) (i : Nat) (x : Tau) : Tau := { x with regs := x.regs.both f i 0 0 }

/-- The straggler, drift and backup units of a job stop (R404), as at a commit of EN 0 (R229, R231; DEDUCED, assumption 74). -/
def Tau.stopUnits (x : Tau) (h : Nat) : Tau :=
  let x := forIdx 16 (fun i x =>
    if x.rd Reg.SRV_BK_CTRL_EN i = 1 ∧ x.rd Reg.SRV_ST_STREAM_JOB (x.rd Reg.SRV_BK_CTRL_UNIT i) = h then
      (x.unitOff Reg.SRV_BK_CTRL_EN i).disablePair i else x) x
  let x := forIdx 8 (fun u x =>
    if x.rd Reg.SRV_ST_CTRL_EN u = 1 ∧ x.rd Reg.SRV_ST_STREAM_JOB u = h then (x.unitOff Reg.SRV_ST_CTRL_EN u).stRestart u else x) x
  forIdx 16 (fun u x =>
    if x.rd Reg.SRV_DR_CTRL_EN u = 1 ∧ x.rd Reg.SRV_DR_STREAM u % 2 ^ 16 = h then
      (x.unitOff Reg.SRV_DR_CTRL_EN u).setDr u fun _ => DrUnit.reset else x) x

/-- A teardown takes effect at period `q` (R404). The host vectors of its ensembles end as the bindings do (Tau.hvEnded); a
compression job names no job. -/
def Tau.jobTeardown (x : Tau) (h q : Nat) : Tau :=
  let x := x.setJob h fun j => { j with st := 3 }
  let x := (x.endStreams (·.job == h) q).endBinds (·.job == h) q
  ((x.cancelWhere (·.job == h)).cancelTaps h).stopUnits h

/-- Nothing of a job runs any more: its last context is FREE and its last vector has ended (R404). -/
def Tau.jobIdle (x : Tau) (h : Nat) : Bool :=
  !(x.scb.ctxs.any (·.job == h)) && !(x.tree.q.any fun l => l.any fun v => match x.tree.binds.getD v.slot none with
    | some b => b.job == h
    | none => false)

/-- Complete the own part of the merges of a kind and handle. -/
def Tau.ownDone (x : Tau) (kind h : Nat) : Tau := x.setMerges (fun m => m.a.kind == kind && m.a.job == h) fun m => { m with own := true }

/-- At a boundary: teardowns that have run out hold their resources, and a waiting RELEASE frees them (R404, R405). -/
def Tau.jobsDone (x : Tau) : Tau :=
  let above := x.jobs.filter fun j => j.st == 3 && x.jobIdle j.handle
  let x := forEach above (fun j x =>
    let x := (x.setJob j.handle fun j => { j with st := 4 }).ownDone 3 j.handle
    if j.rel then (x.dropJob j.handle).ownDone 4 j.handle else x) x
  if above.isEmpty then x else x.finishAcks

end Sys2Proof.Machine
end

