-- ==== Sys2Proof/Machine/Tokens.lean ====
section
/-!
DEFINITION. The signal box (R408 to R412): the tokens that maintenance takes, their conflicts, and their release.
-/

namespace Sys2Proof.Machine

/-- The owner that a port's request gives a token (R409). -/
def portOwner : Port → Nat
  | .mgmt _ => 1
  | _ => 0

/-- A target lies in the range of its class (R408). -/
def tokTarget (cls target : Nat) : Bool :=
  match cls with
  | 0 => decide (target < 4)
  | 2 => decide (target < 16)
  | 5 => decide (target < 5)
  | _ => decide (cls < 6)

/-- A set of links holds a link of die `d` (R32). -/
def dieInSet (mask d : Nat) : Bool := mask.testBit d || mask.testBit (d + 16)

/-- Two tokens conflict (R410): class and target of each. -/
def tokClash (a b : Nat × Nat) : Bool :=
  let (lo, hi) := if a.1 ≤ b.1 then (a, b) else (b, a)
  match lo.1, hi.1 with
  | 0, 0 => true
  | 0, 4 => true
  | 0, 5 => lo.2 == hi.2
  | 1, 1 => (List.range 16).any fun d => (Nat.lor lo.2 hi.2).testBit d && (Nat.lor lo.2 hi.2).testBit (d + 16)
  | 1, 2 => dieInSet lo.2 hi.2
  | 2, 2 => lo.2 == hi.2
  | 2, 4 => true
  | 3, 3 => true
  | 3, 4 => true
  | 4, 4 => true
  | 5, 5 => lo.2 == hi.2
  | _, _ => false

/-- A token of a class and target is held other than by FAULT (R411, R412). -/
def Tau.tokHeld (x : Tau) (cls target : Nat) : Bool :=
  x.mnt.tokens.any fun k => k.cls == cls && (k.target == target || cls == 3 || cls == 4) && k.owner != 3

/-- A TOKEN record (R409, R423): event 0 grant, 1 release, 2 forced. -/
def Tau.tokRecord (x : Tau) (event : Nat) (k : Token) : Tau :=
  x.recordTau 2 7 0x0C02 (leBytes 1 event ++ leBytes 1 k.cls ++ leBytes 1 k.owner ++ leBytes 1 k.id ++ leBytes 4 k.target)

/-- Replace the tokens held. -/
def Tau.setTokens (x : Tau) (l : List Token) : Tau := { x with mnt := { x.mnt with tokens := l } }

/-- The lowest-numbered token that conflicts with a request; a FAULT token gives way to a request for its section (R412). -/
def Tau.tokConflict (x : Tau) (cls target : Nat) : Option Token :=
  let own (k : Token) : Bool := k.owner == 3 && k.cls == 0 && cls == 0 && k.target == target
  (isort (fun a b => decide (a.id ≤ b.id)) (x.mnt.tokens.filter fun k => tokClash (k.cls, k.target) (cls, target) && !own k)).head?

/-- An id for a new token, one that no token held has; none where sixteen are held (R409; assumption 3). -/
def Tau.tokId (x : Tau) : Option (Nat × Tau) :=
  let used := x.mnt.tokens.map (·.id)
  if (List.range 16).all used.contains then none else some (x.freshId 16 used)

/-- Request a token (R409, R412): the state after, and the token or none. -/
def Tau.tokTake (x : Tau) (cls target owner : Nat) : Tau × Option Token :=
  match x.tokConflict cls target with
  | some k =>
    let x := (x.wr Reg.MNT_HOLDER_ID k.id).wr Reg.MNT_HOLDER_CLASS k.cls
    let x := (x.wr Reg.MNT_HOLDER_OWNER k.owner).wr Reg.MNT_HOLDER_TARGET k.target
    (x.bump Reg.MNT_TOK_REF_CNT, none)
  | none =>
    match x.mnt.tokens.find? fun k => k.owner == 3 && k.cls == 0 && cls == 0 && k.target == target with
    | some k =>
      let new : Token := { k with owner := owner }
      let x := x.setTokens (new :: x.mnt.tokens.filter (·.id != k.id))
      (x.tokRecord 0 new, some new)
    | none =>
      match x.tokId with
      | none => (x.bump Reg.MNT_TOK_REF_CNT, none)
      | some (i, x) =>
        let new : Token := ⟨i, cls, target, owner⟩
        ((x.setTokens (new :: x.mnt.tokens)).tokRecord 0 new, some new)

/-- The result of a token command (R409). -/
def Tau.tokResult (x : Tau) (code id : Nat) : Tau :=
  ((x.wr Reg.MNT_TOK_STAT_CODE code).wr Reg.MNT_TOK_STAT_ID id).wr Reg.MNT_TOK_STAT_VALID 1

/-- A token command is refused with FIT: that it counts, and where, is the model's choice (R18; assumption 77). -/
def Tau.tokRefused (x : Tau) (id : Nat) : Tau := (x.tokResult Code.fit id).bump Reg.MNT_TOK_REF_CNT

/-- A write of TOK_REQ (R409). -/
def Tau.tokRequest (x : Tau) (port : Port) (v : Nat) : Tau :=
  let cls := bits v 0 3
  let target := x.rd Reg.MNT_TOK_TARGET
  if !v.testBit 31 then x
  else if !tokTarget cls target then x.tokRefused 0
  else match x.tokTake cls target (portOwner port) with
    | (x, some k) => x.tokResult Code.done k.id
    | (x, none) => x.tokResult Code.busy 0

/-- A write of TOK_REL (R409, R412, R490): the owner's release, or a forced one through a management port. -/
def Tau.tokRelease (x : Tau) (port : Port) (v : Nat) : Tau :=
  let id := bits v 0 8
  let force := v.testBit 30
  if force && !isMgmt port then x.bump Reg.GEN_ACC_ERR_CNT
  else if !v.testBit 31 then x
  else match x.mnt.tokens.find? (·.id == id) with
    | none => x.tokRefused id
    | some k =>
      if k.owner = 3 ∨ (!force && k.owner != portOwner port) then x.tokRefused id
      else ((x.setTokens (x.mnt.tokens.filter (·.id != id))).tokRecord (if force then 2 else 1) k).tokResult Code.done id

/-- Release the tokens of an owner, class and target (R409). -/
def Tau.tokDrop (x : Tau) (cls target owner : Nat) : Tau :=
  let is (k : Token) : Bool := k.cls == cls && k.target == target && k.owner == owner
  let gone := x.mnt.tokens.filter is
  forEach gone (fun k x => x.tokRecord 1 k) (x.setTokens (x.mnt.tokens.filter fun k => !is k))

end Sys2Proof.Machine
end

