-- ==== Sys2Proof/Machine/Notices.lean ====
section
/-!
DEFINITION. Notices (R391 to R407, R420): their order and duplicates, what each kind does on receipt and at its EFFECT, how they go
down, the notice log and replays, issuing, and pack runs.
-/

namespace Sys2Proof.Machine

/-! ## Scheduled commits (R84, R85) -/

/-- A commit slot: period and mask; none when it is empty. -/
def Tau.scSlot (x : Tau) (i : Nat) : Option SchedSlot :=
  if x.rd Reg.TTB_SC_STATE_PENDING i = 1 then some ⟨x.rd64 Reg.TTB_SC_PER_LO Reg.TTB_SC_PER_HI i, x.rd Reg.TTB_SC_MASK i⟩ else none

/-- The groups with a scheduled commit pending, as SCHED_PEND shows them. -/
def Tau.scMask (x : Tau) : Nat :=
  (List.range 4).foldl (fun m i => match x.scSlot i with | some s => Nat.lor m s.mask | none => m) 0

/-- Fill or empty a commit slot (R84, R103). The TAU has one set of slots, and shows it in TTB0 alone (DESIGN CHOICE; assumption 71). -/
def Tau.setSc (x : Tau) (i : Nat) (o : Option SchedSlot) : Tau :=
  let x := match o with
    | some s => ((x.wr64 Reg.TTB_SC_PER_LO Reg.TTB_SC_PER_HI s.period i).wr Reg.TTB_SC_MASK s.mask i).wr Reg.TTB_SC_STATE_PENDING 1 i
    | none => x.wr Reg.TTB_SC_STATE_PENDING 0 i
  x.wr Reg.TTB_SCHED_PEND x.scMask

/-- COMMIT on receipt (R84). -/
def Tau.schedule (x : Tau) (period mask : Nat) : Tau × Nat :=
  match (List.range 4).find? fun i => (x.scSlot i).isNone with
  | some i =>
    if Nat.land mask x.scMask ≠ 0 ∨ Nat.land mask (x.rd Reg.GEN_UPD_PEND) ≠ 0 then (x.bump Reg.TTB_SCHED_BUSY_CNT, Code.busy)
    else (x.setSc i (some ⟨period, mask⟩), Code.done)
  | none => (x.bump Reg.TTB_SCHED_BUSY_CNT, Code.busy)

/-- CANCEL on receipt (R85). -/
def Tau.unschedule (x : Tau) (period mask : Nat) : Tau × Nat :=
  match (List.range 4).find? fun i => x.scSlot i == some ⟨period, mask⟩ with
  | some i => (x.setSc i none, Code.done)
  | none => (x.bump Reg.TTB_SCHED_BUSY_CNT, Code.fit)

/-! ## Pack runs (R408, R411, R420) -/

/-- A pack held by this TAU. -/
def Tau.packOf (x : Tau) (id ver : Nat) : Option TauPack := (x.lib.packs.filterMap fun p => p).find? fun p => p.id == id && p.ver == ver

/-- The runs that a PACK_RUN gives those of the dies `ds` that lie in its ranges; without an EFFECT they are due at the next boundary. -/
def Tau.runsOf (x : Tau) (n : Notice) (ds : List Nat) : List PackRun :=
  let b := n.body
  let rs := (List.range (fieldAt b 8 2)).map fun i => (fieldAt b (16 + 8 * i) 3, fieldAt b (20 + 8 * i) 4)
  match x.packOf (fieldAt b 0 2) (fieldAt b 2 2) with
  | none => []
  | some p => (ds.filter fun d => decide (0 < ranksIn rs (x.kidBase d) (x.kidBase d + 1))).map fun d =>
      { die := d, epoch := n.epoch, nseq := n.nseq, pack := fieldAt b 0 2, ver := fieldAt b 2 2,
        due := if n.effect = 0 then x.per + 1 else n.effect, grace := fieldAt b 4 4, met := false, sent := false,
        above := false, todo := List.range (Pack.parse p.bytes).pats.length }

/-- PACK_RUN on receipt: each die in range gets a pending run. -/
def Tau.packRun (x : Tau) (n : Notice) : Tau × Nat :=
  let b := n.body
  let nr := fieldAt b 8 2
  let id := fieldAt b 0 2
  let ver := fieldAt b 2 2
  let grace := fieldAt b 4 4
  if b.length ≠ 16 + 8 * nr ∨ !allZero ((b.drop 10).take 6) ∨ n.dl < n.effect + grace then (x, Code.fit)
  else if !x.isTray then (x, Code.done)
  else match x.packOf id ver with
    | none => (x, Code.fit)
    | some _ =>
      ({ x with ntc := { x.ntc with runs := x.ntc.runs ++ x.runsOf n x.children } }, Code.done)

/-- A record with a TDU command (R469). -/
def dieCmd (cmd job epoch nseq id ver effect mask : Nat) : List Byte :=
  withCrc (leBytes 1 0xBA ++ leBytes 1 cmd ++ leBytes 2 job ++ leBytes 4 epoch ++ leBytes 4 nseq ++ leBytes 2 id ++ leBytes 2 ver ++
    leBytes 8 effect ++ leBytes 2 mask ++ zeros 2)

/-- The rank in scope of a pack run is answered (R420): its merge, if one waits, takes the code. -/
def Tau.answerRun (x : Tau) (r : PackRun) (code : Nat) : Tau :=
  let a : Ack := ⟨false, false, 0xFFFF, r.epoch, r.nseq, bit (code == 0), bit (code != 0), 0, code, if code = 0 then 0 else x.kidBase r.die,
    11, if code = 0 then x.per else 0, []⟩
  (x.setMerges (fun m => m.is 0xFFFF r.epoch r.nseq && m.pend.testBit r.die) (·.take r.die a)).finishAcks

/-- Change or drop the run of a die. -/
def Tau.setRun (x : Tau) (r : PackRun) (o : Option PackRun) : Tau :=
  { x with ntc := { x.ntc with runs := x.ntc.runs.flatMap fun s => if s = r then o.toList else [s] } }

/-- The DIE_MARGIN token of a run goes back. -/
def Tau.freeMargin (x : Tau) (r : PackRun) : Tau :=
  if r.sent && !(x.ntc.runs.any fun s => s.die == r.die && s.sent) then x.tokDrop 2 r.die 2 else x

/-- A TEST_OVERDUE verdict (R422). -/
def Tau.overdueVerdict (x : Tau) (r : PackRun) (left : Nat) : Tau :=
  let slot := ((List.range 4).find? fun i => match x.lib.packs.getD i none with | some p => p.id == r.pack | none => false).getD 0
  x.postVerdict x.anySec 4
    { kind := 15, unit := slot, job := 0xFFFF, step := r.pack + 65536 * r.ver, rank := x.kidBase r.die, aux := Nat.min 255 left,
      value := x.per - r.due, ref := r.due, thr := Nat.min r.grace (2 ^ 31 - 1), present := 0, expected := 0, period := x.per }

/-- GRACE periods after EFFECT (R420): runs still pending are overdue. -/
def Tau.graceOver (x : Tau) : Tau :=
  forEach (x.ntc.runs.filter fun r => !r.above && decide (r.due + r.grace ≤ x.per)) (fun r x =>
    let x := (x.overdueVerdict r r.todo.length).bump Reg.MNT_TST_OVERDUE_CNT
    let x := x.sendDown r.die (dieCmd 2 0xFFFF 0 0 r.pack r.ver 0 0)
    (x.setRun r (some { r with above := true })).answerRun r Code.overdue) x

/-- The slices of a die have run patterns of a pack (R301, R420). A run whose patterns have all run is complete. -/
def Tau.runProgress (x : Tau) (die pack verLow : Nat) (ran : Nat) : Tau :=
  match x.ntc.runs.find? fun r => r.die == die && r.pack == pack && r.ver % 256 == verLow && r.sent with
  | none => x
  | some r =>
    let r' := { r with todo := r.todo.filter fun i => !ran.testBit i }
    if !r'.todo.isEmpty then x.setRun r (some r')
    else
      let x := ((x.setRun r none).bump Reg.MNT_TST_DONE_CNT).freeMargin r
      if r.above then x.overdueVerdict r 0 else x.answerRun r Code.done

/-- Pending runs of a disabled pack end (R407). -/
def Tau.abortRuns (x : Tau) (pack : Nat) : Tau :=
  forEach (x.ntc.runs.filter (·.pack == pack)) (fun r x => ((x.setRun r none).freeMargin r).answerRun r Code.aborted) x

/-! ## RANK_MAP (R395) -/

/-- The entries of a RANK_MAP: current base, new base, new span, new primary parent. -/
def rankMap (b : List Byte) : List (Nat × Nat × Nat × Nat) :=
  (chunks 16 (b.length / 16) b).map fun e => (fieldAt e 0 3, fieldAt e 4 3, fieldAt e 8 4, fieldAt e 12 3)

/-- The form of a RANK_MAP body. -/
def rankMapOk (b : List Byte) : Bool :=
  decide (b.length % 16 = 0) && decide (16 ≤ b.length) && (chunks 16 (b.length / 16) b).all fun e =>
    fieldAt e 3 1 == 0 && fieldAt e 7 1 == 0 && fieldAt e 15 1 == 0

/-- The entry that names a TAU of a current base and span. TAUs of several levels may share a base: a span of at most 16 tells a
TRAY, and an unchanged span comes first among others (PRESUMED). -/
def mapEntry (l : List (Nat × Nat × Nat × Nat)) (tray : Bool) (base span : Nat) : Option (Nat × Nat × Nat) :=
  let c := l.filter fun e => e.1 == base && decide (e.2.2.1 ≤ 16) == tray
  ((c.find? fun e => e.2.2.1 == span).orElse fun _ => c.head?).map (·.2)

/-- Give an RWS field and its shadow a value. -/
def Tau.both (x : Tau) (f : Fld) (v : Nat) (i : Nat := 0) : Tau := { x with regs := x.regs.both f i 0 v }

/-- The bound maps of this TAU still fit once a RANK_MAP has moved its base (R262). -/
def Tau.mapFits (x : Tau) (b : List Byte) : Bool :=
  match mapEntry (rankMap b) x.isTray x.base (x.rd Reg.SCB_RANK_SPAN) with
  | some (nb, _, _) => (x.wr Reg.SCB_RANK_BASE nb).visitsFit x.scb.streams x.binds
  | none => true

/-- A RANK_MAP takes effect: every adoption ends, and a child that the map gives to another parent leaves. One whose visits have come not
to fit since it was received is not taken (R262). -/
def Tau.applyMap (x : Tau) (b : List Byte) : Tau :=
  let l := rankMap b
  if !x.mapFits b then x.bump Reg.GEN_LOAD_REFUSED_CNT else
  let tray := x.isTray
  let kids := x.children
  let own := ((mapEntry l tray x.base (x.rd Reg.SCB_RANK_SPAN)).map (·.1)).getD x.base
  let gone := if tray then [] else kids.filter fun c => match (x.kid c).bind fun k => mapEntry l (k.role == 0) (x.kidBase c) (x.kidSpan c) with
    | some (_, _, par) => par != own
    | none => false
  let x := if tray then x else forEach kids (fun c x => match x.kid c with
    | some k => match mapEntry l (k.role == 0) (x.kidBase c) (x.kidSpan c) with
      | some (nb, ns, _) => (x.both Reg.SCB_CH_BASE nb c).both Reg.SCB_CH_SPAN ns c
      | none => x
    | none => x) x
  let x := match mapEntry l tray x.base (x.rd Reg.SCB_RANK_SPAN) with
    | none => x
    | some (nb, ns, par) =>
      let moves := x.parent.isSome && x.parent != some par
      let x := ((x.both Reg.SCB_RANK_BASE nb).both Reg.SCB_RANK_SPAN ns).both Reg.GEN_PRI_PARENT par
      let x := if moves then x.freshParent else x
      let x := if x.rd Reg.GEN_ATTACH_STAT_STATE = 3 then
          { x with scb := { x.scb with orphanFrom := none } }.wr Reg.GEN_ATTACH_STAT_STATE 2
        else x
      if tray then forEach kids (fun d x => x.both Reg.SCB_CH_BASE (nb + d) d) x else x
  let x := forEach gone (fun c x => x.dropKid c) x
  let x := (forEach kids (fun c x => x.wr Reg.SCB_CH_STAT_ADOPTED 0 c) x).wr Reg.SCB_ADOPT_NUM 0
  { x with boot := { x.boot with adopts := [] } }

/-! ## DISABLE (R407) -/

/-- DISABLE on receipt: its code. -/
def Tau.disableCode (x : Tau) (n : Notice) : Nat :=
  let ty := fieldAt n.body 0 1
  let id := fieldAt n.body 2 2
  let held := match ty with
    | 0 => (x.consist id).isSome
    | 1 => x.lib.models.any fun m => match m with | some m => m.id == id | none => false
    | 2 => (x.fmap id).isSome
    | 3 => x.lib.packs.any fun p => match p with | some p => p.id == id | none => false
    | _ => false
  if n.body.length ≠ 4 ∨ fieldAt n.body 1 1 ≠ 0 ∨ !held ∨ (n.job ≠ 0xFFFF ∧ (ty = 0 ∨ ty = 3)) then Code.fit else Code.done

/-- A DISABLE takes effect at period `q`. -/
def Tau.applyDisable (x : Tau) (job ty id q : Nat) : Tau :=
  let fleet := job == 0xFFFF
  let x := { x with ntc := { x.ntc with off := (ty, id, job, q) :: x.ntc.off } }
  match ty with
  | 0 =>
    let f (c : Consist) : Consist := if c.id = id then { c with until_ := endAt q c.until_ } else c
    let x := { x with lib := { x.lib with consists := x.lib.consists.map f } }
    let x := { x with boot := { x.boot with dies := x.boot.dies.map fun (d : DieSlot) => { d with held := d.held.filter (· != id) } } }
    (x.endStreams (·.consist == id) q).cancelWhere (·.consist == id)
  | 1 =>
    let slot (e : Nat) : Bool := match x.model e with | some m => m.id == id | none => false
    let x := x.endBinds (fun b => slot b.ens && (fleet || b.job == job)) q
    let off (e : Nat) (x : Tau) : Tau := { x with tree := { x.tree with ensOff := modifyAt (endAt q) e x.tree.ensOff } }
    if fleet then forIdx 8 (fun (e : Nat) (x : Tau) => match slot e with | true => off e x | false => x) x
    else x
  | 2 =>
    let x := x.endBinds (fun b => b.map == id && (fleet || b.job == job)) q
    if fleet then
      { x with lib := { x.lib with maps := x.lib.maps.map fun m => if m.id = id then { m with until_ := endAt q m.until_ } else m } }
    else x
  | _ =>
    let x := x.abortRuns id
    { x with lib := { x.lib with packs := x.lib.packs.map fun p => match p with | some p => if p.id = id then none else some p | none => none } }

/-! ## What a notice does (R395) -/

/-- A kind belongs to a job's handle or to the fleet's (R395). -/
def kindJobOk (kind job : Nat) : Bool :=
  if kind ≤ 5 then job != 0xFFFF else if kind = 6 ∨ kind = 9 then true else job == 0xFFFF

/-- A state of a job: 0 FREE. -/
def Tau.jobState (x : Tau) (h : Nat) : Nat := ((x.job h).map (·.st)).getD 0

/-- What takes effect at EFFECT, in the period `q`. A job's new epoch and key stand in its lists already. -/
def Tau.noticeEffect (x : Tau) (n : Notice) (q : Nat) : Tau :=
  match n.kind with
  | 1 => x.setJob n.job fun j => if j.st = 1 ∧ j.epochs.any (·.2 == n.epoch) then { j with st := 2 } else j
  | 3 => if x.jobState n.job = 2 then x.jobTeardown n.job q else x
  | 5 => x.setView n.job (fieldAt n.body 0 3) (fieldAt n.body 4 4) (fieldAt n.body 3 1)
  | 6 => if n.job = 0xFFFF then x else x.cancelTaps n.job
  | 9 => x.applyDisable n.job (fieldAt n.body 0 1) (fieldAt n.body 2 2) q
  | 12 => x.applyMap n.body
  | _ => x

/-- Apply a notice on receipt: the state after and its code (R395, R401 to R407). -/
def Tau.applyNotice (x : Tau) (n : Notice) : Tau × Nat :=
  let st := x.jobState n.job
  let b := n.body
  let q := Nat.max n.effect (x.per + 1)
  if !kindJobOk n.kind n.job then (x, Code.fit)
  else match n.kind with
    | 1 => match x.jobStart n with
      | (x, 0) => (x, 0)
      | (x, c) => (x.bump Reg.GEN_LOAD_REFUSED_CNT, c)
    | 2 => if st = 1 then (x.dropJob n.job, Code.done) else (x, if st = 0 then Code.done else Code.fit)
    | 3 => (x, if st = 2 then Code.done else if st = 1 then Code.busy else Code.fit)
    | 4 =>
      if st = 4 then (x.dropJob n.job, Code.done)
      else if st = 3 then (x.setJob n.job fun j => { j with rel := true }, Code.done)
      else (x, if st = 0 then Code.done else Code.fit)
    | 5 => (x, if st = 2 ∧ b.length = 8 ∧ fieldAt b 3 1 ≤ 2 then Code.done else Code.fit)
    | 6 =>
      if n.job = 0xFFFF then (x, if b.isEmpty then Code.done else Code.fit)
      else if st ≠ 2 then (x, Code.fit)
      else if b.length ≠ 40 then (x, Code.fit)
      else match x.openJobKey n.job b with
        | (x, some k) => (x.setJob n.job fun j => { j with epochs := (q, n.epoch) :: j.epochs, keys := (q, k) :: j.keys }, Code.done)
        | (x, none) => (x, Code.signature)
    | 7 => if b.length = 2 then x.schedule n.effect (fieldAt b 0 2) else (x, Code.fit)
    | 8 => if b.length = 16 ∧ allZero ((b.drop 2).take 6) then x.unschedule (fieldAt b 8 8) (fieldAt b 0 2) else (x, Code.fit)
    | 9 => (x, if n.job ≠ 0xFFFF ∧ st ≠ 2 then Code.fit else x.disableCode n)
    | 10 => x.loadImage b q
    | 11 => x.packRun n
    | _ =>
      if !rankMapOk b then (x, Code.fit)
      else if x.mapFits b then (x, Code.done)
      else (x.bump Reg.GEN_LOAD_REFUSED_CNT, Code.capacity)

/-- The kinds that act at EFFECT (R395). A COMMIT waits in its slot and a PACK_RUN in its runs. -/
def kindWaits (kind : Nat) : Bool := kind == 1 || kind == 3 || kind == 5 || kind == 6 || kind == 9 || kind == 12

/-! ## TDU-side records (R470) -/

/-- A TDU key record (R468). -/
def dieKey (job epoch nseq key effect : Nat) : List Byte :=
  withCrc (leBytes 1 0xB9 ++ zeros 3 ++ leBytes 2 job ++ zeros 2 ++ leBytes 4 epoch ++ leBytes 4 nseq ++ leBytes 8 key ++ leBytes 8 effect ++ zeros 4)

/-- J of a job's epoch. -/
def TauJob.keyOf (j : TauJob) (epoch : Nat) : Nat := (((j.epochs.zip j.keys).find? (·.1.2 == epoch)).map (·.2.2)).getD 0

/-- The records that start a job on die `d`: the consists that it does not hold, the key, and the entries. A die without entries is
given its rank again, because a batch completes the notice (assumption 29). -/
def Tau.startRecords (x : Tau) (d : Nat) (j : TauJob) (held : List Nat) (epoch nseq effect : Nat) : List (List Byte) :=
  let imgs := (j.streams.map (·.1)).filter (fun c => !held.contains c) |>.flatMap fun c => match x.consist c with
    | some k => imageFragments 3 (x.imgVer 3 c) j.handle epoch nseq k.payload
    | none => []
  let ws := (x.jobWords d j).map fun (i, w) => (0x9100 + 4 * i, w)
  let batch := if ws.isEmpty then dieBatch false j.handle 0 effect epoch nseq [(0x44, x.kidBase d)]
    else dieBatch true j.handle (2 ^ 9) effect epoch nseq ws
  imgs ++ [dieKey j.handle epoch nseq (j.keyOf epoch) effect, batch]

/-- The consists that die `d` holds, as far as the TAU has given it them. -/
def Tau.dieHolds (x : Tau) (d : Nat) : List Nat := (x.boot.dies.getD d ⟨[], [], [], false, []⟩).held

/-- The records of a notice for die `d`; none for a kind that carries it nothing. `again`: they are replayed, so that what they
brought is not known to be there, and a RANK_MAP whose EFFECT has come has moved this TAU's base already. -/
def Tau.dieRecords (x : Tau) (n : Notice) (d : Nat) (again : Bool) : List (List Byte) :=
  let b := n.body
  let cmd (c id eff mask : Nat) : List (List Byte) := [dieCmd c n.job n.epoch n.nseq id 0 eff mask]
  match n.kind with
  | 1 => match x.job n.job with
    | some j => x.startRecords d j (if again then [] else x.dieHolds d) n.epoch n.nseq n.effect
    | none => []
  | 2 => cmd 3 0 0 0
  | 3 => cmd 3 0 (if n.effect = 0 then x.per + 1 else n.effect) 0
  | 6 => match x.job n.job with | some j => [dieKey n.job n.epoch n.nseq (j.keyOf n.epoch) n.effect] | none => []
  | 7 => cmd 4 0 n.effect (fieldAt b 0 2)
  | 8 => cmd 5 0 (fieldAt b 8 8) (fieldAt b 0 2)
  | 9 => match fieldAt b 0 1 with
    | 0 => cmd 6 (fieldAt b 2 2) n.effect 0
    | 3 => cmd 7 (fieldAt b 2 2) n.effect 0
    | _ => []
  | 10 => match Image.read [7] b with
    | some i => imageFragments 7 i.ver 0xFFFF n.epoch n.nseq i.payload
    | none => []
  | 11 => match x.ntc.runs.find? fun r => r.die == d && r.epoch == n.epoch && r.nseq == n.nseq && r.sent with
    | some r => [dieCmd 1 0xFFFF r.epoch r.nseq r.pack r.ver r.due 0]
    | none => []
  | 12 =>
    let rank (nb : Nat) : List (List Byte) := [dieBatch false 0xFFFF 0 n.effect n.epoch n.nseq [(0x44, nb + d)]]
    if again && !(x.ntc.due.any fun m => m.is n.job n.epoch n.nseq) then
      if (rankMap b).any fun e => e.2.1 == x.base && decide (e.2.2.1 ≤ 16) then rank x.base else []
    else match mapEntry (rankMap b) true x.base (x.rd Reg.SCB_RANK_SPAN) with
      | some (nb, _, _) => if nb = x.base then [] else rank nb
      | none => []
  | _ => []

/-- A die has been given the consists of a job. -/
def Tau.giveConsists (x : Tau) (d : Nat) (cs : List Nat) : Tau :=
  let f (s : DieSlot) : DieSlot := { s with held := cs.foldl (fun l c => if l.contains c then l else l ++ [c]) s.held }
  { x with boot := { x.boot with dies := modifyAt f d x.boot.dies } }

/-! ## The notice log (R398) -/

/-- Bytes that a notice takes in the log. -/
def Notice.size (n : Notice) : Nat := n.frags.foldl (fun k r => k + r.length) 0

/-- The log holds a notice for as long as what it did stands (R398). -/
def Tau.logKeeps (x : Tau) (n : Notice) : Bool :=
  if n.job ≠ 0xFFFF then (x.job n.job).isSome
  else if n.refused then false
  else if n.kind = 10 then match Image.read [3, 4, 5, 6, 7] n.body with
    | some i => x.imageHeld i.type (payloadId i.payload)
    | none => false
  else n.kind == 7 && (List.range 4).any fun i => x.scSlot i == some ⟨n.effect, fieldAt n.body 0 2⟩

/-- Drop the notices that the log no longer holds: other fleet notices but for the last 1,024. -/
def Tau.pruneLog (x : Tau) : Tau :=
  let other (n : Notice) : Bool := n.job == 0xFFFF && !x.logKeeps n
  let extra := x.ntc.log.countP other - 1024
  let l := (x.ntc.log.foldl (fun (acc : List Notice × Nat) n =>
    if x.logKeeps n then (n :: acc.1, acc.2) else if n.job = 0xFFFF then (if acc.2 = 0 then (n :: acc.1, 0) else (acc.1, acc.2 - 1)) else acc)
    ([], extra)).1.reverse
  { x with ntc := { x.ntc with log := l } }.wr Reg.MNT_NTC_LOG_USED (l.foldl (fun k (n : Notice) => k + n.size) 0)

/-- Remove the oldest of the last group of the log. -/
def Tau.evictLog (x : Tau) : Tau :=
  match x.ntc.log.find? fun n => n.job == 0xFFFF && !x.logKeeps n with
  | some n => { x with ntc := { x.ntc with log := x.ntc.log.erase n } }
  | none => x

/-- Log a notice that has been judged; a refused one of a job stays for its children's replays as long as the job does. -/
def Tau.logNotice (x : Tau) (n : Notice) : Tau :=
  let fits (x : Tau) : Bool := decide (x.ntc.log.foldl (fun k (m : Notice) => k + m.size) n.size ≤ x.rd Reg.MNT_NTC_LOG_SIZE * 1048576)
  let x := x.pruneLog
  let x := forIdx x.ntc.log.length (fun _ x => if fits x then x else x.evictLog) x
  let (x, ok) := if fits x then x.hbmCharge x.anySec 0 n.size else (x, false)
  if ok then ({ x with ntc := { x.ntc with log := x.ntc.log ++ [n] } }).pruneLog
  else x.pruneLog.bump Reg.MNT_NTC_LOG_DROP_CNT

/-! ## Order (R392), forwarding (R393) -/

/-- The last NID applied for a handle. -/
def Tau.lastNid (x : Tau) (h : Nat) : Nat × Nat := ((x.ntc.last.find? (·.1 == h)).map (·.2)).getD (0, 0)

/-- A notice is the next of its handle. -/
def Tau.inOrder (x : Tau) (n : Notice) : Bool :=
  let (e, s) := x.lastNid n.job
  (n.epoch == e && n.nseq == s + 1) || (n.nseq == 1 && decide (e < n.epoch)) ||
    (n.kind == 2 && decide (e < n.epoch) && (x.job n.job).isNone)

/-- Forward an accepted notice and begin the merge of its acknowledgements (R393, R396, R470). A standby ROOT only keeps step (R23). A TAU
without valid FT acknowledges when it has met EFFECT, with the period in which it did (R87). -/
def Tau.forward (x : Tau) (n : Notice) (rs : List (Nat × Nat)) : Tau :=
  let cs := if x.isStandby then [] else x.scopeKids n.job rs
  let act := if n.effect = 0 then x.per else Nat.max n.effect (x.per + 1)
  let send (acc : Tau × Nat × Nat) (c : Nat) : Tau × Nat × Nat :=
    let (x, pend, own) := acc
    if x.isTray then
      let l := x.dieRecords n c false
      let runs := x.ntc.runs.any fun r => r.die == c && r.epoch == n.epoch && r.nseq == n.nseq
      if l.isEmpty && !(n.kind == 11 && runs) then (x, pend, own + x.scopeCount n.job rs c)
      else
        let x := l.foldl (fun x r => x.sendDown c r) x
        let x := if n.kind = 1 then x.giveConsists c ((startStreams n.body).map (·.1)) else x
        (x, pend + 2 ^ c, own)
    else ({ n with dl := n.dl - x.rd Reg.MNT_ACK_MARGIN }.frags.foldl (fun x r => x.sendDown c r) x, pend + 2 ^ c, own)
  let (x, pend, own) := cs.foldl send (x, 0, 0)
  let waits := n.kind == 3 || (n.kind == 4 && (x.job n.job).isSome)
  let m : AckMerge :=
    { a := { n.ack with applied := own, actual := act }, pend := pend, dl := n.dl, own := !waits,
      hold := if x.unset && n.effect != 0 then some n.effect else none, scope := rs }
  ({ x with ntc := { x.ntc with merge := x.ntc.merge ++ [m] } }).finishAcks

/-- Take a notice that is next in order. -/
def Tau.takeNotice (x : Tau) (n : Notice) : Tau :=
  let rs := x.noticeRanges n
  let (x, code) := x.applyNotice n
  let x := x.bump Reg.MNT_NTC_RX_CNT
  let x := { x with ntc := { x.ntc with
    last := (n.job, n.epoch, n.nseq) :: x.ntc.last.filter (·.1 != n.job)
    codes := ((n.job, n.epoch, n.nseq, code) :: x.ntc.codes).take 64 } }
  if code ≠ 0 then (x.ackOwn n rs code).logNotice { n with refused := true }
  else
    let x := (x.forward n rs).logNotice n
    if !kindWaits n.kind then x
    else if n.effect = 0 then (x.noticeEffect n (x.per + 1)).pruneLog
    else { x with ntc := { x.ntc with due := x.ntc.due ++ [n] } }

/-- A notice whose epoch is over is acknowledged and counted as stale (R392). -/
def Tau.staleNotice (x : Tau) (n : Notice) : Tau :=
  let x := if n.kind = 5 then x.bump Reg.SRV_JV_REF_CNT else x
  (x.bump Reg.MNT_NTC_STALE_CNT).ackOwn n (x.noticeRanges n) Code.stale

/-- Take a notice, and those held that follow it. Held notices of an epoch that it ended are stale. -/
def Tau.takeAll (x : Tau) (n : Notice) : Tau :=
  let x := x.takeNotice n
  let x := forIdx x.ntc.held.length (fun _ x => match x.ntc.held.find? x.inOrder with
    | some m => ({ x with ntc := { x.ntc with held := x.ntc.held.erase m } }).takeNotice m
    | none => x) x
  let ended (m : Notice) : Bool := decide (m.epoch < (x.lastNid m.job).1)
  forEach (x.ntc.held.filter ended) (fun m x => x.staleNotice m)
    { x with ntc := { x.ntc with held := x.ntc.held.filter fun m => !ended m } }

/-- Judge a complete notice by its NID (R392). -/
def Tau.judgeNotice (x : Tau) (n : Notice) : Tau :=
  let (e, s) := x.lastNid n.job
  let rs := x.noticeRanges n
  if n.epoch < e then x.staleNotice n
  else if n.epoch = e ∧ n.nseq ≤ s then
    let code := ((x.ntc.codes.find? fun c => c.1 == n.job && c.2.1 == n.epoch && c.2.2.1 == n.nseq).map (·.2.2.2)).getD Code.stale
    (x.bump Reg.MNT_NTC_DUP_CNT).ackOwn n rs code
  else if x.inOrder n then x.takeAll n
  else
    let x := x.bump Reg.MNT_NTC_GAP_CNT
    let x := if x.ntc.held.any fun m => m.is n.job n.epoch n.nseq then x
      else { x with ntc := { x.ntc with held := x.ntc.held ++ [n] } }
    x.requestReplay

/-- The notice of a complete collection. -/
def NtcGather.whole (g : NtcGather) (per : Nat) : Option Notice :=
  let body := (List.range g.nfrag).foldl (fun acc i => match acc, g.frags.find? (·.1 == i) with
    | some b, some f => some (f.2.reverse ++ b)
    | _, _ => none) (some [])
  body.map fun b => ⟨g.kind, g.job, g.epoch, g.nseq, g.effect, nearPeriod per g.dl, g.replay, false, b.reverse⟩

/-- A fragment record from the parent, or for a standby ROOT a copy of the ROOT's (R391). An active ROOT copies to its standby what its
FEDERATION TAU sends (R23). A record that names no kind of notice is no fragment (R457, R458). -/
def Tau.fragmentIn (x : Tau) (r : List Byte) : Tau :=
  if fieldAt r 0 1 < 0x81 ∨ 0x8C < fieldAt r 0 1 then x.bump Reg.GEN_CTL_DMG_CNT
  else if !noticeFragOk r then (x.bump Reg.MNT_NTC_GAP_CNT).requestReplay
  else
    let x := if x.roleSet && x.role == 3 && !x.isStandby then x.emitOut (.noticeCopy r) else x
    let g : NtcGather :=
      { kind := fieldAt r 0 1 - 0x80, job := fieldAt r 2 2, epoch := fieldAt r 4 4, nseq := fieldAt r 8 4, nfrag := fieldAt r 14 2,
        effect := fieldAt r 16 8, dl := fieldAt r 24 4, replay := fieldAt r 1 1 == 1, frags := [] }
    let same (h : NtcGather) : Bool := { h with frags := [] } == g
    let old := (x.ntc.gather.find? same).getD g
    let new := { old with frags := (fieldAt r 12 2, (r.drop 32).take (fieldAt r 28 2)) :: old.frags.filter (·.1 != fieldAt r 12 2) }
    let rest := x.ntc.gather.filter fun h => !same h
    match new.whole x.per with
    | none => { x with ntc := { x.ntc with gather := new :: rest } }
    | some n => ({ x with ntc := { x.ntc with gather := rest } }).judgeNotice n

/-! ## EFFECT (R87, R393) -/

/-- A record of something that took effect late (R87). -/
def Tau.lateRecord (x : Tau) (intended mask : Nat) : Tau :=
  (x.bump Reg.TTB_SCHED_LATE_CNT).recordTau 1 5 0x0201 (leBytes 8 intended ++ leBytes 8 x.per ++ leBytes 2 mask)

/-- Order the runs that are due, under valid FT; a PACK_RUN that meets its EFFECT late is recorded as one notice (R87, R393). A run that
uses a margin point waits for its token (R411). -/
def Tau.orderRuns (x : Tau) : Tau :=
  if x.unset then x
  else
    let due := x.ntc.runs.filter fun r => !r.sent && decide (r.due ≤ x.per)
    let late := ((due.filter fun r => !r.met && decide (r.due < x.per)).map fun r => (r.due, r.epoch, r.nseq)).eraseDups
    let x := forEach late (fun n x => x.lateRecord n.1 0) x
    forEach due (fun r x =>
      let margins := match x.packOf r.pack r.ver with | some p => (Pack.parse p.bytes).pats.any fun q => q.margin != 0 | none => false
      let (x, ok) :=
        if !margins then (x, true)
        else if r.met ∧ (x.tokConflict 2 r.die).isSome then (x, false)
        else let (x, k) := x.tokTake 2 r.die 2; (x, k.isSome)
      if ok then (x.sendDown r.die (dieCmd 1 0xFFFF r.epoch r.nseq r.pack r.ver r.due 0)).setRun r (some { r with met := true, sent := true })
      else x.setRun r (some { r with met := true })) x

/-- Acknowledgements that waited for EFFECT carry the period in which it was met (R87). -/
def Tau.heldAcks (x : Tau) : Tau :=
  let met (m : AckMerge) : Bool := match m.hold with | some e => decide (e ≤ x.per) | none => false
  (x.setMerges met fun m => { m with hold := none, a := { m.a with actual := Nat.max m.a.actual x.per } }).finishAcks

/-- At a boundary with valid FT every notice whose EFFECT has come takes effect (R87). -/
def Tau.noticesDue (x : Tau) : Tau :=
  if x.unset then x
  else
    let now := x.ntc.due.filter fun n => decide (n.effect ≤ x.per)
    let x := { x with ntc := { x.ntc with due := x.ntc.due.filter fun n => !decide (n.effect ≤ x.per) } }
    (forEach now (fun n x => (if n.effect < x.per then x.lateRecord n.effect 0 else x).noticeEffect n x.per) x).heldAcks

/-- At a boundary: a consist whose removal commits here is no longer loaded (R173), and a map that no binding needs leaves (R259,
R407). -/
def Tau.reapItems (x : Tau) : Tau :=
  let gone (c : Consist) : Bool := match c.until_ with | some q => decide (q ≤ x.per) | none => false
  let out (m : FMap) : Bool := (match m.until_ with | some q => decide (q ≤ x.per) | none => false) && !(x.bindLives (·.map == m.id))
  { x with lib := { x.lib with
      consists := x.lib.consists.filter fun c => !gone c
      ended := x.lib.consists.filter gone ++ x.lib.ended
      maps := x.lib.maps.filter fun m => !out m } }

/-! ## Issuing (R24, R86, R394, R402, R405) -/

/-- J of a job's epoch, sealed for the notice (R377, R380): the 40-byte envelope. -/
def Tau.sealJobKey (x : Tau) (job epoch : Nat) : Tau × Option (List Byte) :=
  match x.cip.cur with
  | none => (x, none)
  | some g =>
    let key := beNat (kdf g.key (kdfContext g.fleet 0xFF 4 job epoch) 64)
    x.sealMsg x.anySec Purpose.jobkey false 0 (leBytes 8 key) (some 0xFF) job

/-- Issue a notice: the state after, the code, and the NSEQ given. An abort after EFFECT is not issued (R402). -/
def Tau.issueNotice (x : Tau) (kind job effect dl : Nat) (body : List Byte) : Tau × Nat × Nat :=
  let (e, s) := ((x.ntc.issued.find? (·.1 == job)).map (·.2)).getD (0, 0)
  let opens := kind == 1 || kind == 6 || x.ntc.reopen.contains job
  let (epoch, nseq) := if opens then (e + 1, 1) else (e, s + 1)
  if !(x.roleSet && decide (3 ≤ x.role)) || x.isStandby || decide (67108864 < body.length) || kind == 0 || decide (12 < kind) then (x, Code.fit, 0)
  else if (effect ≠ 0 ∨ kind = 7) ∧ effect < x.per + x.rd Reg.TTB_SCHED_LEAD then (x.bump Reg.TTB_SCHED_REFUSED_CNT, Code.fit, 0)
  else if kind = 1 ∧ (effect < dl + x.rd Reg.MNT_START_MARGIN ∨ body.length < 64) then (x, Code.fit, 0)
  else if kind = 2 ∧ 2 ≤ x.jobState job then (x, Code.fit, 0)
  else
    let (x, body?) := if kind = 1 ∨ (kind = 6 ∧ job ≠ 0xFFFF) then
        match x.sealJobKey job epoch with
        | (x, some env) => (x, some (if kind = 1 then body.take 24 ++ env ++ body.drop 64 else env))
        | (x, none) => (x, none)
      else (x, some body)
    match body? with
    | none => (x, Code.fit, 0)
    | some body =>
      let n : Notice := ⟨kind, job, epoch, nseq, effect, dl, false, false, body⟩
      let total := if kind = 1 then (startRanges body).foldl (fun k r => k + r.2) 0 else 0
      let slot : NtcSlot :=
        { ix := x.ntc.nslot % 64, a := n.ack, dl := dl, effect := effect, total := total, back := [], acks := [],
          closed := false, followed := false }
      let x : Tau := { x with ntc := { x.ntc with
        slots := (x.ntc.slots.filter fun (o : NtcSlot) => o.ix != slot.ix) ++ [slot]
        nslot := x.ntc.nslot + 1
        reopen := x.ntc.reopen.filter (· != job)
        issued := (job, epoch, nseq) :: x.ntc.issued.filter (·.1 != job) } }
      let x := if x.role = 3 then n.frags.foldl (fun x r => x.emitOut (.noticeCopy r)) x else x
      (x.takeAll n, Code.done, nseq)

/-- A slot calls for a JOB_ABORT (R402) or a RELEASE (R405). -/
def NtcSlot.follow (s : NtcSlot) (per : Nat) : Option Nat :=
  if !s.closed || s.followed then none
  else if s.a.kind = 1 ∧ s.a.applied ≠ s.total ∧ per < s.effect then some 2
  else if s.a.kind = 3 ∧ s.a.unreached = s.recov per ∧ s.a.refused = 0 then some 4
  else none

/-- Issue what complete slots call for. -/
def Tau.followUps (x : Tau) : Tau :=
  forIdx x.ntc.slots.length (fun _ x => match x.ntc.slots.find? fun s => (s.follow x.per).isSome with
    | some s =>
      let x := x.setSlot s.a.job s.a.epoch s.a.nseq fun s => { s with followed := true }
      (x.issueNotice ((s.follow x.per).getD 4) s.a.job 0 (x.per + x.rd Reg.MNT_ACK_TMO) []).1
    | none => x) x

/-- A write of MNT.ISSUE.GO. `m`: the notice in the partition, a header in the layout of R391 whose EPOCH, NSEQ, FRAG, NFRAG and FLEN
are not read, and the body (assumption 28). -/
def Tau.noticeIssue (x : Tau) (m : List Byte) : Tau :=
  let kind := fieldAt m 0 1 - 0x80
  let (x, code, nseq) := x.issueNotice kind (fieldAt m 2 2) (fieldAt m 16 8) (nearPeriod x.per (fieldAt m 24 4)) (m.drop 32)
  let x := (x.wr Reg.MNT_ISSUE_STAT_CODE code).wr Reg.MNT_ISSUE_STAT_VALID 1
  (if code = 0 then x.wr Reg.MNT_ISSUE_NSEQ nseq else x).followUps

/-- A write of FORCE_RELEASE (R405, R490). -/
def Tau.forceRelease (x : Tau) (port : Port) (v : Nat) : Tau :=
  let h := bits v 0 16
  if !v.testBit 31 then x
  else if !isMgmt port then x.bump Reg.GEN_ACC_ERR_CNT
  else match x.issueNotice 4 h 0 (x.per + x.rd Reg.MNT_ACK_TMO) [] with
    | (x, 0, _) => (x.tokRecord 2 ⟨0, 0, h, 1⟩).followUps
    | (x, _, _) => x

/-! ## Acknowledgements received (R396 to R398, R420, R456) -/

/-- The answer of die `c` to the records of a job that it rejoins (R456). -/
def Tau.rejoinAnswer (x : Tau) (c job epoch nseq code : Nat) : Tau :=
  let f (d : DieSlot) : DieSlot := { d with rejoin := d.rejoin.filter (· != (job, epoch, nseq)) }
  let x := { x with boot := { x.boot with dies := modifyAt f c x.boot.dies } }
  if code = 0 then x else x.recordTau 1 5 0x1004 (leBytes 2 job ++ leBytes 1 code ++ zeros 5)

/-- A die refuses: its pack run ends, and it holds nothing of the job's consists. A pack refused with BUSY is to be sent again (R297). -/
def Tau.dieRefused (x : Tau) (c : Nat) (a : Ack) : Tau :=
  match a.kind with
  | 1 =>
    let cs := ((x.job a.job).map fun j => j.streams.map (·.1)).getD []
    { x with boot := { x.boot with dies := modifyAt (fun d => { d with held := d.held.filter fun k => !cs.contains k }) c x.boot.dies } }
  | 11 => match x.ntc.runs.find? fun r => r.die == c && r.epoch == a.epoch && r.nseq == a.nseq with
    | some r => (x.setRun r none).freeMargin r
    | none => x
  | 10 =>
    match x.ntc.log.find? fun n => n.is a.job a.epoch a.nseq with
    | some n => match a.code == Code.busy, Image.read [7] n.body with
      | true, some i =>
        let e := (payloadId i.payload, a.epoch, a.nseq, false)
        { x with boot := { x.boot with dies := modifyAt (fun d => { d with again := e :: d.again.filter (·.1 != e.1) }) c x.boot.dies } }
      | _, _ => x
    | none => x
  | _ => x

/-- The answer of die `c` to a pack that was sent to it again (R297): one refused with BUSY waits once more. -/
def Tau.againAnswer (x : Tau) (c : Nat) (a : Ack) : Tau :=
  let f (d : DieSlot) : DieSlot := { d with again := d.again.filterMap fun e =>
    if e.2 = (a.epoch, a.nseq, true) then (if a.code = Code.busy then some (e.1, a.epoch, a.nseq, false) else none) else some e }
  { x with boot := { x.boot with dies := modifyAt f c x.boot.dies } }

/-- A SCREEN_SUM of die `c` marks the end of its slice: the packs that it refused with BUSY go to it again (R297). -/
def Tau.sendAgain (x : Tau) (c : Nat) : Tau :=
  let l := (x.boot.dies.getD c ⟨[], [], [], false, []⟩).again
  let x := forEach (l.filter fun e => !e.2.2.2) (fun e x => match (x.lib.packs.filterMap id).find? (·.id == e.1) with
    | some k => x.sendImage c 7 (x.imgVer 7 k.id) 0xFFFF e.2.1 e.2.2.1 k.bytes
    | none => x) x
  let held (e : Nat × Nat × Nat × Bool) : Bool := (x.lib.packs.filterMap id).any (·.id == e.1)
  let f (d : DieSlot) : DieSlot := { d with again := (d.again.filter held).map fun e => (e.1, e.2.1, e.2.2.1, true) }
  { x with boot := { x.boot with dies := modifyAt f c x.boot.dies } }

/-- An acknowledgement of child `c`. -/
def Tau.ackIn (x : Tau) (c : Nat) (r : List Byte) : Tau :=
  if !ackOk r then x.bump Reg.GEN_CTL_DMG_CNT
  else
    let a := Ack.parse r
    let mine (m : AckMerge) : Bool := m.is a.job a.epoch a.nseq && m.pend.testBit c
    if x.isTray && a.job == 0 && a.epoch == 0 && a.nseq == 0 then x.authAnswer c a.code
    else if x.isTray && (x.boot.dies.getD c ⟨[], [], [], false, []⟩).rejoin.contains (a.job, a.epoch, a.nseq) then
      x.rejoinAnswer c a.job a.epoch a.nseq a.code
    else if x.isTray && a.kind == 10 && a.job == 0xFFFF && (x.boot.dies.getD c ⟨[], [], [], false, []⟩).again.any (·.2 == (a.epoch, a.nseq, true)) then
      x.againAnswer c a
    else
      let x := if x.isTray && a.code != 0 then x.dieRefused c a else x
      if x.isTray && a.kind == 11 && a.code == 0 then x
      else match x.ntc.merge.find? fun m => mine m && m.a.replay == (a.replay && !x.isTray) with
        | some m => (x.setMerges (· == m) (·.take c a)).finishAcks.followUps
        | none => match x.ntc.merge.find? mine with
          | some m => (x.setMerges (· == m) (·.take c a)).finishAcks.followUps
          | none =>
            if a.replay then (x.ackUp (x.kidBase c) (x.kidSpan c) a).followUps
            else x.bump Reg.MNT_NTC_TMO_CNT

/-! ## Replays (R398, R464) -/

/-- A PACK_RUN is replayed to a die that was not there: its run is pending, while GRACE lasts (R420). -/
def Tau.rerun (x : Tau) (c : Nat) (n : Notice) : Tau :=
  if n.kind ≠ 11 ∨ (x.ntc.runs.any fun r => r.die == c && r.epoch == n.epoch && r.nseq == n.nseq) ∨
      n.effect + fieldAt n.body 4 4 ≤ x.per then x
  else { x with ntc := { x.ntc with runs := x.ntc.runs ++ x.runsOf n [c] } }

/-- Replay a logged notice to child `c`, once the log has been read (R102). The records of a die are acknowledged without REPLAY, so
their merge is the TAU's; a die that still owes the answer of the first delivery gives that one. What this TAU refused gave its dies no
records. -/
def Tau.replayTo (x : Tau) (c : Nat) (n : Notice) : Tau :=
  match x.hbmCharge x.anySec 0 n.size with
  | (x, false) => x.bump Reg.MNT_NTC_GAP_CNT
  | (x, true) =>
    let x := x.bump Reg.MNT_NTC_REPLAY_CNT
    let n := { n with replay := true, dl := x.per + x.rd Reg.MNT_ACK_TMO }
    if !x.isTray then n.frags.foldl (fun x r => x.sendDown c r) x
    else if n.refused then x
    else
      let x := x.rerun c n
      let l := x.dieRecords n c true
      if l.isEmpty && !(n.kind == 11 && x.ntc.runs.any fun r => r.die == c && r.epoch == n.epoch && r.nseq == n.nseq) then x
      else
        let x := l.foldl (fun x r => x.sendDown c r) x
        if x.ntc.merge.any fun m => m.is n.job n.epoch n.nseq && m.pend.testBit c then x
        else
          let m : AckMerge := { a := n.ack, pend := 2 ^ c, dl := n.dl, own := true, hold := none, scope := x.noticeRanges n }
          { x with ntc := { x.ntc with merge := x.ntc.merge ++ [m] } }

/-- Notices of handle `h` above NID (e, s) that this TAU has applied and no longer logs. -/
def Tau.unlogged (x : Tau) (h e s : Nat) : Bool :=
  let (le, ls) := x.lastNid h
  let from_ := if e = le then s + 1 else 1
  decide (e ≤ le) && (List.range (ls + 1 - from_)).any fun i => !(x.ntc.log.any fun n => n.is h le (from_ + i))

/-- A replay request of child `c` (R398, R464). -/
def Tau.replayRequestIn (x : Tau) (c : Nat) (r : List Byte) : Tau :=
  if !replayOk 0xA1 r then x.bump Reg.GEN_CTL_DMG_CNT
  else
    let l := replayEntries r
    let inScope (n : Notice) : Bool := n.job == 0xFFFF || decide (0 < x.scopeCount n.job (x.noticeRanges n) c)
    let above (n : Notice) : Bool := match l.find? (·.1 == n.job) with
      | some (_, e, s) => decide (e < n.epoch) || (e == n.epoch && decide (s < n.nseq))
      | none => true
    let x := forEach (x.ntc.log.filter fun n => above n && inScope n) (fun n x => x.replayTo c n) x
    let x := forEach l (fun (j, e, s) x => if x.unlogged j e s then x.bump Reg.MNT_NTC_GAP_CNT else x) x
    let body := leBytes 1 0xA2 ++ (r.take (r.length - 4)).drop 1
    (x.resync (withCrc body)).followUps

/-- A resync from below. -/
def Tau.resyncIn (x : Tau) (r : List Byte) : Tau :=
  if !replayOk 0xA2 r then x.bump Reg.GEN_CTL_DMG_CNT else (x.resync r).followUps

/-! ## Meanings -/

/-- A notice record of the named kind. -/
def Tau.noticeRx (x : Tau) (kind : Nat) (r : List Byte) : Tau :=
  if fieldAt r 0 1 = 0x80 + kind ∨ !noticeFragOk r then (x.fragmentIn r).followUps else x

/-- NOTICE_FRAGMENT_RX. -/
def execNoticeFragmentRx (t : T64) (r : List Byte) (s : State) : Host.Outcome State Fault Refusal :=
  .next (s.onMain t fun x => (x.fragmentIn r).followUps)

/-- NOTICE_JOB_START: the record that completes one. -/
def execNoticeJobStart (t : T64) (r : List Byte) (s : State) : Host.Outcome State Fault Refusal :=
  .next (s.onMain t fun x => x.noticeRx 1 r)

/-- NOTICE_JOB_ABORT. -/
def execNoticeJobAbort (t : T64) (r : List Byte) (s : State) : Host.Outcome State Fault Refusal :=
  .next (s.onMain t fun x => x.noticeRx 2 r)

/-- NOTICE_JOB_TEARDOWN. -/
def execNoticeJobTeardown (t : T64) (r : List Byte) (s : State) : Host.Outcome State Fault Refusal :=
  .next (s.onMain t fun x => x.noticeRx 3 r)

/-- NOTICE_RELEASE. -/
def execNoticeRelease (t : T64) (r : List Byte) (s : State) : Host.Outcome State Fault Refusal :=
  .next (s.onMain t fun x => x.noticeRx 4 r)

/-- NOTICE_JOB_VIEW. -/
def execNoticeJobView (t : T64) (r : List Byte) (s : State) : Host.Outcome State Fault Refusal :=
  .next (s.onMain t fun x => x.noticeRx 5 r)

/-- NOTICE_EPOCH_ADVANCE. -/
def execNoticeEpochAdvance (t : T64) (r : List Byte) (s : State) : Host.Outcome State Fault Refusal :=
  .next (s.onMain t fun x => x.noticeRx 6 r)

/-- NOTICE_COMMIT. -/
def execNoticeCommit (t : T64) (r : List Byte) (s : State) : Host.Outcome State Fault Refusal :=
  .next (s.onMain t fun x => x.noticeRx 7 r)

/-- NOTICE_CANCEL. -/
def execNoticeCancel (t : T64) (r : List Byte) (s : State) : Host.Outcome State Fault Refusal :=
  .next (s.onMain t fun x => x.noticeRx 8 r)

/-- NOTICE_DISABLE. -/
def execNoticeDisable (t : T64) (r : List Byte) (s : State) : Host.Outcome State Fault Refusal :=
  .next (s.onMain t fun x => x.noticeRx 9 r)

/-- NOTICE_IMAGE. -/
def execNoticeImage (t : T64) (r : List Byte) (s : State) : Host.Outcome State Fault Refusal :=
  .next (s.onMain t fun x => x.noticeRx 10 r)

/-- NOTICE_PACK_RUN. -/
def execNoticePackRun (t : T64) (r : List Byte) (s : State) : Host.Outcome State Fault Refusal :=
  .next (s.onMain t fun x => x.noticeRx 11 r)

/-- NOTICE_RANK_MAP. -/
def execNoticeRankMap (t : T64) (r : List Byte) (s : State) : Host.Outcome State Fault Refusal :=
  .next (s.onMain t fun x => x.noticeRx 12 r)

/-- NOTICE_ACK_RX: an acknowledgement of child `child`. -/
def execNoticeAckRx (t : T64) (child : Fin 64) (r : List Byte) (s : State) : Host.Outcome State Fault Refusal :=
  .next (s.onMain t fun x => (x.vcFrom child r.length).fromKid child r.length fun x _ => x.ackIn child r)

/-- NOTICE_ACK_DEADLINE. -/
def execNoticeAckDeadline (t : T64) (s : State) : Host.Outcome State Fault Refusal :=
  .next (s.onMain t fun x => x.ackDeadlines.followUps)

/-- REPLAY_REQUEST_RX from child `child`. -/
def execReplayRequestRx (t : T64) (child : Fin 64) (r : List Byte) (s : State) : Host.Outcome State Fault Refusal :=
  .next (s.onMain t fun x => (x.vcFrom child r.length).fromKid child r.length fun x _ => x.replayRequestIn child r)

/-- RESYNC_RX from child `child`. -/
def execResyncRx (t : T64) (child : Fin 64) (r : List Byte) (s : State) : Host.Outcome State Fault Refusal :=
  .next (s.onMain t fun x => (x.vcFrom child r.length).fromKid child r.length fun x _ => x.resyncIn r)

/-- PACK_RUN_GRACE_EXPIRY. -/
def execPackRunGraceExpiry (t : T64) (s : State) : Host.Outcome State Fault Refusal :=
  .next (s.onMain t fun x => x.graceOver)

end Sys2Proof.Machine
end

