-- ==== Sys2Proof/Machine/Sections.lean ====
section
/-!
DEFINITION. Sections and maintenance (R411 to R421): drains, returns and failures of sections, the guards, BIST and soft repair, and the
live update of firmware.
-/

namespace Sys2Proof.Machine

/-! ## The state of a section (R413) -/

/-- Section `s` moves to a state for a cause, with its record (R413, R423). -/
def Tau.setSec (x : Tau) (s st cause : Nat) : Tau :=
  let old := x.rd Reg.MNT_SEC_STATE
  let oldC := x.rd Reg.MNT_SEC_CAUSE
  let x := x.wr Reg.MNT_SEC_STATE (old - bits old (2 * s) 2 * 4 ^ s + st * 4 ^ s)
  let x := x.wr Reg.MNT_SEC_CAUSE (oldC - bits oldC (4 * s) 4 * 16 ^ s + cause * 16 ^ s)
  x.recordTau 1 6 0x0C03 (leBytes 1 s ++ leBytes 1 st ++ leBytes 1 cause ++ zeros 5 ++ leBytes 8 x.per)

/-- The links of a section move (R35). -/
def Tau.setHome (x : Tau) (s : Nat) (on : Bool) : Tau :=
  { x with scb := { x.scb with homes := modifyAt (fun _ => on) s x.scb.homes } }

/-- Count the links that a boundary moved: `old` is the state before (R35). -/
def Tau.countMoves (x old : Tau) : Tau :=
  x.bumpBy Reg.GEN_REHOME_CNT ((List.range 32).countP fun l => x.linkHome l != old.linkHome l)

/-- Contexts that admitted nothing are rebuilt in their new home (R201). -/
def Tau.rebuildOpen (x : Tau) : Tau :=
  let move (k : Ctx) : Ctx :=
    if k.st = 1 ∧ !x.homed k.home then { k with home := x.homeOf k.job k.consist, rehome := true } else k
  { x with scb := { x.scb with ctxs := x.scb.ctxs.map move } }

/-! ## Failure (R36, R201, R412 to R414) -/

/-- Section `s` fails for a cause: 1 guard, 2 scoreboard, 3 cipher. Its links re-home at the next boundary. The trains that the TAU still
builds about a period of which it lost a context say so in CFLAGS[2] (R203; DEDUCED, assumption 60). FAULT's token takes the id
of a token held for the section, else a new one; where sixteen are held, one above theirs (assumption 24). -/
def Tau.failSection (x : Tau) (s cause : Nat) : Tau :=
  if 2 ≤ x.secState s then x
  else
    let frames := x.cip.frames.filter fun f => x.lhEngine f.port != s
    let lost := x.scb.ctxs.filter fun k => k.home == s && (k.st == 2 || k.st == 3)
    let held := (List.range 4).filter fun o => x.secState o == 2 && x.rd Reg.BIST_REPAIR_STAT_UNREP (s := o) == 0
    let x := (((x.treeFail s).agreeFail s).srvUnitsFail s).loseSurveys s
    let x := (x.cmpLost s).freezeAbort s
    let x := { x with cip := { x.cip with frames := frames, dup := x.cip.dup.filter (·.1 != s) } }
    let x := lost.foldl (fun x k => x.hbmFree 0 (summBytes k.summ)) x
    let kept (r : RetPer) : Bool := !(lost.any fun k => k.is r.job r.consist r.period)
    let x := (x.srv.ret.filter fun r => !kept r).foldl (fun x r => x.hbmFree 0 (summBytes r.summ)) x
    let x := { x with srv := { x.srv with ret := x.srv.ret.filter kept } }
    let shed (k : Ctx) : Ctx := if lost.any (·.period == k.period) then { k with lost := true } else k
    let left := x.scb.ctxs.filter fun k => !(k.home == s && (k.st == 2 || k.st == 3))
    let x := { x with scb := { x.scb with ctxs := left.map shed } }
    let x := (x.bumpBy Reg.GEN_SECTION_LOSS_CNT lost.length).bumpBy Reg.RED_LOST_CTX_CNT lost.length (s := s)
    let own (k : Token) : Bool := k.cls == 0 && k.target == s
    let (id, x) := match x.mnt.tokens.find? own with
      | some k => (k.id, x)
      | none => x.tokId.getD (16 + s, x)
    let x := { x with mnt := { x.mnt with
      tokens := ⟨id, 0, s, 3⟩ :: x.mnt.tokens.filter fun k => !own k
      drains := x.mnt.drains.filter (·.1 != s)
      returns := held ++ x.mnt.returns.filter (· != s)
      bist := (List.range 4).map fun o =>
        let b := x.mnt.bist.getD o BistSt.reset
        if o = s then { b with passed := false } else if held.contains o then { b with abort := true } else b } }
    x.setSec s 3 cause

/-- The guard acts on mismatches in the sections' cipher engines (R386). -/
def Tau.cipherGuard (x : Tau) : Tau :=
  forIdx 4 (fun s x =>
    if x.rd Reg.CIP_DUP_LIMIT ≤ x.cip.dup.countP (fun d => d.1 == s && decide (x.per < d.2 + 16)) then x.failSection s 3 else x) x

/-! ## The state of BIST (R416 to R418) -/

/-- The BIST of section `s`. -/
def Tau.bist (x : Tau) (s : Nat) : BistSt := x.mnt.bist.getD s BistSt.reset

/-- The state with a section's BIST changed. -/
def Tau.setBist (x : Tau) (s : Nat) (f : BistSt → BistSt) : Tau := { x with mnt := { x.mnt with bist := modifyAt f s x.mnt.bist } }

/-- A BIST_RESULT record (R423). -/
def Tau.bistRecord (x : Tau) (s sev : Nat) : Tau :=
  x.recordTau 1 sev 0x0D01 (leBytes 1 s ++ leBytes 1 (x.bist s).mode ++ leBytes 1 (x.rd Reg.BIST_STATE (s := s)) ++ zeros 1 ++
    leBytes 4 (x.rd Reg.BIST_FAIL_CNT (s := s)) ++ leBytes 1 (x.rd Reg.BIST_REPAIR_STAT_ROWS (s := s)) ++
    leBytes 1 (x.rd Reg.BIST_REPAIR_STAT_COLS (s := s)) ++ leBytes 1 (x.rd Reg.BIST_REPAIR_STAT_UNREP (s := s)) ++ zeros 5)

/-- A run of BIST ends in a state. -/
def Tau.bistEnd (x : Tau) (s st : Nat) : Tau :=
  let x := (x.wr Reg.BIST_STATE st (s := s)).setBist s fun b => { b with left := [], abort := false, passed := b.passed || st == 2 }
  if st = 4 then x else (x.bump Reg.BIST_RUN_CNT (s := s)).bistRecord s 5

/-! ## Drain and return (R413, R471) -/

/-- A write of DRAIN. One that the section's state refuses completes with FIT, like a RETURN, and counts like any activity refused
(R18; DESIGN CHOICE, assumption 77). -/
def Tau.drain (x : Tau) (v : Nat) : Tau :=
  let s := bits v 0 2
  let per := x.rd Reg.MNT_DRAIN_PER
  if !v.testBit 31 then x
  else if !x.tokHeld 0 s then (x.wr Reg.MNT_DRAIN_STAT_CODE Code.busy).bump Reg.MNT_TOK_REF_CNT
  else if x.secState s ≠ 0 then (x.wr Reg.MNT_DRAIN_STAT_CODE Code.fit).bump Reg.MNT_TOK_REF_CNT
  else match (if per = 0 then some (x.per + 1) else namedPeriod x.per per) with
    | none => (x.wr Reg.MNT_DRAIN_STAT_CODE Code.fit).bump Reg.GEN_ACC_ERR_CNT
    | some p =>
      { x with mnt := { x.mnt with drains := (s, p) :: x.mnt.drains.filter (·.1 != s) } }.wr Reg.MNT_DRAIN_STAT_CODE Code.done

/-- A write of RETURN. A section with an instance beyond repair stays OUT (R418). -/
def Tau.returnSec (x : Tau) (v : Nat) : Tau :=
  let s := bits v 0 2
  let b := x.mnt.bist.getD s BistSt.reset
  if !v.testBit 31 then x
  else if !x.tokHeld 0 s then (x.wr Reg.MNT_RETURN_STAT_CODE Code.busy).bump Reg.MNT_TOK_REF_CNT
  else if x.secState s < 2 ∨ (x.secState s = 3 ∧ !b.passed) ∨ x.rd Reg.BIST_REPAIR_STAT_UNREP (s := s) = 1 ∨ x.rd Reg.BIST_STATE (s := s) = 1 then
    (x.wr Reg.MNT_RETURN_STAT_CODE Code.fit).bump Reg.MNT_TOK_REF_CNT
  else { x with mnt := { x.mnt with returns := s :: x.mnt.returns.filter (· != s) } }.wr Reg.MNT_RETURN_STAT_CODE Code.done

/-- Work of a section that a drain waits for (R346, R375). -/
def Tau.secBusy (x : Tau) (s : Nat) : Bool := (x.ring s).frz.isSome || x.cmpBusy s

/-- At a boundary, before anything opens: returns and drains commit, and failed sections lose their links (R35, R36). BIST that the
failure of another section ended is over by then (R414). -/
def Tau.sectionsCommit (x : Tau) : Tau :=
  let old := x
  let x := forIdx 4 (fun s x => if x.secState s = 1 then x.drainVecs s else x) x
  let back := x.mnt.returns
  let x := { x with mnt := { x.mnt with returns := [] } }
  let x := forEach back (fun s x =>
    let x := { x with mnt := { x.mnt with kicks := modifyAt (fun _ => x.per) s x.mnt.kicks } }
    let x := if x.rd Reg.BIST_STATE (s := s) = 1 then x.bistEnd s 4 else x
    (if x.homed s then x else x.setHome s true).setSec s 0 0) x
  let x := forEach (x.mnt.drains.filter fun d => decide (d.2 ≤ x.per) && !x.secBusy d.1) (fun d x =>
    let x := { x with mnt := { x.mnt with drains := x.mnt.drains.filter (· != d) } }
    ((x.sidingDrain d.1).setSec d.1 1 4).setHome d.1 false) x
  let x := forIdx 4 (fun s x => if x.secState s = 3 ∧ x.homed s then x.setHome s false else x) x
  (x.countMoves old).rebuildOpen

/-- After the contexts of a boundary are released: a draining section with nothing left is OUT (R413). -/
def Tau.sectionsOut (x : Tau) : Tau :=
  forIdx 4 (fun s x =>
    let left := x.scb.ctxs.any (·.home == s) || !(x.tree.q.getD s []).isEmpty || !(x.tree.hv.getD s []).isEmpty || x.secBusy s
    if x.secState s = 1 ∧ !left then x.setSec s 2 4 else x) x

/-! ## Firmware (R419) -/

/-- A FW_SWITCH record (R423): 0 staged, 1 switched, 2 confirmed, 3 rolled back. -/
def Tau.fwRecord (x : Tau) (event bank : Nat) : Tau :=
  let ver := if bank = 0 then x.rd Reg.MNT_FW_VER_A else x.rd Reg.MNT_FW_VER_B
  x.recordTau 1 7 0x0C04 (leBytes 1 event ++ leBytes 1 bank ++ zeros 2 ++ leBytes 4 ver ++ leBytes 8 x.per)

/-- The parts of a firmware payload: island and section; none where its table lies outside its limits (R450). -/
def fwParts (p : List Byte) : Option (List Byte × List Byte) :=
  let io := fieldAt p 0 4
  let il := fieldAt p 4 4
  let so := fieldAt p 8 4
  let sl := fieldAt p 12 4
  if p.length < 16 ∨ 1048576 < il ∨ 15728640 < sl ∨ p.length < io + il ∨ p.length < so + sl then none
  else some ((p.drop io).take il, (p.drop so).take sl)

/-- Check a firmware image: container and signatures first (R443), then for a `live` load the lifecycle state (R419, R445), then the
version and the parts (R449, R450). A version below FW_MIN_VER has no code of its own. -/
def Tau.fwCheck (x : Tau) (live : Bool) (b : List Byte) : Tau × Nat × Option Image :=
  match Image.read [1] b with
  | none => (x, Code.fit, none)
  | some i => match x.verify [0] i with
    | (x, false) => (x, Code.signature, none)
    | (x, true) =>
      if live && x.lc == 0 then (x, Code.lifecycle, none)
      else if i.ver < x.fuses.fwMin ∨ (fwParts i.payload).isNone then (x, Code.fit, none) else (x, Code.done, some i)

/-- Give a bank its firmware (0 A, 1 B). -/
def Tau.fillBank (x : Tau) (bank : Nat) (i : Image) : Tau :=
  if bank = 0 then { x with mnt := { x.mnt with bankA := i.payload } }.wr Reg.MNT_FW_VER_A i.ver
  else { x with mnt := { x.mnt with bankB := i.payload } }.wr Reg.MNT_FW_VER_B i.ver

/-- A write of FW_LOAD. `b`: the image at FW_LOAD_OFS. A load that is refused counts with the loads (R18, R443, R445); with an image
STAGED or on TRIAL it is BUSY (DESIGN CHOICE, assumption 77). -/
def Tau.fwLoad (x : Tau) (v : Nat) (b : List Byte) : Tau :=
  if !v.testBit 0 then x
  else if !x.tokHeld 4 0 then (x.wr Reg.MNT_FW_STAT_CODE Code.busy).bump Reg.MNT_TOK_REF_CNT
  else if x.rd Reg.MNT_FW_STATE_STATE ≠ 0 then (x.wr Reg.MNT_FW_STAT_CODE Code.busy).bump Reg.GEN_LOAD_REFUSED_CNT
  else match x.fwCheck true b with
    | (x, _, some i) =>
      let idle := 1 - x.rd Reg.MNT_FW_STATE_BANK
      (((x.fillBank idle i).wr Reg.MNT_FW_STATE_STATE 1).wr Reg.MNT_FW_STAT_CODE Code.done).fwRecord 0 idle
    | (x, c, none) => (x.wr Reg.MNT_FW_STAT_CODE c).bump Reg.GEN_LOAD_REFUSED_CNT

/-- A write of FW_SWITCH (R419, R471); one with nothing STAGED is refused (assumption 77). -/
def Tau.fwSwitchArm (x : Tau) (v : Nat) : Tau :=
  if !v.testBit 0 then x
  else if !x.tokHeld 4 0 then (x.wr Reg.MNT_FW_STAT_CODE Code.busy).bump Reg.MNT_TOK_REF_CNT
  else if x.rd Reg.MNT_FW_STATE_STATE ≠ 1 then (x.wr Reg.MNT_FW_STAT_CODE Code.fit).bump Reg.MNT_TOK_REF_CNT
  else match namedPeriod x.per (x.rd Reg.MNT_FW_SWITCH_PER) with
    | none => (x.wr Reg.MNT_FW_STAT_CODE Code.fit).bump Reg.GEN_ACC_ERR_CNT
    | some p => { x with mnt := { x.mnt with switch := some p } }.wr Reg.MNT_FW_STAT_CODE Code.done

/-- Every control core restarts on the other bank. The island's takes the island part of a new image with it, and gets back on a return
what it ran before (R419, R449). -/
def Tau.restartCores (x : Tau) : Tau :=
  let back := x.mnt.trial.isSome
  let x := x.wr Reg.MNT_FW_STATE_BANK (1 - x.rd Reg.MNT_FW_STATE_BANK)
  let img := if x.rd Reg.MNT_FW_STATE_BANK = 0 then x.mnt.bankA else x.mnt.bankB
  { x with mnt := { x.mnt with
      switch := none
      islBusy := true
      kicks := x.mnt.kicks.map fun _ => x.per
      island := if back then x.mnt.islandOld else ((fwParts img).map (·.1)).or x.mnt.island
      islandOld := if back then none else x.mnt.island } }

/-- At a boundary: an armed switch, or a return to the old bank, comes to pass. -/
def Tau.fwBoundary (x : Tau) : Tau :=
  match x.mnt.switch with
  | some p =>
    if x.per < p then x
    else
      let x := x.restartCores
      let bank := x.rd Reg.MNT_FW_STATE_BANK
      if x.rd Reg.MNT_FW_STATE_STATE = 1 then
        ({ x with mnt := { x.mnt with trial := some x.per } }.wr Reg.MNT_FW_STATE_STATE 2).fwRecord 1 bank
      else
        (({ x with mnt := { x.mnt with trial := none } }.wr Reg.MNT_FW_STATE_STATE 0).bump Reg.MNT_FW_ROLLBACK_CNT).fwRecord 3 bank
  | none => x

/-- A write of FW_CONFIRM. -/
def Tau.fwConfirm (x : Tau) (v : Nat) : Tau :=
  match x.mnt.trial with
  | some _ =>
    if !v.testBit 0 ∨ x.mnt.switch.isSome then x
    else ({ x with mnt := { x.mnt with trial := none } }.wr Reg.MNT_FW_STATE_STATE 0).fwRecord 2 (x.rd Reg.MNT_FW_STATE_BANK)
  | none => x

/-- A trial ends without confirmation: the old bank comes back at the next boundary. -/
def Tau.fwRollback (x : Tau) : Tau :=
  if x.mnt.trial.isSome ∧ x.mnt.switch.isNone then { x with mnt := { x.mnt with switch := some (x.per + 1) } } else x

/-- FW_TRIAL periods have passed. -/
def Tau.fwTimeout (x : Tau) : Tau :=
  match x.mnt.trial with
  | some p => if p + x.rd Reg.MNT_FW_TRIAL ≤ x.per then x.fwRollback else x
  | none => x

/-! ## Guards (R415) -/

/-- A write of GUARD_KICK of section `s`. -/
def Tau.guardKick (x : Tau) (s v : Nat) : Tau :=
  if v.testBit 0 then { x with mnt := { x.mnt with kicks := modifyAt (fun _ => x.per) s x.mnt.kicks } } else x

/-- The guard of section `s` expires; in a trial it only ends the trial (R419). -/
def Tau.guardExpiry (x : Tau) (s : Nat) : Tau :=
  if 2 ≤ x.secState s ∨ x.per < x.mnt.kicks.getD s 0 + x.rd Reg.MNT_GUARD_TMO then x
  else
    let x := x.bump Reg.MNT_GUARD_CNT (s := s)
    if x.mnt.trial.isSome then x.fwRollback else x.failSection s 1

/-- The island guard expires: the island core restarts. -/
def Tau.islandGuard (x : Tau) : Tau :=
  let x := x.bump Reg.MNT_ISL_GUARD_CNT
  let x := { x with mnt := { x.mnt with islBusy := true } }
  if x.mnt.trial.isSome then x.fwRollback else x

/-! ## BIST (R416 to R418) -/

/-- A write of BIST_CTRL of section `s`. MODE 3 is reserved and refused. -/
def Tau.bistCtrl (x : Tau) (s v : Nat) : Tau :=
  let mode := bits v 1 2
  let x := if v.testBit 3 ∧ x.rd Reg.BIST_STATE (s := s) = 1 then x.setBist s fun b => { b with abort := true } else x
  if !v.testBit 0 then x
  else if !x.tokHeld 0 s then (x.bump Reg.MNT_TOK_REF_CNT).bump Reg.BIST_REF_CNT (s := s)
  else if x.secState s < 2 ∨ x.lc = 0 ∨ mode = 3 ∨ x.rd Reg.BIST_STATE (s := s) = 1 then x.bump Reg.BIST_REF_CNT (s := s)
  else
    let mem := if mode = 1 then [] else (List.range 96).map fun i => (false, i)
    let logic := if mode = 0 then [] else [(true, 0)]
    let x := x.setBist s fun b => { b with mode := mode, left := mem ++ logic, abort := false, log := [] }
    let x := ((x.wr Reg.BIST_STATE 1 (s := s)).wr Reg.BIST_PROGRESS 0 (s := s)).wr Reg.BIST_FAIL_CNT 0 (s := s)
    x.wr Reg.BIST_LBIST_PAT 0 (s := s)

/-- A slice has ended: `bad` the failing bits that a memory slice met (word address and bit, after repair), `pat` the first failing
pattern of a logic slice, and `last` whether it was the last block of patterns. -/
def Tau.bistSlice (x : Tau) (s : Nat) (bad : List (Nat × Nat)) (pat : Option Nat) (last : Bool) : Tau :=
  let b := x.bist s
  let recent := b.recent.filter fun p => decide (x.per < p + 16)
  if x.rd Reg.BIST_STATE (s := s) ≠ 1 ∨ x.rd Reg.BIST_DUTY (s := s) ≤ recent.length then x
  else
    let x := (x.bump Reg.BIST_PROGRESS (s := s)).setBist s fun b => { b with recent := x.per :: recent }
    let x := match b.left with
      | (false, i) :: rest =>
        let fails := (bad.filter fun (f : Nat × Nat) => !(b.rows.contains (i, f.1)) && !(b.cols.contains (i, f.2))).map fun (f : Nat × Nat) => (i, f.1, f.2)
        let x := x.setBist s fun b => { b with left := rest, log := (b.log ++ fails).take 64 }
        x.bumpBy Reg.BIST_FAIL_CNT fails.length (s := s)
      | (true, n) :: rest =>
        let x := x.setBist s fun b => { b with left := if last then rest else (true, n + bit pat.isSome) :: rest }
        match pat with
        | some p => if n = 0 ∧ (x.lc = 3 ∨ x.lc = 4) then x.wr Reg.BIST_LBIST_PAT p (s := s) else x
        | none => x
      | [] => x
    let failed := 0 < x.rd Reg.BIST_FAIL_CNT (s := s) || pat.isSome || (match b.left with | (true, n) :: _ => decide (0 < n) | _ => false)
    if b.abort then x.bistEnd s 4
    else if (x.bist s).left.isEmpty then x.bistEnd s (if failed then 3 else 2)
    else x

/-- Cover one failing bit by a spare row, or by a spare column of its instance once its rows are used: rows, columns, and whether
every bit so far is covered. -/
def coverBit (acc : List (Nat × Nat) × List (Nat × Nat) × Bool) (f : Nat × Nat × Nat) : List (Nat × Nat) × List (Nat × Nat) × Bool :=
  let (rows, cols, ok) := acc
  let (i, a, c) := f
  if rows.contains (i, a) || cols.contains (i, c) then acc
  else if rows.countP (·.1 == i) < 4 then (rows ++ [(i, a)], cols, ok)
  else if cols.countP (·.1 == i) < 2 then (rows, cols ++ [(i, c)], ok)
  else (rows, cols, false)

/-- A write of REPAIR.GO of section `s`: failing bits of the log are mapped onto spares, and memory BIST runs again on the instances
repaired. Which spare takes a bit is not laid down (assumption 30). -/
def Tau.bistRepair (x : Tau) (s v : Nat) : Tau :=
  let b := x.bist s
  if !v.testBit 0 then x
  else if !x.tokHeld 0 s then (x.bump Reg.MNT_TOK_REF_CNT).bump Reg.BIST_REF_CNT (s := s)
  else if x.secState s < 2 ∨ x.lc = 0 ∨ x.rd Reg.BIST_STATE (s := s) ≠ 3 then x.bump Reg.BIST_REF_CNT (s := s)
  else
    let (rows, cols, ok) := b.log.foldl coverBit (b.rows, b.cols, true)
    let insts := (List.range 96).filter fun i => b.log.any (·.1 == i)
    let x := x.setBist s fun b => { b with rows := rows, cols := cols, left := insts.map fun i => (false, i), log := [], abort := false, mode := 0 }
    let x := (x.wr Reg.BIST_REPAIR_STAT_ROWS (clipU 8 rows.length) (s := s)).wr Reg.BIST_REPAIR_STAT_COLS (clipU 8 cols.length) (s := s)
    if !ok then ((x.setBist s fun b => { b with left := [] }).wr Reg.BIST_REPAIR_STAT_UNREP 1 (s := s)).bistRecord s 7
    else if insts.isEmpty then x
    else
      let x := (x.wr Reg.BIST_STATE 1 (s := s)).wr Reg.BIST_FAIL_CNT 0 (s := s)
      x.wr Reg.BIST_PROGRESS 0 (s := s)

/-! ## Ageing (R421, R422) -/

/-- A plan for each child and each field of AGE_MASK, at a boundary where the fourth rung has moved. -/
def Tau.ageing (x : Tau) : Tau :=
  if !x.isTray || x.per % 2 ^ 33 != 0 then x
  else forEach x.children (fun c x => forIdx 16 (fun k x =>
    if !(x.rd Reg.MNT_AGE_MASK).testBit k then x
    else match x.rungD c k 3 with
      | none => x
      | some d =>
        let proj := d * x.rd Reg.MNT_AGE_HORIZON
        let mag := ceilDiv (proj.natAbs * x.rd Reg.MNT_AGE_GAIN) 65536
        let trim : Int := if proj < 0 then -mag else mag
        let w64 (i : Int) : Nat := (i % (2 ^ 64 : Nat)).toNat
        let sev := if x.rd Reg.MNT_AGE_ALERT ≤ mag then 4 else 2
        (x.postVerdict ((x.fsSec k).getD x.anySec) sev
          { kind := 16, unit := k, job := 0xFFFF, step := 0, rank := x.kidBase c, aux := 3, value := w64 d, ref := w64 proj,
            thr := (clipS 32 trim % (2 ^ 32 : Nat)).toNat, present := 0, expected := 0, period := x.per }).bump Reg.MNT_AGE_VERD_CNT) x) x

/-! ## Meanings -/

/-- GUARD_EXPIRY of section `sec`. -/
def execGuardExpiry (t : T64) (sec : Fin 4) (s : State) : Host.Outcome State Fault Refusal :=
  .next (s.onMain t fun x => x.guardExpiry sec)

/-- ISLAND_GUARD_EXPIRY. -/
def execIslandGuardExpiry (t : T64) (s : State) : Host.Outcome State Fault Refusal :=
  .next (s.onIsland t fun x => x.islandGuard)

/-- ISLAND_CORE_RESTART_DONE: the island core takes commands again. -/
def execIslandCoreRestartDone (t : T64) (s : State) : Host.Outcome State Fault Refusal :=
  .next (s.onIsland t fun x => { x with mnt := { x.mnt with islBusy := false } })

/-- FW_TRIAL_TIMEOUT. -/
def execFwTrialTimeout (t : T64) (s : State) : Host.Outcome State Fault Refusal :=
  .next (s.onMain t fun x => x.fwTimeout)

/-- BIST_SLICE. `bad`, `pat`, `last`: what the silicon under test shows. -/
def execBistSlice (t : T64) (sec : Fin 4) (bad : List (Fin 16384 × Fin 72)) (pat : Option Word) (last : Bool) (s : State) :
    Host.Outcome State Fault Refusal :=
  .next (s.onMain t fun x =>
    x.bistSlice sec (bad.map fun f => (f.1.val, f.2.val)) (pat.map BitVec.toNat) last)

/-- FRAME_SEAL_TIMEOUT: frames of long-haul port `port` whose FRAME_WAIT has run out are sealed (R378). `dup`: mismatches that the
checked datapath meets (R386). -/
def execFrameSealTimeout (t : T64) (port : Fin 16) (dup : Nat) (s : State) : Host.Outcome State Fault Refusal :=
  .next (s.onMain t fun x => (x.sealDue port dup).cipherGuard)

end Sys2Proof.Machine
end

