-- ==== Sys2Proof/Machine/Boot.lean ====
section
/-!
DEFINITION. Resets and supplies (R38, R341, R447, R448, R477, R478), boot (R449, R450) and the role (R19, R451).
-/

namespace Sys2Proof.Machine

/-! ## What a reset keeps (R390, R428, R447) -/

/-- The fields fed by the island: the TIME and MGMT pages, the TAU-wide fields of CIP, and the island's guard counter (R424). -/
def islandFields : List Fld :=
  Reg.ofPage 0x1 ++ Reg.ofPage 0xF ++ (Reg.ofPage 0xB).filter (·.wide) ++ [Reg.MNT_ISL_GUARD_CNT]

/-- A cell of a register file belongs to one of the fields `l`. -/
def cellOf (l : List Fld) (e : Nat × Nat) : Bool := l.any fun f => f.id * 64 + f.page == e.1 / 4096

/-- What a MAIN reset leaves of the registers. -/
def RegFile.mainReset (r : RegFile) : RegFile :=
  { cur := r.cur.filter (cellOf islandFields)
    shd := r.shd.filter (cellOf islandFields)
    bad := r.bad.filter fun k => k / 4096 == 0x1 || k / 4096 == 0xF
    latch := r.latch.filter fun e => e.1 % 2 ^ 26 / 4096 == 1 || e.1 % 2 ^ 26 / 4096 == 2 }

/-- What a MAIN reset leaves of the key store (R383, R447): grants and counters, and the island engine. -/
def CipherSt.mainReset (c : CipherSt) : CipherSt :=
  { c with
    lh := []
    failed := c.failed.filter (·.1 == 4)
    dup := c.dup.filter (·.1 == 4)
    frames := [] }

/-- What a MAIN reset leaves of maintenance (R447): island firmware and its guard, and the repair map. -/
def MaintSt.mainReset (m : MaintSt) : MaintSt :=
  { MaintSt.reset with
    kicks := m.kicks
    islBusy := m.islBusy
    bist := m.bist.map fun b => { BistSt.reset with rows := b.rows, cols := b.cols }
    island := m.island
    dad := m.dad
    nbrs := m.nbrs }

/-- The main rails feed nothing that a MAIN reset keeps: the timebase, without the ports of the Flistan. -/
def Tau.loseFlistan (x : Tau) : Tau := forIdx 16 (fun i x => x.ptpLost (i + 2)) x

/-- A MAIN reset (R447, R448). -/
def Tau.mainReset (x : Tau) : Tau :=
  let time := { x.time with parentEb := 0, parentHo := false, parentPort := none }
  let x : Tau := { Tau.reset with
    ft := x.ft
    regs := x.regs.mainReset
    fuses := x.fuses
    islPg := x.islPg
    main := x.main
    links := x.links
    time := time
    rings := (Tau.reset.rings.take 4) ++ x.rings.drop 4
    cip := x.cip.mainReset
    mnt := x.mnt.mainReset
    boot := { BootSt.reset with reqSeq := x.boot.reqSeq }
    out := x.out
    free := x.free }
  forIdx 16 (fun d x => x.showLinks d) x

/-- The EXPORT queues hold what they held in the state `old` while the rails are down (R325). -/
def Tau.keepExport (x old : Tau) : Tau := { x with eg := { x.eg with ex := old.eg.ex.settle (old.rd Reg.SHP_EXP_RATE) old.now } }

/-- A FREEZE of the island ring ends without a completion (R478). -/
def Tau.endIslandFreeze (x : Tau) : Tau := if (x.ring 4).frz.isSome then x.freezeEnd 4 else x

/-- PG_MAIN falls (R38, R337, R478): the island records the loss and carries on, its holdover from the bound last received (R51, R56). -/
def Tau.railsLost (x : Tau) : Tau :=
  if !x.main then x
  else if !x.islPg then { x with main := false, links := 0 }
  else
    let last := x.scb.lastBuilt.flatMap fun p => leBytes 8 p
    let kept := some x.islandSays
    let x := { x with main := false, links := 0 }
    let bound (y : Tau) (t : TimeSt) : Tau :=
      { y with time := { y.time with parentEb := t.parentEb, parentHo := t.parentHo, parentPort := t.parentPort } }
    let y := x.mainReset.keepExport x
    let y := (bound (bound y x.time).loseFlistan y.time).endIslandFreeze
    x.inputsOf ({ y with boot := { y.boot with kept := kept } }.record 4 1 6 0x0102 last).flushRecords

/-- PG_MAIN rises, or the host endpoint takes a fundamental reset with the rails up (R447, R478). -/
def Tau.railsReset (pcie : Bool) (x : Tau) : Tau :=
  if pcie then if x.on then x.inputsOf x.mainReset else x
  else if x.main then x
  else
    let x := { x with main := true }
    if !x.islPg then x else x.inputsOf ((x.mainReset.keepExport x).record 4 1 6 0x0103 []).flushRecords

/-- ISL_PG rises (R447, R477). -/
def Tau.cold (x : Tau) : Tau := forIdx 4 Tau.dadStart { Tau.reset with fuses := x.fuses, main := x.main, out := x.out, free := x.free }

/-! ## Role (R19, R320, R451) -/

/-- A write of ROLE_CFG. -/
def Tau.roleWrite (x : Tau) (v : Nat) : Tau :=
  let r := bits v 0 3
  let refuse (c : Nat) : Tau := (x.wr Reg.GEN_ROLE_CFG_CODE c).bump Reg.GEN_LOAD_REFUSED_CNT
  if x.roleSet then refuse Code.lifecycle
  else if 4 < r then refuse Code.fit
  else
    let x := ((x.wr Reg.GEN_ROLE_CFG_ROLE r).wr Reg.GEN_ROLE_CFG_SET 1).wr Reg.GEN_ROLE_CFG_CODE Code.done
    let x := x.wr Reg.GEN_ROLE_CFG_STANDBY (bit (r == 3 && v.testBit 4))
    let x := if r = 0 ∧ 32 < x.rd Reg.SHP_DN_RATE then
        ((x.both Reg.SHP_DN_RATE 32).pageErr 0x8 1).bump Reg.SHP_CFG_REF_CNT
      else x
    let (h, x) := x.pick 4
    let (div, phase) := (x.baseTt.bind fun t => t.rhythm 0xFF00).getD (0, 0)
    let s : Stream := ⟨0xFFFF, 0xFF00, div, phase, h, 0, 0, x.per + 1, none, 0⟩
    { x with scb := { x.scb with streams := x.place h x.scb.streams s } }

/-! ## Boot (R449, R450) -/

/-- A write of BOOT. -/
def Tau.bootGo (x : Tau) (v : Nat) : Tau :=
  if !v.testBit 0 then x
  else match x.rd Reg.GEN_BOOT_STATE with
    | 0 =>
      if 16777216 < x.rd Reg.GEN_BOOT_LEN then (x.wr Reg.GEN_BOOT_STAT_CODE Code.fit).bump Reg.GEN_BOOT_STAT_REF_CNT
      else x.wr Reg.GEN_BOOT_STATE 1
    | 3 => x.wr Reg.GEN_BOOT_STAT_CODE Code.busy
    | _ => x

/-- The read of the firmware image completes: with its bytes, or with an error. -/
def Tau.bootRead (x : Tau) (mem : Option (List Byte)) : Tau :=
  if x.rd Reg.GEN_BOOT_STATE ≠ 1 then x
  else match mem with
    | none => ((x.wr Reg.GEN_BOOT_STATE 0).wr Reg.GEN_BOOT_STAT_CODE Code.fit).bump Reg.GEN_BOOT_STAT_REF_CNT
    | some b => match x.fwCheck false (b.take (x.rd Reg.GEN_BOOT_LEN)) with
      | (x, c, none) => ((x.wr Reg.GEN_BOOT_STATE 0).wr Reg.GEN_BOOT_STAT_CODE c).bump Reg.GEN_BOOT_STAT_REF_CNT
      | (x, _, some i) =>
        let x := x.fillBank 0 i
        let isl := x.mnt.island.or ((fwParts i.payload).map (·.1))
        let x := { x with mnt := { x.mnt with island := isl, kicks := List.replicate 4 x.per ++ x.mnt.kicks.drop 4 } }
        ((x.wr Reg.GEN_BOOT_STATE 3).wr Reg.GEN_BOOT_STAT_CODE Code.done).raise 5

/-! ## Meanings -/

/-- MAIN_RAILS_LOSS: PG_MAIN has been low for more than 100 ns. -/
def execMainRailsLoss (t : T64) (s : State) : Host.Outcome State Fault Refusal :=
  .next (s.onTau fun x => (if x.islPg then x.advance t else x).railsLost)

/-- MAIN_RESET. `pcie`: the host endpoint takes a fundamental reset; else PG_MAIN rises. -/
def execMainReset (t : T64) (pcie : Bool) (s : State) : Host.Outcome State Fault Refusal :=
  .next (s.onTau fun x => (if x.islPg then x.advance t else x).railsReset pcie)

/-- COLD_RESET: ISL_PG rises. -/
def execColdReset (s : State) : Host.Outcome State Fault Refusal := .next (s.onTau Tau.cold)

/-- ISL_PG_FALL: the TAU is off. -/
def execIslPgFall (t : T64) (s : State) : Host.Outcome State Fault Refusal :=
  .next (s.onTau fun x => if x.islPg then { x.advance t with islPg := false, links := 0 } else x)

/-- BOOT_READ_COMPLETE. `mem`: the bytes read from BOOT_ADDR on; none where the read ended with an error. -/
def execBootReadComplete (t : T64) (mem : Option (List Byte)) (s : State) : Host.Outcome State Fault Refusal :=
  .next (s.onMain t fun x => x.bootRead mem)

end Sys2Proof.Machine
end

