-- ==== Sys2Proof/Machine/Attach.lean ====
section
/-!
DEFINITION. Attachment to a parent (R20, R25, R179, R198, R199, R451, R462, R463), exceptions (R210), and the promotion of a
standby ROOT (R24, R471, R490).
-/

namespace Sys2Proof.Machine

/-! ## Records (R462, R463) -/

/-- The registered count of this TAU's subtree for a handle (R197). -/
def Tau.subCount (x : Tau) (h : Nat) : Nat := x.children.foldl (fun n c => n + x.regCount h c) 0

/-- An attach request of this TAU. Its last entry gives the pulse stream's count (R196). -/
def Tau.attachRecord (x : Tau) (adopt : Bool) (id : Nat) : List Byte :=
  let hs := ((x.jobs.map (·.handle)).take 254) ++ [0xFFFF]
  mkControl (leBytes 1 0xB1 ++ leBytes 1 (bit adopt) ++ leBytes 2 (40 + 8 * hs.length) ++ leBytes 1 x.role ++ leBytes 1 hs.length ++
    zeros 2 ++ leBytes 3 x.base ++ zeros 1 ++ leBytes 4 (x.rd Reg.SCB_RANK_SPAN) ++ leBytes 4 x.readyOfs ++ leBytes 4 id ++
    leBytes 8 x.per ++ hs.flatMap fun h => leBytes 2 h ++ zeros 2 ++ leBytes 4 (x.subCount h))

/-- An attach request as read. -/
structure AttachReq where
  adopt : Bool
  role : Nat
  base : Nat
  span : Nat
  ready : Nat
  id : Nat
  counts : List (Nat × Nat)
  deriving DecidableEq, Repr

/-- Read an attach request; none where it fails R458. -/
def AttachReq.parse (r : List Byte) : Option AttachReq :=
  let n := fieldAt r 5 1
  if !ctlOk 0xB1 r || fieldAt r 2 2 != r.length || r.length != 40 + 8 * n then none
  else some
    { adopt := (fieldAt r 1 1).testBit 0, role := fieldAt r 4 1, base := fieldAt r 8 3, span := fieldAt r 12 4,
      ready := fieldAt r 16 4, id := fieldAt r 20 4,
      counts := (List.range n).map fun j => (fieldAt r (32 + 8 * j) 2, fieldAt r (36 + 8 * j) 4) }

/-- An attach answer of this TAU. -/
def Tau.attachAnswer (x : Tau) (id code child from_ : Nat) : List Byte :=
  mkControl (leBytes 1 0xB2 ++ zeros 3 ++ leBytes 4 id ++ leBytes 1 code ++ leBytes 1 child ++ zeros 2 ++ leBytes 3 x.base ++ zeros 1 ++
    leBytes 8 from_ ++ zeros 4)

/-- An ATTACH_ID for a request of this TAU: one of its own choosing that no request in flight has (R462; assumption 3). -/
def Tau.newReqId (x : Tau) : Nat × Tau :=
  let (id, x) := x.freshId (2 ^ 32) ((x.boot.req.toList.map (·.1)) ++ x.boot.adopts.map (·.up))
  (id, { x with boot := { x.boot with reqSeq := id } })

/-! ## At the child (R25, R198, R451) -/

/-- Ask the TAU with RANK_BASE `to_` for attachment, by a record of UP queue 1 (R314). -/
def Tau.ask (x : Tau) (adopt : Bool) (to_ : Nat) : Tau :=
  let (id, x) := x.newReqId
  let x := { x with boot := { x.boot with req := some (id, adopt) } }
  (x.sendUpTo (some to_) 1 false (x.attachRecord adopt id)).1

/-- A write of ATTACH.GO; a GO refused is an attach refused (R18, R473). A SITE TAU also asks its standby ROOT, under an id whose
answer it does not await (R23). -/
def Tau.attachGo (x : Tau) (v : Nat) : Tau :=
  let refuse (c : Nat) : Tau := (x.wr Reg.GEN_ATTACH_STAT_CODE c).bump Reg.GEN_LOAD_REFUSED_CNT
  if !v.testBit 0 then x
  else if x.unset || !x.roleSet then refuse Code.lifecycle
  else if x.role = 4 ∨ (x.role = 3 ∧ x.rd Reg.GEN_PRI_PARENT = rankNone) ∨ 2 ≤ x.rd Reg.GEN_ATTACH_STAT_STATE then
    refuse Code.busy
  else
    let x := (x.ask false (x.rd Reg.GEN_PRI_PARENT)).wr Reg.GEN_ATTACH_STAT_STATE 1
    let x := { x with scb := { x.scb with orphanFrom := none } }.freshParent
    let sb := x.rd Reg.GEN_STANDBY_ROOT
    if x.role = 2 ∧ sb ≠ rankNone then
      let (id, x) := x.newReqId
      x.sendStandby 1 false (x.attachRecord false id)
    else x

/-- The parent has become ABSENT: a TAU on its primary parent turns to its alternate (R25, R198). A SITE TAU with a standby ROOT stands
under the active one and never re-attaches (DEDUCED, assumption 60). -/
def Tau.orphan (x : Tau) : Tau :=
  let alt := x.rd Reg.GEN_ALT_PARENT
  let st := x.rd Reg.GEN_ATTACH_STAT_STATE
  let site := x.role = 2 ∧ x.rd Reg.GEN_STANDBY_ROOT ≠ rankNone
  if x.role < 3 ∧ ¬site ∧ alt ≠ rankNone ∧ (st = 1 ∨ st = 2) then x.ask true alt else x

/-- A commit has changed the READY offset of an attached child from `old` (R179, R462). -/
def Tau.reportReady (x : Tau) (old : Nat) : Tau :=
  match x.parent with
  | some p => if x.readyOfs = old then x else
      let (id, x) := x.newReqId
      let x := { x with boot := { x.boot with req := some (id, false) } }
      (x.sendUpTo (some p) 1 false (x.attachRecord false id)).1
  | none => x

/-! ## At the parent (R20, R198, R451) -/

/-- Attach a child at index `c`. -/
def Tau.addKid (x : Tau) (c : Nat) (k : Kid) (base span : Nat) (adopted : Bool) : Tau :=
  let x := ((x.setKid c (some k)).wr Reg.SCB_CH_BASE base c).wr Reg.SCB_CH_SPAN span c
  let x := ((x.wr Reg.SCB_CH_STAT_ATT 1 c).wr Reg.SCB_CH_STAT_ADOPTED (bit adopted) c).wr Reg.SCB_CH_STAT_MISS_LAST 0 c
  ((x.wr Reg.SCB_CH_STAT_LATE_LAST 0 c).meterFill c).lvAttach c

/-- The lowest free child index. -/
def Tau.freeKid (x : Tau) : Option Nat := (List.range (fanIn x.role)).find? fun c => (x.kid c).isNone

/-- Where the ranges of a FEDERATION TAU's children lie; elsewhere a child's own range. -/
def Tau.rangeFor (x : Tau) (q : AttachReq) (c : Nat) : Nat × Nat := if x.role = 4 then (c * 262144, 262144) else (q.base, q.span)

/-- An attach request of a TAU that is an attached child already. -/
def Tau.knownKid (x : Tau) (q : AttachReq) (via : Option Nat) : Option Nat :=
  x.children.find? fun c => match x.kid c with
    | some k => k.role == q.role && (if x.role = 4 then k.via == via else x.kidBase c == q.base && x.kidSpan c == q.span)
    | none => false

/-- Refuse an attach request. -/
def Tau.refuseAttach (x : Tau) (q : AttachReq) (via : Option Nat) (code : Nat) : Tau :=
  (x.bump Reg.GEN_LOAD_REFUSED_CNT).ctlTo q.base via (x.attachAnswer q.id code 0xFF 0)

/-- A range lies in this TAU's own and meets no child's (R451). A FEDERATION TAU assigns the ranges itself. -/
def Tau.rangeOk (x : Tau) (q : AttachReq) : Bool :=
  x.role == 4 || (decide (x.base ≤ q.base) && decide (q.base + q.span ≤ x.base + x.rd Reg.SCB_RANK_SPAN) &&
    x.children.all fun c => decide (q.base + q.span ≤ x.kidBase c) || decide (x.kidBase c + x.kidSpan c ≤ q.base))

/-- An attach request with ADOPT clear (R451, R462). In UNSET no child is accepted (R53; the code: assumption 60). -/
def Tau.attachReq (x : Tau) (via : Option Nat) (q : AttachReq) : Tau :=
  let deep (x : Tau) : Tau := x.bump Reg.TTB_DEPTH_REFUSED_CNT
  match (if x.roleSet then x.knownKid q via else none) with
  | some c =>
    if x.emitOfs < q.ready then
      ((deep x).bump Reg.GEN_LOAD_REFUSED_CNT).sendDown c (x.attachAnswer q.id Code.fit 0xFF 0)
    else
      let from_ := ((x.kid c).map (·.from_)).getD 0
      let x := x.setKid c ((x.kid c).map fun k => { k with ready := q.ready, counts := q.counts, via := via })
      x.sendDown c (x.attachAnswer q.id Code.done c from_)
  | none =>
    if x.unset then x.refuseAttach q via Code.lifecycle
    else if !x.roleSet || !roleTakes x.role q.role then x.refuseAttach q via Code.fit
    else match x.freeKid with
      | none => x.refuseAttach q via Code.capacity
      | some c =>
        if !x.rangeOk q then x.refuseAttach q via Code.fit
        else if x.emitOfs < q.ready then (deep x).refuseAttach q via Code.fit
        else
          let (base, span) := x.rangeFor q c
          let x := x.addKid c ⟨q.role, via, q.ready, q.counts, x.per + 1, none, none⟩ base span false
          x.sendDown c (x.attachAnswer q.id Code.done c (x.per + 1))

/-! ## Adoption (R198, R199) -/

/-- Refuse an adoption. -/
def Tau.refuseAdopt (x : Tau) (a : Adopt) (code : Nat) : Tau :=
  let x := { x with boot := { x.boot with adopts := x.boot.adopts.filter (·.up != a.up) } }
  (x.bump Reg.SCB_ADOPT_REF_CNT).ctlTo a.base (a.via) (x.attachAnswer a.id code 0xFF 0)

/-- An adoption that firmware has accepted and the grandparent has confirmed commits at the next boundary. -/
def Tau.commitAdopt (x : Tau) (a : Adopt) : Tau :=
  if !(a.ok && a.acked) then x
  else match x.freeKid with
    | none => (x.bump Reg.GEN_LOAD_REFUSED_CNT).refuseAdopt a Code.capacity
    | some c =>
      let x := { x with boot := { x.boot with adopts := x.boot.adopts.filter (·.up != a.up) } }
      let x := x.addKid c ⟨a.role, a.via, a.ready, a.counts, x.per + 1, none, none⟩ a.base a.span true
      let x := x.wr Reg.SCB_ADOPT_NUM (x.rd Reg.SCB_ADOPT_NUM + 1)
      x.sendDown c (x.attachAnswer a.id Code.done c (x.per + 1))

/-- Something of an adoption has changed. -/
def Tau.moveAdopt (x : Tau) (up : Nat) (f : Adopt → Adopt) : Tau :=
  match x.boot.adopts.find? (·.up == up) with
  | none => x
  | some a =>
    let a := f a
    let x := { x with boot := { x.boot with adopts := x.boot.adopts.map fun (b : Adopt) => if b.up == up then a else b } }
    x.commitAdopt a

/-- An orphan's request reaches its alternate parent. -/
def Tau.adoptReq (x : Tau) (via : Option Nat) (q : AttachReq) : Tau :=
  let (up, x) := x.newReqId
  let a : Adopt := ⟨q.id, up, false, false, q.role, q.base, q.span, q.ready, q.counts, via⟩
  let n := x.boot.adopts.length
  if x.unset then x.refuseAdopt a Code.lifecycle
  else if !x.roleSet || !roleTakes x.role q.role || x.parent.isNone then x.refuseAdopt a Code.fit
  else if fanIn x.role ≤ x.children.length + n then (x.bump Reg.GEN_LOAD_REFUSED_CNT).refuseAdopt a Code.capacity
  else if 16 ≤ x.rd Reg.SCB_ADOPT_NUM + n then x.refuseAdopt a Code.capacity
  else if x.emitOfs < q.ready then (x.bump Reg.TTB_DEPTH_REFUSED_CNT).refuseAdopt a Code.fit
  else match x.postExc x.anySec 1 0 0 q.base up with
    | (x, false) => x.refuseAdopt a Code.busy
    | (x, true) =>
      let x := { x with boot := { x.boot with adopts := x.boot.adopts ++ [a] } }
      let js := q.counts.flatMap fun (h, k) => leBytes 2 h ++ zeros 2 ++ leBytes 4 k
      x.toParent false (mkControl (leBytes 1 0xB1 ++ leBytes 1 1 ++ leBytes 2 (40 + 8 * q.counts.length) ++ leBytes 1 q.role ++
        leBytes 1 q.counts.length ++ zeros 2 ++ leBytes 3 q.base ++ zeros 1 ++ leBytes 4 q.span ++ leBytes 4 q.ready ++
        leBytes 4 up ++ leBytes 8 x.per ++ js))

/-- The request, passed on by child `c`, reaches the grandparent: it confirms that another child's range holds the orphan's. -/
def Tau.adoptConfirm (x : Tau) (c : Nat) (q : AttachReq) : Tau :=
  let ok := x.children.any fun o =>
    o != c && decide (x.kidBase o ≤ q.base) && decide (q.base + q.span ≤ x.kidBase o + x.kidSpan o)
  x.sendDown c (x.attachAnswer q.id (if ok then Code.done else Code.fit) 0xFF 0)

/-- An attach request: with ADOPT clear, with ADOPT set from an orphan, or passed on by the attached child `up`. -/
def Tau.attachIn (x : Tau) (up : Option Nat) (via : Option Nat) (r : List Byte) : Tau :=
  match AttachReq.parse r with
  | none => x.bump Reg.GEN_CTL_DMG_CNT
  | some q => match q.adopt, up with
    | false, _ => x.attachReq via q
    | true, none => x.adoptReq via q
    | true, some c => x.adoptConfirm c q

/-- An attach request or an adoption request arrives; one of an attached child is metered (R310). -/
def Tau.attachRx (x : Tau) (up via : Option Nat) (r : List Byte) : Tau :=
  match up.or ((AttachReq.parse r).bind fun q => x.knownKid q via) with
  | some c => x.metered c r.length fun x _ => x.attachIn up via r
  | none => x.attachIn up via r

/-- The primary parent is left from data period `from_` on (R198): the trains that still wait are of earlier periods and go to it. -/
def Tau.leaveParent (x : Tau) (from_ : Nat) : Tau :=
  let mark (e : QRec) : QRec := if isTrain e.bytes then { e with dst := e.dst.or (some (x.rd Reg.GEN_PRI_PARENT)) } else e
  { x with
    scb := { x.scb with orphanFrom := some from_ }
    eg := { x.eg with up := { x.eg.up with qs := x.eg.up.qs.map (·.map mark) } } }

/-- An attach answer (R463): of the parent to this TAU's own request, or of the grandparent about an adoption. -/
def Tau.answerIn (x : Tau) (r : List Byte) : Tau :=
  if !ctlOk 0xB2 r || r.length != 32 then x.bump Reg.GEN_CTL_DMG_CNT
  else
    let (id, code, from_) := (fieldAt r 4 4, fieldAt r 8 1, fieldAt r 16 8)
    match x.boot.adopts.find? (·.up == id) with
    | some a => if code = 0 then x.moveAdopt id fun a => { a with ok := true } else x.refuseAdopt a Code.fit
    | none => match x.boot.req with
      | none => x
      | some (i, alt) =>
        if i ≠ id then x
        else
          let st := x.rd Reg.GEN_ATTACH_STAT_STATE
          let x := ({ x with boot := { x.boot with req := none } }).wr Reg.GEN_ATTACH_STAT_CODE code
          let new := if alt then 3 else if st = 3 then 3 else 2
          if code ≠ 0 then if st = 1 ∧ !alt then x.wr Reg.GEN_ATTACH_STAT_STATE 0 else x
          else if st = new then x
          else
            let x := x.wr Reg.GEN_ATTACH_STAT_STATE new
            let x := if alt then x.leaveParent from_ else { x with scb := { x.scb with orphanFrom := none } }
            (x.freshParent.raise 7).requestReplay

/-! ## Exceptions (R210) -/

/-- An exception leaves the queue of section `s`, and what it asked is done or refused. -/
def Tau.closeExc (x : Tau) (s : Nat) (e : Exc) (accept : Bool) : Tau :=
  let x := { x with scb := { x.scb with exc := modifyAt (fun l => l.filter (·.id != e.id)) s x.scb.exc } }
  if e.kind ≠ 1 then x
  else if accept then x.moveAdopt e.ref fun a => { a with acked := true }
  else match x.boot.adopts.find? (·.up == e.ref) with
    | none => x
    | some a => let (c, x) := x.pick 16; x.refuseAdopt a (c + 1)

/-- A write of EXC_ACK of section `s`. -/
def Tau.excAck (x : Tau) (s v : Nat) : Tau :=
  match (x.scb.exc.getD s []).find? (·.id == bits v 0 6) with
  | some e => x.closeExc s e (v.testBit 8)
  | none => x

/-- An exception is stuck. -/
def Tau.stuckExc (x : Tau) (s : Nat) (e : Exc) : Tau :=
  let x := (x.bump Reg.SCB_STUCK_CNT (s := s)).record s 0 6 0x0303 (leBytes 1 e.kind ++ leBytes 1 e.id ++ zeros 2 ++
    leBytes 2 e.job ++ leBytes 2 e.consist ++ leBytes 4 e.info)
  let x := x.closeExc s e false
  let near := x.per :: (x.scb.stuck.getD s []).filter fun p => decide (x.per < p + 16)
  let x := { x with scb := { x.scb with stuck := modifyAt (fun _ => near) s x.scb.stuck } }
  if x.rd Reg.SCB_STUCK_LIMIT (s := s) ≤ near.length then x.failSection s 2 else x

/-- EXC_DEADLINE periods have passed for the exceptions of section `s`. -/
def Tau.excDeadline (x : Tau) (s : Nat) : Tau :=
  forEach ((x.scb.exc.getD s []).filter fun e => decide (e.posted + x.rd Reg.SCB_EXC_DEADLINE (s := s) ≤ x.per))
    (fun e x => x.stuckExc s e) x

/-! ## Promotion (R24, R471, R490) -/

/-- A write of PROMOTE. -/
def Tau.promoteGo (x : Tau) (port : Port) (v : Nat) : Tau :=
  if !v.testBit 31 then x
  else if !isMgmt port then x.bump Reg.GEN_ACC_ERR_CNT
  else match (if x.isStandby then namedPeriod x.per (x.rd Reg.GEN_PROMOTE_PER) else none) with
    | some p => { x with boot := { x.boot with promote := some p } }.wr Reg.GEN_PROMOTE_STAT_CODE Code.done
    | none => (x.wr Reg.GEN_PROMOTE_STAT_CODE Code.fit).bump Reg.GEN_ACC_ERR_CNT

/-- The boundary of an armed promotion: every active handle, and the fleet's, moves to its next epoch by an EPOCH_ADVANCE. DESIGN CHOICE
(assumption 61): the next notice of any other handle opens the next epoch of that handle itself, so that none is issued at an epoch of
the former active ROOT (R24, R395, R406). -/
def Tau.promoteDue (x : Tau) : Tau :=
  match x.boot.promote with
  | none => x
  | some p =>
    if x.per < p then x
    else
      let x := { x with boot := { x.boot with promote := none }, ntc := { x.ntc with issued := x.ntc.last, reopen := x.ntc.last.map fun (e : Nat × Nat × Nat) => e.1 } }
      let x := x.wr Reg.GEN_ROLE_CFG_STANDBY 0
      let hs := ((x.jobs.filter (·.st == 2)).map (·.handle)) ++ [0xFFFF]
      let eff := x.per + x.rd Reg.TTB_SCHED_LEAD
      forEach hs (fun h x => (x.issueNotice 6 h eff (x.per + x.rd Reg.MNT_ACK_TMO) []).1) x

/-! ## Meanings -/

/-- ATTACH_REQUEST_RX. `via`: the long-haul port of its arrival, or none for the switch core. -/
def execAttachRequestRx (t : T64) (via : Option (Fin 16)) (r : List Byte) (s : State) : Host.Outcome State Fault Refusal :=
  .next (s.onMain t fun x => x.attachRx none (via.map Fin.val) r)

/-- ATTACH_ANSWER_RX. -/
def execAttachAnswerRx (t : T64) (r : List Byte) (s : State) : Host.Outcome State Fault Refusal :=
  .next (s.onMain t fun x => x.answerIn r)

/-- ADOPT_REQUEST_RX. `up`: the attached child that passes it on; none where the orphan itself sends it. -/
def execAdoptRequestRx (t : T64) (up : Option (Fin 64)) (via : Option (Fin 16)) (r : List Byte) (s : State) :
    Host.Outcome State Fault Refusal :=
  .next (s.onMain t fun x => x.attachRx (up.map Fin.val) (via.map Fin.val) r)

/-- ADOPT_CONFIRMATION_RX. -/
def execAdoptConfirmationRx (t : T64) (r : List Byte) (s : State) : Host.Outcome State Fault Refusal :=
  .next (s.onMain t fun x => x.answerIn r)

/-- EXC_DEADLINE_EXPIRY in section `sec`. -/
def execExcDeadlineExpiry (t : T64) (sec : Fin 4) (s : State) : Host.Outcome State Fault Refusal :=
  .next (s.onMain t fun x => x.excDeadline sec)

end Sys2Proof.Machine
end

