-- ==== Sys2Proof/Machine/Dies.lean ====
section
/-!
DEFINITION. The dies of a TRAY TAU (R453 to R456, R313): HELLO, microcode, attachment, and the proxied access of R466 and R473.
-/

namespace Sys2Proof.Machine

/-- What is kept of a die index. -/
def Tau.dieSlot (x : Tau) (d : Nat) : DieSlot := x.boot.dies.getD d ⟨[none, none], [], [], false, []⟩

/-- Change what is kept of a die index. -/
def Tau.setDie (x : Tau) (d : Nat) (f : DieSlot → DieSlot) : Tau :=
  { x with boot := { x.boot with dies := modifyAt f d x.boot.dies } }

/-! ## The proxied access (R466, R473) -/

/-- The access in flight completes with a code. -/
def Tau.accessDone (x : Tau) (code : Nat) : Tau :=
  ({ x with boot := { x.boot with acc := none } }.wr Reg.GEN_TDU_ACC_STAT_CODE code).wr Reg.GEN_TDU_ACC_STAT_VALID 1

/-- A write of TDU_ACC. -/
def Tau.tduAccess (x : Tau) (v : Nat) : Tau :=
  let d := bits v 0 4
  let st := x.rd Reg.GEN_TDU_STATE_STATE d
  let a := x.rd Reg.GEN_TDU_ACC_ADDR
  if !v.testBit 31 || x.boot.acc.isSome then x
  else if st ≠ 3 ∧ st ≠ 4 then x.accessDone Code.fit
  else
    let x := { x with boot := { x.boot with acc := some (d, a, v.testBit 4) } }
    let x := (x.wr Reg.GEN_TDU_ACC_STAT_CODE Code.busy).wr Reg.GEN_TDU_ACC_STAT_VALID 0
    x.sendDown d (accessBatch (v.testBit 4) a (x.rd Reg.GEN_TDU_ACC_DATA))

/-- A read response of die `d`: of the access in flight, or of the batch of an attachment. -/
def Tau.tduResponse (x : Tau) (d : Nat) (r : List Byte) : Tau :=
  if !ctlOk 0xBB r || r.length != 24 || !x.isTray then x.bump Reg.GEN_CTL_DMG_CNT
  else match x.boot.acc with
    | some (e, a, w) =>
      if e ≠ d ∨ a ≠ fieldAt r 4 4 then x
      else
        let c := fieldAt r 1 1
        let x := if !w && c == 0 then x.wr Reg.GEN_TDU_ACC_DATA (fieldAt r 8 4) else x
        x.accessDone c
    | none => x

/-! ## HELLO (R453, R455) -/

/-- A die restarts: it detaches, and is in ROM. -/
def Tau.dieRestart (x : Tau) (d : Nat) : Tau :=
  let x := if (x.kid d).isSome then x.dropKid d else x
  let x := match x.boot.acc with
    | some (e, _, _) => if e = d then x.accessDone Code.fit else x
    | none => x
  (x.setDie d fun s => { s with held := [], rejoin := [], counted := false, again := [] }).wr Reg.GEN_TDU_STATE_STATE 1 d

/-- A HELLO arrives on link `l` (R453, R455). A die shown LOADING or FAILED sends HELLOs that tell its BOOT_STATE while it loads or has
failed, so there only one from ROM restarts it (DEDUCED, assumption 75). -/
def Tau.helloIn (x : Tau) (l : Nat) (r : List Byte) : Tau :=
  if !ctlOk 0xB0 r || r.length != 32 then x.bump Reg.GEN_CTL_DMG_CNT
  else if !x.isTray then x.bump Reg.GEN_ACC_ERR_CNT
  else
    let (d, p) := (l % 16, l / 16)
    let id := fieldAt r 4 8
    let x := x.setDie d fun s => { s with ids := modifyAt (fun _ => some id) p s.ids }
    let st := x.rd Reg.GEN_TDU_STATE_STATE d
    let twin := match (x.dieSlot d).ids.getD (1 - p) none with | some o => o != id | none => false
    let other := (List.range 32).find? fun k => k % 16 != d && (x.dieSlot (k % 16)).ids.getD (k / 16) none == some id
    let x := (x.wr Reg.GEN_TDU_STATE_REL (fieldAt r 2 1) d).wr Reg.GEN_TDU_STATE_LC (fieldAt r 3 1) d
    let x := x.showLinks d
    match (if twin then some ((l + 16) % 32) else other) with
    | some o =>
      let x := x.dieRestart d
      (x.wr Reg.GEN_TDU_STATE_STATE 5 d).recordTau 1 5 0x1003 (leBytes 8 id ++ leBytes 1 l ++ leBytes 1 o ++ zeros 6)
    | none =>
      if fieldAt r 1 1 = 0 ∨ (st ≠ 2 ∧ st ≠ 5) then (x.dieRestart d).startUcode d
      else if fieldAt r 1 1 = 3 ∧ st = 2 then (x.wr Reg.GEN_TDU_STATE_STATE 5 d).bump Reg.GEN_UCODE_REF_CNT
      else x

/-! ## Attachment of a die (R313, R455, R456) -/

/-- The consists that the base timetable has die `d` emit and that it does not hold. -/
def Tau.baseConsists (x : Tau) (d : Nat) (t : Timetable) : List Consist :=
  let ids := (t.die d).ents.map (entWord · Reg.TEMIT_ENT_CONSIST)
  (ids.eraseDups.filter fun c => !(x.dieSlot d).held.contains c).filterMap x.consist

/-- The meter of die `d` (R313): a RATE outside 1 to PIR is not taken. -/
def Tau.dieMeter (x : Tau) (d rate : Nat) : Tau :=
  if rate = 0 ∨ 32 < rate then x.bump Reg.SHP_CFG_REF_CNT
  else ((x.both Reg.SHP_CIR rate d).both Reg.SHP_PIR 32 d).both Reg.SHP_CBS 2048 d |>.both Reg.SHP_PBS 8192 d

/-- Give die `d` its rank, its meter, RATE, PATH_MASK and the base entries (R313, R455). -/
def Tau.attachDie (x : Tau) (d : Nat) (t : Timetable) : Tau :=
  let b := t.die d
  let cs := x.baseConsists d t
  let x := cs.foldl (fun x c => x.sendImage d 3 (x.imgVer 3 c.id) 0xFFFF 0 0 c.payload) x
  let x := x.giveConsists d (cs.map (·.id))
  let rank := x.base + d
  let ws := [(0x44, rank), (0x9040, b.rate), (0x9044, b.mask)] ++
    (List.range 16).map fun i => (0x9100 + 4 * i, b.ents.getD i 0)
  let x := x.sendDown d (dieBatch true 0xFFFF (2 ^ 9) 0 0 0 ws)
  let x := x.dieMeter d b.rate
  (x.addKid d ⟨5, none, 0, [], x.per + 1, none, none⟩ rank 1 false).wr Reg.GEN_TDU_STATE_STATE 4 d

/-- Entries of a job that die `d` has none of yet. -/
def Tau.dieEntries (x : Tau) (d : Nat) (j : TauJob) : Option TauJob :=
  if j.slots.any (·.1 == d) then some j
  else
    let n := ((x.timetable j.tt).map fun t => (t.die d).ents.length).getD 0
    (x.giveEntries d n).map fun g => { j with slots := j.slots ++ [(d, g)] }

/-- The records of an ACTIVE job for a die that attaches (R456). -/
def Tau.rejoinJob (x : Tau) (d : Nat) (h : Nat) : Tau :=
  match (x.job h).bind fun j => x.dieEntries d j with
  | none => x
  | some j =>
    let n := ((x.timetable j.tt).map fun t => (t.die d).ents.length).getD 0
    let x := if (x.job h).any fun o => o.slots.any (·.1 == d) then x else x.closeUp d n
    let x := x.setJob h fun k => { k with slots := j.slots }
    let epoch := (j.epochs.head?.map (·.2)).getD 0
    let x := (x.startRecords d j (x.dieHolds d) epoch 1 (x.per + 1)).foldl (fun x r => x.sendDown d r) x
    let x := x.giveConsists d (j.streams.map (·.1))
    x.setDie d fun s => { s with rejoin := s.rejoin ++ [(h, epoch, 1)] }

/-- The ACTIVE jobs that die `d` belongs to. -/
def Tau.dieJobs (x : Tau) (d : Nat) : List Nat :=
  (x.jobs.filter fun j => j.st == 2 && decide (0 < ranksIn j.ranges (x.base + d) (x.base + d + 1))).map (·.handle)

/-- The microcode of die `d` runs; `locked`: its TTIME is LOCKED. -/
def Tau.dieRuns (x : Tau) (d : Nat) (locked : Bool) : Tau :=
  let x := if x.rd Reg.GEN_TDU_STATE_STATE d = 2 then (x.wr Reg.GEN_TDU_STATE_STATE 3 d).bump Reg.GEN_UCODE_DL_CNT else x
  if x.rd Reg.GEN_TDU_STATE_STATE d ≠ 3 then x
  else match x.baseTt with
    | none => x
    | some t =>
      if !locked || !x.isTray || x.parent.isNone || x.unset then x
      else if x.rd Reg.SCB_RANK_SPAN ≤ d then
        if (x.dieSlot d).counted then x else (x.setDie d fun s => { s with counted := true }).bump Reg.GEN_ACC_ERR_CNT
      else
        let x := x.attachDie d t
        (x.dieJobs d).foldl (fun x h => x.rejoinJob d h) x

/-! ## Meanings -/

/-- HELLO_RX on link `link`. -/
def execHelloRx (t : T64) (link : Fin 32) (r : List Byte) (s : State) : Host.Outcome State Fault Refusal :=
  .next (s.onMain t fun x =>
    let x := x.vcReturn link r.length
    if x.dead (x.linkHome link) then x else x.metered (link.val % 16) r.length fun x _ => x.helloIn link r)

/-- TDU_ATTACH of die `die`, whose microcode runs; `locked`: its TTIME is LOCKED. -/
def execTduAttach (t : T64) (die : Fin 16) (locked : Bool) (s : State) : Host.Outcome State Fault Refusal :=
  .next (s.onMain t fun x => x.dieRuns die locked)

/-- TDU_READ_RESPONSE_RX of die `die`. -/
def execTduReadResponseRx (t : T64) (die : Fin 16) (r : List Byte) (s : State) : Host.Outcome State Fault Refusal :=
  .next (s.onMain t fun x =>
    (x.vcFrom die r.length).fromKid die r.length fun x _ => x.tduResponse die r)

end Sys2Proof.Machine
end

