-- ==== Sys2Proof/Machine/TauCommit.lean ====
section
/-!
DEFINITION. Commits in the TAU (R435 to R439) with every chapter's checks, base timetables (R454), strobes and scheduled commits
(R84, R85, R87), parity and the safe state.
-/

namespace Sys2Proof.Machine

/-! ## Units (R437) -/

/-- The order of a page's copy by address (R428), as a verdict compares it. -/
def pageKey (page s : Nat) : Nat :=
  match page with
  | 0x10 => 0
  | 0x1 => 1
  | 0xF => 2
  | _ => 16 + 16 * s + page

/-- The page code of a key. -/
def keyPage (k : Nat) : Nat := if k < 3 then [0x10, 0x1, 0xF].getD k 0 else k % 16

/-- Why a unit is refused: its code and the counters that count it. -/
structure Refused where
  code : Nat
  counts : List Fld

/-- One unit of a commit in section `s`: taken whole where `check` of the state that would follow gives nothing, otherwise
refused, flagged and counted. A unit that nothing is staged for is left alone. -/
def tauUnit (page s : Nat) (fs : List (Fld × Nat)) (check : Tau → Option Refused) (after : Tau → Tau) (a : Tau × Verdict) :
    Tau × Verdict :=
  let x := a.1
  if !x.regs.differs fs s then a
  else
    let y : Tau := { x with regs := x.regs.commit fs s }
    match check y with
    | none => (after y, a.2)
    | some r => ((r.counts.foldl (fun (x : Tau) f => x.bump f) x).pageErr page 1 s, a.2.add (pageKey page s) r.code)

/-- A refusal unless a condition holds. -/
def demand (ok : Bool) (code : Nat) (counts : List Fld) : Option Refused := if ok then none else some ⟨code, counts⟩

/-- Ranges of single fields of the TAU (R48, R62, R72, R82, R86, R101 to R103, R178, R210, R219, R301, R320, R329, R343, R372, R378,
R386, R394, R397, R415, R417). -/
def tauRanges : List Range :=
  [⟨Reg.TIME_JUMP_THR, 200, 4000000⟩, ⟨Reg.TIME_SLEW_PPM, 1, 50⟩, ⟨Reg.TIME_PTP_CFG_DOMAIN, 0, 127⟩,
    ⟨Reg.TIME_P_LH_ALLOW, 0, 64000000⟩, ⟨Reg.TTB_GUARD, 4000, 400000⟩, ⟨Reg.TTB_SCHED_LEAD, 16, 65535⟩,
    ⟨Reg.TTB_HBM_QUOTA, 0, 256⟩, ⟨Reg.TTB_HBM_PART, 0, 64⟩, ⟨Reg.SCB_EXC_DEADLINE, 1, 15⟩, ⟨Reg.SCB_STUCK_LIMIT, 1, 15⟩,
    ⟨Reg.SCB_EVT_FWD_SEV, 0, 8⟩, ⟨Reg.SRV_HOP_MARGIN, 1, 255⟩, ⟨Reg.AGR_TALLY_DIV, 4, 20⟩, ⟨Reg.MGMT_MTU, 1280, 9000⟩,
    ⟨Reg.MGMT_TPL_REFRESH, 1, 3600⟩] ++
  [⟨Reg.REC_LOG_SIZE, 0, 4096⟩, ⟨Reg.CMP_EFFORT, 0, 12⟩, ⟨Reg.CMP_BLK_OLEN, 4096, 16777216⟩, ⟨Reg.CIP_FRAME_WAIT, 256, 65535⟩,
    ⟨Reg.CIP_DUP_LIMIT, 1, 15⟩, ⟨Reg.MNT_NTC_LOG_SIZE, 16, 4096⟩, ⟨Reg.MNT_ACK_MARGIN, 1, 255⟩, ⟨Reg.MNT_GUARD_TMO, 1, 255⟩,
    ⟨Reg.MNT_AGE_HORIZON, 1, 255⟩, ⟨Reg.BIST_SLICE_LEN, 4096, 262144⟩, ⟨Reg.BIST_DUTY, 1, 15⟩]

/-- A field's own range; logSyncInterval is −7 to 0 in two's complement (R72). -/
def tauFieldOk (f : Fld) (v : Nat) : Bool :=
  rangeOk tauRanges f v && (f.id != Reg.TIME_PTP_CFG_LOG_SYNC.id || v == 0 || decide (9 ≤ v))

/-- The counter of a single field out of range, beside PG_ERR (R48, R82). -/
def tauRefCnt (f : Fld) : List Fld :=
  if f.page = 0x1 then [Reg.TIME_CFG_REFUSED_CNT] else if f.id = Reg.TTB_GUARD.id then [Reg.TTB_DEPTH_REFUSED_CNT] else []

/-- Commit fields one by one under their ranges. -/
def tauSingles (page s : Nat) (fs : List (Fld × Nat)) (a : Tau × Verdict) : Tau × Verdict :=
  fs.foldl (fun a fi => tauUnit page s [fi] (fun x => demand (tauFieldOk fi.1 (x.rd fi.1 fi.2 s)) Code.fit (tauRefCnt fi.1)) id a) a

/-- The RWS fields of a page's copy in section `s`: the TAU-wide ones belong to section 0's (R428). -/
def copyFields (page s : Nat) : List (Fld × Nat) := (rwsFields page).filter fun fi => !fi.1.wide || s == 0

/-- Those of a page's fields that no unit takes. -/
def plainFields (page s : Nat) (units : List Fld) : List (Fld × Nat) :=
  (copyFields page s).filter fun fi => units.all fun f => f.id != fi.1.id

/-- Instances of one field. -/
def fldAll (f : Fld) : List (Fld × Nat) := (List.range f.count).map fun i => (f, i)

/-! ## Depth and contexts (R83, R179, R207) -/

/-- GUARD and the largest P_LH_ALLOW among long-haul children fit the level budget (R83). -/
def Tau.guardFits (x : Tau) : Bool := decide (x.rd Reg.TTB_GUARD + x.shift ≤ x.rd Reg.TTB_LEVEL_BUDGET)

/-- The largest READY offset that a child TAU has reported (R179). -/
def Tau.childReady (x : Tau) : Nat := x.children.foldl (fun m c => Nat.max m (((x.kid c).map (·.ready)).getD 0)) 0

/-- No stream holds more slots than in the state `old`, or the reservations still fit (R207). -/
def Tau.contextsFit (old x : Tau) : Bool :=
  (x.scb.streams.all fun s => match old.stream s.job s.consist with
    | some o => decide (slotsFor x.readyOfs s.div ≤ slotsFor old.readyOfs o.div)
    | none => true) ||
  ((x.jobs.all fun j => decide (x.reserved j.handle ≤ j.quota)) && x.placementFits x.scb.streams)

/-- The check of a commit of GUARD or of P_LH_ALLOW (R83, R207). -/
def Tau.timesFit (old x : Tau) : Option Refused :=
  if !x.guardFits then some ⟨Code.fit, [Reg.TTB_DEPTH_REFUSED_CNT]⟩
  else demand (old.contextsFit x) Code.quota [Reg.SCB_QUOTA_REF_CNT]

/-! ## Rates (R308, R320, R321, R378) -/

/-- The TC_T minimum of the port type on which the TAU with a RANK_BASE is reached. -/
def Tau.tcMin (x : Tau) (base : Nat) : Nat :=
  if (reachedOver base).isSome then x.rd Reg.SHP_TC_MIN_LH else x.rd Reg.SHP_TC_MIN_SW

/-- Every shaper that sends in TC_T runs within 8/9 of its ports' minimum (R308). -/
def Tau.ratesFit (x : Tau) : Bool :=
  let ok (r : Fld) (m : Nat) : Bool := decide (9 * x.rd r ≤ 8 * m)
  let none_ := 0xFFFFFF
  (match x.parent with | some p => ok Reg.SHP_UP_RATE (x.tcMin p) | none => true) &&
    (x.role != 2 || x.rd Reg.GEN_STANDBY_ROOT == none_ || ok Reg.SHP_SB_RATE (x.tcMin (x.rd Reg.GEN_STANDBY_ROOT))) &&
    (x.rd Reg.MGMT_EXP_CTRL_VIA != 3 || x.rd Reg.MGMT_RELAY_BASE == none_ || ok Reg.SHP_EXP_RATE (x.tcMin (x.rd Reg.MGMT_RELAY_BASE))) &&
    (x.isTray || x.children.all fun c => match (x.kid c).bind (·.via) with
      | some _ => ok Reg.SHP_DN_RATE (x.rd Reg.SHP_TC_MIN_LH)
      | none => ok Reg.SHP_DN_RATE (x.rd Reg.SHP_TC_MIN_SW))

/-- Trains pass UP, and STANDBY at a SITE TAU, in time (R321). -/
def Tau.trainsPass (x : Tau) : Bool :=
  x.trainsFitRate x.scb.streams (x.rd Reg.SHP_UP_RATE) && (x.role != 2 || x.trainsFitRate x.scb.streams (x.rd Reg.SHP_SB_RATE))

/-- Long-haul frames leave room for their envelopes (R378). -/
def Tau.framesFit (x : Tau) : Bool := decide (73728 ≤ x.rd Reg.CIP_FRAME_WAIT * x.rd Reg.SHP_TC_MIN_LH)

/-- The check of a commit that changes where a shaper sends (R308). -/
def Tau.sendsFit (x : Tau) : Option Refused := demand x.ratesFit Code.fit [Reg.SHP_CFG_REF_CNT]

/-! ## Base timetables (R81, R313, R454) -/

/-- The entries of every job on die `d` under base timetable `t`: as they stand where the base does not reach them; else after the
base, where all sixteen suffice and no job waits for its EFFECT. -/
def Tau.replan (x : Tau) (t : Timetable) (d : Nat) : Option (List (Nat × List Nat)) :=
  let n := (t.die d).ents.length
  let l := x.jobEntries d
  if l.all fun (_, g) => g.all fun i => decide (n ≤ i) then some l
  else
    let (out, next) := laidFrom n l
    if next ≤ 16 ∧ !x.entriesWait d then some out else none

/-- An attached die takes RATE, PATH_MASK, its meter and the entries of a new base timetable. -/
def Tau.rebaseDie (t : Timetable) (d : Nat) (x : Tau) : Tau :=
  let b := t.die d
  let x := x.takePlan ((x.replan t d).getD []) d
  let cs := x.baseConsists d t
  let x := cs.foldl (fun (x : Tau) c => x.sendImage d 3 (x.imgVer 3 c.id) 0xFFFF 0 0 c.payload) x
  let x := x.giveConsists d (cs.map (·.id))
  ((x.writeEntries d b).dieMeter d b.rate).meterClip d

/-- The attached dies of a TRAY TAU. -/
def Tau.dies (x : Tau) : List Nat := if x.isTray then x.children.filter (· < 16) else []

/-- The role block and the pulse rhythm of a timetable take effect. -/
def Tau.takeRoleBlk (x : Tau) (t : Timetable) : Tau :=
  let (g, l, e) := t.roleBlk x.role
  let x := (x.both Reg.TTB_GUARD g).both Reg.TTB_LEVEL_BUDGET l
  let x := if x.isTray then x else x.both Reg.SCB_EMIT_OFS e
  match t.rhythm 0xFF00 with
  | some (div, ph) => x.setStream 0xFFFF 0xFF00 fun s => { s with div := div, phase := ph }
  | none => x

/-- The check of a commit of BASE_TT in the state `x` that has it (R81 to R83, R179, R207, R454). -/
def Tau.baseFits (old x : Tau) : Option Refused :=
  if x.rd Reg.GEN_BASE_TT = 0xFFFF then none
  else match x.baseTt with
    | none => some ⟨Code.fit, [Reg.GEN_LOAD_REFUSED_CNT]⟩
    | some t =>
      let y := x.takeRoleBlk t
      let depth : Option Refused := some ⟨Code.fit, [Reg.TTB_DEPTH_REFUSED_CNT]⟩
      if !x.roleSet then none
      else if !tauFieldOk Reg.TTB_GUARD (y.rd Reg.TTB_GUARD) || !y.depthFits t then depth
      else if !x.isTray && decide (y.emitOfs < y.childReady) then depth
      else if !old.contextsFit y then some ⟨Code.quota, [Reg.SCB_QUOTA_REF_CNT]⟩
      else if !y.visitsFit y.scb.streams y.binds then some ⟨Code.capacity, [Reg.GEN_LOAD_REFUSED_CNT]⟩
      else demand (!x.isTray || (decide (pathLoadMax t ≤ 16384) && x.dies.all fun d => (x.replan t d).isSome)) Code.capacity
        [Reg.GEN_LOAD_REFUSED_CNT]

/-- A new base timetable takes effect. -/
def Tau.rebase (x : Tau) : Tau :=
  if !x.roleSet then x
  else match x.baseTt with
    | some t => forEach (x.dies) (fun d x => x.rebaseDie t d) (x.takeRoleBlk t)
    | none => x

/-! ## Pages -/

/-- GEN. -/
def commitGen (a : Tau × Verdict) : Tau × Verdict :=
  let a := forEach [Reg.GEN_PRI_PARENT, Reg.GEN_ALT_PARENT] (fun f a => tauUnit 0x10 0 [(f, 0)] (·.sendsFit) id a) a
  let a := tauUnit 0x10 0 [(Reg.GEN_STANDBY_ROOT, 0)] (·.sendsFit) id a
  tauUnit 0x10 0 [(Reg.GEN_BASE_TT, 0)] a.1.baseFits Tau.rebase a

/-- A configuration of a timed event output meets R70. -/
def Tau.tevOk (x : Tau) (k : Nat) : Bool :=
  let p := x.rd Reg.TIME_TEV_PERIOD k
  let w := x.rd Reg.TIME_TEV_WIDTH k
  decide (4000 ≤ p) && decide (40 ≤ w) && decide (w + 40 ≤ p) &&
    (x.rd Reg.TIME_TEV_CTRL_MODE k == 0 || decide (1 ≤ x.rd Reg.TIME_TEV_COUNT k))

/-- TIME. What a commit changes of the sources is selected again at once. -/
def commitTime (a : Tau × Verdict) : Tau × Verdict :=
  let diff := a.1.regs.differs (rwsFields 0x1) 0
  let a := tauSingles 0x1 0 ((rwsFields 0x1).filter fun fi => decide (fi.1.off < 0x400) && fi.1.id != Reg.TIME_P_LH_ALLOW.id) a
  let allow (i : Nat) (a : Tau × Verdict) : Tau × Verdict :=
    tauUnit 0x1 0 [(Reg.TIME_P_LH_ALLOW, i)] (fun y =>
      if !tauFieldOk Reg.TIME_P_LH_ALLOW (y.rd Reg.TIME_P_LH_ALLOW i) then some ⟨Code.fit, [Reg.TIME_CFG_REFUSED_CNT]⟩
      else a.1.timesFit y) id a
  let a := forIdx 18 allow a
  let a := forIdx 4 (fun k => tauUnit 0x1 0 (unitFields 0x1 0x400 0x414 k)
    (fun y => demand (y.tevOk k) Code.fit [Reg.TIME_CFG_REFUSED_CNT]) (·.tevArm k)) a
  if diff then (a.1.reselect, a.2) else a

/-- TTB. -/
def commitTtb (s : Nat) (a : Tau × Verdict) : Tau × Verdict :=
  let rsv := [Reg.TTB_HBM_RSV_SUMMARY, Reg.TTB_HBM_RSV_SIDING, Reg.TTB_HBM_RSV_RECORDER, Reg.TTB_HBM_RSV_EXPORT]
  let hbm := Reg.TTB_HBM_QUOTA :: rsv
  let a := tauSingles 0x2 s (plainFields 0x2 s (Reg.TTB_GUARD :: hbm)) a
  if s ≠ 0 then a
  else
    let a := tauUnit 0x2 s [(Reg.TTB_GUARD, 0)] (fun y =>
      if !tauFieldOk Reg.TTB_GUARD (y.rd Reg.TTB_GUARD) then some ⟨Code.fit, [Reg.TTB_DEPTH_REFUSED_CNT]⟩
      else a.1.timesFit y) id a
    tauUnit 0x2 s (hbm.map fun f => (f, 0)) (fun y =>
      if 256 < y.rd Reg.TTB_HBM_QUOTA then some ⟨Code.fit, []⟩
      else demand (decide (rsv.foldl (fun n f => n + y.rd f) 0 ≤ y.rd Reg.TTB_HBM_QUOTA)) Code.quota [Reg.TTB_HBM_REF_CNT0]) id a

/-- SCB. RANK_BASE moves what the streams expect, so the visits are checked again (R262). -/
def commitScb (s : Nat) (a : Tau × Verdict) : Tau × Verdict :=
  let a := tauSingles 0x3 s (plainFields 0x3 s [Reg.SCB_EMIT_OFS, Reg.SCB_RANK_BASE]) a
  if s ≠ 0 then a
  else
    let a := tauUnit 0x3 s [(Reg.SCB_RANK_BASE, 0)] (fun y =>
      demand (y.visitsFit y.scb.streams y.binds) Code.capacity [Reg.GEN_LOAD_REFUSED_CNT]) id a
    tauUnit 0x3 s [(Reg.SCB_EMIT_OFS, 0)] (fun y =>
    let v := y.rd Reg.SCB_EMIT_OFS
    if y.isTray && v != 262144 then some ⟨Code.fit, []⟩
    else if v < y.childReady then some ⟨Code.fit, [Reg.TTB_DEPTH_REFUSED_CNT]⟩
    else demand (a.1.contextsFit y) Code.quota [Reg.SCB_QUOTA_REF_CNT]) id a

/-- The descriptor that a stream has at a field index; none where the stream or the field does not exist. -/
def Tau.streamDesc (x : Tau) (job consist f : Nat) : Option Desc :=
  if (x.stream job consist).isSome then (x.fields consist)[f]? else none

/-- The stream and fields of an enabled straggler unit (R225). -/
def Tau.stOk (x : Tau) (u : Nat) : Bool :=
  let d (r : Nat) : Option Desc := x.streamDesc (x.rd Reg.SRV_ST_STREAM_JOB u) (x.rd Reg.SRV_ST_STREAM_CONSIST u) (x.stField u r)
  x.rd Reg.SRV_ST_CTRL_EN u == 0 || match d 0, d 1, d 2, d 3 with
    | some a, some b, some c, some e =>
      a.type == 5 && a.op == 4 && a.etype == 0 && b.type == 5 && b.op == 3 && b.etype == 0 && c.type == 4 && c.etype == 0 &&
        decide (1 ≤ c.size) && decide (c.size ≤ 32) && e.type == 3
    | _, _, _, _ => false

/-- The stream and field of an enabled drift unit (R232, R233). -/
def Tau.drOk (x : Tau) (u : Nat) : Bool :=
  let st := x.rd Reg.SRV_DR_STREAM u
  decide (x.rd Reg.SRV_DR_CTRL_WL u ≤ 16) && (x.rd Reg.SRV_DR_CTRL_EN u == 0 ||
    match x.streamDesc (st % 2 ^ 16) (st / 2 ^ 16) (x.rd Reg.SRV_DR_CTRL_FIELD u) with
    | some d => d.type == (if x.rd Reg.SRV_DR_CTRL_KIND u = 0 then 3 else 4)
    | none => false)

/-- The foresight fields that section `s` enables (R241). -/
def Tau.fsOk (x : Tau) (s : Nat) : Bool :=
  let st := x.rd Reg.SRV_FS_STREAM 0 s
  (List.range 16).all fun k => !(x.rd Reg.SRV_FS_EN 0 s).testBit k ||
    match x.streamDesc (st % 2 ^ 16) (st / 2 ^ 16) (x.rd Reg.SRV_FS_FIELD k) with
    | some d => d.op == 15 && (d.src == 2 || d.src == 7)
    | none => false

/-- A commit of a straggler, drift or foresight configuration that does not fit (R225, R243). -/
def unitRefused : Option Refused := some ⟨Code.fit, [Reg.GEN_LOAD_REFUSED_CNT]⟩

/-- Straggler unit `u` (R225, R229). -/
def commitSt (u : Nat) (a : Tau × Verdict) : Tau × Verdict :=
  let cfg := [Reg.SRV_ST_CTRL_EN, Reg.SRV_ST_STREAM_JOB, Reg.SRV_ST_STREAM_CONSIST, Reg.SRV_ST_FIELDS].map fun f => (f, u)
  let a := tauUnit 0x5 0 cfg (fun y => if y.stOk u then none else unitRefused) (·.stRestart u) a
  let a := tauUnit 0x5 0 [(Reg.SRV_ST_PERS_N, u), (Reg.SRV_ST_PERS_M, u)] (fun y =>
    let n := y.rd Reg.SRV_ST_PERS_N u
    let m := y.rd Reg.SRV_ST_PERS_M u
    demand (decide (1 ≤ n) && decide (n ≤ m) && decide (m ≤ 64)) Code.fit []) (·.stTrim u) a
  tauSingles 0x5 0 [(Reg.SRV_ST_CTRL_AUTO_OVF, u), (Reg.SRV_ST_ABS, u), (Reg.SRV_ST_REL, u), (Reg.SRV_ST_MAXWIN, u)] a

/-- Drift unit `u`: but for THR, a new configuration starts it afresh. -/
def commitDr (u : Nat) (a : Tau × Verdict) : Tau × Verdict :=
  let a := tauSingles 0x5 0 [(Reg.SRV_DR_THR, u)] a
  tauUnit 0x5 0 (unitFields 0x5 0x700 0x704 u) (fun y => if y.drOk u then none else unitRefused) (·.setDr u fun _ => DrUnit.reset) a

/-- Backup pair `i` (R231). -/
def commitBk (i : Nat) (a : Tau × Verdict) : Tau × Verdict :=
  let was := a.1.rd Reg.SRV_BK_CTRL_EN i
  tauUnit 0x5 0 (unitFields 0x5 0x900 0x908 i) (fun _ => none) (fun y =>
    match was, y.rd Reg.SRV_BK_CTRL_EN i with
    | 0, 1 => y.enablePair i
    | 1, 0 => y.disablePair i
    | _, _ => y) a

/-- Rungs of a foresight field that is no longer fed as it was hold nothing: what comes under its index is another field (R241, R242). -/
def Tau.dropRungs (x : Tau) : Tau :=
  let fed (c : FsCell) : Bool := c.src == x.rd Reg.SRV_FS_FIELD c.field &&
    (List.range 4).any fun s => x.rd Reg.SRV_FS_STREAM 0 s == c.stream && (x.rd Reg.SRV_FS_EN 0 s).testBit c.field
  { x with srv := { x.srv with fs := x.srv.fs.filter fed } }

/-- SRV. RET_KEY goes to the stream that the section shows (R213, R243). -/
def commitSrv (s : Nat) (a : Tau × Verdict) : Tau × Verdict :=
  let key (x : Tau) : Tau := x.setStream (x.rd Reg.SRV_RET_SEL_JOB 0 s) (x.rd Reg.SRV_RET_SEL_CONSIST 0 s)
    fun st => { st with retKey := x.rd Reg.SRV_RET_KEY 0 s }
  let lv := [(Reg.SRV_LV_CFG_SUSPECT, 0), (Reg.SRV_LV_CFG_ABSENT, 0), (Reg.SRV_LV_CFG_RETURN, 0)]
  let a := tauUnit 0x5 s [(Reg.SRV_RET_KEY, 0)] (fun _ => none) key a
  let a := tauUnit 0x5 s lv (fun y =>
    let n := y.rd Reg.SRV_LV_CFG_SUSPECT 0 s
    demand (decide (1 ≤ n) && decide (n < y.rd Reg.SRV_LV_CFG_ABSENT 0 s) && decide (1 ≤ y.rd Reg.SRV_LV_CFG_RETURN 0 s)) Code.fit []) id a
  let a := tauSingles 0x5 s [(Reg.SRV_LV_REPROBE, 0)] a
  let fs := [(Reg.SRV_FS_STREAM, 0), (Reg.SRV_FS_EN, 0)] ++ (if s = 0 then fldAll Reg.SRV_FS_FIELD else [])
  let a := tauUnit 0x5 s fs (fun y =>
    if y.fsOk s && (s != 0 || (List.range 4).all fun t => y.fsOk t) then none else unitRefused) Tau.dropRungs a
  if s ≠ 0 then a
  else
    let a := tauSingles 0x5 0 [(Reg.SRV_HOP_MARGIN, 0), (Reg.SRV_ANS_BASE_LO, 0), (Reg.SRV_ANS_BASE_HI, 0), (Reg.SRV_ANS_SIZE, 0)] a
    forIdx 16 commitBk (forIdx 16 commitDr (forIdx 8 commitSt a))

/-- SHP (R308, R313, R315, R320, R321, R378). A rate out of its range is refused by itself; the rest of the rates, minima and
weights is one unit. -/
def commitShp (s : Nat) (a : Tau × Verdict) : Tau × Verdict :=
  if s ≠ 0 then a
  else
    let sh (f : Fld) : Nat := a.1.regs.getShadow f 0 0
    let cnt := [Reg.SHP_CFG_REF_CNT]
    let dnOk := decide (1 ≤ sh Reg.SHP_DN_RATE) && (!a.1.isTray || decide (sh Reg.SHP_DN_RATE ≤ 32))
    let a := if dnOk then a else tauUnit 0x8 0 [(Reg.SHP_DN_RATE, 0)] (fun _ => some ⟨Code.fit, cnt⟩) id a
    let shapers := ([Reg.SHP_UP_RATE, Reg.SHP_SB_RATE, Reg.SHP_EXP_RATE] ++ (if dnOk then [Reg.SHP_DN_RATE] else []) ++
      [Reg.SHP_TC_MIN_SW, Reg.SHP_TC_MIN_LH]).map (fun f => (f, 0)) ++ fldAll Reg.SHP_Q_W
    let a := tauUnit 0x8 0 shapers (fun y => demand (y.ratesFit && y.trainsPass && y.framesFit) Code.fit cnt) id a
    let a := tauUnit 0x8 0 (fldAll Reg.SHP_Q_LIM ++ fldAll Reg.SHP_Q_YEL) (fun y =>
      demand (decide ((List.range 8).foldl (fun n q => n + y.rd Reg.SHP_Q_LIM q) 0 ≤ 1536) &&
        (List.range 8).all fun q => decide (y.rd Reg.SHP_Q_YEL q ≤ y.rd Reg.SHP_Q_LIM q)) Code.fit cnt) id a
    let meter (c : Nat) : Tau × Verdict → Tau × Verdict :=
      tauUnit 0x8 0 ([Reg.SHP_CIR, Reg.SHP_PIR, Reg.SHP_CBS, Reg.SHP_PBS].map fun f => (f, c)) (fun y =>
        let least := if y.isTray then 1024 else 4096
        demand (decide (1 ≤ y.rd Reg.SHP_CIR c) && decide (y.rd Reg.SHP_CIR c ≤ y.rd Reg.SHP_PIR c) &&
          decide (y.rd Reg.SHP_CBS c ≤ y.rd Reg.SHP_PBS c) && decide (least ≤ y.rd Reg.SHP_CBS c)) Code.fit cnt) (·.meterClip c)
    let a := forIdx 64 meter a
    tauSingles 0x8 0 ([(Reg.SHP_TC_MAX_SW, 0), (Reg.SHP_TC_MAX_LH, 0)] ++ fldAll Reg.SHP_EXQ_W ++ fldAll Reg.SHP_EXQ_LIM) a

/-- An export entry, enabled or not (R332). -/
def Tau.exportOk (x : Tau) (e : Nat) : Bool :=
  let c := x.rd Reg.MGMT_EX_STREAM_CONSIST e
  let n := x.rd Reg.MGMT_EX_CTRL_NFIELD e
  (x.stream (x.rd Reg.MGMT_EX_STREAM_JOB e) c).isSome &&
    (if x.rd Reg.MGMT_EX_CTRL_FORM e = 0 then decide (x.trainMax c + 119 ≤ x.rd Reg.MGMT_MTU)
     else decide (1 ≤ n) && decide (n ≤ 16) && (List.range n).all fun i => match (x.fields c)[x.exportField e i]? with
       | some d => d.op == 0 || d.op == 2 || d.op == 3 || d.op == 4
       | none => false)

/-- A field of the export configuration (R327). -/
def exportCfg (f : Fld) : Bool := (decide (0xB0 ≤ f.off) && decide (f.off ≤ 0xD4)) || (decide (0x200 ≤ f.off) && decide (f.off ≤ 0x214))

/-- MGMT. A message packed under a larger MTU leaves before a smaller one is in force (R327). -/
def commitMgmt (a : Tau × Verdict) : Tau × Verdict :=
  let l := (rwsFields 0xF).filter fun fi => exportCfg fi.1
  let before := l.map fun fi => a.1.rd fi.1 fi.2
  let refs := [Reg.MGMT_EXP_REF_CNT]
  let old := a.1
  let raw (e : Nat) (x : Tau) : Bool := x.rd Reg.MGMT_EX_CTRL_FORM e == 0
  let mtu := tauUnit 0xF 0 [(Reg.MGMT_MTU, 0)] (fun y =>
    if !tauFieldOk Reg.MGMT_MTU (y.rd Reg.MGMT_MTU) then some ⟨Code.fit, []⟩
    else demand ((List.range 16).all fun e => !raw e y ||
      decide (y.trainMax (y.rd Reg.MGMT_EX_STREAM_CONSIST e) + 119 ≤ y.rd Reg.MGMT_MTU)) Code.fit refs) id
  let a := if (mtu a).1.rd Reg.MGMT_MTU < a.1.rd Reg.MGMT_MTU then mtu (a.1.flushExport false, a.2) else mtu a
  let a := tauUnit 0xF 0 [(Reg.MGMT_EXP_CTRL_VIA, 0), (Reg.MGMT_RELAY_BASE, 0)] (·.sendsFit) id a
  let a := forIdx 16 (fun e => tauUnit 0xF 0 (unitFields 0xF 0x200 0x214 e) (fun y => demand (y.exportOk e) Code.fit refs) id) a
  let a := tauSingles 0xF 0 ((plainFields 0xF 0 [Reg.MGMT_MTU, Reg.MGMT_EXP_CTRL_VIA, Reg.MGMT_RELAY_BASE]).filter fun fi =>
    !(decide (0x200 ≤ fi.1.off) && decide (fi.1.off ≤ 0x214))) a
  let a := (a.1.dadCheck old, a.2)
  if (l.map fun fi => a.1.rd fi.1 fi.2) = before then a else (a.1.refreshTemplates, a.2)

/-- Trace channel `c` of a section's copy (R362, R372, R375). -/
def commitChan (s c : Nat) (a : Tau × Verdict) : Tau × Verdict :=
  let x := a.1
  if !x.regs.differs [(Reg.REC_SD_CTRL_EN, c), (Reg.REC_SD_CTRL_DEFLATE, c)] s then a
  else
    let mine := x.chanHome c == s
    let on := x.chanOn c
    let zip := x.chanZip c
    let turn := x.regs.differs [(Reg.REC_SD_CTRL_DEFLATE, c)] s
    let x : Tau := { x with regs := x.regs.commit [(Reg.REC_SD_CTRL_EN, c)] s }
    let x := if mine && on && !x.chanOn c then x.sidingOff c zip else if mine && !on && x.chanOn c then x.sidingOn c else x
    let x := if mine && x.chanOn c && turn then x.sidingMode c else x
    let x : Tau := { x with regs := x.regs.commit [(Reg.REC_SD_CTRL_DEFLATE, c)] s }
    (if mine then x.sidingGrant c else x, a.2)

/-- REC. A change of LOG_SIZE needs the section's RECORDER token (R408, R411). -/
def commitRec (s : Nat) (a : Tau × Verdict) : Tau × Verdict :=
  let a := tauSingles 0x9 s (plainFields 0x9 s [Reg.REC_LOG_SIZE, Reg.REC_SD_CTRL_EN, Reg.REC_SD_CTRL_DEFLATE]) a
  let a := if s ≠ 0 then a else tauUnit 0x9 0 [(Reg.REC_LOG_SIZE, 0)] (fun y =>
    if !tauFieldOk Reg.REC_LOG_SIZE (y.rd Reg.REC_LOG_SIZE) then some ⟨Code.fit, []⟩
    else demand ((List.range 5).any fun t => y.tokHeld 5 t) Code.busy [Reg.MNT_TOK_REF_CNT]) id a
  forIdx 16 (commitChan s) a

/-- CIP. A strobe of its group puts a staged grant in force (R381). -/
def commitCip (s : Nat) (a : Tau × Verdict) : Tau × Verdict :=
  let a := tauSingles 0xB s (plainFields 0xB s [Reg.CIP_FRAME_WAIT]) a
  if s ≠ 0 then a
  else
    let a := tauUnit 0xB 0 [(Reg.CIP_FRAME_WAIT, 0)] (fun y =>
      if !tauFieldOk Reg.CIP_FRAME_WAIT (y.rd Reg.CIP_FRAME_WAIT) then some ⟨Code.fit, []⟩
      else demand y.framesFit Code.fit [Reg.SHP_CFG_REF_CNT]) id a
    (a.1.cipStrobe, a.2)

/-- Commit the shadows of one page's copy under its chapter's checks. -/
def tauCommitFields (page s : Nat) (a : Tau × Verdict) : Tau × Verdict :=
  match page with
  | 0x10 => commitGen a
  | 0x1 => commitTime a
  | 0xF => commitMgmt a
  | 0x2 => commitTtb s a
  | 0x3 => commitScb s a
  | 0x5 => commitSrv s a
  | 0x8 => commitShp s a
  | 0x9 => commitRec s a
  | 0xB => commitCip s a
  | _ => tauSingles page s (copyFields page s) a

/-! ## Parity and the safe state (R439) -/

/-- What the safe state of a page's copy spares: GEN.ROLE_CFG, and in a copy the TAU-wide fields, which lie elsewhere. -/
def spared (s : Nat) (f : Fld) : Bool := (f.page == 0x10 && f.off == 0x40) || (f.wide && s != 0)

/-- A parity mismatch on a page's copy. One in ROLE_CFG is outvoted by its other copies: it is corrected at once. -/
def Tau.parityFault (x : Tau) (page s : Nat) (ws : List Nat) : Tau :=
  let x := ({ x with regs := x.regs.noteParity page s ws }).pageErr page 0 s
  let x := if page = 0x10 then { x with regs := { x.regs with bad := x.regs.bad.filter (· != wordKey 0x10 0 0x40) } } else x
  if page = 0x10 ∧ ws.all (· == 0x10) then x
  else
    let x := x.settleRates
    ({ x with regs := x.regs.enterSafe page s (spared s) }).recordTau 1 6 0x1001
      (leBytes 1 page ++ zeros 3 ++ leBytes 4 (x.rd (Reg.PG_PARITY_FIRST page) 0 s))

/-- Commit one page's copy: parity first, then the safe state, then its shadows. -/
def tauCommitPage (page s : Nat) (a : Tau × Verdict) : Tau × Verdict :=
  let x := a.1
  let safe := x.rd (Reg.PG_STATUS_SAFE page) 0 s == 1
  let bad := x.regs.badWords page s
  if safe && x.rd (Reg.PG_ERR_CFG_PARITY page) 0 s == 1 then a
  else if !bad.isEmpty then (x.parityFault page s bad, a.2.add (pageKey page s) Code.fit)
  else
    let x : Tau := if safe then { x with regs := x.regs.leaveSafe page s (spared s) } else x
    tauCommitFields page s (x, a.2)

/-- Every page's copy in ascending address (R428). -/
def tauCopies : List (Nat × Nat) :=
  [(0x10, 0), (0x1, 0), (0xF, 0)] ++ (List.range 4).flatMap fun s => (List.range 13).map fun p => (p + 2, s)

/-- Commit the groups of a mask (R437). Pages are taken in ascending address, so that a page is checked against what the pages before
it have just taken (DEDUCED; assumption 16). -/
def Tau.commitGroups (x : Tau) (mask : Nat) : Tau :=
  let l := tauCopies.filter fun (p, _) => mask.testBit (p % 16)
  if l.isEmpty then x
  else
    let old := x.readyOfs
    let (x, v) := l.foldl (fun a (p, s) => tauCommitPage p s a) (x.settleRates, Verdict.none)
    let x := forIdx 4 (fun s x => if x.inService s then x.cmpReserve s else x) (x.reportReady old)
    ((x.wr Reg.GEN_UPD_STAT_CODE v.code).wr Reg.GEN_UPD_STAT_PAGE (if v.page = 0x100 then 0 else keyPage v.page)).wr
      Reg.GEN_UPD_STAT_VALID 1

/-- A page whose registers the island feeds (R428). -/
def islandPage (p : Nat) : Bool := p == 0x1 || p == 0xF

/-- Parity of the values in use, checked at a period boundary: words that `upset` names by page, section and word index, and
configuration written with inverted parity that has no shadow of its own. While the main rails are down only the island's pages are fed. -/
def Tau.checkParity (x : Tau) (upset : List (Nat × Nat × Nat)) : Tau :=
  forEach (tauCopies.filter fun c => x.on || islandPage c.1) (fun (p, s) x =>
    let ws := (upset.filter fun u => u.1 == p && u.2.1 == s).map (·.2.2) ++ (x.regs.badWords p s).filter (plainWord p)
    if ws.isEmpty || x.rd (Reg.PG_STATUS_SAFE p) 0 s == 1 then x else x.parityFault p s ws) x

/-! ## Strobes and scheduled commits (R84, R85, R87, R435, R436) -/

/-- The groups that an immediate strobe commits at once (R436). -/
def tauImmediate : Nat := 0xBF03

/-- The page code of a group. -/
def groupPage (g : Nat) : Nat := if g = 0 then 0x10 else g

/-- A write of UPD_STROBE. -/
def Tau.strobe (x : Tau) (mask : Nat) (imm : Bool) : Tau :=
  let refused := (List.range 16).filter fun g => mask.testBit g && x.scMask.testBit g
  let x := forEach refused (fun g x => (x.bump Reg.TTB_SCHED_BUSY_CNT).pageErr (groupPage g) 2) x
  let rest := mask - Nat.land mask x.scMask
  let now := if imm then Nat.land rest tauImmediate else 0
  let x := x.wr Reg.GEN_UPD_PEND (Nat.lor (x.rd Reg.GEN_UPD_PEND) (rest - now))
  let x := x.commitGroups now
  match refused with
  | [] => x
  | g :: _ => (x.wr Reg.GEN_UPD_STAT_CODE Code.busy).wr Reg.GEN_UPD_STAT_PAGE (groupPage g)

/-- The commits of a boundary: what strobes left pending, and scheduled commits whose period has come. One that the boundary finds
late is recorded (R87). While FT is not valid none is due. -/
def Tau.boundaryCommits (x : Tau) : Tau :=
  let pend := x.rd Reg.GEN_UPD_PEND
  let x := (x.wr Reg.GEN_UPD_PEND 0).commitGroups pend
  if x.unset then x
  else forIdx 4 (fun i x => match x.scSlot i with
    | some c =>
      if x.per < c.period then x
      else
        let x := (x.setSc i none).commitGroups c.mask
        if c.period < x.per then x.lateRecord c.period c.mask else x
    | none => x) x

end Sys2Proof.Machine
end

