-- ==== Sys2Proof/Machine/TauViews.lean ====
section
/-!
DEFINITION. What the registers of the TAU window read (R427 to R433): fields that show what the block holds elsewhere, the page
headers, addresses, and whole reads with their latches.
-/

namespace Sys2Proof.Machine

/-- A field and what it reads: for section `s`, instance `i`. -/
abbrev TauView := Fld × (Tau → (s i : Nat) → Nat)

/-- One entry of the lists below. -/
def tauView (f : Fld) (v : Tau → Nat → Nat → Nat) : TauView := (f, v)

/-- Fields of TIME, TTB and SCB. -/
def tauViewsA : List TauView :=
  [tauView Reg.TIME_FT_LO (fun x _ _ => x.now % 2 ^ 32), tauView Reg.TIME_FT_HI (fun x _ _ => x.now / 2 ^ 32),
    tauView Reg.TIME_ERR_BOUND (fun x _ _ => ebUnits x.errBound),
    tauView Reg.TIME_P_CFG_LH (fun x _ i => bit (decide (2 ≤ i) && x.fuses.lhPorts.testBit (i - 2))),
    tauView Reg.TTB_SCHED_PEND (fun x _ _ => x.scMask),
    tauView Reg.SCB_CTX_USED (fun x s _ => x.ctxUsed s), tauView Reg.SCB_EMIT_OFS (fun x _ _ => x.emitOfs), tauView Reg.SCB_SHIFT (fun x _ _ => x.shift),
    tauView Reg.SCB_CLOSE_OFS (fun x _ _ => x.closeOfs), tauView Reg.SCB_HOLD_BYTES (fun x _ _ => x.holdBytes),
    tauView Reg.SCB_EXC_HEAD_ID (fun x s _ => (((x.scb.exc.getD s []).head?.map (·.id)).getD 0)),
    tauView Reg.SCB_EXC_HEAD_KIND (fun x s _ => (((x.scb.exc.getD s []).head?.map (·.kind)).getD 0)),
    tauView Reg.SCB_EXC_HEAD_VALID (fun x s _ => bit !(x.scb.exc.getD s []).isEmpty)] ++
  [tauView Reg.SCB_EXC_INFO0 (fun x s _ => (((x.scb.exc.getD s []).head?.map fun e => e.job + e.consist * 2 ^ 16).getD 0)),
    tauView Reg.SCB_EXC_INFO1 (fun x s _ => (((x.scb.exc.getD s []).head?.map (·.info)).getD 0)),
    tauView Reg.SCB_JQ_RSV (fun x _ _ => x.reserved (x.rd Reg.SCB_JQ_SEL)),
    tauView Reg.SCB_JQ_USED (fun x s _ => x.scb.ctxs.countP fun k => k.home == s && k.job == x.rd Reg.SCB_JQ_SEL (s := s)),
    tauView Reg.SCB_POOL_FREE (fun x _ _ => x.poolFree),
    tauView Reg.SCB_CH_EXP (fun x _ i => x.regCount (x.rd Reg.SCB_JQ_SEL) i)]

/-- The survey slot that section `s` shows. -/
def Tau.shownSurvey (x : Tau) (s : Nat) : Option TauSurvey := x.srv.slots.getD (x.rd Reg.SRV_SLOT_SEL (s := s)) none

/-- The stream that section `s` shows at RET_KEY. -/
def Tau.shownStream (x : Tau) (s : Nat) : Option Stream :=
  x.stream (x.rd Reg.SRV_RET_SEL_JOB (s := s)) (x.rd Reg.SRV_RET_SEL_CONSIST (s := s))

/-- The sum of a measure over the loaded models. -/
def Tau.modelSum (x : Tau) (f : Model → Nat) : Nat :=
  x.lib.models.foldl (fun n m => match m with | some m => n + f m | none => n) 0

/-- The output result that section `s` shows. -/
def Tau.shownOut (x : Tau) (s : Nat) : OutStat :=
  x.outStat s (x.rd Reg.TREE_OUT_SEL_ENS (s := s)) (x.rd Reg.TREE_OUT_SEL_OUT (s := s))

/-- What a map slot shows. -/
def Tau.shownBind (x : Tau) (i : Nat) : Option Bind := x.tree.binds.getD i none

/-- Fields of RED, SRV and TREE. -/
def tauViewsB : List TauView :=
  [tauView Reg.RED_BUILD_LOAD_MAX (fun x _ _ => x.buildLoadMax), tauView Reg.RED_TRAIN_IN_MAX (fun x _ _ => x.trainInMax),
    tauView Reg.SRV_ACTIVE (fun x _ _ => x.srv.slots.countP (·.isSome)),
    tauView Reg.SRV_SLOT_STAT_STATE (fun x s _ => ((x.shownSurvey s).map (·.st)).getD 0),
    tauView Reg.SRV_SLOT_STAT_STANDING (fun x s _ => ((x.shownSurvey s).map fun v => bit (v.s.kind == 1)).getD 0),
    tauView Reg.SRV_SLOT_SID (fun x s _ => ((x.shownSurvey s).map (·.s.sid)).getD 0),
    tauView Reg.SRV_SLOT_MATCH (fun x s _ => ((x.shownSurvey s).map (·.nMatch)).getD 0),
    tauView Reg.SRV_SLOT_PEND (fun x s _ => ((x.shownSurvey s).map fun v => popCount 64 v.pend).getD 0),
    tauView Reg.SRV_RET_KEY (fun x s _ => ((x.shownStream s).map (·.retKey)).getD 0xFE),
    tauView Reg.SRV_JV_ALIVE (fun x _ i => x.jv i 1), tauView Reg.SRV_JV_DEAD (fun x _ i => x.jv i 2)] ++
  [tauView Reg.TREE_ENS_USED (fun x _ _ => (List.range 8).foldl (fun m e => m + bit (x.model e).isSome * 2 ^ e) 0),
    tauView Reg.TREE_NODE_FREE (fun x _ _ => 131072 - x.modelSum (·.nodes.length)),
    tauView Reg.TREE_SET_FREE (fun x _ _ => 4096 - x.modelSum (·.sets.length)),
    tauView Reg.TREE_CAL_FREE (fun x _ _ => 16 - x.modelSum (·.cal.length)),
    tauView Reg.TREE_VISIT_LOAD_MAX (fun x _ _ => x.visitLoadMax x.scb.streams x.binds),
    tauView Reg.TREE_VEC_QDEPTH (fun x s _ => (x.tree.q.getD s []).length),
    tauView Reg.TREE_OUT_RAW_LO (fun x s _ => unsigned 64 (x.shownOut s).raw % 2 ^ 32),
    tauView Reg.TREE_OUT_RAW_HI (fun x s _ => unsigned 64 (x.shownOut s).raw / 2 ^ 32),
    tauView Reg.TREE_OUT_FINAL (fun x s _ => unsigned 32 (clipS 32 (x.shownOut s).final)),
    tauView Reg.TREE_OUT_FIRE_CNT (fun x s _ => (x.shownOut s).fire), tauView Reg.TREE_OUT_LAST_RANK (fun x s _ => (x.shownOut s).last)] ++
  [tauView Reg.TREE_ENS_MODEL_ID (fun x _ i => ((x.model i).map (·.id)).getD 0),
    tauView Reg.TREE_ENS_MODEL_LOADED (fun x _ i => bit (x.model i).isSome),
    tauView Reg.TREE_ENS_SHAPE_NOUT (fun x _ i => ((x.model i).map (·.nout)).getD 0),
    tauView Reg.TREE_ENS_SHAPE_NFEAT (fun x _ i => ((x.model i).map (·.nfeat)).getD 0),
    tauView Reg.TREE_ENS_NTREES (fun x _ i => ((x.model i).map (·.trees.length)).getD 0),
    tauView Reg.TREE_ENS_NODES (fun x _ i => ((x.model i).map (·.nodes.length)).getD 0),
    tauView Reg.TREE_ENS_WMAX (fun x _ i => ((x.model i).map (·.wmax)).getD 0),
    tauView Reg.TREE_MAP_BIND_JOB (fun x _ i => ((x.shownBind i).map (·.job)).getD 0xFFFF),
    tauView Reg.TREE_MAP_BIND_CONSIST (fun x _ i => (((x.shownBind i).bind fun b => x.fmap b.map).map (·.consist)).getD 0),
    tauView Reg.TREE_MAP_CTRL_MAP_ID (fun x _ i => ((x.shownBind i).map (·.map)).getD 0),
    tauView Reg.TREE_MAP_CTRL_ENS (fun x _ i => ((x.shownBind i).map (·.ens)).getD 0),
    tauView Reg.TREE_MAP_CTRL_SCOPE (fun x _ i => (((x.shownBind i).bind fun b => x.fmap b.map).map fun m => bit !m.perRank).getD 0),
    tauView Reg.TREE_MAP_CTRL_ACTIVE (fun x _ i => ((x.shownBind i).map fun b => bit (decide (b.from_ ≤ x.per) && b.until_.isNone)).getD 0),
    tauView Reg.TREE_MAP_FIRST_PER (fun x _ i => ((x.shownBind i).map (·.from_)).getD 0),
    tauView Reg.TREE_HV_STAT_HELD (fun x s _ => Nat.min 15 (x.tree.hv.getD s []).length)]

/-- The pack in tally slot `k`. -/
def Tau.shownPack (x : Tau) (k : Nat) : Option TauPack := x.lib.packs.getD k none

/-- The tally entry shown (R305). -/
def Tau.shownTally (x : Tau) : Nat × Nat :=
  (((x.shownPack (x.rd Reg.AGR_PACK_SEL)).bind fun p => p.tally.find? (·.1 == x.rd Reg.AGR_TAL_IDX)).map (·.2)).getD (0, 0)

/-- A saturated 32-bit count. -/
def sat32 (n : Nat) : Nat := Nat.min n (2 ^ 32 - 1)

/-- The credit of a port at the present, as a signed 32-bit number. -/
def Tau.creditOf (x : Tau) (p : EgPort) (rate : Fld) : Nat := unsigned 32 (p.settle (x.rd rate) x.now).credit

/-- The compression context that section `s` shows. -/
def Tau.shownCtx (x : Tau) (s : Nat) : Option CmpCtx := x.cctx s (x.rd Reg.CMP_CTX_SEL (s := s))

/-- The state of a compression context (R375): 1 RUN, 2 WAIT_IN, 3 WAIT_OUT; a trace channel's output stops when no siding has room. -/
def Tau.ctxState (x : Tau) (k : CmpCtx) : Nat :=
  if k.user = 0 then (if k.stopped then 3 else 1)
  else if k.user = 1 ∧ !(x.chan k.ch).wait.isEmpty then 3 else 2

/-- The buffers posted to a context; sidings are those of a trace channel (R372). -/
def Tau.ctxBufs (x : Tau) (k : CmpCtx) : Nat :=
  if k.user = 1 then (x.chan k.ch).posted.length + (x.chan k.ch).full.length else k.job.bufs.length

/-- Fields of AGR, SHP, MGMT, REC and CMP. -/
def tauViewsC : List TauView :=
  [tauView Reg.AGR_UNIT_ACTIVE (fun x _ _ => (List.range 8).foldl (fun m u => m + x.rd Reg.AGR_AU_CTRL_EN u * 2 ^ u) 0),
    tauView Reg.AGR_TAL_A (fun x _ _ => sat32 x.shownTally.1), tauView Reg.AGR_TAL_B (fun x _ _ => sat32 x.shownTally.2),
    tauView Reg.AGR_PK_ID_ID (fun x _ i => ((x.shownPack i).map (·.id)).getD 0xFFFF),
    tauView Reg.AGR_PK_ID_VER (fun x _ i => ((x.shownPack i).map (·.ver)).getD 0),
    tauView Reg.AGR_PK_BYTES (fun x _ i => ((x.shownPack i).map (·.bytes.length)).getD 0),
    tauView Reg.SHP_UP_CREDIT (fun x _ _ => x.creditOf x.eg.up Reg.SHP_UP_RATE),
    tauView Reg.SHP_SB_CREDIT (fun x _ _ => x.creditOf x.eg.sb Reg.SHP_SB_RATE),
    tauView Reg.SHP_EXP_CREDIT (fun x _ _ => x.creditOf x.eg.ex Reg.SHP_EXP_RATE),
    tauView Reg.SHP_VC_STALL_CNT (fun x _ _ => countUp Reg.SHP_VC_STALL_CNT 0 (x.rd Reg.SHP_VC_STALL_CNT)
      ((List.range 32).foldl (fun n l => n + x.vcTicks l) 0)),
    tauView Reg.SHP_UP_FIT_LOAD (fun x _ _ => x.upFitLoad)] ++
  [tauView Reg.MGMT_PORT_STAT_UP0 (fun x _ _ => bit (Config.portUp 0 x.now)),
    tauView Reg.MGMT_PORT_STAT_UP1 (fun x _ _ => bit (Config.portUp 1 x.now)), tauView Reg.MGMT_PORT_STAT_RAILS (fun x _ _ => bit x.main), tauView Reg.MGMT_MAC_LO (fun x _ _ => x.fuses.mac % 2 ^ 32),
    tauView Reg.MGMT_MAC_HI (fun x _ _ => x.fuses.mac / 2 ^ 32), tauView Reg.MGMT_ISEQ_LO (fun x _ _ => (x.ring 4).seq % 2 ^ 32),
    tauView Reg.MGMT_ISEQ_HI (fun x _ _ => (x.ring 4).seq / 2 ^ 32),
    tauView Reg.REC_RING_USED (fun x s _ => (x.ring s).used), tauView Reg.REC_SEQ_LO (fun x s _ => (x.ring s).seq % 2 ^ 32),
    tauView Reg.REC_SEQ_HI (fun x s _ => (x.ring s).seq / 2 ^ 32),
    tauView Reg.REC_SD_STAT_POSTED (fun x _ i => (x.chan i).posted.length + (x.chan i).full.length),
    tauView Reg.REC_SD_BYTES (fun x _ i => ((x.chan i).posted.head?.map (·.fill)).getD 0),
    tauView Reg.REC_SD_GRANT (fun x _ i => (x.chan i).granted), tauView Reg.REC_SD_OFS_NEXT (fun x _ i => (x.chan i).expect)] ++
  [tauView Reg.CMP_CTX_USED (fun x s _ => (x.eng s).ctxs.countP (·.isSome)), tauView Reg.CMP_CTX_RSV (fun x s _ => (x.cmpUsers s).length),
    tauView Reg.CMP_JOB_POST_STAT_QUEUED (fun x s _ => (x.eng s).queue.length),
    tauView Reg.CMP_CTX_STAT_STATE (fun x s _ => ((x.shownCtx s).map x.ctxState).getD 0),
    tauView Reg.CMP_CTX_STAT_USER (fun x s _ => ((x.shownCtx s).map (·.user)).getD 0),
    tauView Reg.CMP_CTX_STAT_BUFS (fun x s _ => ((x.shownCtx s).map x.ctxBufs).getD 0),
    tauView Reg.CMP_CTX_IN (fun x s _ => ((x.shownCtx s).map (·.sofar.1)).getD 0),
    tauView Reg.CMP_CTX_OUT (fun x s _ => ((x.shownCtx s).map (·.done)).getD 0)]

/-- The status slot shown. -/
def Tau.shownSlot (x : Tau) : Option NtcSlot := x.ntc.slots.find? (·.ix == x.rd Reg.MNT_NS_SEL)

/-- A field of the status slot shown. -/
def slotView (f : Fld) (g : NtcSlot → Nat) : TauView := (f, fun x _ _ => (x.shownSlot.map g).getD 0)

/-- The last NID applied of the handle shown. -/
def Tau.shownNid (x : Tau) : Nat × Nat := x.lastNid (x.rd Reg.MNT_NTC_SEL_JOB)

/-- The failing bit that section `s` shows. -/
def Tau.shownBit (x : Tau) (s : Nat) : Nat × Nat × Nat := (x.bist s).log.getD (x.rd Reg.BIST_LOG_SEL (s := s)) (0, 0, 0)

/-- A set of dies, from a test of the pending runs. -/
def Tau.runDies (x : Tau) (p : PackRun → Bool) : Nat :=
  (List.range 16).foldl (fun m d => m + bit (x.ntc.runs.any fun r => r.die == d && p r) * 2 ^ d) 0

/-- Whether the key grant in use before is still held. -/
def Tau.prevHeld (x : Tau) : Bool :=
  match x.cip.prev with
  | some (_, p) => decide (x.per < p)
  | none => false

/-- Fields of CIP, MNT, BIST and SEC. -/
def tauViewsD : List TauView :=
  [tauView Reg.CIP_KEY_STATE_GRANT (fun x _ _ => bit x.cip.cur.isSome), tauView Reg.CIP_KEY_STATE_STAGED (fun x _ _ => bit x.cip.staged.isSome),
    tauView Reg.CIP_KEY_STATE_PREV (fun x _ _ => bit x.prevHeld),
    tauView Reg.CIP_FLEET_ID (fun x _ _ => (x.cip.cur.map (·.fleet)).getD 0), tauView Reg.CIP_SITE (fun x _ _ => (x.cip.cur.map (·.site)).getD 0xFF),
    tauView Reg.CIP_SENDER_BASE (fun x _ _ => (x.cip.cur.map (·.base)).getD 0),
    tauView Reg.CIP_KEY_EPOCH (fun x _ _ => (x.cip.cur.map (·.epoch)).getD 0),
    tauView Reg.CIP_PREV_EPOCH (fun x _ _ => (x.cip.prev.map (·.1.epoch)).getD 0),
    tauView Reg.CIP_CTR_LO (fun x s _ => x.sealCtr s (x.rd Reg.CIP_CTR_SEL (s := s)) % 2 ^ 32),
    tauView Reg.CIP_CTR_HI (fun x s _ => x.sealCtr s (x.rd Reg.CIP_CTR_SEL (s := s)) / 2 ^ 32),
    tauView Reg.CIP_LH_SENDERS (fun x s _ => x.cip.lh.countP fun l => l.engine == s && x.cip.cur.any (·.epoch == l.epoch)),
    tauView Reg.CIP_LH_PORTS (fun x s _ => (List.range 16).countP fun j => x.fuses.lhPorts.testBit j && x.lhEngine j == s)] ++
  [tauView Reg.MNT_NTC_EPOCH (fun x _ _ => x.shownNid.1), tauView Reg.MNT_NTC_NSEQ (fun x _ _ => x.shownNid.2),
    tauView Reg.MNT_NTC_JSTATE (fun x _ _ => x.jobState (x.rd Reg.MNT_NTC_SEL_JOB)),
    slotView Reg.MNT_NS_JOB (·.a.job), slotView Reg.MNT_NS_KIND (·.a.kind), slotView Reg.MNT_NS_EPOCH (·.a.epoch),
    slotView Reg.MNT_NS_NSEQ (·.a.nseq), slotView Reg.MNT_NS_APPLIED (·.a.applied), slotView Reg.MNT_NS_REFUSED (·.a.refused),
    slotView Reg.MNT_NS_UNREACH (·.a.unreached), (Reg.MNT_NS_RECOV, fun x _ _ => (x.shownSlot.map (·.recov x.per)).getD 0), slotView Reg.MNT_NS_CODE (·.a.code),
    slotView Reg.MNT_NS_CODE_RANK (·.a.codeRank)] ++
  [tauView Reg.MNT_TOK_HELD (fun x _ _ => (List.range 6).foldl (fun m c => m + bit (x.mnt.tokens.any (·.cls == c)) * 2 ^ c) 0),
    tauView Reg.MNT_TST_PEND (fun x _ _ => x.runDies fun _ => true), tauView Reg.MNT_TST_OVER (fun x _ _ => x.runDies (·.above)),
    tauView Reg.BIST_LOG_INST (fun x s _ => (x.shownBit s).1), tauView Reg.BIST_LOG_ADDR (fun x s _ => (x.shownBit s).2.1),
    tauView Reg.BIST_LOG_BIT (fun x s _ => (x.shownBit s).2.2), tauView Reg.SEC_LC_STATE (fun x _ _ => x.fuses.lc),
    tauView Reg.SEC_DEV_ID_LO (fun x _ _ => x.fuses.devId % 2 ^ 32), tauView Reg.SEC_DEV_ID_HI (fun x _ _ => x.fuses.devId / 2 ^ 32),
    tauView Reg.SEC_SLOT_VALID (fun x _ _ => x.fuses.slotValid),
    tauView Reg.SEC_SLOT_HASH (fun x _ i => fieldAt (x.fuses.slotHash.getD (x.rd Reg.SEC_SLOT_SEL) []) (4 * i) 4),
    tauView Reg.SEC_FW_MIN_VER (fun x _ _ => x.fuses.fwMin), tauView Reg.SEC_KD_FUSED (fun x _ _ => bit x.fuses.kd.isSome)]

/-- Every field of the TAU window that shows what the block holds elsewhere. -/
def tauViews : List TauView := tauViewsA ++ tauViewsB ++ tauViewsC ++ tauViewsD

/-- A page of which each section has a copy (R428). -/
def sectionPage (p : Nat) : Bool := p != 0x10 && p != 0x1 && p != 0xF

/-- What a header field of a TAU page reads (R433), where it is no stored register. -/
def Tau.headerView (x : Tau) (s : Nat) (f : Fld) : Option Nat :=
  let p := f.page
  if f.id = (Reg.PG_ID_PAGE p).id then some p
  else if f.id = (Reg.PG_ID_PVER p).id then some 1
  else if f.id = (Reg.PG_ID_REV p).id then some 0xB0
  else if f.id = (Reg.PG_ID_BLOCK p).id then some 1
  else if f.id = (Reg.PG_CAP_SECTION p).id then some (if sectionPage p then s else 0xF)
  else if f.id = (Reg.PG_CAP_ISLAND p).id then some (bit (p == 0x1 || p == 0xF))
  else if f.id = (Reg.PG_CAP_SHADOWED p).id then some (bit ((Reg.functional p).any (·.acc == .rws)))
  else if f.id = (Reg.PG_STATUS_LOCKED p).id then some (x.rd (Reg.PG_LOCK p) 0 s)
  else if f.id = (Reg.PG_STATUS_SHADOW_DIFF p).id then some (bit (!(x.regs.changed p s).isEmpty))
  else if f.id = (Reg.PG_STATUS_SCHED p).id then some (bit (x.scMask.testBit (p % 16)))
  else if f.id = (Reg.PG_STATUS_SECTION_OUT p).id then some (bit (sectionPage p && decide (2 ≤ x.secState s)))
  else if f.id = (Reg.PG_STROBE_GRP p).id then some (p % 16)
  else none

/-- The value that a field instance reads (R12, R430): in the shadow view an RWS field reads its shadow. -/
def Tau.view (x : Tau) (shadow : Bool) (s : Nat) (f : Fld) (i : Nat) : Nat :=
  match x.headerView s f with
  | some v => v
  | none =>
    if f.acc = .wo then 0
    else if shadow && f.acc == .rws then x.regs.getShadow f i s
    else match tauViews.find? fun v => v.1.id == f.id with
      | some v => v.2 x s i
      | none => x.rd f i s

/-- The page, section and byte offset of an address of the TAU window, and whether it lies in the shadow view (R428, R430). -/
def tauAddr (a : Nat) : Option (Nat × Nat × Nat × Bool) :=
  let b := a % 0x800000
  let sh := decide (0x800000 ≤ a)
  if 0x1000000 ≤ a then none
  else if b < 0x3000 then some ([0x10, 0x1, 0xF].getD (b / 4096) 0x10, 0, b % 4096, sh)
  else
    let s := b / 0x100000
    let o := b % 0x100000
    if 1 ≤ s ∧ s ≤ 4 ∧ o < 0xD000 then some (2 + o / 4096, s - 1, o % 4096, sh) else none

/-- The ring whose window stands at an offset of a page (R363). -/
def winRing (p s o : Nat) : Option Nat :=
  if p = 0x9 ∧ o = Reg.REC_WIN_DATA.off then some s
  else if p = 0xF ∧ o = Reg.MGMT_I_WIN_DATA.off then some 4
  else none

/-- A whole read of a word through a port (R430, R431): its value, and the state with the pair's latch set. -/
def Tau.readWord (x : Tau) (port : Port) (a : Nat) : Nat × Tau :=
  match tauAddr (a / 4 * 4) with
  | none => (0, x)
  | some (p, s, o, sh) =>
    match winRing p s o with
    | some g => x.windowRead g
    | none =>
      let live (o : Nat) : Nat := wordValue p o (x.view sh s)
      let n := a / 4 * 4 % 0x800000
      if latches p o then (live o, { x with regs := x.regs.setLatch port (n + 4) (live (o + 4)) })
      else ((x.regs.latched port n).getD (live o), x)

end Sys2Proof.Machine
end

