-- ==== Sys2Proof/Machine/Access.lean ====
section
/-!
DEFINITION. Register accesses (R427 to R433, R435, R440, R449, R490): what a write through a port does, the commands that writes
give, reads, and the management plane's datagrams (R323 to R325).
-/

namespace Sys2Proof.Machine

/-! ## Addresses (R428, R429) -/

/-- The byte offset in the TAU window of a field instance in section `s`. -/
def tauFieldAddr (f : Fld) (i s : Nat) : Nat :=
  let o := f.off + f.stride * i
  match f.page with
  | 0x10 => o
  | 0x1 => 0x1000 + o
  | 0xF => 0x2000 + o
  | p => 0x100000 * (s + 1) + 0x1000 * (p - 2) + o

/-- The byte offset in the TDU window of a field instance. -/
def dieFieldAddr (f : Fld) (i : Nat) : Nat := 0x1000 * (f.page - 0x20) + f.off + f.stride * i

/-! ## Commands of the TAU's registers -/

/-- The instance of a field at an offset of a page's copy; TAU-wide fields stand in section 0's. -/
def fieldHere (p s o : Nat) (f : Fld) : Option Nat := if f.page = p ∧ (!f.wide ∨ s = 0) then f.instAt o else none

/-- A field stands at an offset of a page's copy. -/
def isHere (p s o : Nat) (f : Fld) : Bool := (fieldHere p s o f).isSome

/-- Commands of the GEN page. `locked`: PG_LOCK holds, so that ROLE_CFG ignores the write. -/
def Tau.genCommand (x : Tau) (port : Port) (o v : Nat) (locked : Bool) (m : Reads) : Tau :=
  let here := isHere 0x10 0 o
  if here Reg.GEN_ROLE_CFG_ROLE then if locked then x else x.roleWrite v
  else if here Reg.GEN_BOOT_GO then x.bootGo v
  else if here Reg.GEN_UPD_STROBE_MASK then x.strobe (bits v 0 16) (v.testBit 16)
  else if here Reg.GEN_IMG_LOAD_GO then x.imgLoad v m.a
  else if here Reg.GEN_ATTACH_GO then x.attachGo v
  else if here Reg.GEN_PROMOTE_GO then x.promoteGo port v
  else if here Reg.GEN_UCODE_LOAD_GO then x.ucodeLoad v m.a
  else if here Reg.GEN_TDU_ACC_GO then x.tduAccess v
  else x

/-- Commands of the TIME page. -/
def Tau.timeCommand (x : Tau) (o v : Nat) : Tau :=
  let here := isHere 0x1 0 o
  if here Reg.TIME_TOD_SET_LO then x.todSet v
  else if here Reg.TIME_TOD_SET_HI then { x with time := { x.time with todHi := v % 2 ^ 16 } }
  else if here Reg.TIME_JUMP_ACCEPT_GO then x.jumpAccept (bits v 0 5) (v.testBit 31)
  else x

/-- Commands of the SCB, SRV, TREE and AGR pages. -/
def Tau.planeCommand (x : Tau) (p s o v : Nat) (m : Reads) : Tau :=
  let here := isHere p s o
  if here Reg.SCB_EXC_ACK_ID then x.excAck s v
  else if here Reg.SRV_ISSUE_GO then if v.testBit 0 then x.surveyIssue else x
  else if here Reg.SRV_CANCEL_SLOT then if v.testBit 31 then x.cancelSurvey (bits v 0 6) else x
  else if here Reg.SRV_RET_SEL_JOB then
    { x with regs := x.regs.both Reg.SRV_RET_KEY 0 s (((x.shownStream s).map (·.retKey)).getD 0xFE) }
  else if here Reg.TREE_FENCE_ACK_ID then x.fenceAck v
  else if here Reg.TREE_HV_CMD_GO then if v.testBit 31 then x.hvSubmit s v m.a else x
  else match fieldHere p s o Reg.SRV_DR_CAP_GO, fieldHere p s o Reg.AGR_T_CTRL_GO with
    | some u, _ => if v.testBit 0 then x.driftCapture u else x
    | none, some u =>
      let x := if v.testBit 0 then x.armTap u else x
      if v.testBit 1 then x.closeTap u 4 else x
    | none, none => x

/-- Commands of the REC and CMP pages. -/
def Tau.storeCommand (x : Tau) (p s o v : Nat) (m : Reads) : Tau :=
  let here := isHere p s o
  if here Reg.REC_FRZ_CMD_GO then if v.testBit 0 then x.freezeStart s (bits v 1 2) (bits v 3 3) else x
  else if here Reg.REC_WIN_DONE then if v.testBit 0 then x.windowClose s else x
  else if here Reg.REC_SNAP_SEQ then x.snapshot s
  else if here Reg.REC_SD_POST_CH then x.sidingPost v m.a
  else if here Reg.CMP_JOB_POST_GO then if v.testBit 0 then x.cmpPost s m.a m.b m.c else x
  else if here Reg.CMP_BUF_POST_CTX then if v.testBit 31 then x.cmpBuffer s v m.a else x
  else if here Reg.CMP_JOB_ABORT then x.cmpAbort s v
  else x

/-- Commands of the MNT and BIST pages. -/
def Tau.mntCommand (x : Tau) (port : Port) (p s o v : Nat) (m : Reads) : Tau :=
  let here := isHere p s o
  if here Reg.MNT_ISSUE_GO then if v.testBit 0 then x.noticeIssue m.a else x
  else if here Reg.MNT_FORCE_RELEASE_JOB then x.forceRelease port v
  else if here Reg.MNT_TOK_REQ_CLASS then x.tokRequest port v
  else if here Reg.MNT_TOK_TARGET then x.wr Reg.MNT_TOK_TARGET v
  else if here Reg.MNT_TOK_REL_ID then x.tokRelease port v
  else if here Reg.MNT_DRAIN_SECTION then x.drain v
  else if here Reg.MNT_RETURN_SECTION then x.returnSec v
  else if here Reg.MNT_GUARD_KICK then x.guardKick s v
  else if here Reg.MNT_FW_LOAD_GO then x.fwLoad v m.a
  else if here Reg.MNT_FW_SWITCH_GO then x.fwSwitchArm v
  else if here Reg.MNT_FW_CONFIRM then x.fwConfirm v
  else if here Reg.BIST_BIST_CTRL_GO then x.bistCtrl s v
  else if here Reg.BIST_REPAIR_GO then x.bistRepair s v
  else x

/-- What a write starts beyond its fields. -/
def Tau.command (x : Tau) (port : Port) (p s o v : Nat) (locked : Bool) (m : Reads) : Tau :=
  let x := if o = 0xC ∧ v.testBit 15 then x.wr (Reg.PG_ERR_CNT p) 0 0 s else x
  match p with
  | 0x10 => x.genCommand port o v locked m
  | 0x1 => x.timeCommand o v
  | 0xF =>
    if isHere p 0 o Reg.MGMT_I_FRZ_CMD_GO then if v.testBit 0 then x.freezeStart 4 (bits v 1 2) (bits v 3 3) else x
    else if isHere p 0 o Reg.MGMT_I_WIN_DONE then if v.testBit 0 then x.windowClose 4 else x
    else x
  | 0x3 | 0x5 | 0x6 | 0x7 => x.planeCommand p s o v m
  | 0x9 | 0xA => x.storeCommand p s o v m
  | 0xC | 0xD => x.mntCommand port p s o v m
  | _ => x

/-! ## Writes (R431, R432, R440, R449) -/

/-- The block refuses a write: ignored, and counted while the main rails feed GEN. -/
def Tau.accErr (x : Tau) : Tau := if x.main then x.bump Reg.GEN_ACC_ERR_CNT else x

/-- The fields that a write to a page's copy leaves alone, whatever it holds: those of PG_LOCK, ROLE_CFG (whose write is a command),
TAU-wide fields written elsewhere than in section 0, and PG_PARITY.INJECT outside its lifecycle states. -/
def Tau.keeps (x : Tau) (p s : Nat) (locked : Bool) (f : Fld) : Bool :=
  (locked && lockable f) || (p == 0x10 && f.off == 0x40) || (f.wide && s != 0) ||
    (f.id == (Reg.PG_PARITY_INJECT p).id && !injectAllowed x.fuses.lc)

/-- A write of `len` bytes at an address of the TAU window through a port: the state after, and the code with which it completes: DONE,
BUSY where a scheduled commit freezes the word (R85), else REFUSED_FIT. `m`: what the block reads in memory for a command that the
write gives. -/
def Tau.regWrite (x : Tau) (port : Port) (a len v : Nat) (m : Reads) : Tau × Nat :=
  if !x.islPg || (port == .host && !x.main) then (x, Code.fit)
  else if len ≠ 4 ∨ a % 4 ≠ 0 then (x.accErr, Code.fit)
  else match tauAddr a with
    | none => (x.accErr, Code.fit)
    | some (p, s, o, _) =>
      let fs := wordFields p o
      if !x.main && !islandPage p then (x, Code.fit)
      else if !wordWritable p o || (sectionPage p && x.rd Reg.GEN_BOOT_STATE != 3) then (x.accErr, Code.fit)
      else
        let locked := x.rd (Reg.PG_LOCK p) 0 s == 1
        let x := if locked && fs.any (fun fi => lockable fi.1) then x.pageErr p 3 s else x
        if !locked && x.scMask.testBit (p % 16) && fs.any (fun fi => fi.1.acc == .rws) then
          ((x.bump Reg.TTB_SCHED_BUSY_CNT).pageErr p 2 s, Code.busy)
        else
          let x : Tau := if isHere p s o Reg.SRV_RET_KEY then
              { x with regs := x.regs.put Reg.SRV_RET_KEY 0 s (((x.shownStream s).map (·.retKey)).getD (x.rd Reg.SRV_RET_KEY 0 s)) }
            else x
          (({ x with regs := x.regs.writeWord p s o v (x.keeps p s locked) }).command port p s o v locked m, Code.done)

/-- A write of a field's word through a port. -/
def Tau.writeField (x : Tau) (f : Fld) (i s : Nat) (port : Port) (v : Nat) (m : Reads) : Tau :=
  (x.regWrite port (tauFieldAddr f i s) 4 v m).1

/-- A write of a field's word of the TDU through a port. -/
def Tdu.writeField (d : Tdu) (f : Fld) (i : Nat) (port : Port) (v : Nat) : Tdu := d.regWrite port (dieFieldAddr f i) 4 v

/-! ## Reads (R431) -/

/-- The bytes that a read of `len` bytes takes: of one word the bytes addressed, or two words in ascending address. -/
def Tau.readBytes (x : Tau) (port : Port) (a len : Nat) : List Byte × Tau :=
  let (w, x) := x.readWord port a
  if len = 8 then
    let (h, x) := x.readWord port (a + 4)
    (leBytes 4 w ++ leBytes 4 h, x)
  else (((leBytes 4 w).drop (a % 4)).take len, x)

/-- A read through a port of the TAU. -/
def Tau.regRead (x : Tau) (port : Port) (a len : Nat) : Tau :=
  let page := match tauAddr (a / 4 * 4) with | some (p, _, _, _) => p | none => 0x10
  if !x.islPg || (!x.main && (port == .host || !islandPage page)) then x
  else
    let (b, x) := x.readBytes port a len
    x.emitOut (.read (portIdx port) b)

/-- A read through a port of the TDU. -/
def Tdu.regRead (d : Tdu) (port : Port) (a len : Nat) : Tdu :=
  if !d.reachable then d
  else
    let (w, d) := d.readWord port a
    if len = 8 then
      let (h, d) := d.readWord port (a + 4)
      d.emitOut (.read (portIdx port) (leBytes 4 w ++ leBytes 4 h))
    else d.emitOut (.read (portIdx port) (((leBytes 4 w).drop (a % 4)).take len))

/-! ## The management plane (R323 to R325) -/

/-- The reply to a command: its header with the code, and the words read. -/
def cmdReply (p : List Byte) (code : Nat) (ws : List Nat) : List Byte :=
  p.take 12 ++ leBytes 1 code ++ zeros 3 ++ ws.flatMap (leBytes 4)

/-- Seal and send a reply. -/
def Tau.reply (x : Tau) (port src sport : Nat) (r : List Byte) : Tau :=
  match x.sealMsg 4 Purpose.mgmt false 0 r with
  | (x, some e) => x.mgmtSend port src sport 0 e
  | (x, none) => x

/-- The form of a command (R324): its length and its zeros, COUNT and ADDR as its OP takes them. -/
def commandOk (p : List Byte) : Bool :=
  let op := fieldAt p 0 2
  let n := fieldAt p 2 2
  let a := fieldAt p 8 4
  decide (16 ≤ p.length) && allZero ((p.drop 12).take 4) && a % 4 == 0 && decide (a + 4 * n ≤ 0x1000000) &&
    (match op with
      | 1 => n == 1
      | 2 => n == 1 && decide (20 ≤ p.length)
      | 3 => decide (1 ≤ n) && decide (n ≤ 256)
      | _ => false)

/-- The words of a command lie where they can be reached while the main rails are down (R325). -/
def railsReach (a n : Nat) : Bool :=
  (List.range n).all fun i => match tauAddr (a + 4 * i) with
    | some (p, _, _, _) => islandPage p
    | none => false

/-- Read words in ascending address. -/
def Tau.readWords (x : Tau) (port : Port) (a n : Nat) : List Nat × Tau :=
  (List.range n).foldl (fun (ws, x) i =>
    let (w, x) := x.readWord port (a + 4 * i)
    (ws ++ [w], x)) (([] : List Nat), x)

/-- Run a command that has been opened: the state after, the code and the words read. -/
def Tau.runCommand (x : Tau) (port : Port) (sender : Nat) (p : List Byte) (m : Reads) : Tau × Nat × List Nat :=
  let a := fieldAt p 8 4
  let n := fieldAt p 2 2
  if !commandOk p then (x, Code.fit, [])
  else if !x.main && !railsReach a n then (x.bump Reg.MGMT_CMD_RAILS_CNT, Code.busy, [])
  else if fieldAt p 0 2 = 2 then
    let v := fieldAt p 16 4
    let x := x.record 4 2 7 0x0F01 (leBytes 4 a ++ leBytes 4 v ++ leBytes 4 sender ++ leBytes 4 (fieldAt p 4 4))
    let (x, code) := x.regWrite port a 4 v m
    (x, code, [])
  else
    let (ws, x) := x.readWords port a n
    (x, Code.done, ws)

/-- A datagram to CMD_PORT (R324). One that does not open gets no reply. `dup`: mismatches on the island's checked datapath (R386). -/
def Tau.mgmtDatagram (x : Tau) (port : Fin 2) (src sport : Nat) (env : List Byte) (dup : Nat) (m : Reads) : Tau :=
  if !x.portUp port then x
  else match x.openMgmt dup env with
    | (x, none) => x.bump Reg.MGMT_CMD_REF_CNT
    | (x, some (h, p)) =>
      if x.lc = 0 ∨ x.lc = 4 then (x.bump Reg.MGMT_CMD_REF_CNT).reply port src sport (cmdReply p Code.lifecycle [])
      else
        let x := x.bump Reg.MGMT_CMD_CNT
        if x.mnt.islBusy then x.reply port src sport (cmdReply p Code.busy [])
        else
          let (x, code, ws) := x.runCommand (.mgmt port) h.sender p m
          x.reply port src sport (cmdReply p code ws)

/-! ## Meanings: the register bus -/

/-- REGISTER_WRITE. -/
def execRegisterWrite (t : T64) (b : Block) (port : Port) (a len : Nat) (v : BitVec 32) (m : Reads) (s : State) :
    Host.Outcome State Fault Refusal :=
  .next (match b with
    | .tau => s.onIsland t fun x => (x.regWrite port a len v.toNat m).1
    | .tdu => s.onDie t fun d => d.regWrite port a len v.toNat)

/-- LOW_WORD_READ. -/
def execLowWordRead (t : T64) (b : Block) (port : Port) (a len : Nat) (act : CoreAct) (s : State) :
    Host.Outcome State Fault Refusal :=
  .next (match b with
    | .tau => s.onIsland t fun x => x.regRead port a len
    | .tdu => s.onCore t act fun d => d.regRead port a len)

/-- A write of a header field of a page, in a block. -/
def State.headerWrite (s : State) (t : T64) (b : Block) (port : Port) (page sec : Nat) (f : Nat → Fld) (v : Nat) : State :=
  match b with
  | .tau => s.onIsland t fun x => x.writeField (f page) 0 sec port v ⟨[], [], []⟩
  | .tdu => s.onDie t fun d => d.writeField (f page) 0 port v

/-- PAGE_LOCK. -/
def execPageLock (t : T64) (b : Block) (port : Port) (page : Fin 64) (sec : Fin 4) (s : State) : Host.Outcome State Fault Refusal :=
  .next (s.headerWrite t b port page sec Reg.PG_LOCK 1)

/-- PG_ERR_COUNT_CLEAR. -/
def execPgErrCountClear (t : T64) (b : Block) (port : Port) (page : Fin 64) (sec : Fin 4) (s : State) :
    Host.Outcome State Fault Refusal :=
  .next (s.headerWrite t b port page sec Reg.PG_ERR_CNT (2 ^ 15))

/-- UPDATE_STROBE. -/
def execUpdateStrobe (t : T64) (b : Block) (port : Port) (v : BitVec 32) (act : CoreAct) (s : State) :
    Host.Outcome State Fault Refusal :=
  .next (match b with
    | .tau => s.onIsland t fun x => x.writeField Reg.GEN_UPD_STROBE_MASK 0 0 port v.toNat ⟨[], [], []⟩
    | .tdu => s.onCore t act fun d => d.writeField Reg.TGEN_UPD_STROBE_MASK 0 port v.toNat)

/-! ## Meanings: commands of the TAU by register write -/

/-- A write of a field's word through a port at an instant. -/
def State.tauWrite (s : State) (t : T64) (f : Fld) (i sec : Nat) (port : Port) (v : BitVec 32) (m : Reads) : State :=
  s.onIsland t fun x => x.writeField f i sec port v.toNat m

/-- The same in the TDU. -/
def State.tduWrite (s : State) (t : T64) (f : Fld) (i : Nat) (port : Port) (v : BitVec 32) : State :=
  s.onDie t fun d => d.writeField f i port v.toNat

/-- ROLE_WRITE: a write of GEN.ROLE_CFG_ROLE. -/
def execRoleWrite (t : T64) (port : Port) (v : BitVec 32) (s : State) : Host.Outcome State Fault Refusal :=
  .next (s.tauWrite t Reg.GEN_ROLE_CFG_ROLE 0 0 port v ⟨[], [], []⟩)

/-- ATTACH_GO: a write of GEN.ATTACH_GO. -/
def execAttachGo (t : T64) (port : Port) (v : BitVec 32) (s : State) : Host.Outcome State Fault Refusal :=
  .next (s.tauWrite t Reg.GEN_ATTACH_GO 0 0 port v ⟨[], [], []⟩)

/-- PROMOTE_GO: a write of GEN.PROMOTE_GO. -/
def execPromoteGo (t : T64) (port : Port) (v : BitVec 32) (s : State) : Host.Outcome State Fault Refusal :=
  .next (s.tauWrite t Reg.GEN_PROMOTE_GO 0 0 port v ⟨[], [], []⟩)

/-- BOOT_GO: a write of GEN.BOOT_GO. -/
def execBootGo (t : T64) (port : Port) (v : BitVec 32) (s : State) : Host.Outcome State Fault Refusal :=
  .next (s.tauWrite t Reg.GEN_BOOT_GO 0 0 port v ⟨[], [], []⟩)

/-- UCODE_LOAD: a write of GEN.UCODE_LOAD_GO. `mem`: the image at UCODE_OFS. -/
def execUcodeLoad (t : T64) (port : Port) (v : BitVec 32) (mem : List Byte) (s : State) : Host.Outcome State Fault Refusal :=
  .next (s.tauWrite t Reg.GEN_UCODE_LOAD_GO 0 0 port v ⟨mem, [], []⟩)

/-- IMG_LOAD: a write of GEN.IMG_LOAD_GO. `mem`: the image at IMG_OFS. -/
def execImgLoad (t : T64) (port : Port) (v : BitVec 32) (mem : List Byte) (s : State) : Host.Outcome State Fault Refusal :=
  .next (s.tauWrite t Reg.GEN_IMG_LOAD_GO 0 0 port v ⟨mem, [], []⟩)

/-- TDU_ACCESS: a write of GEN.TDU_ACC_GO. -/
def execTduAccess (t : T64) (port : Port) (v : BitVec 32) (s : State) : Host.Outcome State Fault Refusal :=
  .next (s.tauWrite t Reg.GEN_TDU_ACC_GO 0 0 port v ⟨[], [], []⟩)

/-- TOD_SET: a write of TIME.TOD_SET_LO. -/
def execTodSet (t : T64) (port : Port) (v : BitVec 32) (s : State) : Host.Outcome State Fault Refusal :=
  .next (s.tauWrite t Reg.TIME_TOD_SET_LO 0 0 port v ⟨[], [], []⟩)

/-- JUMP_ACCEPT: a write of TIME.JUMP_ACCEPT_GO. -/
def execJumpAccept (t : T64) (port : Port) (v : BitVec 32) (s : State) : Host.Outcome State Fault Refusal :=
  .next (s.tauWrite t Reg.TIME_JUMP_ACCEPT_GO 0 0 port v ⟨[], [], []⟩)

/-- EXC_ACK: a write of SCB.EXC_ACK_ID of section `sec`. -/
def execExcAck (t : T64) (port : Port) (sec : Fin 4) (v : BitVec 32) (s : State) : Host.Outcome State Fault Refusal :=
  .next (s.tauWrite t Reg.SCB_EXC_ACK_ID 0 sec port v ⟨[], [], []⟩)

/-- SURVEY_ISSUE: a write of SRV.ISSUE_GO. -/
def execSurveyIssue (t : T64) (port : Port) (v : BitVec 32) (s : State) : Host.Outcome State Fault Refusal :=
  .next (s.tauWrite t Reg.SRV_ISSUE_GO 0 0 port v ⟨[], [], []⟩)

/-- SURVEY_CANCEL: a write of SRV.CANCEL_SLOT. -/
def execSurveyCancel (t : T64) (port : Port) (v : BitVec 32) (s : State) : Host.Outcome State Fault Refusal :=
  .next (s.tauWrite t Reg.SRV_CANCEL_SLOT 0 0 port v ⟨[], [], []⟩)

/-- DRIFT_CAPTURE: a write of SRV.DR_CAP_GO of unit `k`. -/
def execDriftCapture (t : T64) (port : Port) (k : Fin 16) (v : BitVec 32) (s : State) : Host.Outcome State Fault Refusal :=
  .next (s.tauWrite t Reg.SRV_DR_CAP_GO k 0 port v ⟨[], [], []⟩)

/-- HOST_VECTOR_SUBMIT: a write of TREE.HV_CMD_GO of section `sec`. `mem`: the features at HV_ADDR. -/
def execHostVectorSubmit (t : T64) (port : Port) (sec : Fin 4) (v : BitVec 32) (mem : List Byte) (s : State) :
    Host.Outcome State Fault Refusal :=
  .next (s.tauWrite t Reg.TREE_HV_CMD_GO 0 sec port v ⟨mem, [], []⟩)

/-- FENCE_ACK: a write of TREE.FENCE_ACK_ID. -/
def execFenceAck (t : T64) (port : Port) (v : BitVec 32) (s : State) : Host.Outcome State Fault Refusal :=
  .next (s.tauWrite t Reg.TREE_FENCE_ACK_ID 0 0 port v ⟨[], [], []⟩)

/-- TAP_UNIT_ARM: a write of AGR.T_CTRL_GO of unit `k`. -/
def execTapUnitArm (t : T64) (port : Port) (k : Fin 8) (v : BitVec 32) (s : State) : Host.Outcome State Fault Refusal :=
  .next (s.tauWrite t Reg.AGR_T_CTRL_GO k 0 port v ⟨[], [], []⟩)

/-- TAP_UNIT_DISARM: a write of AGR.T_CTRL_DISARM of unit `k`. -/
def execTapUnitDisarm (t : T64) (port : Port) (k : Fin 8) (v : BitVec 32) (s : State) : Host.Outcome State Fault Refusal :=
  .next (s.tauWrite t Reg.AGR_T_CTRL_DISARM k 0 port v ⟨[], [], []⟩)

/-- WINDOW_DONE of ring `ring`: 0 to 3 a section, 4 the island. -/
def execWindowDone (t : T64) (port : Port) (ring : Fin 5) (v : BitVec 32) (s : State) : Host.Outcome State Fault Refusal :=
  .next (if ring.val = 4 then s.tauWrite t Reg.MGMT_I_WIN_DONE 0 0 port v ⟨[], [], []⟩
    else s.tauWrite t Reg.REC_WIN_DONE 0 ring port v ⟨[], [], []⟩)

/-- FREEZE_START of ring `ring`: 0 to 3 a section, 4 the island. -/
def execFreezeStart (t : T64) (port : Port) (ring : Fin 5) (v : BitVec 32) (s : State) : Host.Outcome State Fault Refusal :=
  .next (if ring.val = 4 then s.tauWrite t Reg.MGMT_I_FRZ_CMD_GO 0 0 port v ⟨[], [], []⟩
    else s.tauWrite t Reg.REC_FRZ_CMD_GO 0 ring port v ⟨[], [], []⟩)

/-- SNAPSHOT_READ: a write of REC.SNAP_SEQ of section `sec`. -/
def execSnapshotRead (t : T64) (port : Port) (sec : Fin 4) (v : BitVec 32) (s : State) : Host.Outcome State Fault Refusal :=
  .next (s.tauWrite t Reg.REC_SNAP_SEQ 0 sec port v ⟨[], [], []⟩)

/-- SIDING_POST: a write of REC.SD_POST_CH. `mem`: the descriptor at SD_OFS. -/
def execSidingPost (t : T64) (port : Port) (v : BitVec 32) (mem : List Byte) (s : State) : Host.Outcome State Fault Refusal :=
  .next (s.tauWrite t Reg.REC_SD_POST_CH 0 0 port v ⟨mem, [], []⟩)

/-- CMP_JOB_POST: a write of CMP.JOB_POST_GO of section `sec`. `m`: the descriptor at JOB_OFS, the buffer descriptors and the source. -/
def execCmpJobPost (t : T64) (port : Port) (sec : Fin 4) (v : BitVec 32) (m : Reads) (s : State) :
    Host.Outcome State Fault Refusal :=
  .next (s.tauWrite t Reg.CMP_JOB_POST_GO 0 sec port v m)

/-- CMP_BUFFER_POST: a write of CMP.BUF_POST_CTX of section `sec`. `mem`: the buffer descriptor at BUF_OFS. -/
def execCmpBufferPost (t : T64) (port : Port) (sec : Fin 4) (v : BitVec 32) (mem : List Byte) (s : State) :
    Host.Outcome State Fault Refusal :=
  .next (s.tauWrite t Reg.CMP_BUF_POST_CTX 0 sec port v ⟨mem, [], []⟩)

/-- CMP_JOB_ABORT: a write of CMP.JOB_ABORT of section `sec`. -/
def execCmpJobAbort (t : T64) (port : Port) (sec : Fin 4) (v : BitVec 32) (s : State) : Host.Outcome State Fault Refusal :=
  .next (s.tauWrite t Reg.CMP_JOB_ABORT 0 sec port v ⟨[], [], []⟩)

/-- NOTICE_ISSUE: a write of MNT.ISSUE_GO. `mem`: the notice at ISSUE_OFS. -/
def execNoticeIssue (t : T64) (port : Port) (v : BitVec 32) (mem : List Byte) (s : State) : Host.Outcome State Fault Refusal :=
  .next (s.tauWrite t Reg.MNT_ISSUE_GO 0 0 port v ⟨mem, [], []⟩)

/-- FORCE_RELEASE: a write of MNT.FORCE_RELEASE_JOB. -/
def execForceRelease (t : T64) (port : Port) (v : BitVec 32) (s : State) : Host.Outcome State Fault Refusal :=
  .next (s.tauWrite t Reg.MNT_FORCE_RELEASE_JOB 0 0 port v ⟨[], [], []⟩)

/-- TOKEN_REQUEST: a write of MNT.TOK_REQ_CLASS. -/
def execTokenRequest (t : T64) (port : Port) (v : BitVec 32) (s : State) : Host.Outcome State Fault Refusal :=
  .next (s.tauWrite t Reg.MNT_TOK_REQ_CLASS 0 0 port v ⟨[], [], []⟩)

/-- TOKEN_RELEASE: a write of MNT.TOK_REL_ID. -/
def execTokenRelease (t : T64) (port : Port) (v : BitVec 32) (s : State) : Host.Outcome State Fault Refusal :=
  .next (s.tauWrite t Reg.MNT_TOK_REL_ID 0 0 port v ⟨[], [], []⟩)

/-- TOKEN_FORCE_RELEASE: a write of MNT.TOK_REL_ID. -/
def execTokenForceRelease (t : T64) (port : Port) (v : BitVec 32) (s : State) : Host.Outcome State Fault Refusal :=
  .next (s.tauWrite t Reg.MNT_TOK_REL_ID 0 0 port v ⟨[], [], []⟩)

/-- SECTION_DRAIN: a write of MNT.DRAIN_SECTION. -/
def execSectionDrain (t : T64) (port : Port) (v : BitVec 32) (s : State) : Host.Outcome State Fault Refusal :=
  .next (s.tauWrite t Reg.MNT_DRAIN_SECTION 0 0 port v ⟨[], [], []⟩)

/-- SECTION_RETURN: a write of MNT.RETURN_SECTION. -/
def execSectionReturn (t : T64) (port : Port) (v : BitVec 32) (s : State) : Host.Outcome State Fault Refusal :=
  .next (s.tauWrite t Reg.MNT_RETURN_SECTION 0 0 port v ⟨[], [], []⟩)

/-- GUARD_KICK: a write of MNT.GUARD_KICK of section `sec`. -/
def execGuardKick (t : T64) (port : Port) (sec : Fin 4) (v : BitVec 32) (s : State) : Host.Outcome State Fault Refusal :=
  .next (s.tauWrite t Reg.MNT_GUARD_KICK 0 sec port v ⟨[], [], []⟩)

/-- FW_LOAD: a write of MNT.FW_LOAD_GO. `mem`: the image at FW_LOAD_OFS. -/
def execFwLoad (t : T64) (port : Port) (v : BitVec 32) (mem : List Byte) (s : State) : Host.Outcome State Fault Refusal :=
  .next (s.tauWrite t Reg.MNT_FW_LOAD_GO 0 0 port v ⟨mem, [], []⟩)

/-- FW_SWITCH_ARM: a write of MNT.FW_SWITCH_GO. -/
def execFwSwitchArm (t : T64) (port : Port) (v : BitVec 32) (s : State) : Host.Outcome State Fault Refusal :=
  .next (s.tauWrite t Reg.MNT_FW_SWITCH_GO 0 0 port v ⟨[], [], []⟩)

/-- FW_CONFIRM: a write of MNT.FW_CONFIRM. -/
def execFwConfirm (t : T64) (port : Port) (v : BitVec 32) (s : State) : Host.Outcome State Fault Refusal :=
  .next (s.tauWrite t Reg.MNT_FW_CONFIRM 0 0 port v ⟨[], [], []⟩)

/-- BIST_START: a write of BIST.BIST_CTRL_GO of section `sec`. -/
def execBistStart (t : T64) (port : Port) (sec : Fin 4) (v : BitVec 32) (s : State) : Host.Outcome State Fault Refusal :=
  .next (s.tauWrite t Reg.BIST_BIST_CTRL_GO 0 sec port v ⟨[], [], []⟩)

/-- BIST_ABORT: a write of BIST.BIST_CTRL_ABORT of section `sec`. -/
def execBistAbort (t : T64) (port : Port) (sec : Fin 4) (v : BitVec 32) (s : State) : Host.Outcome State Fault Refusal :=
  .next (s.tauWrite t Reg.BIST_BIST_CTRL_ABORT 0 sec port v ⟨[], [], []⟩)

/-- BIST_REPAIR: a write of BIST.REPAIR_GO of section `sec`. -/
def execBistRepair (t : T64) (port : Port) (sec : Fin 4) (v : BitVec 32) (s : State) : Host.Outcome State Fault Refusal :=
  .next (s.tauWrite t Reg.BIST_REPAIR_GO 0 sec port v ⟨[], [], []⟩)

/-- PRG_HI_WRITE of programmable counter `k`. -/
def execPrgHiWrite (t : T64) (port : Port) (k : Fin 64) (v : BitVec 32) (act : CoreAct) (s : State) :
    Host.Outcome State Fault Refusal :=
  .next (s.onCore t act fun d => d.writeField Reg.TPMU_PRG_HI k port v.toNat)

/-- TRACE_ARM: a write of TTRC.CMD with ARM. -/
def execTraceArm (t : T64) (port : Port) (v : BitVec 32) (s : State) : Host.Outcome State Fault Refusal :=
  .next (s.tduWrite t Reg.TTRC_CMD_ARM 0 port v)

/-- TRACE_TRIGGER_GO: a write of TTRC.CMD with TRIG_GO. -/
def execTraceTriggerGo (t : T64) (port : Port) (v : BitVec 32) (s : State) : Host.Outcome State Fault Refusal :=
  .next (s.tduWrite t Reg.TTRC_CMD_TRIG_GO 0 port v)

/-- AUTH_REVOKE: a write of TTRC.AUTH.REVOKE. -/
def execAuthRevoke (t : T64) (port : Port) (v : BitVec 32) (s : State) : Host.Outcome State Fault Refusal :=
  .next (s.tduWrite t Reg.TTRC_AUTH_REVOKE 0 port v)

/-! ## Meanings: windows and drains -/

/-- WINDOW_DATA_READ of ring `ring`: 0 to 3 a section, 4 the island. -/
def execWindowDataRead (t : T64) (port : Port) (ring : Fin 5) (s : State) : Host.Outcome State Fault Refusal :=
  .next (s.onIsland t fun x => x.regRead port
    (if ring.val = 4 then tauFieldAddr Reg.MGMT_I_WIN_DATA 0 0 else tauFieldAddr Reg.REC_WIN_DATA 0 ring) 4)

/-- SECTION_DRAIN_COMPLETE: every draining section whose last work has ended goes OUT. -/
def execSectionDrainComplete (t : T64) (s : State) : Host.Outcome State Fault Refusal :=
  .next (s.onMain t fun x => x.sectionsOut)

/-! ## Meanings: the management ports -/

/-- MGMT_READ. -/
def execMgmtRead (t : T64) (port : Fin 2) (src : BitVec 128) (sport : BitVec 16) (env : List Byte) (dup : Nat) (s : State) :
    Host.Outcome State Fault Refusal :=
  .next (s.onIsland t fun x => x.mgmtDatagram port src.toNat sport.toNat env dup ⟨[], [], []⟩)

/-- MGMT_WRITE. `m`: what the block reads in memory for a command that the write gives. -/
def execMgmtWrite (t : T64) (port : Fin 2) (src : BitVec 128) (sport : BitVec 16) (env : List Byte) (dup : Nat) (m : Reads)
    (s : State) : Host.Outcome State Fault Refusal :=
  .next (s.onIsland t fun x => x.mgmtDatagram port src.toNat sport.toNat env dup m)

/-- MGMT_READ_BLOCK. -/
def execMgmtReadBlock (t : T64) (port : Fin 2) (src : BitVec 128) (sport : BitVec 16) (env : List Byte) (dup : Nat) (s : State) :
    Host.Outcome State Fault Refusal :=
  .next (s.onIsland t fun x => x.mgmtDatagram port src.toNat sport.toNat env dup ⟨[], [], []⟩)

/-- MGMT_INVALID_OP. -/
def execMgmtInvalidOp (t : T64) (port : Fin 2) (src : BitVec 128) (sport : BitVec 16) (env : List Byte) (dup : Nat) (s : State) :
    Host.Outcome State Fault Refusal :=
  .next (s.onIsland t fun x => x.mgmtDatagram port src.toNat sport.toNat env dup ⟨[], [], []⟩)

/-- MGMT_DATAGRAM_DISCARD: a frame that R323 does not support, or a datagram to CMD_PORT that does not open. `dup`: mismatches of the
datagram, or with none of the island engine's next message (R386). -/
def execMgmtDatagramDiscard (t : T64) (port : Fin 2) (env : Option (List Byte)) (dup : Nat) (s : State) :
    Host.Outcome State Fault Refusal :=
  .next (s.onIsland t fun x => match env with
    | none =>
      let x := x.dupAwait 4 dup
      if (x.rd Reg.MGMT_PORT_CFG_EN).testBit port then x.bump Reg.MGMT_RX_DROP_CNT else x
    | some e => x.mgmtDatagram port 0 0 e dup ⟨[], [], []⟩)

end Sys2Proof.Machine
end

