-- ==== Sys2Proof/Machine/DieBoundary.lean ====
section
/-!
DEFINITION. The period boundary of the die unit (R84, R87, R111, R137, R140, R435, R439), and its power, clock and reset
(R66, R109, R352, R447, R453, R479, R483, R487).
-/

namespace Sys2Proof.Machine

/-! ## The period boundary (R111) -/

/-- Freeze the flag and bound of the closing period (R151), and begin the next with those of the boundary itself. -/
def Tdu.freezeBound (d : Tdu) : Tdu :=
  { d with
    time := { d.time with
      hoPrev := d.time.hoSeen, ebPrev := d.time.ebMax, hoSeen := d.ho, ebMax := d.errBound, startHoPrev := d.time.startHo,
      startEbPrev := d.time.startEb, startHo := d.ho, startEb := d.errBound } }

/-- Freeze the link counts, the held digests, and the counts that a probe reports (R239, R276, R284). -/
def Tdu.freezeTaps (d : Tdu) : Tdu :=
  let n (i : Nat) : Nat := d.tap.flits.getD i 0
  let dig (o : Option ResSlot) : Option (Nat × Nat × Bool) :=
    o.map fun s => (s.coll, s.dig, s.st == 2 && (d.tapKey s.job).isSome)
  let ph := d.rd Reg.TCAP_PH_CNT
  let mk := d.rd Reg.TEMIT_MARK_CNT
  let srv := { d.srv with phD := ph - d.srv.phAt, mkD := mk - d.srv.mkAt, phAt := ph, mkAt := mk }
  let d := (((d.wr Reg.TTAP_FLIT_A_TX (n 0)).wr Reg.TTAP_FLIT_A_RX (n 1)).wr Reg.TTAP_FLIT_B_TX (n 2)).wr Reg.TTAP_FLIT_B_RX (n 3)
  { d with
    srv := srv
    tap := { d.tap with flits := [0, 0, 0, 0] }
    cap := { d.cap with digSnap := d.tap.res.filterMap dig } }

/-- Evaluate every detector slot, in ascending order (R137), and let a rising flag trigger the trace (R357). -/
def Tdu.detectors (d : Tdu) (reacq : Bool) : Tdu :=
  let ho := d.time.hoPrev
  let d := forIdx 32 (fun i d =>
    let n := d.rd Reg.TDET_D_FLAG_UPPER i + 2 * d.rd Reg.TDET_D_FLAG_LOWER i
    let d := d.evalDet i reacq ho
    let m := d.rd Reg.TDET_D_FLAG_UPPER i + 2 * d.rd Reg.TDET_D_FLAG_LOWER i
    if Nat.land m (3 - n) = 0 then d else d.traceTrigger 2 i) d
  { d with cap := { d.cap with detSnap := d.cap.det, flagSnap := d.detFlags } }

/-- Scheduled commits whose period has come (R84); one whose boundary has passed is late (R87). The mask of their groups, and
the state with their slots free. -/
def Tdu.takeSched (d : Tdu) : Nat × Tdu :=
  let due := d.emit.sc.filterMap fun o => match o with | some c => if c.period ≤ d.per then some c else none | none => none
  let sc := d.emit.sc.map fun o => match o with | some c => if c.period ≤ d.per then none else some c | none => none
  let d := { d with emit := { d.emit with sc := sc } }
  let d := forEach due (fun c d =>
    if c.period < d.per then
      (d.bump Reg.TGEN_SCHED_LATE_CNT).emitOut (.note 5 0x0201 (leBytes 8 c.period ++ leBytes 8 d.per ++ leBytes 2 c.mask))
    else d) d
  (due.foldl (fun m c => Nat.lor m c.mask) 0, d)

/-- Pending and scheduled groups commit (R84, R435). -/
def Tdu.boundaryCommit (d : Tdu) : Tdu :=
  let pend := d.rd Reg.TGEN_UPD_PEND
  let (m, d) := d.takeSched
  (d.wr Reg.TGEN_UPD_PEND 0).commitGroups (Nat.lor pend m)

/-- The period boundary (R111), after the core cycles of the closing period. `upset` names words whose value in use fails parity.
Without valid FT only the counters go on, and the check of the registers. -/
def Tdu.periodBoundary (d : Tdu) (upset : List (Nat × Nat)) : Tdu :=
  if !d.clocked then d
  else if !d.timed then d.checkParity upset
  else
    let p := d.per - 1
    let reacq := d.time.gapSpans.any fun g => g.2 == p
    let d := d.snapshot.freezeBound.freezeTaps
    let d := (d.detectors reacq).lagTest p
    let d := (d.wr Reg.TEMIT_BYTES_LAST d.emit.sent)
    let d := { d with emit := { d.emit with sent := 0, memUsed := 0 } }
    let d := d.mirror (d.per * 2 ^ 18)
    let d := (d.checkParity upset).endStanding.boundaryCommit.runDue.stageAgain.sendOwed
    (d.reap.reapPacks).drainSamples 64

/-! ## Power, clock and reset -/

/-- The region loses its clock or power with FT held (R66): cause 2 or 3. -/
def Tdu.stopTime (d : Tdu) (cause : Nat) : Tdu := d.reacquire cause

/-- What power-gating takes from a region that is not gated yet (R66, R109, R283, R352, R354). -/
def Tdu.gate (d : Tdu) : Tdu :=
  if d.time.gated then d
  else
    (d.stopTime 3).endAuth.traceGate.clearRes fun _ => true

/-- What a loss of VDD_TDU without TDU_GATE takes (R479): counters, histogram banks, the slot table and detector state. -/
def Tdu.loseRetained (d : Tdu) : Tdu :=
  let z := CaptureSt.reset
  let flags (d : Tdu) : Tdu := forIdx 32 (fun i d => (d.wr Reg.TDET_D_FLAG_UPPER 0 i).wr Reg.TDET_D_FLAG_LOWER 0 i) d
  flags { d with
    cap := { d.cap with
      cnt := z.cnt, inc := z.inc, snapCnt := z.snapCnt, snapInc := z.snapInc, hist := z.hist, slots := [], slotSnap := [],
      tokens := [], det := z.det, detSnap := [], flagSnap := 0 } }

/-- What a fall of VDD_TDU takes (R479). -/
def Tdu.vddLoss (d : Tdu) : Tdu :=
  if d.time.gated then d
  else
    let d := (d.stopTime 3).endAuth.traceGate.clearRes fun _ => true
    d.loseRetained

/-- VDD_TDU_AON is applied (R444, R447, R487): everything is reset but the fuses, which are sampled. What the die's supply and gate
inputs show is not the TDU's to reset. The PLL has to lock again (R483). -/
def Tdu.powerOn (d : Tdu) (lc dieId : Nat) : Tdu :=
  let z := Tdu.reset
  Tdu.drive (d0 := d) { z with
    fuses := ⟨lc, dieId⟩
    time := { z.time with clock := false, vdd := d.time.vdd, gated := d.time.gated }
    out := d.out
    free := d.free }

/-- A HELLO on link `l` (R453). -/
def Tdu.hello (d : Tdu) (l : Nat) : List Byte :=
  withCrc (leBytes 1 0xB0 ++ leBytes 1 (d.rd Reg.TGEN_BOOT_STATE) ++ leBytes 1 0x20 ++ leBytes 1 d.fuses.lc ++
    leBytes 8 d.fuses.dieId ++ leBytes 2 d.ctl.refVer ++ leBytes 1 d.ctl.refCode ++ leBytes 1 l ++ zeros 12)

/-- HELLO records leave on every link that has trained, until the microcode runs (R453). -/
def Tdu.sendHello (d : Tdu) : Tdu :=
  if !d.reachable || !d.time.clock || d.rd Reg.TGEN_BOOT_STATE == 2 then d
  else forEach ((List.range 2).filter fun l => (d.lnk l).up)
    (fun l d => (d.bump Reg.TGEN_HELLO_CNT).emitOut (.vct l (d.hello l))) d

/-! ## Meanings -/

/-- TDU_PERIOD_BOUNDARY. -/
def execTduPeriodBoundary (t : T64) (act : CoreAct) (upset : List (Nat × Nat)) (s : State) : Host.Outcome State Fault Refusal :=
  .next (s.onCore t act fun d => d.periodBoundary upset)

/-- TDU_PATH_BOUNDARY. -/
def execTduPathBoundary (t : T64) (s : State) : Host.Outcome State Fault Refusal :=
  .next (s.onDie t fun d => d.pathBoundary)

/-- TDU_GATE_ASSERT. The region's PLL stops with it, and has to lock again (R483; assumption 68). -/
def execTduGateAssert (t : T64) (act : CoreAct) (s : State) : Host.Outcome State Fault Refusal :=
  .next (s.onDieInput t (fun d => (d.core act).gate) fun i => { i with gated := true, clock := false })

/-- TDU_GATE_RELEASE: the region restarts, with FT still to be re-acquired (R66). -/
def execTduGateRelease (t : T64) (s : State) : Host.Outcome State Fault Refusal :=
  .next (s.onDieInput t id fun i => { i with gated := false })

/-- VDD_TDU_LOSS. The PLL has to lock again (R483). -/
def execVddTduLoss (t : T64) (s : State) : Host.Outcome State Fault Refusal :=
  .next (s.onDieInput t Tdu.vddLoss fun i => { i with vdd := false, clock := false })

/-- VDD_TDU_RETURN: the region restarts, unless it is still gated (R479). -/
def execVddTduReturn (t : T64) (s : State) : Host.Outcome State Fault Refusal :=
  .next (s.onDieInput t id fun i => { i with vdd := true })

/-- TDU_REFIN_STOP: the reference time clock stops (R66, R483). -/
def execTduRefinStop (t : T64) (s : State) : Host.Outcome State Fault Refusal :=
  .next (s.onDieInput t (·.stopTime 2) fun i => { i with clock := false })

/-- TDU_PLL_LOCK: the reference time clock runs again (R483). -/
def execTduPllLock (t : T64) (s : State) : Host.Outcome State Fault Refusal :=
  .next (s.onDieInput t id fun i => { i with clock := true })

/-- TDU_POR. -/
def execTduPor (lc : Fin 8) (dieId : BitVec 64) (s : State) : Host.Outcome State Fault Refusal :=
  .next (s.onTdu fun d => d.powerOn lc dieId.toNat)

/-- TDU_POR_N_FALL: the always-on rail is out of range, and the TDU is off until its rise (R487). -/
def execTduPorNFall (s : State) : Host.Outcome State Fault Refusal :=
  .next (s.onTdu fun d => ({ d with time := { d.time with por := false } }).drive d)

/-- HELLO_SEND. -/
def execHelloSend (t : T64) (s : State) : Host.Outcome State Fault Refusal :=
  .next (s.onDie t fun d => d.sendHello)

end Sys2Proof.Machine
end

