-- ==== Sys2Proof/Machine/Freeze.lean ====
section
/-!
DEFINITION. The events of a FREEZE (R344, R345).
-/

namespace Sys2Proof.Machine

/-- FREEZE_COPY_COMPLETE of ring `ring`: 0 to 3 a section, 4 the island. -/
def execFreezeCopyComplete (t : T64) (ring : Fin 5) (s : State) : Host.Outcome State Fault Refusal :=
  .next (s.onIsland t fun x => x.freezeCopy ring)

/-- WINDOW_TIMEOUT of ring `ring`. -/
def execWindowTimeout (t : T64) (ring : Fin 5) (s : State) : Host.Outcome State Fault Refusal :=
  .next (s.onIsland t fun x => x.windowTimeout ring)

end Sys2Proof.Machine
end

