-- ==== Sys2Proof/Machine/Links.lean ====
section
/-!
DEFINITION. The chip-to-chip links at either end (R32): they come up, go down, and report what they lost.
-/

namespace Sys2Proof.Machine

/-- ECHO_RX. An echo is a record of its die like any other: its meter counts it (R306, R310). -/
def execEchoRx (t : T64) (link : Fin 32) (s : State) : Host.Outcome State Fault Refusal :=
  .next (s.onIsland t fun x => x.metered (link.val % 16) Config.echoLen fun x _ => x.echoIn link t)

/-- LINK_UP. -/
def execLinkUp (t : T64) (e : LinkEnd) (s : State) : Host.Outcome State Fault Refusal :=
  match e with
  | .tau l => .next (s.onTau fun x => if x.on then (x.advance t).linkUp l.val else x)
  | .tdu l => .next (s.onDie t fun d => (d.linkUp l.val).flushCtl)

/-- LINK_DOWN. `cut`: at the TAU's end, it cut off a record part-way. The TDU knows by its own pacing. -/
def execLinkDown (t : T64) (e : LinkEnd) (cut : Bool) (s : State) : Host.Outcome State Fault Refusal :=
  match e with
  | .tau l => .next (s.onTau fun x => if x.on then (x.advance t).linkDown l.val cut else x)
  | .tdu l => .next (s.onDie t fun d => d.linkDown l.val)

/-- LINK_DISCARD_REPORT: the sender counts the record that the link lost whole (R32). -/
def execLinkDiscardReport (t : T64) (e : LinkEnd) (s : State) : Host.Outcome State Fault Refusal :=
  match e with
  | .tau _ => .next (s.onMain t fun x => x.bump Reg.SHP_DN_LINK_DROP_CNT)
  | .tdu _ => .next (s.onDie t fun d => d.bump Reg.TEMIT_LINK_DROP_CNT)

end Sys2Proof.Machine
end

