-- ==== Sys2Proof/Machine/Receive.lean ====
section
/-!
DEFINITION. What the TAU takes from below, from above and out of long-haul frames: metering (R310 to R312), the checks of coaches
(R174, R154), the rewriting of ranks at a FEDERATION TAU (R153), and where each class goes (R176, R178, R222, R239, R291, R301,
R302, R361), and the control records of a frame (R378, R384, R457).
-/

namespace Sys2Proof.Machine

/-! ## Where a record comes from -/

/-- The arrival of a record: the attached child it comes from, the section that receives it, and how COACH_DAMAGED names its link
(DEDUCED: the child index where the record came over the network). -/
structure Arrival where
  kid : Option Nat
  sec : Nat
  key : Nat
  link : Nat

/-- Where a record comes from. -/
def Tau.whence (x : Tau) : Sender → Arrival
  | .link l =>
    let c := l.val % 16
    ⟨if x.isTray && (x.kid c).isSome then some c else none, x.linkHome l, l, l⟩
  | .child c s => ⟨if (x.kid c).isSome then some c.val else none, if x.inService s then s else x.anySec, 64 + c, c⟩
  | .parent => ⟨none, x.anySec, 128, 0xFF⟩
  | .other _ => ⟨none, x.anySec, 129, 0xFF⟩

/-! ## The checks of R174 -/

/-- The class is one that this TAU's role accepts: from TDUs at a TRAY, from TAUs elsewhere (R149). -/
def Tau.takesClass (x : Tau) (cls : Nat) : Bool := if x.isTray then cls != 6 else decide (2 ≤ cls) && decide (cls ≤ 6)

/-- The RANK is expected of child `c` (R174, R178). A ROOT below a FEDERATION TAU writes the ranks of its own tree (R153). -/
def Tau.rankExpected (x : Tau) (c : Nat) (h : Hdr) : Bool :=
  let own := x.kidBase c - (if x.role = 4 then c * 262144 else 0)
  if x.isTray || h.cls == 6 then h.rank == own else decide (own ≤ h.rank) && decide (h.rank < own + x.kidSpan c)

/-- The length that R141 gives an event code; none for a code it does not list. -/
def eventLen : Nat → Option Nat
  | 1 | 4 => some 48
  | 2 | 3 => some 56
  | _ => none

/-- The fields that a MATCH answer selects. -/
def matchFields (fs : List Desc) (r : List Byte) : List Desc :=
  (List.range fs.length).filterMap fun f => if (fieldAt r 48 16).testBit f then fs[f]? else none

/-- The fields of a MATCH answer as they stand from byte 64, and how many bytes they take. With COUNT_ONLY there are none. -/
def matchParts (fs : List Desc) (r : List Byte) : Option (List (Desc × List Byte) × Nat) :=
  splitFields (matchFields fs r) 0 ((r.drop 64).take (r.length - 68))

/-- The length that R221 and R239 give a DETAIL coach. `fs`: the fields of its consist, where it is loaded. -/
def detailOk (fs : Option (List Desc)) (consist : Nat) (r : List Byte) : Bool :=
  match fieldAt r 40 1, fs with
  | 5, _ => consist == 0xFFFF && r.length == 72
  | 4, some _ => r.length == 80
  | 0, some fs => r.length == 72 || (match matchParts fs r with | some (_, e) => r.length == recLen (40 + e) | none => false)
  | n, some _ => decide (n ≤ 3) && r.length == 48
  | _, none => false

/-- The length that R291 gives a DIGEST coach. -/
def digestOk (r : List Byte) : Bool :=
  let n := fieldAt r 38 2
  match fieldAt r 32 1 with
  | 0 => r.length == 64 + 8 * n
  | 1 | 3 => r.length == 80
  | 2 => r.length == 136
  | 4 => decide (n ≤ 120) && r.length == recLen (24 + 8 * n)
  | _ => false

/-- The length that R359 gives a BULK record. -/
def bulkOk (r : List Byte) : Bool :=
  let n := fieldAt r 36 2
  decide (1 ≤ n) && decide (n ≤ 972) && r.length == recLen (24 + n)

/-- Check 4 of R174, with the built-in consists of R166. -/
def Tau.contentOk (x : Tau) (h : Hdr) (r : List Byte) : Bool :=
  let k := x.consistIn h.consist (h.t / 2 ^ 18)
  let fs := k.map (·.fields)
  match h.cls with
  | 0 => h.consist == 0xFF00 && r.length == 32
  | 1 => match k with | some k => k.lengthFits r | none => false
  | 2 => h.consist == 0xFF02 && eventLen (fieldAt r 24 2) == some r.length
  | 3 => h.consist == 0xFF01 && r.length == 56
  | 4 => detailOk fs h.consist r
  | 5 => h.consist == 0xFFFF && digestOk r
  | 6 => (h.consist == 0xFF00 || k.isSome) && (trainFields (fs.getD []) r).isSome
  | _ => h.consist == 0xFFFF && bulkOk r

/-- The first check of R174 that a record fails; 0 for none. -/
def Tau.coachFault (x : Tau) (kid : Option Nat) (r : List Byte) : Nat :=
  let h := Hdr.parse r
  if !(h.len == r.length && r.length % 8 == 0 && decide (32 ≤ r.length) && decide (r.length ≤ if h.cls = 6 then 4096 else 1024)) then 1
  else if !crcOk r then 2
  else match kid with
    | none => 3
    | some c =>
      if !(h.ver == 1 && !h.rsv && x.takesClass h.cls && x.rankExpected c h) then 3 else if !x.contentOk h r then 4 else 0

/-- A damaged coach (R174): counted, and recorded where it is the first of its link in the period. -/
def Tau.damaged (x : Tau) (a : Arrival) (check : Nat) : Tau :=
  let cnt := match check with
    | 1 => Reg.SCB_DMG_LEN_CNT | 2 => Reg.SCB_DMG_CRC_CNT | 3 => Reg.SCB_DMG_ID_CNT | _ => Reg.SCB_DMG_CST_CNT
  let x := x.bump cnt (s := a.sec)
  if x.scb.dmg.contains a.key then x
  else
    { x with scb := { x.scb with dmg := a.key :: x.scb.dmg } }.record a.sec 0 3 0x0301
      (leBytes 1 a.link ++ leBytes 1 check ++ zeros 6 ++ leBytes 8 x.per)

/-- A coach is stale (R154). A handle that has had no epoch here gives nothing to compare with. -/
def Tau.stale (x : Tau) (h : Hdr) : Bool :=
  h.job != 0xFFFF && [1, 2, 4, 5, 6].contains h.cls &&
    (match x.epochAt h.job (h.t / 2 ^ 18) with | some e => e % 256 != h.epochLo | none => false)

/-! ## Federated ranks (R153) -/

/-- The 3-byte rank at byte `o`, federated. -/
def fedAt (c o : Nat) (b : List Byte) : List Byte := b.take o ++ leBytes 3 (fedRank c (fieldAt b o 3)) ++ b.drop (o + 3)

/-- The ranks inside a field with its coach encoding (R156), federated. -/
def fedField (c : Nat) (d : Desc) (b : List Byte) : List Byte :=
  match d.type with
  | 4 => b.take 8 ++ (chunks 12 (fieldAt b 0 1) (b.drop 8)).flatMap (fedAt c 8)
  | 5 => fedAt c 8 b
  | _ => b

/-- A record that a FEDERATION TAU takes from ROOT child `c`, with its ranks rewritten. Trains are rewritten as they are merged. -/
def Tau.federate (x : Tau) (c : Nat) (r : List Byte) : List Byte :=
  let h := Hdr.parse r
  if x.role ≠ 4 ∨ h.cls = 6 then r
  else
    let b := fedAt c 6 (r.take (r.length - 4))
    if h.cls = 4 ∧ fieldAt r 40 1 = 0 then
      match matchParts (x.fieldsIn h.consist (h.t / 2 ^ 18)) r with
      | some (l, _) => withCrc (b.take 64 ++ padLen (b.length - 64) (l.foldl (fun o (d, f) => padTo 8 o ++ fedField c d f) []))
      | none => withCrc b
    else if h.cls = 5 ∧ fieldAt r 32 1 = 1 then withCrc (fedAt c 68 (fedAt c 64 b))
    else withCrc b

/-! ## Where each class goes -/

/-- An EVENT or GAP coach (R178). -/
def Tau.eventIn (x : Tau) (sec : Nat) (yellow : Bool) (r : List Byte) : Tau :=
  let h := Hdr.parse r
  let x := x.record sec 0 h.sev (if h.cls = 2 then 0x0305 else 0x0306) r
  let x :=
    if x.rd Reg.SCB_EVT_FWD_SEV (s := sec) ≤ h.sev then ((x.toParent yellow r).toStandby yellow r).bump Reg.SCB_EVT_FWD_CNT (s := sec)
    else x
  x.bump Reg.SCB_EVT_CNT (s := sec)

/-- A DETAIL coach of child `c` (R222, R239): a TDU's probe answer, an END, or another answer. -/
def Tau.detailIn (x : Tau) (sec c : Nat) (yellow : Bool) (r : List Byte) : Tau :=
  match fieldAt r 40 1 with
  | 5 =>
    if x.isTray then
      x.probeAnswer c (fieldAt r 24 4) (fieldAt r 65 1 % 2) [fieldAt r 44 4, fieldAt r 48 4, fieldAt r 52 4, fieldAt r 56 4]
    else x
  | 4 => (x.endRx sec c r).backupCheck
  | n => (x.answerRx sec c yellow n r).backupCheck

/-- A DIGEST coach of child `c` (R289, R291, R301, R302). -/
def Tau.digestIn (x : Tau) (sec c : Nat) (yellow : Bool) (r : List Byte) : Tau :=
  match fieldAt r 32 1 with
  | 0 | 1 => x.answerRx sec c yellow 0 r
  | 2 => if x.isTray then ((x.screenSum r).runProgress c (fieldAt r 34 2) (fieldAt r 36 1) (fieldAt r 64 32)).sendAgain c else x
  | 3 => x.screenFail sec yellow r
  | _ => x.tallyRx r

/-- A coach, train or BULK record that has passed the checks (R149, R176). -/
def Tau.accepted (x : Tau) (sec c : Nat) (yellow : Bool) (r : List Byte) : Tau :=
  let r := x.federate c r
  match (Hdr.parse r).cls with
  | 0 | 1 | 6 => x.arrival c sec r
  | 2 | 3 => x.eventIn sec yellow r
  | 4 => x.detailIn sec c yellow r
  | 5 => x.digestIn sec c yellow r
  | _ => x.bulkIn c r

/-- The checks of a coach, train or BULK record, after its meter. -/
def Tau.checked (x : Tau) (a : Arrival) (yellow : Bool) (r : List Byte) : Tau :=
  match x.coachFault a.kid r, a.kid with
  | 0, some c => if x.stale (Hdr.parse r) then x.bump Reg.SCB_STALE_CNT (s := a.sec) else x.accepted a.sec c yellow r
  | 0, none => x
  | n + 1, _ => x.damaged a (n + 1)

/-- A coach, train or BULK record arrives. The meter goes by the record's LEN (R310). -/
def Tau.coachIn (x : Tau) (from_ : Sender) (r : List Byte) : Tau :=
  let a := x.whence from_
  match a.kid with
  | some c => x.metered c (fieldAt r 2 2) fun x yellow => x.checked a yellow r
  | none => x.checked a false r

/-! ## Control records (R457, R458) -/

/-- A child TAU's probe answer (R461). -/
def Tau.childAnswer (x : Tau) (c : Nat) (r : List Byte) : Tau :=
  if !ctlOk 0xB5 r || r.length != 72 || x.isTray then x.bump Reg.GEN_CTL_DMG_CNT else x.probeAnswer c (fieldAt r 4 4) 0 []

/-- A control record of the parent. `port`: the long-haul port it came over. -/
def Tau.fromAbove (x : Tau) (port : Option Nat) (r : List Byte) : Tau :=
  let ct := fieldAt r 0 1
  if 0x81 ≤ ct ∧ ct ≤ 0x8C then (x.fragmentIn r).followUps
  else match ct with
    | 0xB2 => x.answerIn r
    | 0xB3 => x.pulseAckRx (port.map (· + 2)) r
    | 0xB4 => x.childProbe r
    | 0xBC => x.surveyRx r
    | 0xBD => x.cancelRx r
    | _ => x.bump Reg.GEN_CTL_DMG_CNT

/-- A control record of child TAU `c`, past its meter. -/
def Tau.fromBelow (x : Tau) (c : Nat) (r : List Byte) : Tau :=
  match fieldAt r 0 1 with
  | 0xA0 => x.ackIn c r
  | 0xA1 => x.replayRequestIn c r
  | 0xA2 => x.resyncIn r
  | 0xB1 => x.attachIn (if (fieldAt r 1 1).testBit 0 then some c else none) ((x.kid c).bind (·.via)) r
  | 0xB5 => x.childAnswer c r
  | _ => x.bump Reg.GEN_CTL_DMG_CNT

/-- A control record of a die over link `l`, past its meter. -/
def Tau.fromDie (x : Tau) (l : Nat) (r : List Byte) : Tau :=
  match fieldAt r 0 1 with
  | 0xA0 => x.ackIn (l % 16) r
  | 0xA1 => x.replayRequestIn (l % 16) r
  | 0xB0 => x.helloIn l r
  | 0xBB => x.tduResponse (l % 16) r
  | _ => x.bump Reg.GEN_CTL_DMG_CNT

/-- A control record arrives. -/
def Tau.controlIn (x : Tau) (port : Option Nat) (from_ : Sender) (r : List Byte) : Tau :=
  match from_ with
  | .link l => x.metered (l.val % 16) r.length fun x _ => x.fromDie l r
  | .child c _ => x.metered c r.length fun x _ => x.fromBelow c r
  | .parent => x.fromAbove port r
  | .other via => match fieldAt r 0 1 with
    | 0xB1 => x.attachRx none (via.map Fin.val) r
    | 0xB2 => x.answerIn r
    | _ => x.bump Reg.GEN_CTL_DMG_CNT

/-- A record that reaches the parsers of a failed section is lost (R201). -/
def Tau.lostAt (x : Tau) : Sender → Bool
  | .link l => x.dead (x.linkHome l)
  | .child _ s => x.dead s
  | _ => false

/-- A record arrives; over VC_T it leaves the link's buffer at once (R307). Bit 7 of its first byte tells a control record (R457). -/
def Tau.receive (x : Tau) (port : Option Nat) (from_ : Sender) (r : List Byte) : Tau :=
  let x := match from_ with | .link l => x.vcReturn l r.length | _ => x
  if x.lostAt from_ then x
  else if (fieldAt r 0 1).testBit 7 then x.controlIn port from_ r else x.coachIn from_ r

/-! ## Long-haul frames (R378, R384) -/

/-- The bytes of the control record that starts here (R457); 0 where its CTYPE is reserved. -/
def controlLen (b : List Byte) : Nat :=
  let ct := fieldAt b 0 1
  if 0x81 ≤ ct ∧ ct ≤ 0x8C then ceilDiv (36 + fieldAt b 28 2) 8 * 8
  else match ct with
    | 0xA0 => 120
    | 0xA1 | 0xA2 => 24 + 16 * fieldAt b 2 2
    | 0xB1 => fieldAt b 2 2
    | 0xB0 | 0xB2 | 0xB3 | 0xB4 => 32
    | 0xB5 => 72
    | 0xBC => fieldAt b 4 2
    | 0xBD => 24
    | _ => 0

/-- The records of a frame's plaintext. Where one does not tell its length, or tells more than is left, the rest stands as one
record, which fails its checks. -/
def frameRecords : Nat → List Byte → List (List Byte)
  | 0, _ => []
  | k + 1, b =>
    let n := if (fieldAt b 0 1).testBit 7 then controlLen b else fieldAt b 2 2
    if b.isEmpty then []
    else if n = 0 ∨ b.length < n then [b]
    else b.take n :: frameRecords k (b.drop n)

/-- A frame arrives on long-haul port `j`; one for a failed engine is lost (R377). -/
def Tau.frameIn (x : Tau) (j : Nat) (from_ : Sender) (e : List Byte) (dup : Nat) : Tau :=
  if x.dead (x.lhEngine j) then x
  else match x.openLh (x.lhEngine j) dup e with
  | (x, none) => x.cipherGuard
  | (x, some p) => (forEach (frameRecords 512 p) (fun r (x : Tau) => x.receive (some j) from_ r) x).cipherGuard

/-! ## Meanings

Each of these is the arrival of one record at a TAU. What a record is stands in the record itself. -/

/-- COACH_ARRIVAL. -/
def execCoachArrival (t : T64) (from_ : Sender) (r : List Byte) (s : State) : Host.Outcome State Fault Refusal :=
  .next (s.onMain t fun x => x.receive none from_ r)

/-- EVENT_COACH_RX. -/
def execEventCoachRx (t : T64) (from_ : Sender) (r : List Byte) (s : State) : Host.Outcome State Fault Refusal :=
  .next (s.onMain t fun x => x.receive none from_ r)

/-- SURVEY_ANSWER_RX. -/
def execSurveyAnswerRx (t : T64) (from_ : Sender) (r : List Byte) (s : State) : Host.Outcome State Fault Refusal :=
  .next (s.onMain t fun x => x.receive none from_ r)

/-- SURVEY_END_RX. -/
def execSurveyEndRx (t : T64) (from_ : Sender) (r : List Byte) (s : State) : Host.Outcome State Fault Refusal :=
  .next (s.onMain t fun x => x.receive none from_ r)

/-- PROBE_ANSWER_RX: a DETAIL coach of a TDU, or the control record of a child TAU. -/
def execProbeAnswerRx (t : T64) (from_ : Sender) (r : List Byte) (s : State) : Host.Outcome State Fault Refusal :=
  .next (s.onMain t fun x => x.receive none from_ r)

/-- SCREEN_SUM_RX. -/
def execScreenSumRx (t : T64) (from_ : Sender) (r : List Byte) (s : State) : Host.Outcome State Fault Refusal :=
  .next (s.onMain t fun x => x.receive none from_ r)

/-- SCREEN_FAIL_RX. -/
def execScreenFailRx (t : T64) (from_ : Sender) (r : List Byte) (s : State) : Host.Outcome State Fault Refusal :=
  .next (s.onMain t fun x => x.receive none from_ r)

/-- TALLY_RX. -/
def execTallyRx (t : T64) (from_ : Sender) (r : List Byte) (s : State) : Host.Outcome State Fault Refusal :=
  .next (s.onMain t fun x => x.receive none from_ r)

/-- TRACE_BULK_RX. -/
def execTraceBulkRx (t : T64) (from_ : Sender) (r : List Byte) (s : State) : Host.Outcome State Fault Refusal :=
  .next (s.onMain t fun x => x.receive none from_ r)

/-- LH_FRAME_RX on long-haul port `port` from the peer `from_`. `dup`: mismatches that the checked datapath meets (R386). -/
def execLhFrameRx (t : T64) (port : Fin 16) (from_ : Sender) (e : List Byte) (dup : Nat) (s : State) : Host.Outcome State Fault Refusal :=
  .next (s.onMain t fun x => x.frameIn port from_ e dup)

/-- CHUNK_FETCH_RX: a survey record of KIND 2 reaches a TDU (R289, R290). -/
def execChunkFetchRx (t : T64) (r : List Byte) (s : State) : Host.Outcome State Fault Refusal :=
  .next (s.onDie t fun d => d.surveyIn r)

/-- TAP_ARM_RX: a survey record of KIND 3 reaches a TDU (R289, R290). -/
def execTapArmRx (t : T64) (r : List Byte) (s : State) : Host.Outcome State Fault Refusal :=
  .next (s.onDie t fun d => d.surveyIn r)

end Sys2Proof.Machine
end

