-- ==== Sys2Proof/Machine/TauBoundary.lean ====
section
/-!
DEFINITION. The period boundary of the TAU (R30): what commits there, and what opens, is released, is judged and starts again. Commits
come before any context of the new period opens (R30).
-/

namespace Sys2Proof.Machine

/-- The pulse consist was due in the period that begins here (R236). -/
def Tau.pulseDue (x : Tau) : Bool :=
  match x.stream 0xFFFF 0xFF00 with
  | some s => s.due x.per
  | none => false

/-- The TAU judges its parent, or a standby ROOT the active ROOT (R24, R25, R236). -/
def Tau.parentBoundary (x : Tau) : Tau :=
  if !x.pulseDue then x
  else match x.judgeParent with
    | (x, false) => x
    | (x, true) =>
      if x.isStandby then x.record x.pulseHome 0 5 0x0508 { x.lvVerdict 0xFF 2 0 with rank := x.base }.bytes else x.orphan

/-- What commits at a boundary, before anything opens (R30, R84, R198, R403, R413, R419). -/
def Tau.boundaryTakes (x : Tau) (upset : List (Nat × Nat × Nat)) : Tau :=
  let x := (x.releaseCtxs.sectionsCommit.fwBoundary.jobsDone.boundaryCommits).checkParity upset
  x.promoteDue.noticesDue.hvEnded.treeFree.reapItems

/-- What opens and is judged then (R181, R235 to R242, R420, R421). Contexts open under valid FT only (R53). -/
def Tau.boundaryOpens (x : Tau) : Tau :=
  let x := (if x.unset then x else x.openAll).scbBoundary.parentBoundary.probesDue
  let x := forEach x.children (fun c x => x.lvViews c) x
  x.foresightBoundary.ageing.orderRuns

/-- What starts again with the period (R101, R322, R342, R376), and the guard's look at mismatches met since (R386). -/
def Tau.boundaryRenews (x : Tau) : Tau :=
  x.freezeSamples.flushRecords.spillBoundary.cmpRetry.cipherGuard

/-- A period boundary. The island has its own part (R50, R323, R385, R446), and the check of its pages while the rails are down. `upset`:
words of the values in use whose parity no longer holds, by page, section and word (R439). -/
def Tau.periodBoundary (x : Tau) (upset : List (Nat × Nat × Nat)) : Tau :=
  let x := x.acceptAtBoundary.programFuses.nbrTimers
  let x := { x with cip := { x.cip with failed := [] } }
  if x.on then ((x.hbmBoundary.boundaryTakes upset).boundaryOpens).boundaryRenews else x.checkParity upset

/-! ## Meaning -/

/-- TAU_PERIOD_BOUNDARY. -/
def execTauPeriodBoundary (t : T64) (upset : List (Nat × Nat × Nat)) (s : State) : Host.Outcome State Fault Refusal :=
  .next (s.onIsland t fun x => x.periodBoundary upset)

end Sys2Proof.Machine
end

