-- ==== Sys2Proof/Machine/Dispatch.lean ====
section
/-!
DEFINITION. Which meaning each command has: one arm for each constructor of Instr.
-/

namespace Sys2Proof.Machine

/-- The command's effect on everything but the queue of waiting commands. -/
def exec (i : Instr) (s : State) : Host.Outcome State Fault Refusal :=
  match i with
  | .roleWrite t port v => Sys2Proof.Machine.execRoleWrite t port v s
  | .attachGo t port v => Sys2Proof.Machine.execAttachGo t port v s
  | .attachRequestRx t via r => Sys2Proof.Machine.execAttachRequestRx t via r s
  | .attachAnswerRx t r => Sys2Proof.Machine.execAttachAnswerRx t r s
  | .adoptRequestRx t up via r => Sys2Proof.Machine.execAdoptRequestRx t up via r s
  | .adoptConfirmationRx t r => Sys2Proof.Machine.execAdoptConfirmationRx t r s
  | .promoteGo t port v => Sys2Proof.Machine.execPromoteGo t port v s
  | .trainDigestRx t job consist period digest => Sys2Proof.Machine.execTrainDigestRx t job consist period digest s
  | .linkUp t e => Sys2Proof.Machine.execLinkUp t e s
  | .linkDown t e cut => Sys2Proof.Machine.execLinkDown t e cut s
  | .linkDiscardReport t e => Sys2Proof.Machine.execLinkDiscardReport t e s
  | .linkRetrain t link => Sys2Proof.Machine.execLinkRetrain t link s
  | .mainRailsLoss t => Sys2Proof.Machine.execMainRailsLoss t s
  | .mainReset t pcie => Sys2Proof.Machine.execMainReset t pcie s
  | .coldReset => Sys2Proof.Machine.execColdReset s
  | .islPgFall t => Sys2Proof.Machine.execIslPgFall t s
  | .ptpSyncRx t port m => Sys2Proof.Machine.execPtpSyncRx t port m s
  | .ptpFollowUpRx t port m => Sys2Proof.Machine.execPtpFollowUpRx t port m s
  | .ptpDelayReqRx t port m => Sys2Proof.Machine.execPtpDelayReqRx t port m s
  | .ptpDelayRespRx t port m => Sys2Proof.Machine.execPtpDelayRespRx t port m s
  | .ptpPdelayReqRx t t3 port m => Sys2Proof.Machine.execPtpPdelayReqRx t t3 port m s
  | .ptpPdelayRespRx t port m => Sys2Proof.Machine.execPtpPdelayRespRx t port m s
  | .ptpPdelayRespFollowUpRx t port m => Sys2Proof.Machine.execPtpPdelayRespFollowUpRx t port m s
  | .ptpAnnounceRx t port a => Sys2Proof.Machine.execPtpAnnounceRx t port a s
  | .ptpSignalingManagementRx t => Sys2Proof.Machine.execPtpSignalingManagementRx t s
  | .ptpTransmitInterval t port kind => Sys2Proof.Machine.execPtpTransmitInterval t port kind s
  | .ppsInEdge t inTol => Sys2Proof.Machine.execPpsInEdge t inTol s
  | .ref10mInQualified t => Sys2Proof.Machine.execRef10mInQualified t s
  | .ref10mInDisqualified t => Sys2Proof.Machine.execRef10mInDisqualified t s
  | .todSet t port v => Sys2Proof.Machine.execTodSet t port v s
  | .jumpAccept t port v => Sys2Proof.Machine.execJumpAccept t port v s
  | .timeWordTx t => Sys2Proof.Machine.execTimeWordTx t s
  | .timeWordRx t link w => Sys2Proof.Machine.execTimeWordRx t link w s
  | .echoRx t link => Sys2Proof.Machine.execEchoRx t link s
  | .echoReplyRx t link t2 t3 => Sys2Proof.Machine.execEchoReplyRx t link t2 t3 s
  | .twLostTimeout t => Sys2Proof.Machine.execTwLostTimeout t s
  | .tduGateAssert t act => Sys2Proof.Machine.execTduGateAssert t act s
  | .tduGateRelease t => Sys2Proof.Machine.execTduGateRelease t s
  | .vddTduLoss t => Sys2Proof.Machine.execVddTduLoss t s
  | .tduRefinStop t => Sys2Proof.Machine.execTduRefinStop t s
  | .tduPor lc dieId => Sys2Proof.Machine.execTduPor lc dieId s
  | .stretchAssert t act => Sys2Proof.Machine.execStretchAssert t act s
  | .stretchDeassert t act => Sys2Proof.Machine.execStretchDeassert t act s
  | .stretchMergeExpiry t => Sys2Proof.Machine.execStretchMergeExpiry t s
  | .tevEdge t k => Sys2Proof.Machine.execTevEdge t k s
  | .ppsOutEdge t => Sys2Proof.Machine.execPpsOutEdge t s
  | .tauPeriodBoundary t upset => Sys2Proof.Machine.execTauPeriodBoundary t upset s
  | .tduPeriodBoundary t act upset => Sys2Proof.Machine.execTduPeriodBoundary t act upset s
  | .tduPathBoundary t => Sys2Proof.Machine.execTduPathBoundary t s
  | .tauPathBoundary t reach => Sys2Proof.Machine.execTauPathBoundary t reach s
  | .triggerFire t k => Sys2Proof.Machine.execTriggerFire t k s
  | .markerPresent t code step coll slot => Sys2Proof.Machine.execMarkerPresent t code step coll slot s
  | .phasePresent t code coll => Sys2Proof.Machine.execPhasePresent t code coll s
  | .sensorResult t ch val err => Sys2Proof.Machine.execSensorResult t ch val err s
  | .linkRetryStrobe t link => Sys2Proof.Machine.execLinkRetryStrobe t link s
  | .counterOverflow t act => Sys2Proof.Machine.execCounterOverflow t act s
  | .prgHiWrite t port k v act => Sys2Proof.Machine.execPrgHiWrite t port k v act s
  | .tduIntrWindow t => Sys2Proof.Machine.execTduIntrWindow t s
  | .tauIntrWindow t => Sys2Proof.Machine.execTauIntrWindow t s
  | .coachArrival t from_ r => Sys2Proof.Machine.execCoachArrival t from_ r s
  | .eventCoachRx t from_ r => Sys2Proof.Machine.execEventCoachRx t from_ r s
  | .contextAdmit t => Sys2Proof.Machine.execContextAdmit t s
  | .contextClose t => Sys2Proof.Machine.execContextClose t s
  | .trainBuildComplete t job consist period reach => Sys2Proof.Machine.execTrainBuildComplete t job consist period reach s
  | .excAck t port sec v => Sys2Proof.Machine.execExcAck t port sec v s
  | .excDeadlineExpiry t sec => Sys2Proof.Machine.execExcDeadlineExpiry t sec s
  | .surveyIssue t port v => Sys2Proof.Machine.execSurveyIssue t port v s
  | .surveyDescriptorRx t r => Sys2Proof.Machine.execSurveyDescriptorRx t r s
  | .tduSurveyRx t r => Sys2Proof.Machine.execTduSurveyRx t r s
  | .surveyCancel t port v => Sys2Proof.Machine.execSurveyCancel t port v s
  | .surveyCancelRx t r => Sys2Proof.Machine.execSurveyCancelRx t r s
  | .tduSurveyCancelRx t r => Sys2Proof.Machine.execTduSurveyCancelRx t r s
  | .surveyAnswerRx t from_ r => Sys2Proof.Machine.execSurveyAnswerRx t from_ r s
  | .surveyEndRx t from_ r => Sys2Proof.Machine.execSurveyEndRx t from_ r s
  | .surveyDeadline t => Sys2Proof.Machine.execSurveyDeadline t s
  | .stragglerWindowTimeout t unit => Sys2Proof.Machine.execStragglerWindowTimeout t unit s
  | .backupWaitExpiry t pair => Sys2Proof.Machine.execBackupWaitExpiry t pair s
  | .driftCapture t port k v => Sys2Proof.Machine.execDriftCapture t port k v s
  | .pulseAckRx t port r => Sys2Proof.Machine.execPulseAckRx t port r s
  | .probeRxTdu t link r => Sys2Proof.Machine.execProbeRxTdu t link r s
  | .childProbeRx t r => Sys2Proof.Machine.execChildProbeRx t r s
  | .probeAnswerRx t from_ r => Sys2Proof.Machine.execProbeAnswerRx t from_ r s
  | .probeClassify t child upA upB dataA dataB => Sys2Proof.Machine.execProbeClassify t child upA upB dataA dataB s
  | .livenessReprobe t child => Sys2Proof.Machine.execLivenessReprobe t child s
  | .vectorScored t sec => Sys2Proof.Machine.execVectorScored t sec s
  | .fillCutoff t => Sys2Proof.Machine.execFillCutoff t s
  | .hostVectorSubmit t port sec v mem => Sys2Proof.Machine.execHostVectorSubmit t port sec v mem s
  | .hostVectorComplete t sec => Sys2Proof.Machine.execHostVectorComplete t sec s
  | .fenceAck t port v => Sys2Proof.Machine.execFenceAck t port v s
  | .tapFlit t link dir tag payload => Sys2Proof.Machine.execTapFlit t link dir tag payload s
  | .chunkFetchRx t r => Sys2Proof.Machine.execChunkFetchRx t r s
  | .chunkFreezeTimeout t => Sys2Proof.Machine.execChunkFreezeTimeout t s
  | .tapArmRx t r => Sys2Proof.Machine.execTapArmRx t r s
  | .filterDeadline t f => Sys2Proof.Machine.execFilterDeadline t f s
  | .tapUnitArm t port k v => Sys2Proof.Machine.execTapUnitArm t port k v s
  | .tapUnitDisarm t port k v => Sys2Proof.Machine.execTapUnitDisarm t port k v s
  | .tapUnitFlit t unit tag payload => Sys2Proof.Machine.execTapUnitFlit t unit tag payload s
  | .tapUnitIdleTimeout t unit => Sys2Proof.Machine.execTapUnitIdleTimeout t unit s
  | .tapUnitDeadline t unit => Sys2Proof.Machine.execTapUnitDeadline t unit s
  | .sliceRequest t => Sys2Proof.Machine.execSliceRequest t s
  | .sliceGrant t => Sys2Proof.Machine.execSliceGrant t s
  | .sliceRequestTimeout t => Sys2Proof.Machine.execSliceRequestTimeout t s
  | .marginAck t => Sys2Proof.Machine.execMarginAck t s
  | .marginNak t => Sys2Proof.Machine.execMarginNak t s
  | .marginSettleTimeout t => Sys2Proof.Machine.execMarginSettleTimeout t s
  | .patternWord t w => Sys2Proof.Machine.execPatternWord t w s
  | .patternDone t => Sys2Proof.Machine.execPatternDone t s
  | .sliceRevoke t => Sys2Proof.Machine.execSliceRevoke t s
  | .sliceOverrun t => Sys2Proof.Machine.execSliceOverrun t s
  | .screenSumRx t from_ r => Sys2Proof.Machine.execScreenSumRx t from_ r s
  | .screenFailRx t from_ r => Sys2Proof.Machine.execScreenFailRx t from_ r s
  | .tallySend t => Sys2Proof.Machine.execTallySend t s
  | .tallyRx t from_ r => Sys2Proof.Machine.execTallyRx t from_ r s
  | .vcCreditReturn t e n => Sys2Proof.Machine.execVcCreditReturn t e n s
  | .egressTransmitStart t port reach => Sys2Proof.Machine.execEgressTransmitStart t port reach s
  | .mgmtRead t port src sport env dup => Sys2Proof.Machine.execMgmtRead t port src sport env dup s
  | .mgmtWrite t port src sport env dup m => Sys2Proof.Machine.execMgmtWrite t port src sport env dup m s
  | .mgmtReadBlock t port src sport env dup => Sys2Proof.Machine.execMgmtReadBlock t port src sport env dup s
  | .mgmtInvalidOp t port src sport env dup => Sys2Proof.Machine.execMgmtInvalidOp t port src sport env dup s
  | .icmpv6EchoRequest t port src r => Sys2Proof.Machine.execIcmpv6EchoRequest t port src r s
  | .neighborDiscovery t port src target adv => Sys2Proof.Machine.execNeighborDiscovery t port src target adv s
  | .templateRefresh t => Sys2Proof.Machine.execTemplateRefresh t s
  | .relayPayloadRx t child e => Sys2Proof.Machine.execRelayPayloadRx t child e s
  | .freezeStart t port ring v => Sys2Proof.Machine.execFreezeStart t port ring v s
  | .freezeCopyComplete t ring => Sys2Proof.Machine.execFreezeCopyComplete t ring s
  | .windowDataRead t port ring => Sys2Proof.Machine.execWindowDataRead t port ring s
  | .windowDone t port ring v => Sys2Proof.Machine.execWindowDone t port ring v s
  | .windowTimeout t ring => Sys2Proof.Machine.execWindowTimeout t ring s
  | .snapshotRead t port sec v => Sys2Proof.Machine.execSnapshotRead t port sec v s
  | .flowEvent t full e => Sys2Proof.Machine.execFlowEvent t full e s
  | .traceTriggerGo t port v => Sys2Proof.Machine.execTraceTriggerGo t port v s
  | .traceArm t port v => Sys2Proof.Machine.execTraceArm t port v s
  | .authRevoke t port v => Sys2Proof.Machine.execAuthRevoke t port v s
  | .debugAuthStart t => Sys2Proof.Machine.execDebugAuthStart t s
  | .debugAuthExpiry t => Sys2Proof.Machine.execDebugAuthExpiry t s
  | .traceGrantRx t r => Sys2Proof.Machine.execTraceGrantRx t r s
  | .sidingPost t port v mem => Sys2Proof.Machine.execSidingPost t port v mem s
  | .traceBulkRx t from_ r => Sys2Proof.Machine.execTraceBulkRx t from_ r s
  | .cmpJobPost t port sec v m => Sys2Proof.Machine.execCmpJobPost t port sec v m s
  | .cmpBufferPost t port sec v mem => Sys2Proof.Machine.execCmpBufferPost t port sec v mem s
  | .cmpJobAbort t port sec v => Sys2Proof.Machine.execCmpJobAbort t port sec v s
  | .cmpJobComplete t sec ctx => Sys2Proof.Machine.execCmpJobComplete t sec ctx s
  | .cmpFlushIdle t => Sys2Proof.Machine.execCmpFlushIdle t s
  | .frameSealTimeout t port dup => Sys2Proof.Machine.execFrameSealTimeout t port dup s
  | .lhFrameRx t port from_ e dup => Sys2Proof.Machine.execLhFrameRx t port from_ e dup s
  | .imgLoad t port v mem => Sys2Proof.Machine.execImgLoad t port v mem s
  | .noticeIssue t port v mem => Sys2Proof.Machine.execNoticeIssue t port v mem s
  | .noticeJobStart t r => Sys2Proof.Machine.execNoticeJobStart t r s
  | .noticeJobAbort t r => Sys2Proof.Machine.execNoticeJobAbort t r s
  | .noticeJobTeardown t r => Sys2Proof.Machine.execNoticeJobTeardown t r s
  | .noticeRelease t r => Sys2Proof.Machine.execNoticeRelease t r s
  | .noticeJobView t r => Sys2Proof.Machine.execNoticeJobView t r s
  | .noticeEpochAdvance t r => Sys2Proof.Machine.execNoticeEpochAdvance t r s
  | .noticeCommit t r => Sys2Proof.Machine.execNoticeCommit t r s
  | .noticeCancel t r => Sys2Proof.Machine.execNoticeCancel t r s
  | .noticeDisable t r => Sys2Proof.Machine.execNoticeDisable t r s
  | .noticeImage t r => Sys2Proof.Machine.execNoticeImage t r s
  | .noticePackRun t r => Sys2Proof.Machine.execNoticePackRun t r s
  | .noticeRankMap t r => Sys2Proof.Machine.execNoticeRankMap t r s
  | .noticeAckRx t child r => Sys2Proof.Machine.execNoticeAckRx t child r s
  | .noticeAckDeadline t => Sys2Proof.Machine.execNoticeAckDeadline t s
  | .replayRequestRx t child r => Sys2Proof.Machine.execReplayRequestRx t child r s
  | .resyncRx t child r => Sys2Proof.Machine.execResyncRx t child r s
  | .forceRelease t port v => Sys2Proof.Machine.execForceRelease t port v s
  | .tokenRequest t port v => Sys2Proof.Machine.execTokenRequest t port v s
  | .tokenRelease t port v => Sys2Proof.Machine.execTokenRelease t port v s
  | .tokenForceRelease t port v => Sys2Proof.Machine.execTokenForceRelease t port v s
  | .sectionDrain t port v => Sys2Proof.Machine.execSectionDrain t port v s
  | .sectionDrainComplete t => Sys2Proof.Machine.execSectionDrainComplete t s
  | .sectionReturn t port v => Sys2Proof.Machine.execSectionReturn t port v s
  | .guardKick t port sec v => Sys2Proof.Machine.execGuardKick t port sec v s
  | .guardExpiry t sec => Sys2Proof.Machine.execGuardExpiry t sec s
  | .islandGuardExpiry t => Sys2Proof.Machine.execIslandGuardExpiry t s
  | .bistStart t port sec v => Sys2Proof.Machine.execBistStart t port sec v s
  | .bistAbort t port sec v => Sys2Proof.Machine.execBistAbort t port sec v s
  | .bistSlice t sec bad pat last => Sys2Proof.Machine.execBistSlice t sec bad pat last s
  | .bistRepair t port sec v => Sys2Proof.Machine.execBistRepair t port sec v s
  | .fwLoad t port v mem => Sys2Proof.Machine.execFwLoad t port v mem s
  | .fwSwitchArm t port v => Sys2Proof.Machine.execFwSwitchArm t port v s
  | .fwConfirm t port v => Sys2Proof.Machine.execFwConfirm t port v s
  | .fwTrialTimeout t => Sys2Proof.Machine.execFwTrialTimeout t s
  | .packRunGraceExpiry t => Sys2Proof.Machine.execPackRunGraceExpiry t s
  | .updateStrobe t b port v act => Sys2Proof.Machine.execUpdateStrobe t b port v act s
  | .pageLock t b port page sec => Sys2Proof.Machine.execPageLock t b port page sec s
  | .pgErrCountClear t b port page sec => Sys2Proof.Machine.execPgErrCountClear t b port page sec s
  | .registerWrite t b port a len v m => Sys2Proof.Machine.execRegisterWrite t b port a len v m s
  | .bootGo t port v => Sys2Proof.Machine.execBootGo t port v s
  | .bootReadComplete t mem => Sys2Proof.Machine.execBootReadComplete t mem s
  | .ucodeLoad t port v mem => Sys2Proof.Machine.execUcodeLoad t port v mem s
  | .helloSend t => Sys2Proof.Machine.execHelloSend t s
  | .helloRx t link r => Sys2Proof.Machine.execHelloRx t link r s
  | .tduAttach t die locked => Sys2Proof.Machine.execTduAttach t die locked s
  | .tduAccess t port v => Sys2Proof.Machine.execTduAccess t port v s
  | .tduReadResponseRx t die r => Sys2Proof.Machine.execTduReadResponseRx t die r s
  | .tduWriteBatchRx t r act => Sys2Proof.Machine.execTduWriteBatchRx t r act s
  | .tduImageFragmentRx t r => Sys2Proof.Machine.execTduImageFragmentRx t r s
  | .tduKeyRx t r ret => Sys2Proof.Machine.execTduKeyRx t r ret s
  | .tduCmdRunPack t r => Sys2Proof.Machine.execTduCmdRunPack t r s
  | .tduCmdTestOverdue t r => Sys2Proof.Machine.execTduCmdTestOverdue t r s
  | .tduCmdJobEnd t r => Sys2Proof.Machine.execTduCmdJobEnd t r s
  | .tduCmdSchedCommit t r => Sys2Proof.Machine.execTduCmdSchedCommit t r s
  | .tduCmdSchedCancel t r => Sys2Proof.Machine.execTduCmdSchedCancel t r s
  | .tduCmdConsistDisable t r => Sys2Proof.Machine.execTduCmdConsistDisable t r s
  | .tduCmdPackDisable t r => Sys2Proof.Machine.execTduCmdPackDisable t r s
  | .tduCmdUnknown t r => Sys2Proof.Machine.execTduCmdUnknown t r s
  | .announceReceiptTimeout t port => Sys2Proof.Machine.execAnnounceReceiptTimeout t port s
  | .ppsInMissing t => Sys2Proof.Machine.execPpsInMissing t s
  | .tduPllLock t => Sys2Proof.Machine.execTduPllLock t s
  | .vddTduReturn t => Sys2Proof.Machine.execVddTduReturn t s
  | .tduPorNFall => Sys2Proof.Machine.execTduPorNFall s
  | .eventLineRise t line act => Sys2Proof.Machine.execEventLineRise t line act s
  | .lowWordRead t b port a len act => Sys2Proof.Machine.execLowWordRead t b port a len act s
  | .mgmtDatagramDiscard t port env dup => Sys2Proof.Machine.execMgmtDatagramDiscard t port env dup s
  | .noticeFragmentRx t r => Sys2Proof.Machine.execNoticeFragmentRx t r s
  | .islandCoreRestartDone t => Sys2Proof.Machine.execIslandCoreRestartDone t s

end Sys2Proof.Machine
end

