-- ==== Sys2Proof/WellFormed.lean ====
section
/-!
DEFINITION. The operands that a command can carry: the widths, grids and lengths that the manual gives them. No meaning relies on
these checks; a record or an access that breaks a rule of the manual is for the block to refuse, and is well-formed here as long
as it can reach the block at all.
-/

namespace Sys2Proof

/-- A record is at most 4,096 bytes long (R314). -/
def recWf (r : List Byte) : Bool := decide (r.length ≤ 4096)

/-- An instant on the grid of 2^k ticks (R5, R54). -/
def gridWf (k : Nat) (t : T64) : Bool := t.toNat % 2 ^ k == 0

/-- An address of a register window: 24 bits (R428, R429). -/
def addrWf (a : Nat) : Bool := decide (a < 2 ^ 24)

/-- The length of an access: one, two, four or eight bytes (R431). -/
def lenWf (n : Nat) : Bool := n == 1 || n == 2 || n == 4 || n == 8

/-- The fields of an IEEE 1588 message in their widths; a timestamp's nanoseconds are below one second (R40). -/
def PtpMsg.wf (m : PtpMsg) : Bool :=
  decide (m.domain < 2 ^ 8) && decide (m.seq < 2 ^ 16) && decide (m.sec < 2 ^ 48) && decide (m.ns < 1000000000) &&
    decide (-(2 ^ 63) ≤ m.corr) && decide (m.corr < 2 ^ 63)

/-- The fields of an Announce that the TAU takes, in their widths (R42). -/
def Announce.wf (a : Announce) : Bool := decide (a.domain < 2 ^ 8) && decide (a.utcOffset < 2 ^ 16) && decide (a.set.sender < 2 ^ 80)

/-- The fields of a collective tag in their widths (R275). -/
def FlitTag.wf (g : FlitTag) : Bool :=
  decide (g.coll < 2 ^ 16) && decide (g.inst < 2 ^ 8) && decide (g.offset < 2 ^ 37) && decide (g.src < 2 ^ 24) &&
    decide (g.dst < 2 ^ 24)

/-- What the trace port can show: at most two instructions retire in a cycle (R105), and the three cycles that follow are told of. -/
def actWf (a : CoreAct) : Bool :=
  a.after.length == 3 && a.after.all (fun c => decide (c.ret ≤ 2)) && a.runs.all (fun r => decide (r.2.tp.ret ≤ 2))

/-- A flit's tag, where it has one. -/
def tagWf : Option FlitTag → Bool
  | none => true
  | some g => g.wf

/-- The operands of a command are such as can reach the block. -/
def Instr.wf : Instr → Bool
  | .roleWrite _ _ _ => true
  | .attachGo _ _ _ => true
  | .attachRequestRx _ _ r => recWf r
  | .attachAnswerRx _ r => recWf r
  | .adoptRequestRx _ _ _ r => recWf r
  | .adoptConfirmationRx _ r => recWf r
  | .promoteGo _ _ _ => true
  | .trainDigestRx _ _ _ period _ => decide (period < 2 ^ 46)
  | .linkUp _ _ => true
  | .linkDown _ _ _ => true
  | .linkDiscardReport _ _ => true
  | .linkRetrain _ _ => true
  | .mainRailsLoss _ => true
  | .mainReset _ _ => true
  | .coldReset => true
  | .islPgFall _ => true
  | .ptpSyncRx _ _ m => m.wf
  | .ptpFollowUpRx _ _ m => m.wf
  | .ptpDelayReqRx _ _ m => m.wf
  | .ptpDelayRespRx _ _ m => m.wf
  | .ptpPdelayReqRx _ _ _ m => m.wf
  | .ptpPdelayRespRx _ _ m => m.wf
  | .ptpPdelayRespFollowUpRx _ _ m => m.wf
  | .ptpAnnounceRx _ _ a => a.wf
  | .ptpSignalingManagementRx _ => true
  | .ptpTransmitInterval _ _ _ => true
  | .ppsInEdge _ _ => true
  | .ref10mInQualified _ => true
  | .ref10mInDisqualified _ => true
  | .todSet _ _ _ => true
  | .jumpAccept _ _ _ => true
  | .timeWordTx t => gridWf 12 t
  | .timeWordRx _ _ w => w.length == 16
  | .echoRx _ _ => true
  | .echoReplyRx _ _ _ _ => true
  | .twLostTimeout _ => true
  | .tduGateAssert _ act => actWf act
  | .tduGateRelease _ => true
  | .vddTduLoss _ => true
  | .tduRefinStop _ => true
  | .tduPor _ _ => true
  | .stretchAssert _ act => actWf act
  | .stretchDeassert _ act => actWf act
  | .stretchMergeExpiry _ => true
  | .tevEdge _ _ => true
  | .ppsOutEdge t => t.toNat % 4000000000 == 0
  | .tauPeriodBoundary t _ => gridWf 18 t
  | .tduPeriodBoundary t act _ => gridWf 18 t && actWf act
  | .tduPathBoundary t => gridWf 14 t
  | .tauPathBoundary t _ => gridWf 14 t
  | .triggerFire _ _ => true
  | .markerPresent _ _ _ _ _ => true
  | .phasePresent _ _ _ => true
  | .sensorResult _ _ _ _ => true
  | .linkRetryStrobe _ _ => true
  | .counterOverflow _ act => actWf act
  | .prgHiWrite _ _ _ _ act => actWf act
  | .tduIntrWindow t => t.toNat % 4000000000 == 0
  | .tauIntrWindow t => t.toNat % 4000000000 == 0
  | .coachArrival _ _ r => recWf r
  | .eventCoachRx _ _ r => recWf r
  | .contextAdmit _ => true
  | .contextClose _ => true
  | .trainBuildComplete _ _ _ period _ => decide (period < 2 ^ 46)
  | .excAck _ _ _ _ => true
  | .excDeadlineExpiry _ _ => true
  | .surveyIssue _ _ _ => true
  | .surveyDescriptorRx _ r => recWf r
  | .tduSurveyRx _ r => recWf r
  | .surveyCancel _ _ _ => true
  | .surveyCancelRx _ r => recWf r
  | .tduSurveyCancelRx _ r => recWf r
  | .surveyAnswerRx _ _ r => recWf r
  | .surveyEndRx _ _ r => recWf r
  | .surveyDeadline _ => true
  | .stragglerWindowTimeout _ _ => true
  | .backupWaitExpiry _ _ => true
  | .driftCapture _ _ _ _ => true
  | .pulseAckRx _ _ r => recWf r
  | .probeRxTdu _ _ r => recWf r
  | .childProbeRx _ r => recWf r
  | .probeAnswerRx _ _ r => recWf r
  | .probeClassify _ _ _ _ _ _ => true
  | .livenessReprobe _ _ => true
  | .vectorScored _ _ => true
  | .fillCutoff _ => true
  | .hostVectorSubmit _ _ _ _ _ => true
  | .hostVectorComplete _ _ => true
  | .fenceAck _ _ _ => true
  | .tapFlit _ _ _ tag payload => tagWf tag && decide (payload.length ≤ 4096)
  | .chunkFetchRx _ r => recWf r
  | .chunkFreezeTimeout _ => true
  | .tapArmRx _ r => recWf r
  | .filterDeadline _ _ => true
  | .tapUnitArm _ _ _ _ => true
  | .tapUnitDisarm _ _ _ _ => true
  | .tapUnitFlit _ _ tag payload => tagWf tag && decide (payload.length ≤ 4096)
  | .tapUnitIdleTimeout _ _ => true
  | .tapUnitDeadline _ _ => true
  | .sliceRequest _ => true
  | .sliceGrant _ => true
  | .sliceRequestTimeout _ => true
  | .marginAck _ => true
  | .marginNak _ => true
  | .marginSettleTimeout _ => true
  | .patternWord _ _ => true
  | .patternDone _ => true
  | .sliceRevoke _ => true
  | .sliceOverrun _ => true
  | .screenSumRx _ _ r => recWf r
  | .screenFailRx _ _ r => recWf r
  | .tallySend _ => true
  | .tallyRx _ _ r => recWf r
  | .vcCreditReturn _ _ _ => true
  | .egressTransmitStart _ _ _ => true
  | .mgmtRead _ _ _ _ _ _ => true
  | .mgmtWrite _ _ _ _ _ _ _ => true
  | .mgmtReadBlock _ _ _ _ _ _ => true
  | .mgmtInvalidOp _ _ _ _ _ _ => true
  | .icmpv6EchoRequest _ _ _ r => recWf r
  | .neighborDiscovery _ _ _ _ _ => true
  | .templateRefresh _ => true
  | .relayPayloadRx _ _ _ => true
  | .freezeStart _ _ _ _ => true
  | .freezeCopyComplete _ _ => true
  | .windowDataRead _ _ _ => true
  | .windowDone _ _ _ _ => true
  | .windowTimeout _ _ => true
  | .snapshotRead _ _ _ _ => true
  | .flowEvent _ _ e => decide (e.kind < 8)
  | .traceTriggerGo _ _ _ => true
  | .traceArm _ _ _ => true
  | .authRevoke _ _ _ => true
  | .debugAuthStart _ => true
  | .debugAuthExpiry _ => true
  | .traceGrantRx _ r => recWf r
  | .sidingPost _ _ _ _ => true
  | .traceBulkRx _ _ r => recWf r
  | .cmpJobPost _ _ _ _ _ => true
  | .cmpBufferPost _ _ _ _ _ => true
  | .cmpJobAbort _ _ _ _ => true
  | .cmpJobComplete _ _ _ => true
  | .cmpFlushIdle _ => true
  | .frameSealTimeout _ _ _ => true
  | .lhFrameRx _ _ _ _ _ => true
  | .imgLoad _ _ _ _ => true
  | .noticeIssue _ _ _ _ => true
  | .noticeJobStart _ r => recWf r
  | .noticeJobAbort _ r => recWf r
  | .noticeJobTeardown _ r => recWf r
  | .noticeRelease _ r => recWf r
  | .noticeJobView _ r => recWf r
  | .noticeEpochAdvance _ r => recWf r
  | .noticeCommit _ r => recWf r
  | .noticeCancel _ r => recWf r
  | .noticeDisable _ r => recWf r
  | .noticeImage _ r => recWf r
  | .noticePackRun _ r => recWf r
  | .noticeRankMap _ r => recWf r
  | .noticeAckRx _ _ r => recWf r
  | .noticeAckDeadline _ => true
  | .replayRequestRx _ _ r => recWf r
  | .resyncRx _ _ r => recWf r
  | .forceRelease _ _ _ => true
  | .tokenRequest _ _ _ => true
  | .tokenRelease _ _ _ => true
  | .tokenForceRelease _ _ _ => true
  | .sectionDrain _ _ _ => true
  | .sectionDrainComplete _ => true
  | .sectionReturn _ _ _ => true
  | .guardKick _ _ _ _ => true
  | .guardExpiry _ _ => true
  | .islandGuardExpiry _ => true
  | .bistStart _ _ _ _ => true
  | .bistAbort _ _ _ _ => true
  | .bistSlice _ _ _ _ _ => true
  | .bistRepair _ _ _ _ => true
  | .fwLoad _ _ _ _ => true
  | .fwSwitchArm _ _ _ => true
  | .fwConfirm _ _ _ => true
  | .fwTrialTimeout _ => true
  | .packRunGraceExpiry _ => true
  | .updateStrobe _ _ _ _ act => actWf act
  | .pageLock _ _ _ _ _ => true
  | .pgErrCountClear _ _ _ _ _ => true
  | .registerWrite _ _ _ a len _ _ => addrWf a && lenWf len
  | .bootGo _ _ _ => true
  | .bootReadComplete _ _ => true
  | .ucodeLoad _ _ _ _ => true
  | .helloSend _ => true
  | .helloRx _ _ r => recWf r
  | .tduAttach _ _ _ => true
  | .tduAccess _ _ _ => true
  | .tduReadResponseRx _ _ r => recWf r
  | .tduWriteBatchRx _ r act => recWf r && actWf act
  | .tduImageFragmentRx _ r => recWf r
  | .tduKeyRx _ r _ => recWf r
  | .tduCmdRunPack _ r => recWf r
  | .tduCmdTestOverdue _ r => recWf r
  | .tduCmdJobEnd _ r => recWf r
  | .tduCmdSchedCommit _ r => recWf r
  | .tduCmdSchedCancel _ r => recWf r
  | .tduCmdConsistDisable _ r => recWf r
  | .tduCmdPackDisable _ r => recWf r
  | .tduCmdUnknown _ r => recWf r
  | .announceReceiptTimeout _ _ => true
  | .ppsInMissing _ => true
  | .tduPllLock _ => true
  | .vddTduReturn _ => true
  | .tduPorNFall => true
  | .eventLineRise _ _ act => actWf act
  | .lowWordRead _ _ _ a len act => addrWf a && lenWf len && actWf act
  | .mgmtDatagramDiscard _ _ _ _ => true
  | .noticeFragmentRx _ r => recWf r
  | .islandCoreRestartDone _ => true

end Sys2Proof
end

