-- ==== Sys2Proof/Safety.lean ====
section
/-!
DEFINITION. What counts as a safe run of the block, in the terms the statements use: a step that answers a next state, the inputs
that only their own events change, and what holds of every state that a run passes.
-/

namespace Sys2Proof

open Machine

/-- The step from this state answers a next state: no fault and no refusal. -/
def Machine.State.safe (s : State) : Prop := ∃ s', step s = .next s'

/-- The TAU at the instant of a command: time has run on to it, and the copies of a FREEZE with it (R345). -/
def Machine.State.tauAt (s : State) (t : T64) : Tau := (s.tau.advance t).freezeStep

/-- The TDU at the instant of a command. -/
def Machine.State.tduAt (s : State) (t : T64) : Tdu := s.tdu.advance t

/-- The state that a command leaves whose effect on the TAU is `y`: the records that it wrote take their places (R31), and its inputs stand
as they stood. -/
def Machine.State.withTau (s : State) (y : Tau) : State := { s with tau := s.tau.inputsOf y.flushRecords }

/-- The state that a command leaves whose effect on the TDU is `e`: its inputs stand as they stood. -/
def Machine.State.withTdu (s : State) (e : Tdu) : State := { s with tdu := s.tdu.inputsOf e }

/-- The commands that stand for an event on an input of the block: a supply, a gate, a reference clock, the reset of the TDU, or a
chip-to-chip link at the TAU's end. -/
def Instr.onInput : Instr → Bool
  | .linkUp _ (.tau _) | .linkDown _ (.tau _) _ => true
  | .mainRailsLoss .. | .mainReset .. | .coldReset | .islPgFall .. => true
  | .tduGateAssert .. | .tduGateRelease .. | .vddTduLoss .. | .vddTduReturn .. | .tduRefinStop .. | .tduPllLock .. => true
  | .tduPor .. | .tduPorNFall => true
  | _ => false

/-- No chip-to-chip link of the TAU is up while its island or its main rails are down (R38, R477, R478), and no link is up that the TAU
does not have (R32). -/
def Machine.State.linksFed (s : State) : Prop := (s.tau.on = false → s.tau.links = 0) ∧ s.tau.links < 2 ^ 32

/-- Every command that waits is well-formed. -/
def Machine.State.queueWf (s : State) : Prop := ∀ c ∈ s.pending, c.wf = true

end Sys2Proof
end

