-- ==== Sys2Proof/Certificates/Slice0/Obligations.lean ====
section
/-!
DEFINITION. The statements for the provers: the machine as a whole, the encodings, and for every command of the table what it does
where it completes. In them `x` stands for the TAU at the instant of the command, `d` for the TDU.
-/

open Sys2Proof Sys2Proof.Machine

/-! ## The machine as a whole -/

/-- A step takes the command at the front of the queue and runs it on the state that holds the queue's rest; on an empty queue the
block idles (the model's choice, log entry 1). -/
def Obligations.StepRunsFrontCommand : Prop :=
  (∀ (s : State) (c : Instr), step { s with pending := c :: s.pending } = exec c s) ∧
  (∀ s : State, s.pending = [] → step s = .next s)

/-- Every command answers a next state from every state, and leaves the commands that wait as they are. -/
def Obligations.EveryCommandAnswersNext : Prop :=
  ∀ (c : Instr) (s : State), ∃ s', exec c s = .next s' ∧ s'.pending = s.pending

/-- No command changes both blocks: they meet only in records and words, each its own command. That the machine is one TAU and one TDU
is the model's choice (log entry 47), and so is that what one block sends does not by itself change the other (log entry 46). -/
def Obligations.BlocksActApart : Prop :=
  ∀ (c : Instr) (s s' : State), exec c s = .next s' → s'.tau = s.tau ∨ s'.tdu = s.tdu

/-- The supplies of both blocks, the gate and the clock of the TDU, and the links of the TAU change only at events on inputs. Each such
event moves only what it is an event of: a link's, the links; the main rails, those and the links they feed; the island's supply, that
and the links; TDU_GATE, the gate and the clock that stops with it; VDD_TDU, that supply and the clock; the reference clock, the clock;
the always-on rail and the TDU's reset leave VDD_TDU and the gate. A TAU whose island is not fed, and a TDU held in its power-on reset,
do nothing at all: no command but an event on an input changes anything in them. -/
def Obligations.InputsAndSuppliesAct : Prop :=
  (∀ (c : Instr) (s s' : State), c.onInput = false → exec c s = .next s' →
     s'.tau.islPg = s.tau.islPg ∧ s'.tau.main = s.tau.main ∧ s'.tau.links = s.tau.links ∧
     s'.tdu.time.por = s.tdu.time.por ∧ s'.tdu.time.vdd = s.tdu.time.vdd ∧ s'.tdu.time.gated = s.tdu.time.gated ∧
     s'.tdu.time.clock = s.tdu.time.clock) ∧
  (∀ (c : Instr) (s s' : State), c.onInput = false → exec c s = .next s' →
     (s.tau.islPg = false → s'.tau = s.tau) ∧ (s.tdu.time.por = false → s'.tdu = s.tdu)) ∧
  (∀ (s s' : State) (t : T64) (l : Fin 32) (b : Bool) (act : CoreAct) (lc : Fin 8) (die : BitVec 64),
     (exec (.linkUp t (.tau l)) s = .next s' ∨ exec (.linkDown t (.tau l) b) s = .next s' →
       s'.tau.islPg = s.tau.islPg ∧ s'.tau.main = s.tau.main ∧ s'.tdu = s.tdu) ∧
     (exec (.mainRailsLoss t) s = .next s' ∨ exec (.mainReset t b) s = .next s' →
       s'.tau.islPg = s.tau.islPg ∧ s'.tdu = s.tdu ∧ (s'.tau.links = s.tau.links ∨ s'.tau.links = 0)) ∧
     (exec .coldReset s = .next s' ∨ exec (.islPgFall t) s = .next s' → s'.tau.main = s.tau.main ∧ s'.tdu = s.tdu) ∧
     (exec (.tduGateAssert t act) s = .next s' ∨ exec (.tduGateRelease t) s = .next s' →
       s'.tdu.time.por = s.tdu.time.por ∧ s'.tdu.time.vdd = s.tdu.time.vdd ∧ s'.tau = s.tau) ∧
     (exec (.vddTduLoss t) s = .next s' ∨ exec (.vddTduReturn t) s = .next s' →
       s'.tdu.time.por = s.tdu.time.por ∧ s'.tdu.time.gated = s.tdu.time.gated ∧ s'.tau = s.tau) ∧
     (exec (.tduRefinStop t) s = .next s' ∨ exec (.tduPllLock t) s = .next s' →
       s'.tdu.time.por = s.tdu.time.por ∧ s'.tdu.time.vdd = s.tdu.time.vdd ∧ s'.tdu.time.gated = s.tdu.time.gated ∧ s'.tau = s.tau) ∧
     (exec (.tduPor lc die) s = .next s' ∨ exec .tduPorNFall s = .next s' →
       s'.tdu.time.vdd = s.tdu.time.vdd ∧ s'.tdu.time.gated = s.tdu.time.gated ∧ s'.tau = s.tau))

/-- Every step keeps: no chip-to-chip link of the TAU is up without the main rails, and none beyond the 32 that it has. -/
def Obligations.StepKeepsLinksFed : Prop :=
  ∀ s s' : State, s.linksFed → step s = .next s' → s'.linksFed

/-- Every step keeps the queue well-formed. -/
def Obligations.StepKeepsQueueWf : Prop :=
  ∀ s s' : State, s.queueWf → step s = .next s' → s'.queueWf

/-- Both invariants hold at reset. -/
def Obligations.InvariantsHoldAtReset : Prop := State.reset.linksFed ∧ State.reset.queueWf

/-! ## Numbers, words and records -/

/-- A T64 converts to an IEEE 1588 timestamp and back without loss (R41). -/
def Obligations.T64ToPtpLosesNothing : Prop :=
  ∀ t : T64,
    t64ToPtp t.toNat = (t.toNat / 4000000000, t.toNat % 4000000000 / 4, ((t.toNat % 4000000000 % 4 * 16384 : Nat) : Int)) ∧
    ptpToT64 (t64ToPtp t.toNat).1 (t64ToPtp t.toNat).2.1 (t64ToPtp t.toNat).2.2 = some (t.toNat : Int)

/-- The period, the path and the tick within the path are the fields of T64 (R5). -/
def Obligations.GridIsFieldsOfT64 : Prop :=
  ∀ t : T64, T64.period t = (t >>> 18).toNat ∧ T64.path t = (t.extractLsb' 14 4).toNat ∧
    t.toNat = T64.period t * 2 ^ 18 + T64.path t * 2 ^ 14 + (t.extractLsb' 0 14).toNat

/-- A record closed with its CRC-32C passes the check of its trailer, whatever it holds (R148). -/
def Obligations.TrailerChecks : Prop := ∀ body : List Byte, crcOk (withCrc body) = true

/-- The header that a record is built with is the header read from it: every field at every value its width admits (R146). -/
def Obligations.RecordHeaderRoundTrips : Prop :=
  ∀ (h : Hdr) (body : List Byte), h.cls < 8 → h.sev < 8 → h.consist < 2 ^ 16 → h.rank < 2 ^ 24 → h.epochLo < 2 ^ 8 →
    h.job < 2 ^ 16 → h.eb < 2 ^ 16 → h.sigT < 2 ^ 8 → h.sigL < 2 ^ 8 → h.t < 2 ^ 64 → recLen body.length < 2 ^ 16 →
    Hdr.parse (mkRecord h body) =
      { h with ver := 1, len := recLen body.length, eb := if h.ho then h.eb else 0, rsv := false }

/-- A sealed envelope opens under its key and gives back the plaintext (R378, R382): for every key of 256 bits, every sender, counter and
header, and every plaintext. AES-256-GCM is written from its standard (log entry 45, PRESUMED). -/
def Obligations.SealedEnvelopeOpens : Prop :=
  ∀ (key : List Byte) (sender ctr purpose flags epoch : Nat) (plain : List Byte), key.length = 32 → sender < 2 ^ 32 →
    ctr < 2 ^ 64 → purpose < 2 ^ 8 → flags < 2 ^ 8 → epoch < 2 ^ 16 →
    let head := leBytes 4 sender ++ leBytes 8 ctr ++ leBytes 1 purpose ++ leBytes 1 flags ++ leBytes 2 epoch
    let ct := gcmStream (nats key) (gcmIv sender ctr) (nats plain)
    let env := head ++ bytesOf ct ++ bytesOf (gcmTag (nats key) (gcmIv sender ctr) (nats head) ct)
    EnvHead.parse env = ⟨sender, ctr, purpose, flags, epoch⟩ ∧ openUnder (nats key) (EnvHead.parse env) env = some plain

/-- A write acts on a field by its access code (R12): RW takes the bits written, RWS takes them in its shadow alone, W1C clears the
bits written as 1, SET sets them, MSK takes the bits whose enables are set (R438), and RO and WO hold what they held. -/
def Obligations.WriteActsByAccessCode : Prop :=
  ∀ (r : RegFile) (f : Fld) (i s v : Nat), r.get f i s < 2 ^ f.width →
    let r' := r.writeField v s false (f, i)
    let old := r.get f i s
    (f.acc = .rw → r'.get f i s = bits v f.lsb f.width) ∧
    (f.acc = .rws → r'.getShadow f i s = bits v f.lsb f.width ∧ r'.get f i s = old) ∧
    (f.acc = .w1c → ∀ n, (r'.get f i s).testBit n = (old.testBit n && !(bits v f.lsb f.width).testBit n)) ∧
    (f.acc = .set → ∀ n, (r'.get f i s).testBit n = (old.testBit n || (bits v f.lsb f.width).testBit n)) ∧
    (f.acc = .msk → f.width ≤ 16 → ∀ n, n < f.width →
      (r'.get f i s).testBit n = if v.testBit (n + 16) then (bits v f.lsb f.width).testBit n else old.testBit n) ∧
    (f.acc = .ro ∨ f.acc = .wo → r' = r)

/-- A write to one field leaves every other field alone: those of other registers, and other instances (the frame of a write). -/
def Obligations.WriteLeavesOtherFields : Prop :=
  ∀ (r : RegFile) (f g : Fld) (i j s u v : Nat), f.tag ≠ g.tag ∨ i % 1024 ≠ j % 1024 ∨ (f.wide = false ∧ g.wide = false ∧ s % 4 ≠ u % 4) →
    (r.writeField v s false (f, i)).get g j u = r.get g j u ∧
    (r.writeField v s false (f, i)).getShadow g j u = r.getShadow g j u

/-- The shadow view (R430), in both blocks: a write through it is the same write through the normal view, and a word of RWS fields, one
whose high half its port has not latched (R431), reads the fields' shadows there. -/
def Obligations.ShadowViewWrites : Prop :=
  (∀ (x : Tau) (port : Port) (a len v : Nat) (m : Reads), a < 0x800000 →
    x.regWrite port (a + 0x800000) len v m = x.regWrite port a len v m) ∧
  (∀ (d : Tdu) (port : Port) (a len v : Nat), a < 0x20000 → d.regWrite port (a + 0x20000) len v = d.regWrite port a len v) ∧
  (∀ (x : Tau) (port : Port) (a p sec o : Nat), a % 4 = 0 → tauAddr a = some (p, sec, o, true) → wordFields p o ≠ [] →
    (∀ fi ∈ wordFields p o, fi.1.acc = .rws) → x.regs.latched port (a % 0x800000) = none →
    (x.readWord port a).1 = wordValue p o fun f i => x.regs.getShadow f i sec) ∧
  (∀ (d : Tdu) (port : Port) (a p o : Nat), a % 4 = 0 → dieAddr a = some (p, o, true) → wordFields p o ≠ [] →
    (∀ fi ∈ wordFields p o, fi.1.acc = .rws) → d.regs.latched port (a % 0x20000) = none →
    (d.readWord port a).1 = wordValue p o fun f i => d.regs.getShadow f i 0)

/-- At reset a read of any word of a page, through any port, in the normal or the shadow view, gives what the register tables say (R12,
R447): PG_ID, PG_CAP and PG_STROBE_GRP of the page (R433), the reset values of the tables' fields in their places, given here as word
offset, stride, number of words and value, and 0 in every other word. PORT_STAT.RAILS reads 1: the main rails are up at reset, the model's
choice (log entry 7); and what shows fuses reads as in a part before it is provisioned, the model's choice too (log entry 5). -/
def Obligations.FieldsReadTheirResetValues : Prop :=
  ∀ (port : Port) (a p sec o : Nat) (sh : Bool),
    let resets : List (Nat × List (Nat × Nat × Nat × Nat)) := [
      (0x10, [(0x98, 4, 3, 16777215), (0xB4, 4, 1, 65535)]),
      (0x1, [(0x40, 4, 1, 248), (0x4C, 4, 1, 4000), (0x50, 4, 1, 50), (0x54, 4, 1, 2621444000), (0x74, 4, 1, 31),
        (0x8C, 4, 1, 2428160), (0x90, 4, 1, 3), (0x40C, 32, 4, 4000), (0x410, 32, 4, 40)]),
      (0xF, [(0x40, 4, 1, 4), (0x44, 4, 1, 15), (0x48, 4, 1, 1500), (0x90, 4, 1, 49400), (0xC0, 4, 1, 4739),
        (0xC4, 4, 1, 1280), (0xC8, 4, 1, 10), (0xD0, 4, 1, 58731), (0xD4, 4, 1, 16777215), (0x414, 4, 1, 1048576),
        (0x428, 4, 1, 15259)]),
      (0x2, [(0x40, 4, 1, 32000), (0x44, 4, 1, 64000000), (0x4C, 4, 1, 1024), (0x64, 4, 1, 64), (0x6C, 4, 1, 16),
        (0x88, 4, 1, 10000)]),
      (0x3, [(0x48, 4, 1, 262144), (0x50, 4, 1, 507136), (0x54, 4, 1, 16777215), (0xA0, 4, 1, 2), (0xA4, 4, 1, 4),
        (0xCC, 4, 1, 6144), (0xD0, 4, 1, 5), (0x100, 16, 64, 16777215)]),
      (0x4, [(0x40, 4, 1, 15), (0x5C, 4, 1, 4096), (0x70, 4, 1, 65280)]),
      (0x5, [(0x64, 4, 1, 2), (0xA8, 4, 1, 254), (0xB0, 4, 1, 135171), (0xB4, 4, 1, 256), (0x50C, 64, 8, 400000),
        (0x514, 64, 8, 2051), (0x518, 64, 8, 4194304), (0x900, 16, 16, 16777215), (0x904, 16, 16, 16777215)]),
      (0x6, [(0x40, 4, 1, 65535), (0x48, 4, 1, 131072), (0x4C, 4, 1, 4096), (0x50, 4, 1, 16), (0xB4, 4, 1, 16777215),
        (0x200, 16, 16, 65535)]),
      (0x7, [(0x4C, 4, 1, 14), (0x54, 4, 1, 100), (0x7C, 4, 1, 64), (0x108, 32, 8, 65535), (0x10C, 32, 8, 64),
        (0x214, 64, 8, 16777215), (0x218, 64, 8, 16777215), (0x400, 16, 4, 65535)]),
      (0x8, [(0x40, 4, 1, 64), (0x44, 4, 1, 64), (0x48, 4, 1, 4), (0x4C, 4, 1, 4), (0x60, 4, 1, 4096), (0x68, 4, 1, 100),
        (0x6C, 4, 1, 400), (0x70, 4, 1, 80), (0x74, 4, 1, 160), (0x100, 4, 1, 8396816), (0x110, 4, 1, 16793616),
        (0x120, 4, 1, 33587216), (0x130, 4, 1, 8396808), (0x140, 4, 1, 67174432), (0x150, 4, 1, 33587216),
        (0x160, 4, 1, 201523328), (0x170, 4, 1, 33587224), (0x180, 4, 1, 128), (0x184, 16, 4, 16), (0x190, 4, 1, 64),
        (0x1A0, 4, 1, 16), (0x1B0, 4, 1, 48), (0x200, 16, 64, 16777280), (0x204, 16, 64, 4294918144)]),
      (0x9, [(0x94, 4, 1, 1048576), (0xA8, 4, 1, 15259), (0xD0, 4, 1, 65536)]),
      (0xA, [(0x48, 4, 1, 4), (0x4C, 4, 1, 65536), (0x50, 4, 1, 15259)]),
      (0xB, [(0x48, 4, 1, 255), (0x58, 4, 1, 15259), (0x5C, 4, 1, 2048), (0x60, 4, 1, 4), (0x74, 4, 1, 1)]),
      (0xC, [(0x40, 4, 1, 65535), (0x68, 4, 1, 256), (0x74, 4, 1, 2), (0x78, 4, 1, 64), (0x7C, 4, 1, 16), (0x100, 4, 1, 4),
        (0x13C, 4, 1, 256), (0x184, 4, 1, 8), (0x188, 4, 1, 65536), (0x18C, 4, 1, 4)]),
      (0xD, [(0x48, 4, 1, 65536), (0x4C, 4, 1, 4)]),
      (0x20, [(0x44, 4, 1, 16777215)]),
      (0x21, [(0x4C, 4, 1, 40), (0x50, 4, 1, 64), (0x54, 4, 1, 2000), (0x6C, 4, 1, 10)]),
      (0x22, [(0x78, 4, 1, 4000), (0x80, 4, 1, 278528)]),
      (0x23, [(0x40, 4, 1, 65535)]),
      (0x24, [(0x44, 4, 1, 200000000)]),
      (0x26, [(0x8C, 4, 1, 65536), (0xA0, 4, 1, 65535), (0x10C, 4, 1, 16777215), (0x110, 4, 1, 16777215),
        (0x12C, 4, 1, 16777215), (0x130, 4, 1, 16777215)]),
      (0x27, [(0x54, 4, 1, 200000), (0x58, 4, 1, 20000), (0x5C, 4, 1, 15259), (0x60, 4, 1, 524288), (0x100, 16, 4, 65535)]),
      (0x28, [(0x50, 4, 1, 524288), (0x60, 4, 1, 4000), (0x64, 4, 1, 4)]),
      (0x29, [(0x40, 4, 1, 8), (0x48, 4, 1, 1024), (0x60, 4, 1, 1500), (0x64, 4, 1, 420), (0x6C, 4, 1, 65536),
        (0x74, 4, 1, 1000), (0x80, 4, 1, 20), (0x84, 4, 1, 800000)])]
    let rows := ((resets.find? fun r => r.1 == p).map (·.2)).getD []
    let here (r : Nat × Nat × Nat × Nat) : Bool := decide (r.1 ≤ o) && (o - r.1) % r.2.1 == 0 && decide ((o - r.1) / r.2.1 < r.2.2.1)
    let word := ((rows.find? here).map (·.2.2.2)).getD 0
    (a % 4 = 0 → tauAddr a = some (p, sec, o, sh) →
      let cap := (if p = 0x10 ∨ p = 0x1 ∨ p = 0xF then 15 else sec) + (if p = 0x1 ∨ p = 0xF then 16 else 0) +
        (if p = 0x6 ∨ p = 0xE then 0 else 32)
      (State.reset.tau.readWord port a).1 =
        if o = 0 then p + 0x1B00100 else if o = 4 then cap else if o = 0x14 then p % 16 else word) ∧
    (a % 4 = 0 → dieAddr a = some (p, o, sh) → (State.reset.tdu.readWord port a).1 =
      if o = 0 then p + 0x2200100 else if o = 4 then 15 + (if p = 0x20 then 0 else 32) else if o = 0x14 then p % 16 else word)

/-- A write of an MSK register (R438): every bit whose enable is set takes the bit written, every other keeps what it held; so of
two writes, one after the other, each bit holds what the last write that enabled it gave. -/
def Obligations.MaskedWritesKeepOtherBits : Prop :=
  ∀ (r : RegFile) (f : Fld) (i s v w n : Nat), f.acc = .msk → f.lsb = 0 → f.width ≤ 16 → n < f.width → r.get f i s < 2 ^ f.width →
    let one := r.writeField v s false (f, i)
    let two := one.writeField w s false (f, i)
    let after := if v.testBit (n + 16) then v.testBit n else (r.get f i s).testBit n
    (one.get f i s).testBit n = after ∧ (two.get f i s).testBit n = if w.testBit (n + 16) then w.testBit n else after

/-! ## The register bus -/

/-- A write of a register of the TAU through any port (R12, R430 to R433, R440), over one register of each kind on the GEN page:
BOOT_LEN (RW) takes the bits written; PRI_PARENT (RWS) takes them in its shadow alone; INTR_STAT (W1C) clears the bits written as
1; a locked page keeps its configuration and flags the write; a word with nothing to write, and an access that is not a whole
aligned word, are counted and change nothing else. The same at the TDU, on the TGEN page, while the region has power and is not
gated: RANK (RW), INTR_STAT (W1C), a locked page, and what is counted and changes nothing. -/
def Obligations.RegisterWritesAct : Prop :=
  (∀ (s : State) (t : T64) (port : Port) (a len : Nat) (v : BitVec 32) (m : Reads), s.tau.on = true →
     let x := s.tauAt t
     let old := x.rd Reg.GEN_INTR_STAT
     (x.rd (Reg.PG_LOCK 0x10) = 0 → x.rd (Reg.PG_STATUS_SAFE 0x10) = 0 →
       exec (.registerWrite t .tau port 0x50 4 v m) s = .next (s.withTau { x with
         regs := (x.regs.put Reg.GEN_BOOT_LEN 0 0 (bits v.toNat 0 25)).markParity 0x10 0 0x50 false })) ∧
     (x.rd (Reg.PG_LOCK 0x10) = 0 → x.rd (Reg.PG_PARITY_INJECT 0x10) = 0 → x.scMask.testBit 0 = false →
       exec (.registerWrite t .tau port 0x98 4 v m) s = .next (s.withTau { x with
         regs := (x.regs.putShadow Reg.GEN_PRI_PARENT 0 0 (bits v.toNat 0 24)).markParity 0x10 0 0x98 false })) ∧
     (exec (.registerWrite t .tau port 0x70 4 v m) s =
       .next (s.withTau (x.wr Reg.GEN_INTR_STAT (old - Nat.land old (bits v.toNat 0 8))))) ∧
     (x.rd (Reg.PG_LOCK 0x10) = 1 →
       exec (.registerWrite t .tau port 0x50 4 v m) s = .next (s.withTau (x.pageErr 0x10 3))) ∧
     (exec (.registerWrite t .tau port 0x6C 4 v m) s = .next (s.withTau (x.bump Reg.GEN_ACC_ERR_CNT))) ∧
     (len ≠ 4 ∨ a % 4 ≠ 0 → exec (.registerWrite t .tau port a len v m) s = .next (s.withTau (x.bump Reg.GEN_ACC_ERR_CNT)))) ∧
  (∀ (s : State) (t : T64) (port : Port) (a len : Nat) (v : BitVec 32) (m : Reads), s.tdu.reachable = true →
     let d := s.tduAt t
     let old := d.rd Reg.TGEN_INTR_STAT
     (port ≠ .host → d.rd (Reg.PG_LOCK 0x20) = 0 → d.rd (Reg.PG_STATUS_SAFE 0x20) = 0 →
       exec (.registerWrite t .tdu port 0x44 4 v m) s = .next (s.withTdu { d with
         regs := (d.regs.put Reg.TGEN_RANK 0 0 (bits v.toNat 0 24)).markParity 0x20 0 0x44 false })) ∧
     (exec (.registerWrite t .tdu port 0x64 4 v m) s =
       .next (s.withTdu (d.wr Reg.TGEN_INTR_STAT (old - Nat.land old (bits v.toNat 0 4))))) ∧
     (port ≠ .host → d.rd (Reg.PG_LOCK 0x20) = 1 →
       exec (.registerWrite t .tdu port 0x44 4 v m) s = .next (s.withTdu (d.pageErr 0x20 3))) ∧
     (exec (.registerWrite t .tdu port 0x90 4 v m) s = .next (s.withTdu (d.bump Reg.TGEN_ACC_ERR_CNT))) ∧
     (len ≠ 4 ∨ a % 4 ≠ 0 → exec (.registerWrite t .tdu port a len v m) s = .next (s.withTdu (d.bump Reg.TGEN_ACC_ERR_CNT))))

/-- The low word of a pair, read whole, latches the high word at its port (R431): FT in both blocks. The read gives the low word
of FT. At the TDU the activity of the core in its cycles since the last command is counted first. -/
def Obligations.LowWordReadLatches : Prop :=
  ∀ (s : State) (t : T64) (port : Port) (act : CoreAct),
    (s.tau.on = true → let x := s.tauAt t
      exec (.lowWordRead t .tau port 0x1044 4 act) s = .next (s.withTau { x with
        regs := x.regs.setLatch port 0x1048 (x.now / 2 ^ 32)
        out := .read (portIdx port) (leBytes 4 (x.now % 2 ^ 32)) :: x.out })) ∧
    (let d := (s.tduAt t).core act
     s.tdu.time.por = true → d.reachable = true →
      exec (.lowWordRead t .tdu port 0x1044 4 act) s = .next (s.withTdu { d with
        regs := d.regs.setLatch port 0x1048 (d.now / 2 ^ 32)
        out := .read (portIdx port) (leBytes 4 (d.now % 2 ^ 32)) :: d.out }))

/-- PAGE_LOCK sets the lock of a page's copy and changes nothing else (R440).
PG_ERR_COUNT_CLEAR clears the count of a page's PG_ERR by CNT_CLR (R433) and leaves its flags, and every other field of every page, as
they were. -/
def Obligations.PageHeadersAct : Prop :=
  (∀ (s : State) (t : T64) (port : Port),
     (s.tau.on = true → let x := s.tauAt t
       exec (.pageLock t .tau port 0x10 0) s = .next (s.withTau (x.wr (Reg.PG_LOCK 0x10) 1)) ∧
       ∀ sec : Fin 4, x.rd Reg.GEN_BOOT_STATE = 3 →
         exec (.pageLock t .tau port 0x8 sec) s = .next (s.withTau (x.wr (Reg.PG_LOCK 0x8) 1 0 sec))) ∧
     (s.tdu.reachable = true →
       exec (.pageLock t .tdu port 0x20 0) s = .next (s.withTdu ((s.tduAt t).wr (Reg.PG_LOCK 0x20) 1)))) ∧
  (∀ (s : State) (t : T64) (port : Port),
     (s.tau.on = true → let x := s.tauAt t
       ∃ y : Tau, exec (.pgErrCountClear t .tau port 0x10 0) s = .next (s.withTau y) ∧
         y = { x with regs := y.regs } ∧ y.rd (Reg.PG_ERR_CNT 0x10) = 0 ∧
         (∀ g ∈ [Reg.PG_ERR_CFG_PARITY 0x10, Reg.PG_ERR_RANGE 0x10, Reg.PG_ERR_FROZEN 0x10, Reg.PG_ERR_LOCK_WR 0x10,
           Reg.PG_ERR_HOST_WR 0x10], y.rd g = x.rd g % 2) ∧
         ∀ p sec, (p, sec) ∈ tauCopies → ∀ g ∈ Reg.ofPage p, p ≠ 0x10 ∨ g.off ≠ 0xC → ∀ i, y.rd g i sec = x.rd g i sec) ∧
     (s.tdu.reachable = true → let d := s.tduAt t
       ∃ e : Tdu, exec (.pgErrCountClear t .tdu port 0x20 0) s = .next (s.withTdu e) ∧
         e = { d with regs := e.regs } ∧ e.rd (Reg.PG_ERR_CNT 0x20) = 0 ∧
         (∀ g ∈ [Reg.PG_ERR_CFG_PARITY 0x20, Reg.PG_ERR_RANGE 0x20, Reg.PG_ERR_FROZEN 0x20, Reg.PG_ERR_LOCK_WR 0x20,
           Reg.PG_ERR_HOST_WR 0x20], e.rd g = d.rd g % 2) ∧
         ∀ p, 0x20 ≤ p → p < 0x2A → ∀ g ∈ Reg.ofPage p, p ≠ 0x20 ∨ g.off ≠ 0xC → ∀ i, e.rd g i = d.rd g i))

/-! ## Supplies, resets, boot and the role -/

/-- The main rails fail (R38, R478): the links drop and a MAIN reset's state is cleared; the rails come up again, or the host endpoint is
reset with them up, and it is cleared (R447). Cleared are every register of GEN and of the section pages, shadows and locks included,
but the TAU-wide fields of CIP and the island's guard counter, which the island holds (R424, R447), and GEN's view of the links; the
scoreboards, jobs, images, surveys, tree, tallies, recorder rings, trace channels, compression and notices of the sections; tokens and
both firmware banks. Kept are FT, the fuses, grants and message counters of the key store, the spares of the repair map, the island part
of the firmware and its guard; the rest of the timebase, the island ring and the TIME and MGMT pages, all of them in a reset, and through a
loss of the rails what a write sets. The loss and the return are recorded. The island comes up: everything but its fuses is at reset
(R447, R477), and its ports detect their addresses (R323). It goes down: nothing runs, and no link is up. -/
def Obligations.SuppliesAct : Prop :=
  (∀ (s : State) (t : T64), s.tau.islPg = true →
     let x := s.tau.advance t
     let held (g : Fld) : Bool := (g.page == 0xB && g.wide) || g.tag == Reg.MNT_ISL_GUARD_CNT.tag || g.tag == Reg.GEN_TDU_STATE_LINKS.tag
     let cleared (y : Tau) : Prop :=
       (∀ p ∈ [0x10, 0x2, 0x3, 0x4, 0x5, 0x6, 0x7, 0x8, 0x9, 0xA, 0xB, 0xC, 0xD, 0xE], ∀ g ∈ Reg.ofPage p, held g = false →
         ∀ i sec, y.rd g i sec = g.resetAt i ∧ y.regs.getShadow g i sec = g.resetAt i) ∧
       y.scb = ScbSt.reset ∧ y.jobs = [] ∧ y.lib = Library.reset ∧ y.srv = SrvSt.reset ∧ y.tree = TreeSt.reset ∧ y.agr = AgrSt.reset ∧
       y.rings.take 4 = List.replicate 4 Ring.reset ∧ y.chans = List.replicate 16 TraceCh.reset ∧ y.cmp = List.replicate 4 CmpSt.reset ∧
       y.ntc = NoticeSt.reset ∧ y.mnt.tokens = [] ∧ y.mnt.bankA = [] ∧ y.mnt.bankB = []
     let kept (y : Tau) : Prop :=
       y.ft = x.ft ∧ y.fuses = x.fuses ∧ y.cip.cur = x.cip.cur ∧ y.cip.prev = x.cip.prev ∧ y.cip.staged = x.cip.staged ∧
       y.cip.ctr = x.cip.ctr ∧ y.cip.mgmt = x.cip.mgmt ∧ y.mnt.bist.map (·.rows) = x.mnt.bist.map (·.rows) ∧
       y.mnt.bist.map (·.cols) = x.mnt.bist.map (·.cols) ∧ y.mnt.island = x.mnt.island ∧ y.mnt.islBusy = x.mnt.islBusy ∧
       (∀ p ∈ [0x1, 0xF], ∀ g ∈ Reg.ofPage p, g.acc = .rw ∨ g.acc = .rws → ∀ i,
         y.rd g i = x.rd g i ∧ y.regs.getShadow g i 0 = x.regs.getShadow g i 0) ∧
       (∀ g ∈ Reg.ofPage 0xB, g.wide = true → ∀ i, y.rd g i = x.rd g i) ∧ y.rd Reg.MNT_ISL_GUARD_CNT = x.rd Reg.MNT_ISL_GUARD_CNT
     let whole (y : Tau) : Prop :=
       kept y ∧ y.time = { x.time with parentEb := 0, parentHo := false, parentPort := none } ∧ y.rings.drop 4 = x.rings.drop 4 ∧
       ∀ p ∈ [0x1, 0xF], ∀ g ∈ Reg.ofPage p, ∀ i, y.rd g i = x.rd g i
     (s.tau.main = true → ∃ y : Tau, cleared y ∧ kept y ∧ exec (.mainRailsLoss t) s = .next { s with
       tau := ({ s.tau with main := false, links := 0 }).inputsOf
         (y.record 4 1 6 0x0102 (x.scb.lastBuilt.flatMap fun p => leBytes 8 p)).flushRecords }) ∧
     (s.tau.main = false → ∃ y : Tau, cleared y ∧ whole y ∧ exec (.mainReset t false) s = .next { s with
       tau := ({ s.tau with main := true }).inputsOf (y.record 4 1 6 0x0103 []).flushRecords }) ∧
     (s.tau.main = true → ∃ y : Tau, cleared y ∧ whole y ∧ y.out = x.out ∧
       exec (.mainReset t true) s = .next { s with tau := s.tau.inputsOf y })) ∧
  (∀ (s : State) (t : T64),
     (exec .coldReset s = .next { s with tau := forIdx 4 Tau.dadStart { Tau.reset with
       fuses := s.tau.fuses
       main := s.tau.main
       out := s.tau.out
       free := s.tau.free } }) ∧
     (s.tau.islPg = true → exec (.islPgFall t) s = .next { s with tau := { s.tau.advance t with
       islPg := false
       links := 0 } }))

/-- BOOT.GO starts the read of the image, and once only (R449); its end with an error returns to WAIT with FIT, and an image that
passes the checks of R424 fills bank A and leaves the TAU running (R450). -/
def Obligations.BootRuns : Prop :=
  ∀ (s : State) (t : T64) (port : Port) (v : BitVec 32) (b : List Byte), s.tau.on = true →
    let x := s.tauAt t
    (v.toNat.testBit 0 = true → x.rd Reg.GEN_BOOT_STATE = 0 → x.rd Reg.GEN_BOOT_LEN ≤ 16777216 →
      exec (.bootGo t port v) s = .next (s.withTau (x.wr Reg.GEN_BOOT_STATE 1))) ∧
    (v.toNat.testBit 0 = true → x.rd Reg.GEN_BOOT_STATE = 3 →
      exec (.bootGo t port v) s = .next (s.withTau (x.wr Reg.GEN_BOOT_STAT_CODE Code.busy))) ∧
    (x.rd Reg.GEN_BOOT_STATE = 1 → exec (.bootReadComplete t none) s =
      .next (s.withTau (((x.wr Reg.GEN_BOOT_STATE 0).wr Reg.GEN_BOOT_STAT_CODE Code.fit).bump Reg.GEN_BOOT_STAT_REF_CNT))) ∧
    (x.rd Reg.GEN_BOOT_STATE = 1 →
      let booted (y : Tau) (i : Image) : Tau := { y.fillBank 0 i with
        mnt := { (y.fillBank 0 i).mnt with
          island := (y.fillBank 0 i).mnt.island.or ((fwParts i.payload).map (·.1))
          kicks := List.replicate 4 y.per ++ y.mnt.kicks.drop 4 } }
      exec (.bootReadComplete t (some b)) s = .next (s.withTau (match x.fwCheck false (b.take (x.rd Reg.GEN_BOOT_LEN)) with
        | (y, _, some i) => (((booted y i).wr Reg.GEN_BOOT_STATE 3).wr Reg.GEN_BOOT_STAT_CODE Code.done).raise 5
        | (y, code, none) => ((y.wr Reg.GEN_BOOT_STATE 0).wr Reg.GEN_BOOT_STAT_CODE code).bump Reg.GEN_BOOT_STAT_REF_CNT)))

/-- The role is taken once (R19): the first write of a defined role sets it, with the standby flag of a ROOT alone; one of a reserved
value is refused with FIT and leaves it unset; any later one is refused with LIFECYCLE, counted, and changes no role, and no parity
fault of GEN changes it (R439). A standby ROOT arms its promotion for the period named, through the management plane alone (R24, R490). -/
def Obligations.RolesAct : Prop :=
  (∀ (s : State) (t : T64) (port : Port) (v : BitVec 32), s.tau.on = true →
     let x := s.tauAt t
     x.rd (Reg.PG_LOCK 0x10) = 0 →
     (x.roleSet = false → bits v.toNat 0 3 ≤ 4 → ∃ y : Tau, exec (.roleWrite t port v) s = .next (s.withTau y) ∧
       y.role = bits v.toNat 0 3 ∧ y.roleSet = true ∧ y.rd Reg.GEN_ROLE_CFG_CODE = Code.done ∧
       y.isStandby = (bits v.toNat 0 3 == 3 && v.toNat.testBit 4)) ∧
     (x.roleSet = false → 4 < bits v.toNat 0 3 → exec (.roleWrite t port v) s =
       .next (s.withTau ((x.wr Reg.GEN_ROLE_CFG_CODE Code.fit).bump Reg.GEN_LOAD_REFUSED_CNT))) ∧
     (x.roleSet = true → exec (.roleWrite t port v) s =
       .next (s.withTau ((x.wr Reg.GEN_ROLE_CFG_CODE Code.lifecycle).bump Reg.GEN_LOAD_REFUSED_CNT)))) ∧
  (∀ (x : Tau) (sec : Nat) (ws : List Nat), (x.parityFault 0x10 sec ws).role = x.role ∧ (x.parityFault 0x10 sec ws).roleSet = x.roleSet ∧
     (x.parityFault 0x10 sec ws).isStandby = x.isStandby) ∧
  (∀ (s : State) (t : T64) (port : Port) (n : Fin 2) (v : BitVec 32) (p : Nat), s.tau.on = true → v.toNat.testBit 31 = true →
     let x := s.tauAt t
     (x.isStandby = true → namedPeriod x.per (x.rd Reg.GEN_PROMOTE_PER) = some p →
       exec (.promoteGo t (.mgmt n) v) s =
         .next (s.withTau (({ x with boot := { x.boot with promote := some p } }).wr Reg.GEN_PROMOTE_STAT_CODE Code.done))) ∧
     (isMgmt port = false → exec (.promoteGo t port v) s = .next (s.withTau (x.bump Reg.GEN_ACC_ERR_CNT))))

/-! ## Attachment and exceptions -/

/-- At the parent (R451, R462): a request whose child is not attached yet, within the fan-in, the range and the depth, attaches it at the
lowest free index from the next period on, and is answered DONE; in UNSET it is refused and counted (R53). An adoption passed on by a
child is answered from the ranges of the other children; one from an orphan, posted as an exception, waits and goes up. At the child (R25,
R451, R463): ATTACH.GO numbers a request, queues it for the primary parent and waits, and a GO before the role or the time is set is
refused and counted; the parent's DONE attaches, judges the parent anew and raises ATTACH; the alternate's DONE leaves the primary parent
from the period that it names; the grandparent's confirmation of an adoption is noted; a refusal returns to 0. The code of an attachment
that UNSET refuses, and which TAU never re-attaches, are the model's choice (log entry 60). -/
def Obligations.AttachmentRuns : Prop :=
  (∀ (s : State) (t : T64) (via : Option (Fin 16)) (up : Fin 64) (r : List Byte) (q : AttachReq) (c : Nat) (z : Tau), s.tau.on = true →
     let x := s.tauAt t
     let v := via.map Fin.val
     AttachReq.parse r = some q → x.roleSet = true →
     (q.adopt = false → x.knownKid q v = none → x.unset = false → roleTakes x.role q.role = true → x.freeKid = some c → x.role ≠ 4 →
       x.rangeOk q = true → q.ready ≤ x.emitOfs →
       let k := x.addKid c ⟨q.role, v, q.ready, q.counts, x.per + 1, none, none⟩ q.base q.span false
       exec (.attachRequestRx t via r) s =
         .next (s.withTau (k.sendDown c (k.attachAnswer q.id Code.done c (k.per + 1))))) ∧
     (q.adopt = false → x.knownKid q v = none → x.unset = true →
       exec (.attachRequestRx t via r) s = .next (s.withTau (x.refuseAttach q v Code.lifecycle))) ∧
     (q.adopt = true → x.knownKid q v = none → x.unset = false → roleTakes x.role q.role = true → x.parent.isSome = true →
       x.children.length + x.boot.adopts.length < fanIn x.role → x.rd Reg.SCB_ADOPT_NUM + x.boot.adopts.length < 16 →
       q.ready ≤ x.emitOfs → x.newReqId.2.postExc x.anySec 1 0 0 q.base x.newReqId.1 = (z, true) →
       ∃ y : Tau, exec (.adoptRequestRx t none via r) s = .next (s.withTau y) ∧
         y.boot.adopts = x.boot.adopts ++ [⟨q.id, x.newReqId.1, false, false, q.role, q.base, q.span, q.ready, q.counts, v⟩] ∧
         y.scb.exc = z.scb.exc) ∧
     (q.adopt = true → (x.kid up).isSome = true → x.meterIn up r.length = (z, 0) →
       let held := z.children.any fun o =>
         o != up.val && decide (z.kidBase o ≤ q.base) && decide (q.base + q.span ≤ z.kidBase o + z.kidSpan o)
       exec (.adoptRequestRx t (some up) via r) s =
         .next (s.withTau (z.sendDown up (z.attachAnswer q.id (if held then Code.done else Code.fit) 0xFF 0))))) ∧
  (∀ (s : State) (t : T64) (port : Port) (v : BitVec 32) (r : List Byte) (a : Adopt), s.tau.on = true →
     let x := s.tauAt t
     let id := fieldAt r 4 4
     (v.toNat.testBit 0 = true → x.unset = true ∨ x.roleSet = false → exec (.attachGo t port v) s =
       .next (s.withTau ((x.wr Reg.GEN_ATTACH_STAT_CODE Code.lifecycle).bump Reg.GEN_LOAD_REFUSED_CNT))) ∧
     (v.toNat.testBit 0 = true → x.unset = false → x.roleSet = true → x.role < 2 → x.rd Reg.GEN_ATTACH_STAT_STATE = 0 →
       let n := x.newReqId
       let w : Tau := { n.2 with boot := { n.2.boot with req := some (n.1, false) } }
       let y := (w.sendUpTo (some (x.rd Reg.GEN_PRI_PARENT)) 1 false (w.attachRecord false n.1)).1.wr Reg.GEN_ATTACH_STAT_STATE 1
       exec (.attachGo t port v) s = .next (s.withTau ({ y with scb := { y.scb with orphanFrom := none } } : Tau).freshParent)) ∧
     (ctlOk 0xB2 r = true → r.length = 32 → x.boot.adopts.find? (·.up == id) = none →
       (x.boot.req = some (id, false) → x.rd Reg.GEN_ATTACH_STAT_STATE = 1 → fieldAt r 8 1 = 0 →
         ∃ y : Tau, exec (.attachAnswerRx t r) s = .next (s.withTau y) ∧ y.rd Reg.GEN_ATTACH_STAT_STATE = 2 ∧
           y.rd Reg.GEN_ATTACH_STAT_CODE = Code.done ∧ y.boot.req = none ∧ (y.rd Reg.GEN_INTR_STAT).testBit 7 = true) ∧
       (x.boot.req = some (id, true) → x.rd Reg.GEN_ATTACH_STAT_STATE = 2 → fieldAt r 8 1 = 0 →
         ∃ y : Tau, exec (.attachAnswerRx t r) s = .next (s.withTau y) ∧ y.rd Reg.GEN_ATTACH_STAT_STATE = 3 ∧
           y.scb.orphanFrom = some (fieldAt r 16 8) ∧ y.boot.req = none ∧ (y.rd Reg.GEN_INTR_STAT).testBit 7 = true) ∧
       (x.boot.req = some (id, false) → x.rd Reg.GEN_ATTACH_STAT_STATE = 1 → fieldAt r 8 1 ≠ 0 → exec (.attachAnswerRx t r) s =
         .next (s.withTau ((({ x with boot := { x.boot with req := none } }).wr Reg.GEN_ATTACH_STAT_CODE (fieldAt r 8 1)).wr
           Reg.GEN_ATTACH_STAT_STATE 0)))) ∧
     (ctlOk 0xB2 r = true → r.length = 32 → x.boot.adopts = [a] → a.up = id → a.acked = false → fieldAt r 8 1 = 0 →
       exec (.adoptConfirmationRx t r) s =
         .next (s.withTau { x with boot := { x.boot with adopts := [{ a with ok := true }] } })))

/-- Firmware acknowledges an exception that it has dealt with, and it leaves its section's queue (R210). One whose deadline has
passed is stuck: counted, recorded with severity 6, and gone; with none past its deadline nothing happens. -/
def Obligations.ExceptionsEnd : Prop :=
  ∀ (s : State) (t : T64) (port : Port) (sec : Fin 4) (v : BitVec 32) (e : Exc), s.tau.on = true →
    let x := s.tauAt t
    let due := (x.scb.exc.getD sec []).filter fun e => decide (e.posted + x.rd Reg.SCB_EXC_DEADLINE 0 sec ≤ x.per)
    let body := leBytes 1 e.kind ++ leBytes 1 e.id ++ zeros 2 ++ leBytes 2 e.job ++ leBytes 2 e.consist ++ leBytes 4 e.info
    let y := (x.bump Reg.SCB_STUCK_CNT 0 sec).record sec 0 6 0x0303 body
    let near := y.per :: (y.scb.stuck.getD sec []).filter fun p => decide (y.per < p + 16)
    (x.rd Reg.GEN_BOOT_STATE = 3 → (x.scb.exc.getD sec []).find? (·.id == bits v.toNat 0 6) = some e → e.kind ≠ 1 →
      exec (.excAck t port sec v) s = .next (s.withTau { x with scb := { x.scb with
        exc := modifyAt (fun l => l.filter (·.id != e.id)) sec x.scb.exc } })) ∧
    (due = [] → exec (.excDeadlineExpiry t sec) s = .next (s.withTau x)) ∧
    (due = [e] → e.kind ≠ 1 → near.length < y.rd Reg.SCB_STUCK_LIMIT 0 sec →
      exec (.excDeadlineExpiry t sec) s = .next (s.withTau { y with scb := { y.scb with
        exc := modifyAt (fun l => l.filter (·.id != e.id)) sec y.scb.exc
        stuck := modifyAt (fun _ => near) sec y.scb.stuck } }))

/-! ## The dies of a TRAY TAU -/

/-- Control records at the TDU (R465 to R468): a batch without a notice is applied and answered, or answers what the address
reads; a microcode fragment whose image is whole and good starts the microcode (R455), one of several waits for the rest; the key
of a job unknown so far starts it (R280, R468), with the RET_KEY of its consists, which its batch does not carry (the model's choice,
log entry 11); a grant adds its bytes, or sets them. Microcode at a die in ROM (R452, R455, R467): the last fragment of a good image
starts it, and no field of a page but TGEN and TTIME changes; a fragment of several waits for the rest. -/
def Obligations.DieTakesItsRecords : Prop :=
  (∀ (s : State) (t : T64) (r : List Byte) (act : CoreAct) (ret : List (BitVec 16 × BitVec 8)) (e : Tdu) (v : Nat), s.tdu.live = true →
     let d := s.tduAt t
     let b := d.core act
     let keys := ret.map fun k => (k.1.toNat, k.2.toNat)
     let addr := ((batchWrites r).getLast?.map (·.1)).getD 0
     let job := fieldAt r 4 2
     (ctlOk 0xB7 r = true → r.length = 40 + 8 * fieldAt r 2 2 → 1 ≤ fieldAt r 2 2 → fieldAt r 2 2 ≤ 507 →
       ((fieldAt r 1 1).testBit 1 = true → b.readWord .tau addr = (v, e) →
         exec (.tduWriteBatchRx t r act) s = .next (s.withTdu (e.sendCtl (readResponse 0 addr v)))) ∧
       ((fieldAt r 1 1).testBit 1 = false → fieldAt r 20 4 = 0 → fieldAt r 8 8 = 0 → b.batchCheck r = (0, e) →
         exec (.tduWriteBatchRx t r act) s =
           .next (s.withTdu ((e.applyBatch r).sendCtl (readResponse 0 addr 0))))) ∧
     (ctlOk 0xB9 r = true → r.length = 40 → d.nidStand 1 job (fieldAt r 8 4) (fieldAt r 12 4) = .next → d.ctl.held = [] →
       d.job job = none → d.keyJobs.length < 4 → fieldAt r 24 8 = 0 →
       exec (.tduKeyRx t r ret) s =
         .next (s.withTdu (({ d with jobs := ⟨job, [(0, fieldAt r 8 4)], d.per, none, keys⟩ :: d.jobs }).applyKey r))) ∧
     (ctlOk 0xB6 r = true → r.length = 16 →
       ((fieldAt r 1 1).testBit 0 = false →
         exec (.traceGrantRx t r) s = .next (s.withTdu (d.bumpBy Reg.TTRC_GRANT (fieldAt r 4 4)))) ∧
       ((fieldAt r 1 1).testBit 0 = true →
         exec (.traceGrantRx t r) s = .next (s.withTdu (d.wr Reg.TTRC_GRANT (fieldAt r 4 4)))))) ∧
  (∀ (s : State) (t : T64) (r : List Byte), s.tdu.reachable = true →
     let d := s.tduAt t
     let p := (r.drop 32).take (fieldAt r 2 2)
     fragOk r = true → fieldAt r 1 1 = 2 → d.rd Reg.TGEN_BOOT_STATE = 0 → d.ctl.gather = [] →
     (fieldAt r 6 2 = 1 → fieldAt p 0 1 = 0x20 → fieldAt p 4 4 + 64 = p.length → sha384 (p.drop 64) = (p.drop 16).take 48 →
       ∃ e : Tdu, exec (.tduImageFragmentRx t r) s = .next (s.withTdu e) ∧ e.rd Reg.TGEN_BOOT_STATE = 2 ∧
         e.rd Reg.TGEN_UCODE_VER = fieldAt p 2 2 ∧ e.rd Reg.TTIME_TT_STATE_STATE = 0 ∧ e.ctl.gather = [] ∧
         ∀ p ∈ [0x22, 0x23, 0x24, 0x25, 0x26, 0x27, 0x28, 0x29], ∀ g ∈ Reg.ofPage p, ∀ i, e.rd g i = d.rd g i) ∧
     (1 < fieldAt r 6 2 → ∃ e : Tdu, exec (.tduImageFragmentRx t r) s = .next (s.withTdu e) ∧
       e.rd Reg.TGEN_BOOT_STATE = 1 ∧ e.ctl.gather = [{ Gather.of r with frags := [(fieldAt r 4 2, p)] }]))

/-- Commands at the TDU (R392, R469, R470): each that is the next of its handle, or was held and comes again, has its effect and is
acknowledged applied; one that R469 does not list is refused with FIT and counted; one that skips a NID is held, and the replay of its
handle is asked for. A RUN_PACK of EFFECT 0 runs from the running period on (the model's reading, log entry 49), and a held record that
comes again is taken (log entry 17). -/
def Obligations.DieCommandsAct : Prop :=
  ∀ (s : State) (t : T64) (r : List Byte) (i : Nat), s.tdu.live = true →
    let b := s.tduAt t
    let d := { b with ctl := { b.ctl with held := b.ctl.held.filter (·.2 != r) } }
    let job := fieldAt r 2 2
    let effect := fieldAt r 16 8
    let mask := fieldAt r 24 2
    let id := fieldAt r 12 2
    let nid := (job, fieldAt r 4 4, fieldAt r 8 4)
    let done (kind : Nat) (e : Tdu) : State :=
      (s.withTdu (e.ack kind job (fieldAt r 4 4) (fieldAt r 8 4) Code.done (if fieldAt r 1 1 = 5 then 0 else effect)))
    let later (e : Tdu) : Tdu := if effect = 0 then e else { e with ctl := { e.ctl with due := e.ctl.due ++ [(effect, r)] } }
    let stand := b.nidStand 0 job (fieldAt r 4 4) (fieldAt r 8 4)
    ctlOk 0xBA r = true → r.length = 32 → fieldAt r 8 4 ≠ 0 →
    (stand = .gap → (∀ h ∈ b.ctl.held, h.1 ≠ nid) → fieldAt r 1 1 = 1 → exec (.tduCmdRunPack t r) s = .next (s.withTdu
      (let e := { b with ctl := { b.ctl with held := b.ctl.held ++ [(nid, r)] } }; e.sendCtl e.replayRequest))) ∧
    (stand = .next ∨ (stand = .gap ∧ b.ctl.held.any (·.2 == r) = true) →
    (fieldAt r 1 1 = 1 →
      firstIdx (fun o => match o with | some k => k.id == id && k.ver == fieldAt r 14 2 && !k.staged | none => false) d.scr.packs = some i →
      exec (.tduCmdRunPack t r) s = .next (done 11
        (later (d.setPacks (modifyAt (Option.map fun k => { k with run := some (d.effectOf r) }) i d.scr.packs))))) ∧
    (fieldAt r 1 1 = 2 →
      (effect = 0 → exec (.tduCmdTestOverdue t r) s = .next (done 11 (d.raise 2))) ∧
      (effect ≠ 0 → exec (.tduCmdTestOverdue t r) s =
        .next (done 11 { d with ctl := { d.ctl with due := d.ctl.due ++ [(effect, r)] } }))) ∧
    (fieldAt r 1 1 = 3 → effect = 0 →
      exec (.tduCmdJobEnd t r) s = .next (done 2 (((d.endJob job d.per).dropJob job).freeSlots))) ∧
    (fieldAt r 1 1 = 4 → firstIdx Option.isNone d.emit.sc = some i → Nat.land mask (schedMask d.emit.sc) = 0 →
      Nat.land mask (d.rd Reg.TGEN_UPD_PEND) = 0 → exec (.tduCmdSchedCommit t r) s =
        .next (done 7 { d with emit := { d.emit with sc := modifyAt (fun _ => some ⟨effect, mask⟩) i d.emit.sc } })) ∧
    (fieldAt r 1 1 = 5 → firstIdx (· == some ⟨effect, mask⟩) d.emit.sc = some i → exec (.tduCmdSchedCancel t r) s =
      .next (done 8 { d with emit := { d.emit with sc := modifyAt (fun _ => none) i d.emit.sc } })) ∧
    (fieldAt r 1 1 = 6 → exec (.tduCmdConsistDisable t r) s = .next (done 9
      (later { d with consists := d.consists.map fun c =>
        if c.id = id then { c with until_ := some (min (d.effectOf r) (c.until_.getD (d.effectOf r))) } else c }))) ∧
    (fieldAt r 1 1 = 7 → exec (.tduCmdPackDisable t r) s = .next (done 9 (later (d.setPacks (d.scr.packs.map
      (Option.map fun k => if k.id = id then { k with stop := some (d.effectOf r) } else k))).reapPacks))) ∧
    (7 < fieldAt r 1 1 → exec (.tduCmdUnknown t r) s =
      .next (s.withTdu ((d.bump Reg.TGEN_CST_REFUSED_CNT).ack 0 job (fieldAt r 4 4) (fieldAt r 8 4) Code.fit 0))))

/-- A die and its TRAY TAU before attachment (R453 to R456): the die says HELLO on every trained link; the HELLO of a die in ROM
gets it the microcode; the microcode itself is loaded from an image; a running die attaches under its rank with the base
timetable's RATE. The proxied access of a die (R466, R473): GO sends the batch and shows BUSY; the die's answer, whose credits go
back (R307), gives the word read and the result. An image of a grant is taken at IMG_LOAD and shows its result (R381, R424). -/
def Obligations.DiesAttachAndAreReached : Prop :=
  (∀ (s : State) (t : T64) (port : Port) (v : BitVec 32) (link : Fin 32) (die : Fin 16) (mem r : List Byte) (i : Image) (tt : Timetable)
     (p : List Byte),
     let x := s.tauAt t
     let d := s.tduAt t
     (s.tdu.reachable = true → d.time.clock = true → d.rd Reg.TGEN_BOOT_STATE ≠ 2 → (d.lnk 0).up = true → (d.lnk 1).up = false →
       exec (.helloSend t) s = .next (s.withTdu ((d.bump Reg.TGEN_HELLO_CNT).emitOut (.vct 0 (d.hello 0))))) ∧
     (s.tau.on = true → ctlOk 0xB0 r = true → r.length = 32 → x.isTray = true → link.val < 16 → (x.kid link).isNone = true → x.dead (x.linkHome link) = false →
       x.boot.dies.all (fun k => k.ids == [none, none]) = true → fieldAt r 1 1 = 0 → x.lib.ucode = some p → x.boot.acc = none →
       ∃ y : Tau, exec (.helloRx t link r) s = .next (s.withTau y) ∧ y.rd Reg.GEN_TDU_STATE_STATE link = 2 ∧
         y.rd Reg.GEN_TDU_STATE_REL link = fieldAt r 2 1 ∧ y.rd Reg.GEN_TDU_STATE_LC link = fieldAt r 3 1 % 8) ∧
     (s.tau.on = true → v.toNat.testBit 0 = true → Image.read [2] mem = some i →
       x.isTray = false → fieldAt i.payload 4 4 ≠ 0 → fieldAt i.payload 4 4 ≤ 262144 → i.payload.length = 64 + fieldAt i.payload 4 4 →
       fieldAt i.payload 1 1 = 0 → allZero ((i.payload.drop 8).take 8) = true →
       let y := (x.verify [0] i).1
       let kept : Tau := { y with lib := { y.lib with
         ucode := some i.payload
         vers := (2, 0, i.ver) :: y.lib.vers.filter (·.1 != 2) } }
       exec (.ucodeLoad t port v mem) s = .next (s.withTau (if (x.verify [0] i).2
         then (kept.wr Reg.GEN_UCODE_STAT_CODE Code.done).wr Reg.GEN_UCODE_STAT_VER (fieldAt i.payload 2 2)
         else (y.wr Reg.GEN_UCODE_STAT_CODE Code.signature).bump Reg.GEN_LOAD_REFUSED_CNT))) ∧
     (s.tau.on = true → x.rd Reg.GEN_TDU_STATE_STATE die = 3 → x.baseTt = some tt → x.isTray = true → x.parent.isSome = true →
       x.unset = false → die.val < x.rd Reg.SCB_RANK_SPAN → x.jobs = [] →
       exec (.tduAttach t die true) s = .next (s.withTau (x.attachDie die tt)))) ∧
  (∀ (s : State) (t : T64) (port : Port) (v : BitVec 32) (die : Fin 16) (mem r : List Byte) (i : Image) (l : Nat) (ls : List Nat), s.tau.on = true →
     let x := s.tauAt t
     let n := bits v.toNat 0 4
     let a := x.rd Reg.GEN_TDU_ACC_ADDR
     (v.toNat.testBit 31 = true → x.boot.acc = none → x.rd Reg.GEN_TDU_STATE_STATE n = 4 →
       let y := (({ x with boot := { x.boot with acc := some (n, a, v.toNat.testBit 4) } }).wr Reg.GEN_TDU_ACC_STAT_CODE Code.busy).wr
         Reg.GEN_TDU_ACC_STAT_VALID 0
       exec (.tduAccess t port v) s =
         .next (s.withTau (y.sendDown n (accessBatch (v.toNat.testBit 4) a (y.rd Reg.GEN_TDU_ACC_DATA))))) ∧
     (ctlOk 0xBB r = true → r.length = 24 → x.isTray = true → (x.kid die).isNone = true → x.dieLinks die = l :: ls → x.kidLost die = false →
       x.boot.acc = some (die.val, fieldAt r 4 4, false) → fieldAt r 1 1 = 0 →
       exec (.tduReadResponseRx t die r) s =
         .next (s.withTau (((x.emitOut (.credit l (ceilDiv r.length 64))).wr Reg.GEN_TDU_ACC_DATA (fieldAt r 8 4)).accessDone Code.done))) ∧
     (v.toNat.testBit 0 = true → Image.read [8, 9, 10] mem = some i → i.type = 8 →
       let g := x.takeGrant i
       exec (.imgLoad t port v mem) s =
         .next (s.withTau ((if g.2 = Code.done then g.1 else g.1.bump Reg.CIP_GRANT_REF_CNT).imgDone 8 g.2))))

/-! ## Time -/

/-- The messages that measure a source (R47, R60), on a port that hears them and follows: each gives the exchange what it carries,
at the stamp corrected to the port's reference plane; a Sync of one step and a Follow_Up give t1 and t2, a Delay_Resp and the
answers of the peer mechanism the mean path delay. What a port answers and sends (R42, R43, R60): a master answers a Delay_Req
with the stamp of its arrival and its correction, a port of the peer mechanism a Pdelay_Req, with its turn-around in one step, and
each discards and counts those of a source whose Announce lacks ptpTimescale; Sync, Announce and the delay request leave at the
end of their intervals, to the multicast address of the port's transport. Signaling and management messages change nothing. -/
def Obligations.ExchangesMeasure : Prop :=
  (∀ (s : State) (t : T64) (port : Fin 18) (m : PtpMsg) (a b c d : Int) (q : Nat), s.tau.islPg = true →
     let x := s.tauAt t
     let i := port.val
     x.ptpHears i m.domain m.udp = true → x.rd Reg.TIME_P_CFG_MODE i = 0 → (x.source i).announced = true →
     (m.twoStep = true → exec (.ptpSyncRx t port m) s =
       .next (s.withTau (x.setSource i fun s => { s with sync := some (m.seq, x.rxStamp i t, m.corr) }))) ∧
     (m.twoStep = false → ptpToT64 m.sec m.ns m.corr = some a → exec (.ptpSyncRx t port m) s =
       .next (s.withTau (x.newSync i a (x.rxStamp i t)))) ∧
     ((x.source i).sync = some (m.seq, b, c) → ptpToT64 m.sec m.ns (c + m.corr) = some a → exec (.ptpFollowUpRx t port m) s =
       .next (s.withTau (x.newSync i a b))) ∧
     (x.rd Reg.TIME_P_CFG_DELAY_MECH i = 0 → (x.source i).req = some (m.seq, c) → (x.source i).t12 = some (a, b) →
       ptpToT64 m.sec m.ns m.corr = some d → exec (.ptpDelayRespRx t port m) s =
       .next (s.withTau (x.newDelay i ((b - a) + (d - c))))) ∧
     (x.rd Reg.TIME_P_CFG_DELAY_MECH i = 1 → (x.source i).req = some (m.seq, a) →
       (m.twoStep = false → exec (.ptpPdelayRespRx t port m) s =
         .next (s.withTau (x.newDelay i (x.rxStamp i t - a - divEven m.corr 16384)))) ∧
       (m.twoStep = true → ptpToT64 m.sec m.ns m.corr = some b → exec (.ptpPdelayRespRx t port m) s =
         .next (s.withTau (x.setSource i fun s => { s with presp := some (m.seq, b, x.rxStamp i t) }))) ∧
       (q = m.seq → (x.source i).presp = some (q, b, d) → ptpToT64 m.sec m.ns m.corr = some c →
         exec (.ptpPdelayRespFollowUpRx t port m) s = .next (s.withTau (x.newDelay i ((b - a) + (d - c))))))) ∧
  (∀ (s : State) (t t3 : T64) (port : Fin 18) (m : PtpMsg), s.tau.islPg = true →
     let x := s.tauAt t
     let i := port.val
     let n := (x.source i).seq
     let next := x.setSource i fun s => { s with seq := (s.seq + 1) % 65536 }
     (exec (.ptpSignalingManagementRx t) s = .next (s.withTau x)) ∧
     (x.ptpHears i m.domain m.udp = true → (x.source i).barred = false → x.ptpMaster i = true → x.rd Reg.TIME_P_CFG_DELAY_MECH i = 0 →
       exec (.ptpDelayReqRx t port m) s =
         .next (s.withTau (x.emitOut (.ptp i 3 (x.ptpDest i false) (x.ptpStamp i m.seq (x.rxStamp i t).toNat false m.corr))))) ∧
     (x.ptpHears i m.domain m.udp = true → (x.source i).barred = true →
       exec (.ptpDelayReqRx t port m) s = .next (s.withTau (x.bump Reg.TIME_OUTLIER_CNT)) ∧
       exec (.ptpPdelayReqRx t t3 port m) s = .next (s.withTau (x.bump Reg.TIME_OUTLIER_CNT))) ∧
     (x.ptpHears i m.domain m.udp = true → (x.source i).barred = false → x.rd Reg.TIME_P_CFG_DELAY_MECH i = 1 →
       x.rd Reg.TIME_PTP_CFG_TWO_STEP = 0 →
       exec (.ptpPdelayReqRx t t3 port m) s =
         .next (s.withTau (x.emitOut (.ptp i 5 (x.ptpDest i true)
           ⟨m.domain, m.udp, m.seq, 0, 0, (x.txStamp i t3 - x.rxStamp i t) * 16384 + m.corr, false⟩)))) ∧
     (x.ptpHears i (x.rd Reg.TIME_PTP_CFG_DOMAIN) (x.ptpUdp i) = true →
       (x.unset = false → x.ptpMaster i = true → x.rd Reg.TIME_PTP_CFG_TWO_STEP = 0 → exec (.ptpTransmitInterval t port 0) s =
         .next (s.withTau (next.emitOut (.ptp i 0 (x.ptpDest i false) (x.ptpStamp i n (x.txStamp i t).toNat false))))) ∧
       (x.unset = false → x.ptpMaster i = true → exec (.ptpTransmitInterval t port 1) s =
         .next (s.withTau (next.emitOut (.announce i (x.ptpDest i false) n (x.ownAnnounce i))))) ∧
       ((x.source i).announced = true → ∃ y : Tau, exec (.ptpTransmitInterval t port 2) s = .next (s.withTau y) ∧
         (let peer := x.rd Reg.TIME_P_CFG_DELAY_MECH i != 0
          y.out = .ptp i (if peer then 4 else 2) (x.ptpDest i peer) (x.ptpStamp i n (x.txStamp i t).toNat false) :: x.out) ∧
         y.regs = x.regs)))

/-- Announce qualifies a source while ptpTimescale is set, and gives the UTC offset (R42, R43); its absence, or an Announce without
ptpTimescale, takes the qualification away (R42, R52). Another source is selected at once. -/
def Obligations.AnnounceQualifies : Prop :=
  ∀ (s : State) (t : T64) (port : Fin 18) (a : Announce), s.tau.islPg = true →
    let x := s.tauAt t
    let i := port.val
    (x.ptpHears i a.domain a.udp = true → x.rd Reg.TIME_P_CFG_MODE i = 0 →
      let heard := (x.setSource i fun s => { s with announced := true, barred := false, set := a.set }).wr Reg.TIME_PTP_CFG_UTC_OFFSET a.utcOffset
      let lost := (x.bump Reg.TIME_OUTLIER_CNT).setSource i fun s => { s with announced := false, barred := true }
      (a.ptpTimescale = true → exec (.ptpAnnounceRx t port a) s = .next (s.withTau heard.reselect)) ∧
      (a.ptpTimescale = false → exec (.ptpAnnounceRx t port a) s = .next (s.withTau lost.reselect))) ∧
    (∃ y : Tau, exec (.announceReceiptTimeout t port) s = .next (s.withTau y) ∧
      (x.time.src.length = 19 → (y.source i).announced = false ∧ (y.source i).t12 = none) ∧ y.ft = x.ft)

/-- Source 18 and what firmware sets (R46, R50, R52, R482): REF10M_IN in and out of qualification, a PPS_IN edge that is missed, an edge that
measures and one that sets FT in UNSET from the seconds armed by TOD_SET, and the acceptance of a refused offer. What the TAU's time gives
out (R53 to R57, R69 to R71, R485): a word on every link that is up, of the time, its flags and its error bound; a reply to an echo on a
link that is up, at a later instant that the manual leaves open; the edges of a timed event output and of the whole second. That
PPS_OFFSET takes the nearest second (log entry 41), and what a timed event output does with edges that it skips and in UNSET (log entry
52), are the model's reading; the instant of a reply is free (log entry 3). -/
def Obligations.TimeEntersAndLeaves : Prop :=
  (∀ (s : State) (t : T64) (port : Port) (v : BitVec 32) (sec : Nat), s.tau.on = true →
     let x := s.tauAt t
     (exec (.ref10mInQualified t) s = .next (s.withTau (x.wr Reg.TIME_TIME_STATE_EXT10M 1))) ∧
     (x.rd Reg.TIME_TIME_STATE_STATE ≠ 1 → exec (.ref10mInDisqualified t) s =
       .next (s.withTau { x.wr Reg.TIME_TIME_STATE_EXT10M 0 with time := { x.time with ppsOk := false } })) ∧
     (x.rd Reg.TIME_TIME_STATE_STATE ≠ 1 → exec (.ppsInMissing t) s =
       .next (s.withTau { x with time := { x.time with ppsOk := false } })) ∧
     (x.unset = true → x.time.todArmed = some sec → x.rd Reg.TIME_TIME_STATE_EXT10M = 1 → sec ≤ 4611686018 →
       ∃ y : Tau, exec (.ppsInEdge t true) s = .next (s.withTau y) ∧ y.ft = BitVec.ofNat 64 (sec * 4000000000) ∧
         y.rd Reg.TIME_TIME_STATE_STATE = 1 ∧ y.rd Reg.TIME_TIME_STATE_SRC = 18 ∧ y.time.todArmed = none ∧
         y.rd Reg.TIME_PPS_OFFSET = 0) ∧
     (x.unset = false → x.rd Reg.TIME_TIME_STATE_EXT10M = 0 → x.rd Reg.TIME_TIME_STATE_STATE ≠ 1 →
       let off : Int := (nearestSecond t.toNat : Int) - (t.toNat : Int)
       ∃ y : Tau, exec (.ppsInEdge t true) s = .next (s.withTau y) ∧ y.time.ppsLast = some t.toNat ∧ y.time.ppsOk = false ∧
         y.rd Reg.TIME_PPS_OFFSET = unsigned 32 (clipS 32 off)) ∧
     (x.unset = true → exec (.todSet t port v) s =
       .next (s.withTau { x with time := { x.time with todArmed := some (x.time.todHi * 2 ^ 32 + v.toNat) } })) ∧
     (x.unset = false → exec (.todSet t port v) s = .next (s.withTau (x.bump Reg.TIME_CFG_REFUSED_CNT))) ∧
     (v.toNat.testBit 31 = true → bits v.toNat 0 5 < 19 → (x.source (bits v.toNat 0 5)).refused.isSome = true →
       exec (.jumpAccept t port v) s = .next (s.withTau { x with time := { x.time with accept := some (bits v.toNat 0 5) } }))) ∧
  (∀ (s : State) (t : T64) (link : Fin 32) (k : Fin 4), s.tau.on = true →
     let x := s.tauAt t
     (x.isTray = true → x.unset = false → t.toNat % 4096 = 0 → exec (.timeWordTx t) s = .next (s.withTau { x with
       out := (((List.range 32).filter (x.links.testBit ·)).map fun l => Output.timeWord l (x.timeWord t.toNat)).reverse ++ x.out })) ∧
     (x.links.testBit link = true → ∃ u, t.toNat < u ∧ u ≤ t.toNat + 1024 ∧ exec (.echoRx t link) s =
       .next (s.withTau { x with
         free := x.free + 1
         out := .echoReply link t.toNat u :: x.out })) ∧
     (x.rd Reg.TIME_TEV_CTRL_EN k = 1 → (x.time.tev.getD k ⟨0, none⟩).next = some t.toNat → ∃ y : Tau, exec (.tevEdge t k) s = .next (s.withTau y) ∧
       (let lvl := x.rd Reg.TIME_TEV_CTRL_POL k == 0
        y.out = .pin (16 + k) (!lvl) (t.toNat + x.rd Reg.TIME_TEV_WIDTH k) :: .pin (16 + k) lvl t.toNat :: x.out) ∧
       (x.time.tev.length = 4 → ((y.time.tev.getD k ⟨0, none⟩).done = (x.time.tev.getD k ⟨0, none⟩).done + 1))) ∧
     (x.unset = false → t.toNat % 4000000000 = 0 → x.rd Reg.TIME_PIN_CFG_PPS_OUT_EN = 1 →
       exec (.ppsOutEdge t) s = .next (s.withTau { x with
         out := .pin 0 false (t.toNat + 400000000) :: .pin 0 true t.toNat :: x.out })))

/-- Time in the die (R55 to R58, R65, R66): a good word on the link in use, met within TW_TOL while LOCKED, steers FT and is
counted nowhere; one with a bad trailer is counted and changes nothing else; an echo's reply gives the link's delay; when no word
has come for TW_LOST intervals the TDU holds over; a link that retrains has no delay until a new echo completes. The supplies and
clocks of the die (R66, R444, R447, R479, R483, R487): gating, the loss of VDD_TDU and a stopped reference take a TDU in any state to
REACQUIRE and open a gap; gating and the loss of VDD_TDU end an authorisation that is loaded or in force (R354), and stop the clock
until the PLL has locked; the levels return without effect; the power-on reset clears everything but the sampled fuses. That the PLL has
to lock again after gating, and what TDU_INTR shows, are the model's reading (log entry 68), and what has been put out is kept as a list
(log entry 42). -/
def Obligations.DieTimeAndSupplies : Prop :=
  (∀ (s : State) (t t2 t3 : T64) (link : Fin 2) (w : List Byte) (t1 : Nat) (d2 : Int), s.tdu.clocked = true →
     let d := s.tduAt t
     let l := link.val
     let diff : Int := ((2 * fieldAt w 0 8 : Nat) + d2) - ((2 * d.now + bit d.time.half : Nat) : Int)
     ((d.lnk l).up = true → wordOk w = false → exec (.timeWordRx t link w) s = .next { s with tdu := d.bump Reg.TTIME_TW_CRC_CNT }) ∧
     ((d.lnk l).up = true → wordOk w = true → (d.lnk l).fresh = false → fieldAt w 0 8 / 4096 % 2 ^ d.rd Reg.TTIME_ECHO_INTV ≠ 0 →
       (d.lnk l).d2 = some d2 → d.wordLink = l → d.tt = 1 → diff.natAbs ≤ 2 * d.rd Reg.TTIME_TW_TOL →
       ∃ e : Tdu, exec (.timeWordRx t link w) s = .next { s with tdu := e } ∧ e.ft = d.ft ∧ e.time.steer = diff * 1000000 ∧
         e.time.discards = 0 ∧ e.time.heard = d.now ∧ e.time.lastEb = fieldAt w 10 2 ∧ e.tt = 1) ∧
     ((d.lnk l).up = true → (d.lnk l).echo = some t1 →
       let delay : Int := (((d.now : Int) - t1) - ((t3.toNat : Int) - t2.toNat)) + 2 * d.lnkAsym l
       exec (.echoReplyRx t link t2 t3) s =
         .next { s with tdu := (d.setLnk l fun k => { k with d2 := some delay, echo := none }).wr (lnkDelay l) (unsigned 32 (halfEven delay)) }) ∧
     (d.tt = 1 → d.rd Reg.TTIME_TW_LOST * 4096 ≤ d.now - d.time.heard →
       ∃ e : Tdu, exec (.twLostTimeout t) s = .next { s with tdu := e } ∧ e.tt = 2 ∧ e.ft = d.ft) ∧
     (∃ e : Tdu, exec (.linkRetrain t link) s = .next { s with tdu := e } ∧ (d.time.link.length = 2 → (e.lnk l).d2 = none ∧
       (e.lnk l).echo = none ∧ (e.lnk l).fresh = true) ∧ e.rd (lnkDelay l) = 0)) ∧
  (∀ (s : State) (t : T64) (act : CoreAct) (lc : Fin 8) (dieId : BitVec 64),
     let d := s.tduAt t
     (s.tdu.time.por = true → d.time.gated = false → (d.core act).tt ≠ 3 → ∃ e : Tdu, exec (.tduGateAssert t act) s = .next { s with tdu := e } ∧
       e.time.gated = true ∧ e.time.clock = false ∧ e.tt = 3 ∧ e.time.gapLast = d.now ∧ e.time.gapCause = 3 ∧
       ((d.core act).rd Reg.TTRC_AUTH_STATE = 1 ∨ (d.core act).rd Reg.TTRC_AUTH_STATE = 2 → e.rd Reg.TTRC_AUTH_STATE = 3)) ∧
     (s.tdu.time.por = true → d.time.gated = false → d.tt ≠ 3 → ∃ e : Tdu, exec (.vddTduLoss t) s = .next { s with tdu := e } ∧
       e.time.vdd = false ∧ e.time.clock = false ∧ e.tt = 3 ∧ e.time.gapLast = d.now ∧ e.time.gapCause = 3 ∧
       e.cap.hist = CaptureSt.reset.hist ∧ e.cap.cnt = CaptureSt.reset.cnt ∧ e.cap.slots = [] ∧ e.cap.det = CaptureSt.reset.det ∧
       (d.rd Reg.TTRC_AUTH_STATE = 1 ∨ d.rd Reg.TTRC_AUTH_STATE = 2 → e.rd Reg.TTRC_AUTH_STATE = 3)) ∧
     (s.tdu.time.por = true → d.tt ≠ 3 → ∃ e : Tdu, exec (.tduRefinStop t) s = .next { s with tdu := e } ∧
       e.time.clock = false ∧ e.tt = 3 ∧ e.time.gapLast = d.now ∧ e.time.gapCause = 2 ∧ e.fuses = d.fuses) ∧
     (s.tdu.time.por = true →
       exec (.tduGateRelease t) s = .next { s with tdu := { d with time := { d.time with gated := false } } } ∧
       exec (.vddTduReturn t) s = .next { s with tdu := { d with time := { d.time with vdd := true } } } ∧
       exec (.tduPllLock t) s = .next { s with tdu := { d with time := { d.time with clock := true } } }) ∧
     (exec .tduPorNFall s = .next { s with
       tdu := ({ s.tdu with time := { s.tdu.time with por := false } } : Tdu).drive s.tdu }) ∧
     (let z : Tdu := { Tdu.reset with
        fuses := ⟨lc, dieId.toNat⟩
        time := { Tdu.reset.time with clock := false, vdd := s.tdu.time.vdd, gated := s.tdu.time.gated }
        out := s.tdu.out
        free := s.tdu.free }
      exec (.tduPor lc dieId) s = .next { s with tdu := z.drive s.tdu }))

/-! ## Capture in the die -/

/-- A marker (R90 to R92, R491, R492): stamped, checked against the step order, kept, offered to the histograms and to the taps. One of an
undefined code is counted as out of order, one in a re-acquisition is counted and lost, and one that finds the queue full is dropped and
counted; each still acts on the taps. A phase (R122): stamped, checked against its collective's order, kept and offered to the histograms;
one of an undefined code, in a re-acquisition, or that finds the queue full, is counted and not kept. What a reserved code does in a
re-acquisition and sidebands in UNSET (log entry 55), and which phase is in order (log entry 56), are the model's choice. -/
def Obligations.SidebandsAreStamped : Prop :=
  (∀ (s : State) (t : T64) (code : Fin 8) (step : BitVec 32) (coll : BitVec 16) (slot : BitVec 8), s.tdu.clocked = true →
     let d := s.tduAt t
     let m0 : Marker := ⟨code.val, step.toNat, coll.toNat, slot.toNat, d.now, false, d.ho, d.errBound⟩
     let m : Marker := { m0 with order := !d.cap.inOrder m0 }
     let e1 := d.bump Reg.TEMIT_MARK_CNT
     let e2 := if m.order then e1.bump Reg.TEMIT_MARK_ORDER_CNT else e1
     let e3 := ({ e2 with cap := { e2.cap.orderAfter m with marks := e2.cap.marks ++ [m] } }).markHist m
     (code.val < 5 → d.tt ≠ 3 → d.cap.markQ.length < 64 → exec (.markerPresent t code step coll slot) s =
       .next (s.withTdu ((if code.val = 4 then e3.token m else e3).tapMarker code.val step.toNat coll.toNat))) ∧
     (5 ≤ code.val → exec (.markerPresent t code step coll slot) s = .next (s.withTdu (d.bump Reg.TEMIT_MARK_ORDER_CNT))) ∧
     (code.val < 5 → d.tt = 3 → exec (.markerPresent t code step coll slot) s =
       .next (s.withTdu ((({ d with time := { d.time with lostEvt := d.time.lostEvt + 1 } }).bump Reg.TEMIT_MARK_GAP_CNT).tapMarker
         code.val step.toNat coll.toNat))) ∧
     (code.val < 5 → d.tt ≠ 3 → 64 ≤ d.cap.markQ.length → exec (.markerPresent t code step coll slot) s =
       .next (s.withTdu ((d.bump Reg.TEMIT_MARK_DROP_CNT).tapMarker code.val step.toNat coll.toNat)))) ∧
  (∀ (s : State) (t : T64) (code : Fin 8) (coll : BitVec 16), s.tdu.clocked = true →
     let d := s.tduAt t
     let nxt := countAt d.cap.phaseNext coll.toNat
     let ok := if nxt = 0 then code.val == 0 else decide (nxt ≤ code.val)
     let m : Phase := ⟨code.val, coll.toNat, d.now, !ok, d.ho, d.errBound⟩
     let e1 := d.bump Reg.TCAP_PH_CNT
     let e2 := if ok then e1 else e1.bump Reg.TCAP_PH_ORDER_CNT
     (code.val < 5 → d.tt ≠ 3 → d.cap.phaseQ.length < 32 → exec (.phasePresent t code coll) s =
       .next (s.withTdu (({ e2 with cap := { e2.cap with
         phases := e2.cap.phases ++ [m]
         phaseNext := Store.put coll.toNat (if code.val = 4 then 0 else code.val + 1) 0 e2.cap.phaseNext } }).phaseHist m))) ∧
     (5 ≤ code.val → exec (.phasePresent t code coll) s = .next (s.withTdu (d.bump Reg.TCAP_PH_ORDER_CNT))) ∧
     (code.val < 5 → d.tt = 3 → exec (.phasePresent t code coll) s =
       .next (s.withTdu (({ d with time := { d.time with lostEvt := d.time.lostEvt + 1 } }).bump Reg.TCAP_PH_GAP_CNT))) ∧
     (code.val < 5 → d.tt ≠ 3 → 32 ≤ d.cap.phaseQ.length → exec (.phasePresent t code coll) s =
       .next (s.withTdu (d.bump Reg.TCAP_PH_DROP_CNT))))

/-- A sensor result of an enabled channel is stamped and kept, with the tag of the trigger that armed the channel earlier, which it consumes,
and the flag and larger bound of the two (R89, R119, R120), and sampled with its sign (R124); one of a channel that is not enabled, or in
a re-acquisition, is dropped and counted. A retry strobe counts in fixed counter 7 or 8 (R107) and, stamped, gives the interval since the
one before as a sample (R125). A stretch (R139): its start is stamped, and flushes a merged stretch that ended too long ago; its end is
counted, and opens or joins the merged stretch with the cycles that counter 1 counted; in a re-acquisition each edge is only counted
(R67); once the merging time has passed without a new start, the event is queued, and no sooner. Sensor results in UNSET are log entry 55. -/
def Obligations.DieCaptures : Prop :=
  (∀ (s : State) (t : T64) (ch : Fin 64) (val : BitVec 32) (err : Bool), s.tdu.clocked = true →
     let d := s.tduAt t
     let en := if ch.val < 32 then (d.rd Reg.TCAP_SH_CH_EN_LO).testBit ch.val else (d.rd Reg.TCAP_SH_CH_EN_HI).testBit (ch.val - 32)
     let tag := match d.cap.armed.getD ch.val none with | some a => if a.1 < d.now then some a else none | none => none
     let old := (d.cap.sensor.getD ch.val none).map (·.samples) |>.getD 0
     let ho := d.ho || (tag.map (·.2.1)).getD false
     let eb := max d.errBound ((tag.map (·.2.2)).getD 0)
     let c := { d.cap with
       sensor := modifyAt (fun _ => some ⟨val.toInt, d.now, tag.map (·.1), err, ho, eb, min (old + 1) 65535⟩) ch.val d.cap.sensor
       armed := if tag.isSome then modifyAt (fun _ => none) ch.val d.cap.armed else d.cap.armed }
     let e := { d with cap := c }
     (d.tt ≠ 3 → en = true → err = false → exec (.sensorResult t ch val err) s =
       .next (s.withTdu (e.sampleAll 5 (fun a => bits a 0 6 == ch.val) val.toInt e.ho))) ∧
     (d.tt ≠ 3 → en = true → err = true →
       (∀ u : Fin 16, d.rd Reg.THIST_H_CTRL_EN u.val = 0) → exec (.sensorResult t ch val err) s = .next (s.withTdu e)) ∧
     (d.tt ≠ 3 → en = false → exec (.sensorResult t ch val err) s = .next (s.withTdu (d.bump Reg.TCAP_SH_DROP_CNT))) ∧
     (d.tt = 3 → exec (.sensorResult t ch val err) s =
       .next (s.withTdu (({ d with time := { d.time with lostEvt := d.time.lostEvt + 1 } }).bump Reg.TCAP_SH_DROP_CNT)))) ∧
  (∀ (s : State) (t : T64) (l : Fin 2) (t0 : Nat) (f0 : Bool), s.tdu.live = true →
     let d := s.tduAt t
     let e := d.count (7 + l.val) 1
     let k := { e with cap := { e.cap with retry := modifyAt (fun _ => some (e.now, e.ho)) l.val e.cap.retry } }
     (d.clocked = false ∨ d.tt = 3 → exec (.linkRetryStrobe t l) s = .next (s.withTdu e)) ∧
     (d.clocked = true → d.tt ≠ 3 → d.cap.retry.getD l.val none = none → exec (.linkRetryStrobe t l) s = .next (s.withTdu k)) ∧
     (d.clocked = true → d.tt ≠ 3 → d.cap.retry.getD l.val none = some (t0, f0) → exec (.linkRetryStrobe t l) s =
       .next (s.withTdu (k.sampleAll 3 (fun a => a.testBit l.val) ((k.now - t0 : Nat) : Int) (k.ho || f0))))) ∧
  (∀ (s : State) (t : T64) (act : CoreAct) (m0 : Mark) (c0 : Nat) (m : Stretch), s.tdu.time.por = true →
     let d := (s.tduAt t).core act
     let on := d.wr Reg.TCAP_STRETCH_STATE_ACTIVE 1
     let start (e : Tdu) : Tdu := { e with cap := { e.cap with stretchStart := some (e.stamp, e.cap.cnt.getD 1 0) } }
     let off := (d.wr Reg.TCAP_STRETCH_STATE_ACTIVE 0).bump Reg.TTIME_STRETCH_CNT
     let cyc := (d.cap.cnt.getD 1 0 + 2 ^ 48 - c0) % 2 ^ 48
     d.clocked = true →
     (d.tt ≠ 3 → d.cap.stretch = none → exec (.stretchAssert t act) s = .next (s.withTdu (start on))) ∧
     (d.tt ≠ 3 → d.cap.stretch = some m → 0 < d.rd Reg.TCAP_STRETCH_MERGE → d.now - m.stop.t ≤ d.rd Reg.TCAP_STRETCH_MERGE →
       exec (.stretchAssert t act) s = .next (s.withTdu (start on))) ∧
     (d.tt ≠ 3 → d.cap.stretch = some m → d.rd Reg.TCAP_STRETCH_MERGE = 0 ∨ d.rd Reg.TCAP_STRETCH_MERGE < d.now - m.stop.t →
       exec (.stretchAssert t act) s = .next (s.withTdu (start on.flushStretch))) ∧
     (d.tt = 3 → exec (.stretchAssert t act) s = .next (s.withTdu on.lostEdge)) ∧
     (d.tt ≠ 3 → d.cap.stretchStart = some (m0, c0) →
       (d.cap.stretch = none → exec (.stretchDeassert t act) s = .next (s.withTdu { off with cap := { off.cap with
         stretch := some ⟨m0, off.stamp, 1, cyc⟩
         stretchStart := none } })) ∧
       (d.cap.stretch = some m → exec (.stretchDeassert t act) s = .next (s.withTdu { off with cap := { off.cap with
         stretch := some ⟨m.first, off.stamp, m.members + 1, m.cyc + cyc⟩
         stretchStart := none } }))) ∧
     (d.tt = 3 → exec (.stretchDeassert t act) s =
       .next (s.withTdu ({ off with cap := { off.cap with stretchStart := none } }).lostEdge))) ∧
  (∀ (s : State) (t : T64) (m : Stretch), s.tdu.clocked = true →
     let d := s.tduAt t
     let k := { d with cap := { d.cap with stretch := none } }
     let ho := m.first.ho || m.stop.ho
     d.cap.stretchStart = none → d.cap.stretch = some m →
       (m.stop.t ≤ d.now → d.rd Reg.TCAP_STRETCH_MERGE ≤ d.now - m.stop.t → exec (.stretchMergeExpiry t) s =
         .next (s.withTdu (k.queueUnsched (k.eventCoach 2 (min m.members 255) (2 * bit ho) 0 (leBytes 8 m.stop.t ++ leBytes 8 m.cyc) 2
           ⟨m.first.t, ho, max m.first.eb m.stop.eb⟩ (decide (255 < m.members)))))) ∧
       (m.stop.t ≤ d.now → d.now - m.stop.t < d.rd Reg.TCAP_STRETCH_MERGE →
         exec (.stretchMergeExpiry t) s = .next (s.withTdu d)))

/-- A core cycle (R105, R107, R108): the fixed counters take their increments, and a programmable counter counts where its line, its mode and
its qualifier say so, while the others stand. It passes 2^48 − 1 and samples (R112 to R114): it reloads, and the sample is captured — here
with no earlier sample, no room in the queue to take it at once, and code that the authorisation admits. An event line rises for the
cycles that follow, and fires the trace trigger that names it (R357); here none does. A programmable counter is written whole with its
high word (R110). The stamp of an overflow is its command's instant (log entry 59). -/
def Obligations.CountersOverflowAndAreWritten : Prop :=
  (∀ (s : State) (t : T64) (c : CoreCycle) (after : List TraceCycle) (k : Fin 64), s.tdu.live = true →
     let d := s.tduAt t
     let lines := d.cap.evtNow &&& ~~~c.low
     let f := forEach (fixedIncs (d.rd Reg.TCAP_STRETCH_STATE_ACTIVE == 1) c) (fun p e => e.count p.1 p.2) d
     let ends (e : Tdu) : Tdu := { e with cap := { e.cap with
       evtWas := lines
       evtNow := lines
       lastRet := if c.tp.ret = 0 then e.cap.lastRet else c.tp
       expBlk := if c.expStall then c.expBlk.toNat else e.cap.expBlk } }
     let hit (j : Nat) : Bool := d.prgHit j d.cap.evtWas lines
     let v := d.cap.cnt.getD (16 + k.val) 0 + 1
     let seen := ((c.tp :: after.take 3).filter (fun c => c.ret != 0)).getLast?.getD d.cap.lastRet
     ((∀ j : Fin 64, hit j.val = false) → exec (.counterOverflow t ⟨[(1, c)], after⟩) s = .next (s.withTdu (ends f))) ∧
     (hit k.val = true → (∀ j : Fin 64, j ≠ k → hit j.val = false) → v < 2 ^ 48 →
       exec (.counterOverflow t ⟨[(1, c)], after⟩) s = .next (s.withTdu (ends (f.count (16 + k.val) 1)))) ∧
     (hit k.val = true → (∀ j : Fin 64, j ≠ k → hit j.val = false) → 2 ^ 48 ≤ v → d.rd Reg.TPMU_CFG_OVF_SMP k.val = 1 →
       d.rd Reg.TPMU_CFG_OVF_INTR k.val = 0 → d.clocked = true → d.tt ≠ 3 → d.cap.samples = [] → seen.priv = false → seen.sec = false →
       d.unschedRoom 48 = false → d.rd Reg.TTRC_TRIG_SRC ≠ 5 →
       let o := (f.count (16 + k.val) 1).bump Reg.TPMU_SMP_CNT
       exec (.counterOverflow t ⟨[(1, c)], after⟩) s = .next (s.withTdu (ends { o with cap := { o.cap with samples :=
         [⟨k.val, d.now, seen.pc % 2 ^ 64, (after.take 3).foldl (fun n c => n + min c.ret 2) 0, false, d.ho, d.errBound⟩] } })) ∧
       (16 + k.val < d.cap.cnt.length → o.cap.cnt.getD (16 + k.val) 0 = (d.cap.written.getD k.val 0 + (v - 2 ^ 48)) % 2 ^ 48))) ∧
  (∀ (s : State) (t : T64) (line : Fin 256) (act : CoreAct),
     let d := (s.tduAt t).core act
     s.tdu.time.por = true → d.rd Reg.TTRC_TRIG_SRC ≠ 3 → exec (.eventLineRise t line act) s =
       .next (s.withTdu { d with cap := { d.cap with evtNow := d.cap.evtNow ||| BitVec.ofNat 256 (2 ^ line.val) } })) ∧
  (∀ (s : State) (t : T64) (port : Port) (k : Fin 64) (v : BitVec 32) (act : CoreAct),
     let d := (s.tduAt t).core act
     let n := v.toNat % 2 ^ 16 * 2 ^ 32 + d.cap.stagedLo.getD k.val 0
     s.tdu.time.por = true → d.reachable = true → d.rd (Reg.PG_LOCK 0x23) = 0 →
       exec (.prgHiWrite t port k v act) s = .next (s.withTdu { d with cap := { d.cap with
         cnt := modifyAt (fun _ => n) (16 + k.val) d.cap.cnt
         written := modifyAt (fun _ => n) k.val d.cap.written } }))

/-- A flow event on a stream that traces (R348 to R353): counted, and with no loss to recover from, its packets go to the ring;
here an event without a target, or one of admitted code that does not go to the trigger address. An event that finds the event
queue full is lost with its packets, which are counted. Trace triggers (R356, R357): an event line that rises, or firmware, fires
the armed trace, and an ARM after a stop arms it anew. A generator on its due tick fires with valid time, and is counted as missed
without (R88). -/
def Obligations.TracesRunAndTrigger : Prop :=
  (∀ (s : State) (t : T64) (e : FlowEvent), s.tdu.live = true →
     let d := s.tduAt t
     let n := (d.codeEvent e).1.length
     d.tracing = true →
     (d.trc.losing = none →
       (hasTarget e.kind = false ∨ (d.admits e.priv e.sec = true ∧ e.addr ≠ d.rd64 Reg.TTRC_TRIG_ADDR_LO Reg.TTRC_TRIG_ADDR_HI)) →
       let b := d.bump Reg.TTRC_EVT_CNT
       exec (.flowEvent t false e) s = .next (s.withTdu (((b.setTrc (b.codeEvent e).2).putPkts (b.codeEvent e).1)))) ∧
     (let b := if (d.codeEvent e).2.excl && !d.trc.excl then d.bump Reg.TTRC_EXCL_CNT else d
      exec (.flowEvent t true e) s =
        .next (s.withTdu ((b.setTrc ((d.codeEvent e).2.lose n)).bumpBy Reg.TTRC_OVF_PKT_CNT n)))) ∧
  (∀ (s : State) (t : T64) (port : Port) (v : BitVec 32) (line : Fin 256) (k : Fin 8) (act : CoreAct), s.tdu.live = true →
     let d := s.tduAt t
     (let e := d.core act
      e.live = true → e.rd Reg.TTRC_TRIG_SRC = 3 → e.rd Reg.TTRC_TRIG_ARG = line.val → exec (.eventLineRise t line act) s =
        .next (s.withTdu ({ e with cap := { e.cap with evtNow := e.cap.evtNow ||| BitVec.ofNat 256 (2 ^ line.val) } }).fireTrace)) ∧
     (d.trgDue k.val d.now = true → d.clocked = false ∨ d.timed = false →
       exec (.triggerFire t k) s = .next (s.withTdu (d.bump Reg.TEMIT_TRG_MISS_CNT k.val))) ∧
     (d.trgDue k.val d.now = true → d.timed = true → s.tdu.clocked = true → d.rd Reg.TEMIT_TRG_CTRL_KIND k.val ≠ 1 →
       d.rd Reg.TTRC_TRIG_SRC ≠ 4 →
       let b := d.bump Reg.TEMIT_TRG_FIRED_CNT k.val
       exec (.triggerFire t k) s = .next (s.withTdu { b with
         out := .pin (32 + k.val) false (d.refEdge + 40) :: .pin (32 + k.val) true d.refEdge :: d.out })) ∧
     (v.toNat.testBit 0 = false → v.toNat.testBit 1 = true → d.rd (Reg.PG_LOCK 0x28) = 0 → d.rd Reg.TTRC_TRIG_SRC = 0 →
       exec (.traceTriggerGo t port v) s = .next (s.withTdu d.fireTrace)) ∧
     (v.toNat.testBit 0 = true → v.toNat.testBit 1 = false → d.rd (Reg.PG_LOCK 0x28) = 0 →
       exec (.traceArm t port v) s = .next (s.withTdu d.traceArm)))

/-- A debug authorisation (R354): it starts when FT reaches NOT_BEFORE, and ends at NOT_AFTER or when it is revoked; here with no
excluded code running. -/
def Obligations.AuthorisationsStartAndEnd : Prop :=
  ∀ (s : State) (t : T64) (port : Port) (v : BitVec 32) (a : DebugAuth), s.tdu.live = true →
    let d := s.tduAt t
    (d.trc.auth = some a → d.rd Reg.TTRC_AUTH_STATE = 1 → d.timed = true → a.notBefore ≤ d.now → d.now < a.notAfter →
      exec (.debugAuthStart t) s = .next (s.withTdu (d.wr Reg.TTRC_AUTH_STATE 2))) ∧
    (d.trc.auth = some a → a.notAfter ≤ d.now → d.rd Reg.TTRC_AUTH_STATE = 2 → d.tracing = false →
      exec (.debugAuthExpiry t) s = .next (s.withTdu (d.wr Reg.TTRC_AUTH_STATE 3))) ∧
    (v.toNat.testBit 0 = true → d.rd (Reg.PG_LOCK 0x28) = 0 → d.rd Reg.TTRC_AUTH_STATE = 2 → d.tracing = false →
      exec (.authRevoke t port v) s = .next (s.withTdu (d.wr Reg.TTRC_AUTH_STATE 3)))

/-- The interrupt windows of both blocks (R99, R101): a new second begins with its allowance whole, and what waited is delivered at
once; at any other instant nothing begins. -/
def Obligations.InterruptWindowsOpen : Prop :=
  ∀ (s : State) (t : T64),
    let x := s.tauAt t
    let d := s.tduAt t
    (s.tau.islPg = true → t.toNat % 4000000000 ≠ 0 → exec (.tauIntrWindow t) s = .next (s.withTau x)) ∧
    (s.tdu.time.por = true → t.toNat % 4000000000 ≠ 0 → exec (.tduIntrWindow t) s = .next (s.withTdu d)) ∧
    (t.toNat % 4000000000 = 0 → s.tau.islPg = true →
      (x.rd Reg.TTB_HOST_INTR_PEND = 0 → exec (.tauIntrWindow t) s =
        .next (s.withTau (({ x with
          intrUsed := 0
          agr := { x.agr with failUsed := 0 } }).wr Reg.TTB_HOST_INTR_PEND 0))) ∧
      (x.rd Reg.TTB_HOST_INTR_PEND ≠ 0 → 0 < x.rd Reg.TTB_HOST_INTR_CAP →
        ∃ y : Tau, exec (.tauIntrWindow t) s = .next (s.withTau y) ∧ y.rd Reg.TTB_HOST_INTR_PEND = 0 ∧ y.intrUsed = 1 ∧
          y.out = .intr (x.rd Reg.TTB_HOST_INTR_PEND) :: x.out)) ∧
    (t.toNat % 4000000000 = 0 → s.tdu.time.por = true →
      (d.rd Reg.TEMIT_INTR_PEND = 0 → exec (.tduIntrWindow t) s =
        .next (s.withTdu (({ d with emit := { d.emit with intrUsed := 0 } }).wr Reg.TEMIT_INTR_PEND 0))) ∧
      (d.rd Reg.TEMIT_INTR_PEND ≠ 0 → 0 < d.rd Reg.TEMIT_INTR_CAP →
        ∃ e : Tdu, exec (.tduIntrWindow t) s = .next (s.withTdu e) ∧ e.rd Reg.TEMIT_INTR_PEND = 0 ∧ e.emit.intrUsed = 1 ∧
          (e.out = .intr (d.rd Reg.TEMIT_INTR_PEND) :: d.out ∨
           e.out = .pin 64 true d.now :: .intr (d.rd Reg.TEMIT_INTR_PEND) :: d.out)))

/-! ## The engines of the die -/

/-- A slice of screening (R98, R298, R299): requested once its blobs are copied and its length is covered by credit, or refused for
credit and counted; a copy that the memory budget refuses waits for the next period; granted at the cost of its length, and withdrawn
when no grant comes in time, with a version of its pack that waited taken (R297); a refusal, or no answer in time, of its margin point restores the
nominal one with its patterns not run. A pattern (R299, R300): each result word enters its digest; its end is judged against the
pack's words and digest, and the next pattern starts, or none is left and the nominal point is restored; a revocation, or the
slice's end, aborts it. -/
def Obligations.ScreeningRuns : Prop :=
  (∀ (s : State) (t : T64) (k : Pack) (v : Slice) (e : Tdu) (i m len : Nat) (l : List Nat), s.tdu.clocked = true →
     let d := s.tduAt t
     (d.rd Reg.TSCR_EN = 1 → d.scr.slice = none → d.scr.waits = none → d.dueRuns = [i] → d.scr.packs.getD i none = some k →
       d.nextSlice k = some (m, l, len) →
       let f : Tdu := { d with free := d.free + 1, scr := { d.scr with waits := none } }
       (f.stage i (k.blobs l) = (e, false) → exec (.sliceRequest t) s = .next (s.withTdu e)) ∧
       (f.stage i (k.blobs l) = (e, true) → len ≤ e.rd Reg.TEMIT_SCR_CREDIT → exec (.sliceRequest t) s =
         .next (s.withTdu ((({ e with scr := { e.scr with slice := some ⟨i, m, l, len, e.per, 0, 0, 0, [], [], 0⟩ } }).wr
           Reg.TSCR_STATE 1).emitOut (.screen 0 [1, len])))) ∧
       (f.stage i (k.blobs l) = (e, true) → e.rd Reg.TEMIT_SCR_CREDIT < len → exec (.sliceRequest t) s =
         .next (s.withTdu (e.bump Reg.TEMIT_SCR_REFUSED_CNT)))) ∧
     (d.scr.slice = none → d.scr.waits = some (d.per, i) → exec (.sliceRequest t) s = .next (s.withTdu d)) ∧
     (d.scr.slice = some v → d.rd Reg.TSCR_STATE = 1 →
       (exec (.sliceGrant t) s =
         .next (s.withTdu (((((d.wr Reg.TEMIT_SCR_CREDIT (d.rd Reg.TEMIT_SCR_CREDIT - v.len)).bump Reg.TSCR_SLICE_CNT).setSlice { v with start := d.now }).wr Reg.TSCR_STATE 2).marginReq (d.scr.packs.getD v.slot none) v.margin))) ∧
       (v.reqAt + d.rd Reg.TSCR_REQ_TMO ≤ d.per → d.scr.packs.getD v.slot none = some k → exec (.sliceRequestTimeout t) s =
         .next (s.withTdu ((((({ d with scr := { d.scr with slice := none } }).wr Reg.TSCR_STATE 0).bump
           Reg.TSCR_WITHDRAW_CNT).emitOut (.screen 0 [0, 0])).install v.slot k)))) ∧
     (d.scr.slice = some v → d.rd Reg.TSCR_STATE = 2 → v.todo ≠ [] → d.scr.packs.getD v.slot none = some k →
       (d.now - v.start ≤ d.rd Reg.TSCR_MG_SETTLE → exec (.marginAck t) s =
         .next (s.withTdu ((d.movePast v).startPattern v k))) ∧
       (exec (.marginNak t) s =
         .next (s.withTdu (((d.movePast v).bump Reg.TSCR_MG_NAK_CNT).restore v v.todo.length))) ∧
       (v.start + d.rd Reg.TSCR_MG_SETTLE ≤ d.now → exec (.marginSettleTimeout t) s =
         .next (s.withTdu (((d.movePast v).bump Reg.TSCR_MG_NAK_CNT).restore v v.todo.length)))) ∧
     (d.scr.slice = some v → d.rd Reg.TSCR_STATE = 4 → exec (.marginAck t) s = .next (s.withTdu (d.endSlice v)))) ∧
  (∀ (s : State) (t : T64) (w : BitVec 64) (k : Pack) (v : Slice) (i : Nat) (rest : List Nat) (q : Pat), s.tdu.clocked = true →
     let d := s.tduAt t
     let dig := Nat.xor v.n v.acc
     d.scr.slice = some v → d.rd Reg.TSCR_STATE = 3 → d.scr.packs.getD v.slot none = some k → k.pats[i]? = some q → k.stop = none →
     (exec (.patternWord t w) s =
       .next (s.withTdu (d.setSlice { v with
         acc := Nat.xor v.acc (gfSum k.h v.n [w.toNat])
         n := v.n + 1 }))) ∧
     (v.todo = i :: rest → v.n = q.words → dig = q.expect → exec (.patternDone t) s =
         .next (s.withTdu ((d.bump Reg.TSCR_PASS_CNT).startPattern { v with todo := rest, ran := i :: v.ran } k))) ∧
     (v.todo = i :: rest → ¬ (v.n = q.words ∧ dig = q.expect) → exec (.patternDone t) s =
         .next (s.withTdu ((d.bump Reg.TSCR_FAIL_CNT).startPattern { v with todo := rest, ran := i :: v.ran, failed := v.failed ++ [(i, dig, v.n)] } k))) ∧
     (exec (.sliceRevoke t) s =
         .next (s.withTdu (((d.emitOut (.screen 3 [])).bump Reg.TSCR_REVOKE_CNT).restore v v.todo.length))) ∧
     (v.start + v.len ≤ d.now + d.rd Reg.TSCR_MG_SETTLE → exec (.sliceOverrun t) s =
         .next (s.withTdu (((d.emitOut (.screen 3 [])).bump Reg.TSCR_OVERRUN_CNT).restore v v.todo.length))))

/-- The link taps (R275, R276, R282, R283, R287): every flit is counted by link and direction. One to be hashed that is not whole words
is counted, and one tagged RESULT of a collective that nothing watches. One of the open instance of a result slot, on a tapped link, adds
the digests of its words; one in the range of an armed filter starts it, with the digests of its words in range. The chunk store and the
filters (R286, R288 to R290): a fetch is answered from the store, without a slot, and may freeze or release it; a freeze ends
after CH_HOLD periods; an arm of a free filter takes it for its request, and any other is answered BUSY; at its deadline a filter
closes and answers. -/
def Obligations.DieTapsAnswer : Prop :=
  (∀ (s : State) (t : T64) (link dir : Fin 2) (payload : List Byte) (g : FlitTag) (v : ResSlot) (f0 : Filter) (k : TapKey), s.tdu.live = true →
     let d := s.tduAt t
     let e := { d with tap := { d.tap with flits := modifyAt (· + 1) (2 * link.val + dir.val) d.tap.flits } }
     let ts := tagTerms g (tapPoint k.j g.coll) payload
     let add (r : ResSlot) : ResSlot := { r with
       acc := ts.foldl (fun a t => Nat.xor a t.2) r.acc
       n := r.n + ts.length
       chunks := ts.foldl (fun l t => Store.put t.1 (Nat.xor (countAt l t.1) t.2) 0 l) r.chunks }
     (exec (.tapFlit t link dir none payload) s = .next (s.withTdu e)) ∧
     (g.tap = true → payload.length % 8 ≠ 0 → d.tap.res = [none, none, none, none] → (∀ f ∈ d.tap.filt, f.st = 0) →
       let torn := e.bump Reg.TTAP_TAG_ERR_CNT
       exec (.tapFlit t link dir (some g) payload) s =
         .next (s.withTdu (if g.result then torn.bump Reg.TTAP_UNWATCHED_CNT else torn))) ∧
     (payload.length % 8 = 0 → (d.rd Reg.TTAP_LINK_EN).testBit link.val = true → d.tap.res = [none, none, none, none] →
       d.tap.filt = [f0, Filter.reset] → f0.st = 1 → f0.link = link.val → f0.dir = dir.val → f0.m.hits g = true →
       d.tapKey f0.job = some k →
       let fs := ts.filter fun t => f0.m.inRange t.1
       fs ≠ [] → exec (.tapFlit t link dir (some g) payload) s = .next (s.withTdu (e.setFilter 0 fun f => { f with
         st := 2
         acc := fs.foldl (fun a t => Nat.xor a t.2) f.acc
         n := f.n + fs.length
         flits := f.flits + 1 }))) ∧
     (g.tap = true → payload.length % 8 = 0 → g.result = true → g.own = true → (d.rd Reg.TTAP_LINK_EN).testBit link.val = true →
       d.tap.res = [some v, none, none, none] → v.coll = g.coll → v.st = 1 → v.inst = g.inst → d.tapKey v.job = some k →
       (∀ f ∈ d.tap.filt, f.st = 0) →
       exec (.tapFlit t link dir (some g) payload) s = .next (s.withTdu (e.setRes 0 add)))) ∧
  (∀ (s : State) (t : T64) (r : List Byte) (f : Fin 2) (i p : Nat), s.tdu.live = true →
     let d := s.tduAt t
     let v := Survey.parse (r.drop 8)
     let c := d.chunkFetch v
     let a := d.tap.filt.getD (fieldAt v.par 6 1 % 2) Filter.reset
     let g := d.tap.filt.getD f.val Filter.reset
     (surveyRecOk r = true → v.kind = 2 →
       exec (.chunkFetchRx t r) s = .next (s.withTdu (c.2.answerAtOnce c.1))) ∧
     (surveyRecOk r = true → v.kind = 3 → firstIdx Option.isNone d.srv.slots = some i →
       (a.st ≠ 1 → a.st ≠ 2 → exec (.tapArmRx t r) s =
         .next (s.withTdu ((d.setFilter (fieldAt v.par 6 1 % 2) fun _ => v.filter).takeSlot i ⟨v, [], false⟩))) ∧
       (a.st = 1 ∨ a.st = 2 → exec (.tapArmRx t r) s =
         .next (s.withTdu ((d.bump Reg.TGEN_SRV_BUSY_CNT).takeSlot i ⟨v, [d.armBusy v], true⟩)))) ∧
     (surveyRecOk r = true → v.kind = 3 → firstIdx Option.isNone d.srv.slots = none →
       exec (.tapArmRx t r) s = .next (s.withTdu ((d.bump Reg.TGEN_SRV_BUSY_CNT).answerAtOnce (d.armBusy v)))) ∧
     (surveyRecOk r = false → exec (.tapArmRx t r) s = .next (s.withTdu (d.bump Reg.TGEN_CTL_DMG_CNT))) ∧
     (d.tap.store.frozen = some p → p + d.rd Reg.TTAP_CH_HOLD ≤ d.per → exec (.chunkFreezeTimeout t) s =
       .next (s.withTdu { d with tap := { d.tap with store := { d.tap.store with frozen := none } } })) ∧
     (g.deadline ≤ d.per →
       (g.st = 1 → exec (.filterDeadline t f) s = .next (s.withTdu (d.closeFilter f.val 3))) ∧
       (g.st = 2 → exec (.filterDeadline t f) s = .next (s.withTdu (d.closeFilter f.val 7))) ∧
       (g.st = 0 → exec (.filterDeadline t f) s = .next (s.withTdu d))))

/-- Surveys and probes at the die (R220, R224, R239, R460): a survey of one period takes a slot with its one answer, a standing one takes it
open; with every slot taken it is answered BUSY; a cancel frees the slots of its identity; a probe is answered on its own link at once,
outside the queues, as soon as that link has VC_T credit (R307). That a record takes its credit whole when it starts is the model's
reading (log entry 63). -/
def Obligations.DieAnswersSurveys : Prop :=
  ∀ (s : State) (t : T64) (r : List Byte) (link : Fin 2) (i : Nat), s.tdu.live = true →
    let d := s.tduAt t
    let v := Survey.parse (r.drop 8)
    let a := d.probeAnswer r link.val
    let drop (o : Option DieSurvey) : Option DieSurvey := match o with
      | some u => if u.s.is (fieldAt r 4 4) (fieldAt r 8 3) (fieldAt r 11 1) then none else some u
      | none => none
    (surveyRecOk r = true → v.kind = 0 → firstIdx Option.isNone d.srv.slots = some i →
      exec (.tduSurveyRx t r) s = .next (s.withTdu (d.takeSlot i ⟨v, [d.judgePeriod v], true⟩))) ∧
    (surveyRecOk r = true → v.kind = 1 → firstIdx Option.isNone d.srv.slots = some i →
      exec (.tduSurveyRx t r) s = .next (s.withTdu (d.takeSlot i ⟨v, [], false⟩))) ∧
    (surveyRecOk r = true → v.kind < 2 → firstIdx Option.isNone d.srv.slots = none →
      exec (.tduSurveyRx t r) s = .next (s.withTdu ((d.bump Reg.TGEN_SRV_BUSY_CNT).answerAtOnce (d.shortAnswer v 3)))) ∧
    (ctlOk 0xBD r = true → r.length = 24 → exec (.tduSurveyCancelRx t r) s =
      .next (s.withTdu { d with srv := { d.srv with slots := d.srv.slots.map drop } })) ∧
    (ctlOk 0xB4 r = true → r.length = 32 → fieldAt r 16 3 = d.rd Reg.TGEN_RANK → d.rd Reg.TGEN_RANK ≠ 0xFFFFFF → d.timed = true →
      let o := { d with srv := { d.srv with owed := d.srv.owed + a.length } }
      ((d.lnk link.val).up = true → d.ctl.outq = [] → vcUnits a ≤ (d.lnk link.val).credit → exec (.probeRxTdu t link r) s =
        .next (s.withTdu (((o.setLnk link.val fun k => { k with credit := k.credit - vcUnits a }).emitOut (.vct link.val a)).bump
          Reg.TGEN_SRV_ANS_CNT))) ∧
      ((d.lnk link.val).up = false ∨ (d.lnk link.val).credit < vcUnits a → exec (.probeRxTdu t link r) s =
        .next (s.withTdu (({ o with ctl := { o.ctl with outq := o.ctl.outq ++ [(some link.val, a)] } }).bump Reg.TGEN_SRV_ANS_CNT))))

/-! ## Commits, boundaries and links -/

/-- A strobe (R435, R436): with no scheduled commit in the way, the groups of its mask are pending until the period boundary; with
IMMEDIATE set, those of R436 commit at once. -/
def Obligations.StrobesPendOrCommit : Prop :=
  ∀ (s : State) (t : T64) (port : Port) (v : BitVec 32) (act : CoreAct),
    let x := s.tauAt t
    let d := (s.tduAt t).core act
    let m := bits v.toNat 0 16
    (s.tau.on = true → x.scMask = 0 →
      (v.toNat.testBit 16 = false → exec (.updateStrobe t .tau port v act) s =
        .next (s.withTau (x.wr Reg.GEN_UPD_PEND (Nat.lor (x.rd Reg.GEN_UPD_PEND) m)))) ∧
      (v.toNat.testBit 16 = true → exec (.updateStrobe t .tau port v act) s =
        .next (s.withTau ((x.wr Reg.GEN_UPD_PEND (Nat.lor (x.rd Reg.GEN_UPD_PEND) (m - Nat.land m tauImmediate))).commitGroups (Nat.land m tauImmediate))))) ∧
    (s.tdu.time.por = true → d.reachable = true → schedMask d.emit.sc = 0 →
      (v.toNat.testBit 16 = false → exec (.updateStrobe t .tdu port v act) s =
        .next (s.withTdu (d.wr Reg.TGEN_UPD_PEND (Nat.lor (d.rd Reg.TGEN_UPD_PEND) m)))) ∧
      (v.toNat.testBit 16 = true → exec (.updateStrobe t .tdu port v act) s =
        .next (s.withTdu ((d.wr Reg.TGEN_UPD_PEND (Nat.lor (d.rd Reg.TGEN_UPD_PEND) (m - Nat.land m dieImmediate))).commitGroups (Nat.land m dieImmediate)))))

/-- A path boundary of the die (R74 to R76): with nothing queued, the next path begins with the allowance of its rate, less what probes'
answers still owe, or with none where the mask closes it. Without valid time there are no paths. A period boundary of the die (R109,
R111), after the core cycles of the closing period: without valid time the counters go on and parity is checked, and no more; with it, the
closing period is frozen, the detectors and the lag test judge it, the mirror is refreshed, parity is checked, and what waits for the
boundary is done, commits before all else (R436), in this order. The snapshot holds every counter as it stands and starts their increments
anew. The order of two commits that meet is log entry 16, what falls in the boundary's command log entry 43. -/
def Obligations.DiePathsAndPeriodsRun : Prop :=
  (∀ (s : State) (t : T64), s.tdu.time.por = true →
     let d := s.tduAt t
     let b := d.rd Reg.TEMIT_RATE * 128
     let open_ := (d.rd Reg.TEMIT_PATH_MASK).testBit (T64.path d.ft)
     let emit := { d.emit with
       left := if open_ then b - d.srv.owed else 0
       busy := d.now }
     let srv := { d.srv with owed := if open_ then d.srv.owed - b else d.srv.owed }
     (d.timed = false → exec (.tduPathBoundary t) s = .next (s.withTdu d)) ∧
     (s.tdu.clocked = true → d.timed = true → d.emit.sched = [] → d.emit.unsched = [] → d.emit.gap = [] → d.emit.resend = none →
       d.cap.samples = [] → d.trc.ring = [] → d.srv.wait = [] → (∀ o ∈ d.srv.slots, o = none) →
       (∀ ie ∈ d.entries, ie.2.path ≠ T64.path d.ft) →
       exec (.tduPathBoundary t) s = .next (s.withTdu { d with
         emit := emit
         srv := srv }))) ∧
  (∀ (s : State) (t : T64) (act : CoreAct) (upset : List (Nat × Nat)), s.tdu.time.por = true →
     let c := (s.tduAt t).core act
     let reacq := c.time.gapSpans.any fun g => g.2 == c.per - 1
     let e1 := c.snapshot.freezeBound.freezeTaps
     let e2 := (e1.detectors reacq).lagTest (c.per - 1)
     let e3 := e2.wr Reg.TEMIT_BYTES_LAST e2.emit.sent
     let e4 := ({ e3 with emit := { e3.emit with sent := 0, memUsed := 0 } }).mirror (e3.per * 2 ^ 18)
     let e5 := ((e4.checkParity upset).endStanding.boundaryCommit).runDue.stageAgain.sendOwed
     (c.clocked = false → exec (.tduPeriodBoundary t act upset) s = .next (s.withTdu c)) ∧
     (c.clocked = true → c.timed = false → exec (.tduPeriodBoundary t act upset) s = .next (s.withTdu (c.checkParity upset))) ∧
     (c.clocked = true → c.timed = true → exec (.tduPeriodBoundary t act upset) s =
       .next (s.withTdu ((e5.reap.reapPacks).drainSamples 64))) ∧
     e1.cap.snapCnt = c.cap.cnt ∧ e1.cap.inc = List.replicate 80 0)

/-- The boundaries of the TAU (R30, R322, R327): a path boundary samples the queues and sends the message that is being packed; a period
boundary accepts an armed jump, programs fuses, asks its neighbors again and forgets which senders have failed, all on the island (R50,
R323, R385, R446); without the rails it checks parity (R439), and with them it takes its commits first, then opens contexts and judges,
then starts the new period. The order among what one boundary does is the model's choice where R30 leaves it, since all that is due at an
instant is done in its one command (log entry 43). -/
def Obligations.TauBoundaries : Prop :=
  ∀ (s : State) (t : T64) (reach : Bool) (upset : List (Nat × Nat × Nat)), s.tau.islPg = true →
    let x := s.tauAt t
    let n := x.acceptAtBoundary.programFuses.nbrTimers
    let i := { n with cip := { n.cip with failed := [] } }
    (s.tau.main = true → x.eg.msg = [] → exec (.tauPathBoundary t reach) s = .next (s.withTau x.sample) ∧
      ∀ q : Fin 21, x.sample.rd Reg.SHP_QS_DEPTH_LAST q.val = (x.queues.getD q.val (0, 0)).1) ∧
    (s.tau.main = true → exec (.tauPathBoundary t reach) s = .next (s.withTau (x.sample.flushExport reach))) ∧
    (i.on = false → exec (.tauPeriodBoundary t upset) s = .next (s.withTau (i.checkParity upset))) ∧
    (i.on = true → exec (.tauPeriodBoundary t upset) s =
      .next (s.withTau (((i.hbmBoundary.boundaryTakes upset).boundaryOpens).boundaryRenews)))

/-- Links (R32, R306, R307): one that comes up shows in its register and has its VC_T credit whole; one that goes down shows, and a record
that it cut off leads its queue; a discard in the link layer is counted, and returned credit is added up to the buffer's size. Here no
record waits past the queues. What leaves the TAU (R198, R307, R314, R317, R327, R333): the record that a port's shaper and scheduler
give, charged to the port's credit and on a die's link to its VC_T credit; with none, nothing changes; a train for an old parent out of
reach is dropped and counted. Templates are sent anew when their time has come; a relayed payload, metered where it comes from a child,
goes on to the collector through the ports that can send, and counts where one can (R335). That a payload which no port can send is lost
uncounted is the model's choice (log entry 65), that a record takes its VC_T credit whole its reading (log entry 63). -/
def Obligations.LinksCarry : Prop :=
  (∀ (s : State) (t : T64) (l : Fin 32) (m : Fin 2) (n : Nat) (r : List Byte),
     let x := s.tauAt t
     let y := s.tau.advance t
     let d := s.tduAt t
     let c := l.val % 16
     let k := y.vcCount l.val
     let down := ({ k with links := k.links - Nat.land k.links (2 ^ l.val) }).setVc l.val fun v => { v with credit := 0 }
     (s.tau.on = true →
       ((y.vc l.val).wait = [] → exec (.linkUp t (.tau l)) s = .next { s with
         tau := (({ y with links := Nat.lor y.links (2 ^ l.val) }).setVc l.val fun v => { v with credit := 128, upd := y.now }).showLinks c }) ∧
       (exec (.linkDown t (.tau l) false) s = .next { s with tau := down.showLinks c }) ∧
       ((k.eg.down.getD c DownPort.reset).last = some (l.val, r) → exec (.linkDown t (.tau l) true) s = .next { s with
         tau := (down.setDown c fun p => { p with fifo := ⟨r, none, k.now, 0, none⟩ :: p.fifo, last := none }).showLinks c }) ∧
       (exec (.linkDiscardReport t (.tau l)) s = .next (s.withTau (x.bump Reg.SHP_DN_LINK_DROP_CNT))) ∧
       ((x.vc l.val).wait = [] → exec (.vcCreditReturn t (.tau l) n) s =
         .next (s.withTau ((x.vcCount l.val).setVc l.val fun v => { v with credit := Nat.min 128 (v.credit + n) })))) ∧
     (s.tdu.time.por = true →
       (exec (.linkUp t (.tdu m)) s =
         .next (s.withTdu ((((d.voidDelay m.val).setLnk m.val fun k => { k with up := true, credit := 256 }).serveAll).flushCtl))) ∧
       (d.emit.last = none → exec (.linkDown t (.tdu m) false) s =
         .next (s.withTdu (((d.voidDelay m.val).setLnk m.val fun k => { k with up := false }).serveAll))) ∧
       (exec (.linkDiscardReport t (.tdu m)) s = .next (s.withTdu (d.bump Reg.TEMIT_LINK_DROP_CNT))) ∧
       (exec (.vcCreditReturn t (.tdu m) n) s =
         .next (s.withTdu (((d.setLnk m.val fun k => { k with credit := min 256 (k.credit + n) }).serveAll).flushCtl))))) ∧
  (∀ (s : State) (t : T64) (reach : Bool) (base j l : Nat) (rest : List Nat) (cur : Grant) (e : QRec) (p : EgPort) (c : Fin 64) (q : QRec)
     (r : List Byte) (z : Tau), s.tau.on = true →
     let x := s.tauAt t
     let k := ((x.eg.down.getD c.val DownPort.reset).settle (x.rd Reg.SHP_DN_RATE) x.now).letIn x.now 4096
     let sends (port : Nat) (y : Tau) : Tau :=
       y.mgmtSend port (y.addr128 Reg.MGMT_COLL_ADDR) (y.rd Reg.MGMT_COLL_PORT) (y.rd Reg.MGMT_COLL_DSCP) r
     (x.eg.up.start (x.rd Reg.SHP_UP_RATE) x.now = some (e, p) →
       let y := { x with eg := { x.eg with up := p } }
       (e.dst = none → x.parent = some base → exec (.egressTransmitStart t .up reach) s =
         .next (s.withTau (y.sendTo 0 base (reachedOver base) e.bytes))) ∧
       (e.dst = some base → isTrain e.bytes = false ∨ reach = true → exec (.egressTransmitStart t .up reach) s =
         .next (s.withTau (y.ctlTo base (reachedOver base) e.bytes))) ∧
       (e.dst = some base → isTrain e.bytes = true → reach = false → exec (.egressTransmitStart t .up reach) s =
         .next (s.withTau (({ x with eg := { x.eg with
           up := { p with credit := p.credit + (128 * e.bytes.length : Nat) } } }).bump Reg.SCB_ORPHAN_DROP_CNT)))) ∧
     (x.eg.up.start (x.rd Reg.SHP_UP_RATE) x.now = none → exec (.egressTransmitStart t .up reach) s = .next (s.withTau x)) ∧
     (x.eg.sb.start (x.rd Reg.SHP_SB_RATE) x.now = some (e, p) →
       let b := x.rd Reg.GEN_STANDBY_ROOT
       exec (.egressTransmitStart t .standby reach) s =
         .next (s.withTau (({ x with eg := { x.eg with sb := p } }).sendTo 1 b (reachedOver b) e.bytes))) ∧
     (reach = false → x.rd Reg.MGMT_EXP_CTRL_EN = 0 → exec (.egressTransmitStart t .exporter reach) s = .next (s.withTau x)) ∧
     (reach = false → x.rd Reg.MGMT_EXP_CTRL_EN = 1 → x.cip.cur = some cur → x.rd Reg.MGMT_EXP_CTRL_VIA ≠ 3 →
       x.eg.ex.start (x.rd Reg.SHP_EXP_RATE) x.now = some (e, p) →
       16 + msgLen 0 x.eg.msg + ((if msgLast x.eg.msg = e.tpl then 0 else 4) + e.bytes.length) ≤ x.rd Reg.MGMT_MTU - 80 →
       x.eg.tplSent.contains e.tpl = true → exec (.egressTransmitStart t .exporter reach) s =
         .next (s.withTau { x with eg := { x.eg with ex := p, msg := x.eg.msg ++ [(e.tpl, e.bytes)] } })) ∧
     (k.fifo = [q] → 0 ≤ k.credit →
       let after := ({ k with fifo := [], credit := startCharge k.credit q.bytes.length } : DownPort).letIn x.now 4096
       (x.isTray = false → exec (.egressTransmitStart t (.down c) reach) s =
         .next (s.withTau ((x.setDown c.val fun _ => after).sendTo (3 + c.val) (x.kidBase c.val) ((x.kid c.val).bind (·.via)) q.bytes))) ∧
       (x.isTray = true → x.dieLinks c.val = l :: rest → (x.vc l).wait = [] → vcUnits q.bytes ≤ (x.vc l).credit →
         exec (.egressTransmitStart t (.down c) reach) s =
           .next (s.withTau (((((x.vcCount l).setVc l fun v => { v with credit := v.credit - vcUnits q.bytes }).setDown c.val fun _ =>
             { after with last := some (l, q.bytes) })).emitOut (.vct l q.bytes))))) ∧
     (x.rd Reg.MGMT_EXP_CTRL_EN = 1 → x.cip.cur = some cur → x.templatesDue = true → exec (.templateRefresh t) s =
       .next (s.withTau (({ x with eg := { x.eg with tplSent := [], tplAt := x.now } }).sendTemplates false x.templatesUsed))) ∧
     (x.templatesDue = false → exec (.templateRefresh t) s = .next (s.withTau x)) ∧
     (x.rd Reg.MGMT_EXP_CTRL_VIA = 0 → x.portUp 0 = true → exec (.relayPayloadRx t none r) s =
       .next (s.withTau ((sends 0 x).bump Reg.MGMT_RELAY_CNT))) ∧
     (x.portUp 0 = false → x.portUp 1 = false → exec (.relayPayloadRx t none r) s = .next (s.withTau x)) ∧
     (x.rd Reg.MGMT_EXP_CTRL_VIA = 2 → x.portUp 0 = true → x.portUp 1 = true → exec (.relayPayloadRx t none r) s =
       .next (s.withTau ((sends 1 (sends 0 x)).bump Reg.MGMT_RELAY_CNT))) ∧
     ((x.kid c.val).isSome = true → x.meterIn c.val r.length = (z, j) →
       (j = 2 → exec (.relayPayloadRx t (some c) r) s = .next (s.withTau z)) ∧
       (j < 2 → exec (.relayPayloadRx t (some c) r) s = .next (s.withTau (z.relay r)))))

/-! ## Reception at the TAU -/

/-- Coaches, trains and BULK records from an attached child (R149, R174, R176, R178, R222, R239, R291, R301, R302, R310, R361): a red one is
dropped; one that is not, and passes the checks and is not stale, goes, with its ranks rewritten where R153 asks it, to what its class
names; a damaged one is counted and recorded, a stale one counted. A record over VC_T leaves its link's buffer at once (R307), and one
that reaches the parsers of a failed section is lost (R201). A record from no attached child is damaged. A long-haul frame (R378, R384):
one that opens gives its records, each received as it stands from the peer, and one that does not is counted by what it failed; either way
the cipher guard looks at what has failed. A frame for a failed engine is lost. That a record's credit is returned once it has been taken
is the model's reading (log entry 63). -/
def Obligations.RecordsAreReceived : Prop :=
  (∀ (s : State) (t : T64) (from_ : Sender) (r : List Byte) (c k : Nat) (z : Tau), s.tau.on = true →
     let x := match from_ with | .link l => (s.tauAt t).vcReturn l r.length | _ => s.tauAt t
     let a := x.whence from_
     let q := z.federate c r
     let yellow := k == 1
     (fieldAt r 0 1).testBit 7 = false → x.lostAt from_ = false → a.kid = some c → x.meterIn c (fieldAt r 2 2) = (z, k) →
     (k = 2 → exec (.coachArrival t from_ r) s = .next (s.withTau z)) ∧
     (k < 2 → 0 < z.coachFault (some c) r →
       exec (.coachArrival t from_ r) s = .next (s.withTau (z.damaged a (z.coachFault (some c) r)))) ∧
     (k < 2 → z.coachFault (some c) r = 0 → z.stale (Hdr.parse r) = true →
       exec (.coachArrival t from_ r) s = .next (s.withTau (z.bump Reg.SCB_STALE_CNT 0 a.sec))) ∧
     (k < 2 → z.coachFault (some c) r = 0 → z.stale (Hdr.parse r) = false →
       ((Hdr.parse q).cls = 0 ∨ (Hdr.parse q).cls = 1 ∨ (Hdr.parse q).cls = 6 →
         exec (.coachArrival t from_ r) s = .next (s.withTau (z.arrival c a.sec q))) ∧
       ((Hdr.parse q).cls = 2 ∨ (Hdr.parse q).cls = 3 →
         exec (.eventCoachRx t from_ r) s = .next (s.withTau (z.eventIn a.sec yellow q))) ∧
       ((Hdr.parse q).cls = 4 → fieldAt q 40 1 ≠ 4 → fieldAt q 40 1 ≠ 5 →
         exec (.surveyAnswerRx t from_ r) s =
           .next (s.withTau ((z.answerRx a.sec c yellow (fieldAt q 40 1) q).backupCheck))) ∧
       ((Hdr.parse q).cls = 4 → fieldAt q 40 1 = 4 →
         exec (.surveyEndRx t from_ r) s = .next (s.withTau ((z.endRx a.sec c q).backupCheck))) ∧
       ((Hdr.parse q).cls = 4 → fieldAt q 40 1 = 5 → z.isTray = true →
         exec (.probeAnswerRx t from_ r) s = .next (s.withTau (z.probeAnswer c (fieldAt q 24 4) (fieldAt q 65 1 % 2)
           [fieldAt q 44 4, fieldAt q 48 4, fieldAt q 52 4, fieldAt q 56 4]))) ∧
       ((Hdr.parse q).cls = 5 → fieldAt q 32 1 = 2 → z.isTray = true →
         exec (.screenSumRx t from_ r) s =
         .next (s.withTau (((z.screenSum q).runProgress c (fieldAt q 34 2) (fieldAt q 36 1) (fieldAt q 64 32)).sendAgain c))) ∧
       ((Hdr.parse q).cls = 5 → fieldAt q 32 1 = 3 →
         exec (.screenFailRx t from_ r) s = .next (s.withTau (z.screenFail a.sec yellow q))) ∧
       ((Hdr.parse q).cls = 5 → 3 < fieldAt q 32 1 →
         exec (.tallyRx t from_ r) s = .next (s.withTau (z.tallyRx q))) ∧
       (6 < (Hdr.parse q).cls → exec (.traceBulkRx t from_ r) s = .next (s.withTau (z.bulkIn c q))))) ∧
  (∀ (s : State) (t : T64) (from_ : Sender) (r : List Byte), s.tau.on = true →
     let x := match from_ with | .link l => (s.tauAt t).vcReturn l r.length | _ => s.tauAt t
     (fieldAt r 0 1).testBit 7 = false →
     (x.lostAt from_ = true → exec (.coachArrival t from_ r) s = .next (s.withTau x)) ∧
     (x.lostAt from_ = false → (x.whence from_).kid = none → exec (.coachArrival t from_ r) s =
       .next (s.withTau (x.damaged (x.whence from_) (x.coachFault none r))))) ∧
  (∀ (s : State) (t : T64) (port : Fin 16) (from_ : Sender) (e : List Byte) (dup : Nat), s.tau.on = true →
     let x := s.tauAt t
     let o := x.openLh (x.lhEngine port.val) dup e
     let taken := match o.2 with
       | some p => forEach (frameRecords 512 p) (fun r (x : Tau) => x.receive (some port.val) from_ r) o.1
       | none => o.1
     (x.dead (x.lhEngine port.val) = false → exec (.lhFrameRx t port from_ e dup) s = .next (s.withTau taken.cipherGuard)) ∧
     (x.dead (x.lhEngine port.val) = true → exec (.lhFrameRx t port from_ e dup) s = .next (s.withTau x)))

/-! ## Notices -/

/-- A notice that comes whole in one fragment and is the next of its handle (R391 to R396, R401 to R407): by its kind it does what R395 says
on receipt, and is then counted, remembered, forwarded, logged, and kept for its EFFECT or done at once; one of an older epoch is stale,
and so are held ones of an epoch that it ends. An active ROOT copies what its FEDERATION TAU sends to its standby (R23). A fragment of
several waits for the others. When a notice is acknowledged and forwarded, and the code for a pack that is not held, are the model's
reading (log entries 49 and 66). -/
def Obligations.NoticesAreTaken : Prop :=
  ∀ (s : State) (t : T64) (r : List Byte) (z : Tau) (k i : Nat), s.tau.on = true →
    let x := let x := s.tauAt t
      if x.roleSet && x.role == 3 && !x.isStandby then x.emitOut (.noticeCopy r) else x
    let n : Notice := ⟨fieldAt r 0 1 - 0x80, fieldAt r 2 2, fieldAt r 4 4, fieldAt r 8 4, fieldAt r 16 8, nearPeriod x.per (fieldAt r 24 4),
      fieldAt r 1 1 == 1, false, (r.drop 32).take (fieldAt r 28 2)⟩
    let q := Nat.max n.effect (x.per + 1)
    let rs := x.noticeRanges n
    let st := x.jobState n.job
    let remember (z : Tau) (code : Nat) : Tau :=
      let y := z.bump Reg.MNT_NTC_RX_CNT
      { y with ntc := { y.ntc with
        last := (n.job, n.epoch, n.nseq) :: y.ntc.last.filter (·.1 != n.job)
        codes := ((n.job, n.epoch, n.nseq, code) :: y.ntc.codes).take 64 } }
    let accept (z : Tau) : Tau :=
      let y := ((remember z 0).forward n rs).logNotice n
      if !kindWaits n.kind then y
      else if n.effect = 0 then (y.noticeEffect n (y.per + 1)).pruneLog
      else { y with ntc := { y.ntc with due := y.ntc.due ++ [n] } }
    let others (z : Tau) : Tau := forIdx z.ntc.held.length (fun _ z => match z.ntc.held.find? z.inOrder with
      | some m => ({ z with ntc := { z.ntc with held := z.ntc.held.erase m } }).takeNotice m
      | none => z) z
    let ended (z : Tau) (m : Notice) : Bool := decide (m.epoch < (z.lastNid m.job).1)
    let purge (z : Tau) : Tau := forEach (z.ntc.held.filter (ended z)) (fun m z => z.staleNotice m)
      { z with ntc := { z.ntc with held := z.ntc.held.filter fun m => !ended z m } }
    let taken (z : Tau) : State := (s.withTau ((purge (others (accept z))).followUps))
    noticeFragOk r = true → x.ntc.gather = [] →
    (1 < fieldAt r 14 2 → exec (.noticeFragmentRx t r) s = .next (s.withTau (({ x with ntc := { x.ntc with
      gather := [⟨n.kind, n.job, n.epoch, n.nseq, fieldAt r 14 2, n.effect, fieldAt r 24 4, n.replay, [(fieldAt r 12 2, n.body)]⟩] } }).followUps))) ∧
    (fieldAt r 14 2 = 1 → n.kind = 1 → n.epoch < (x.lastNid n.job).1 → exec (.noticeJobStart t r) s =
      .next (s.withTau (((x.bump Reg.MNT_NTC_STALE_CNT).ackOwn n rs Code.stale).followUps))) ∧
    (fieldAt r 14 2 = 1 → x.inOrder n = true → kindJobOk n.kind n.job = true → (x.lastNid n.job).1 ≤ n.epoch →
      (n.epoch = (x.lastNid n.job).1 → (x.lastNid n.job).2 < n.nseq) →
      (n.kind = 1 → x.jobStart n = (z, 0) → exec (.noticeJobStart t r) s = .next (taken z)) ∧
      (n.kind = 2 → st = 1 → exec (.noticeJobAbort t r) s = .next (taken (x.dropJob n.job))) ∧
      (n.kind = 3 → st = 2 → exec (.noticeJobTeardown t r) s = .next (taken x)) ∧
      (n.kind = 4 → st = 4 → exec (.noticeRelease t r) s = .next (taken (x.dropJob n.job))) ∧
      (n.kind = 5 → st = 2 → n.body.length = 8 → fieldAt n.body 3 1 ≤ 2 → exec (.noticeJobView t r) s = .next (taken x)) ∧
      (n.kind = 6 → n.job ≠ 0xFFFF → st = 2 → n.body.length = 40 → x.openJobKey n.job n.body = (z, some k) →
        exec (.noticeEpochAdvance t r) s =
          .next (taken (z.setJob n.job fun j => { j with epochs := (q, n.epoch) :: j.epochs, keys := (q, k) :: j.keys }))) ∧
      (n.kind = 6 → n.job = 0xFFFF → n.body = [] → exec (.noticeEpochAdvance t r) s = .next (taken x)) ∧
      (n.kind = 7 → n.body.length = 2 → (List.range 4).find? (fun i => (x.scSlot i).isNone) = some i →
        Nat.land (fieldAt n.body 0 2) x.scMask = 0 → Nat.land (fieldAt n.body 0 2) (x.rd Reg.GEN_UPD_PEND) = 0 →
        exec (.noticeCommit t r) s = .next (taken (x.setSc i (some ⟨n.effect, fieldAt n.body 0 2⟩)))) ∧
      (n.kind = 8 → n.body.length = 16 → allZero ((n.body.drop 2).take 6) = true →
        (List.range 4).find? (fun i => x.scSlot i == some ⟨fieldAt n.body 8 8, fieldAt n.body 0 2⟩) = some i →
        exec (.noticeCancel t r) s = .next (taken (x.setSc i none))) ∧
      (n.kind = 9 → n.job = 0xFFFF → x.disableCode n = Code.done → exec (.noticeDisable t r) s = .next (taken x)) ∧
      (n.kind = 10 →
        let l := x.loadImage n.body q
        let refused : State :=
          (s.withTau ((purge (others (((remember l.1 l.2).ackOwn n rs l.2).logNotice { n with refused := true }))).followUps))
        exec (.noticeImage t r) s = .next (if l.2 = Code.done then taken l.1 else refused)) ∧
      (n.kind = 11 → x.packRun n = (z, Code.done) → exec (.noticePackRun t r) s = .next (taken z)) ∧
      (n.kind = 12 → rankMapOk n.body = true → exec (.noticeRankMap t r) s = .next (taken x)))

/-- What comes back for notices (R396 to R399, R420, R464): an acknowledgement joins its merge; one that no merge waits for is counted,
or, of a replay, goes to its status slot or up; at a deadline the silent children of a merge are unreached. A replay request is answered
from the log, here empty or with one notice that the child lacks, whose reading from memory is charged or fails, and ends with a resync;
a notice no longer logged is counted. A resync goes up, and at the ROOT names the ranks that have come back, which count as recovered
where they were unreached. Runs of a pack past their grace are overdue. What is damaged is counted. -/
def Obligations.AnswersToNotices : Prop :=
  ∀ (s : State) (t : T64) (child : Fin 64) (r : List Byte) (z w : Tau) (k job epoch nseq : Nat) (m : AckMerge) (n : Notice) (v : NtcSlot)
    (p : PackRun), s.tau.on = true →
    let x := s.tauAt t
    let o := x.vcFrom child.val r.length
    let a := Ack.parse r
    let mine (m : AckMerge) : Bool := m.is a.job a.epoch a.nseq && m.pend.testBit child.val
    let gaps (y : Tau) : Tau :=
      forEach (replayEntries r) (fun (j, e, n) (y : Tau) => if y.unlogged j e n then y.bump Reg.MNT_NTC_GAP_CNT else y) y
    let resynced (y : Tau) : Tau := (y.resync (withCrc (leBytes 1 0xA2 ++ (r.take (r.length - 4)).drop 1))).followUps
    let back := { v with back := joinRanges (v.back ++ [(fieldAt r 4 3, fieldAt r 8 4)]) }
    (o.kidLost child.val = false → (o.kid child.val).isSome = true → o.meterIn child.val r.length = (z, k) → k < 2 →
      (ackOk r = true → z.isTray = false →
        (z.ntc.merge = [m] → mine m = true → m.a.replay = a.replay → exec (.noticeAckRx t child r) s =
          .next (s.withTau ((z.setMerges (· == m) (·.take child.val a)).finishAcks.followUps))) ∧
        (z.ntc.merge = [] → a.replay = false → exec (.noticeAckRx t child r) s =
          .next (s.withTau (z.bump Reg.MNT_NTC_TMO_CNT))) ∧
        (z.ntc.merge = [] → a.replay = true → exec (.noticeAckRx t child r) s =
          .next (s.withTau ((z.ackUp (z.kidBase child.val) (z.kidSpan child.val) a).followUps)))) ∧
      (replayOk 0xA1 r = true → z.ntc.log = [] → exec (.replayRequestRx t child r) s = .next (s.withTau (resynced (gaps z)))) ∧
      (replayOk 0xA1 r = true → z.isTray = false → z.ntc.log = [n] → n.job = 0xFFFF → replayEntries r = [(0xFFFF, epoch, nseq)] →
        epoch < n.epoch ∨ (epoch = n.epoch ∧ nseq < n.nseq) →
        (z.hbmCharge z.anySec 0 n.size = (w, false) → exec (.replayRequestRx t child r) s =
          .next (s.withTau (resynced (gaps (w.bump Reg.MNT_NTC_GAP_CNT))))) ∧
        (z.hbmCharge z.anySec 0 n.size = (w, true) →
          let y := w.bump Reg.MNT_NTC_REPLAY_CNT
          let again := { n with replay := true, dl := y.per + y.rd Reg.MNT_ACK_TMO }
          exec (.replayRequestRx t child r) s =
            .next (s.withTau (resynced (gaps (again.frags.foldl (fun y f => y.sendDown child.val f) y)))))) ∧
      (replayOk 0xA2 r = true → z.ntc.slots = [] → z.roleSet = true → 3 ≤ z.role →
        exec (.resyncRx t child r) s = .next (s.withTau z)) ∧
      (replayOk 0xA2 r = true → z.ntc.slots = [] → z.role < 3 →
        exec (.resyncRx t child r) s = .next (s.withTau ((z.toParent false r).followUps))) ∧
      (replayOk 0xA2 r = true → z.roleSet = true → 3 ≤ z.role → z.ntc.slots = [v] → replayEntries r = [(job, epoch, nseq)] → v.a.job = job →
        v.a.epoch < epoch ∨ (v.a.epoch = epoch ∧ v.a.nseq ≤ nseq) →
        exec (.resyncRx t child r) s = .next (s.withTau ({ z with ntc := { z.ntc with slots := [back] } }.followUps)) ∧
        (v.closed = true → v.dl ≤ z.per → v.acks = [] →
          back.recov z.per = Nat.min v.a.unreached (ranksShared (joinRanges (v.back ++ [(fieldAt r 4 3, fieldAt r 8 4)])) v.a.ranges))) ∧
      (ackOk r = false → exec (.noticeAckRx t child r) s = .next (s.withTau (z.bump Reg.GEN_CTL_DMG_CNT))) ∧
      (replayOk 0xA1 r = false → exec (.replayRequestRx t child r) s = .next (s.withTau (z.bump Reg.GEN_CTL_DMG_CNT))) ∧
      (replayOk 0xA2 r = false → exec (.resyncRx t child r) s = .next (s.withTau (z.bump Reg.GEN_CTL_DMG_CNT)))) ∧
    ((∀ m ∈ x.ntc.merge, x.per < m.dl ∨ m.pend = 0) → exec (.noticeAckDeadline t) s =
      .next (s.withTau x.finishAcks.followUps)) ∧
    (x.ntc.merge = [m] → m.dl ≤ x.per → m.pend ≠ 0 → exec (.noticeAckDeadline t) s =
      .next (s.withTau ((x.timeOutMerge m).finishAcks.followUps))) ∧
    (x.ntc.runs = [p] → p.above = false → p.due + p.grace ≤ x.per →
      let y := ((x.overdueVerdict p p.todo.length).bump Reg.MNT_TST_OVERDUE_CNT).sendDown p.die (dieCmd 2 0xFFFF 0 0 p.pack p.ver 0 0)
      exec (.packRunGraceExpiry t) s = .next (s.withTau ((y.setRun p (some { p with above := true })).answerRun p Code.overdue)))

/-- Commands of firmware for notices and tokens (R394, R402, R405, R409, R412, R490): an issue shows its code, and its NSEQ where it is taken;
a forced release, through the management plane alone, issues a RELEASE and is recorded; a token is granted and recorded, or refused BUSY
with its holder shown, or FIT for a target out of range; its owner's release, or a forced one, frees it. The layout of an issued notice
(log entry 28) and the codes of R409's refusals (log entry 77) are the model's reading; the id of a granted token is free (log entry 3). -/
def Obligations.NoticesAndTokensByCommand : Prop :=
  ∀ (s : State) (t : T64) (port : Port) (m : Fin 2) (v : BitVec 32) (mem : List Byte) (z : Tau) (code nseq : Nat) (k : Token), s.tau.on = true →
    let x := s.tauAt t
    let cls := bits v.toNat 0 3
    let id := bits v.toNat 0 8
    x.rd Reg.GEN_BOOT_STATE = 3 →
    (v.toNat.testBit 0 = true → x.issueNotice (fieldAt mem 0 1 - 0x80) (fieldAt mem 2 2) (fieldAt mem 16 8)
        (nearPeriod x.per (fieldAt mem 24 4)) (mem.drop 32) = (z, code, nseq) →
      let y := (z.wr Reg.MNT_ISSUE_STAT_CODE code).wr Reg.MNT_ISSUE_STAT_VALID 1
      exec (.noticeIssue t port v mem) s =
        .next (s.withTau ((if code = 0 then y.wr Reg.MNT_ISSUE_NSEQ nseq else y).followUps))) ∧
    (v.toNat.testBit 31 = true →
      (isMgmt port = false → exec (.forceRelease t port v) s = .next (s.withTau (x.bump Reg.GEN_ACC_ERR_CNT))) ∧
      (x.issueNotice 4 (bits v.toNat 0 16) 0 (x.per + x.rd Reg.MNT_ACK_TMO) [] = (z, 0, nseq) → exec (.forceRelease t (.mgmt m) v) s =
        .next (s.withTau ((z.tokRecord 2 ⟨0, 0, bits v.toNat 0 16, 1⟩).followUps))) ∧
      (tokTarget cls (x.rd Reg.MNT_TOK_TARGET) = false → exec (.tokenRequest t port v) s =
        .next (s.withTau ((x.tokResult Code.fit 0).bump Reg.MNT_TOK_REF_CNT))) ∧
      (tokTarget cls (x.rd Reg.MNT_TOK_TARGET) = true → x.mnt.tokens = [] →
        let own := (x.freshId 16 []).1
        let new : Token := ⟨own, cls, x.rd Reg.MNT_TOK_TARGET, portOwner port⟩
        own < 16 ∧ exec (.tokenRequest t port v) s =
          .next (s.withTau ((((x.freshId 16 []).2.setTokens [new]).tokRecord 0 new).tokResult Code.done own))) ∧
      (tokTarget cls (x.rd Reg.MNT_TOK_TARGET) = true → x.mnt.tokens = [k] → tokClash (k.cls, k.target) (cls, x.rd Reg.MNT_TOK_TARGET) = true →
        k.owner ≠ 3 → ∃ y : Tau, exec (.tokenRequest t port v) s = .next (s.withTau y) ∧ y.mnt.tokens = [k] ∧
          y.rd Reg.MNT_TOK_STAT_CODE = Code.busy ∧ y.rd Reg.MNT_HOLDER_ID = k.id % 256 ∧ y.rd Reg.MNT_HOLDER_CLASS = k.cls % 8) ∧
      (x.mnt.tokens = [k] → k.id = id → k.owner = portOwner port → v.toNat.testBit 30 = false → exec (.tokenRelease t port v) s =
        .next (s.withTau (((x.setTokens []).tokRecord 1 k).tokResult Code.done id))) ∧
      (x.mnt.tokens = [k] → k.id = id → k.owner ≠ 3 → v.toNat.testBit 30 = true → exec (.tokenForceRelease t (.mgmt m) v) s =
        .next (s.withTau (((x.setTokens []).tokRecord 2 k).tokResult Code.done id))) ∧
      (v.toNat.testBit 30 = true → isMgmt port = false → exec (.tokenForceRelease t port v) s =
        .next (s.withTau (x.bump Reg.GEN_ACC_ERR_CNT))))

/-! ## Surveys, liveness, stragglers and drift at the TAU -/

/-- Surveys at a TAU (R216, R217, R219, R222, R224, R243): an issue shows its code, slot and SID; a descriptor from the parent
that is admitted takes a slot and descends, and one that is not is counted and answered BUSY for all its ranks; a cancel, by
command or from the parent, ends what is pending; at a deadline a survey ends. A damaged record is counted. -/
def Obligations.SurveysRun : Prop :=
  ∀ (s : State) (t : T64) (port : Port) (v : BitVec 32) (r : List Byte) (i sid code : Nat) (z : Tau) (u : TauSurvey), s.tau.on = true →
    let x := s.tauAt t
    let b := (List.range 48).flatMap fun j => leBytes 4 (x.rd Reg.SRV_DESC j)
    let q := Survey.parse (r.drop 8)
    let y := x.admitRefused (x.surveyCode q false (surveyRsv (r.drop 8)))
    let busy : TauSurvey :=
      { s := q, here := false, st := 2, pend := 0, nMatch := 0, nNo := 0, nRet := 0, nTmo := 0, nBusy := y.ownScope q, nExcl := 0
        nUnj := 0, eflags := 0, stored := 0, pair := none, asked := [] }
    (x.rd Reg.GEN_BOOT_STATE = 3 → v.toNat.testBit 0 = true → x.issueSurvey (Survey.parse b) (surveyRsv b) none = (z, code, i, sid) →
      exec (.surveyIssue t port v) s =
        .next (s.withTau ((((z.wr Reg.SRV_ISSUE_STAT_CODE code).wr Reg.SRV_ISSUE_STAT_SLOT i).wr Reg.SRV_ISSUE_STAT_VALID 1).wr Reg.SRV_ISSUE_SID sid))) ∧
    (x.rd Reg.GEN_BOOT_STATE = 3 → v.toNat.testBit 31 = true → x.srv.slots.getD (bits v.toNat 0 6) none = some u → u.pend = 0 →
      exec (.surveyCancel t port v) s =
        .next (s.withTau (x.endSurvey (bits v.toNat 0 6) { u with eflags := Nat.lor u.eflags 1, st := 2 }))) ∧
    (surveyRecOk r = true → x.surveyCode q false (surveyRsv (r.drop 8)) = Code.done →
      exec (.surveyDescriptorRx t r) s = .next (s.withTau ((x.startSurvey q false none).1))) ∧
    (surveyRecOk r = true → x.surveyCode q false (surveyRsv (r.drop 8)) ≠ Code.done → x.isStandby = false →
      exec (.surveyDescriptorRx t r) s = .next (s.withTau (y.toParent false (y.endCoach busy)))) ∧
    (surveyRecOk r = false → exec (.surveyDescriptorRx t r) s = .next (s.withTau (x.bump Reg.GEN_CTL_DMG_CNT))) ∧
    (ctlOk 0xBD r = true → r.length = 24 → (∀ o ∈ x.srv.slots, o = none) →
      exec (.surveyCancelRx t r) s = .next (s.withTau x)) ∧
    (ctlOk 0xBD r = true → r.length = 24 → x.srv.slots = some u :: List.replicate 63 none → u.s.sid = fieldAt r 4 4 →
      u.s.base = fieldAt r 8 3 → u.s.level = fieldAt r 11 1 →
      exec (.surveyCancelRx t r) s = .next (s.withTau (x.cancelSurvey 0))) ∧
    ((∀ o ∈ x.srv.slots, o = none) → exec (.surveyDeadline t) s = .next (s.withTau x)) ∧
    (x.srv.slots = some u :: List.replicate 63 none → u.pend = 0 → u.s.deadline ≤ x.per → exec (.surveyDeadline t) s =
      .next (s.withTau (x.endSurvey 0 { u with st := 2, pend := 0 })))

/-- Liveness (R235, R236, R239, R240, R459 to R461): the current parent's acknowledgement is noted with its bound, and another's
is damaged; a probe is answered from the island, and one for another base is damaged; two periods after it a probe of a child is
classed and its verdict posted; a CONTESTED child is probed again after LV_REPROBE. Straggler windows, backup pairs and drift
(R226, R231, R233): a window open too long closes unjudged and is counted; a pair whose wait for a window has run out reports the
one copy that answered; a drift unit is told to capture its next window. -/
def Obligations.LivenessAndWaitsEnd : Prop :=
  (∀ (s : State) (t : T64) (port : Option (Fin 18)) (r : List Byte) (c : Fin 64) (upA upB dataA dataB : Bool) (p : Probe) (q : Nat),
     s.tau.on = true →
     let x := s.tauAt t
     let srv := { x.srv with acked := true, lastAck := fieldAt r 8 8 }
     let time := { x.time with
       parentEb := fieldAt r 20 2
       parentHo := (fieldAt r 22 1).testBit 0
       parentPort := port.map (·.val) }
     let cls := x.probeClass p upA upB dataA dataB
     let k := x.islandSays
     let insv := 16 + ((List.range 4).foldl (fun n s => n + bit (x.secState s == 0) * 2 ^ s) 0)
     let answer := withCrc (leBytes 1 0xB5 ++ zeros 3 ++ (r.drop 4).take 12 ++ leBytes 3 k.base ++ leBytes 1 insv ++
       leBytes 4 (k.sent % 2 ^ 32) ++ leBytes 1 (x.rd Reg.SRV_PARENT_STATE) ++ leBytes 1 (x.rd Reg.TIME_TIME_STATE_STATE) ++ zeros 2 ++
       leBytes 8 k.last ++ leBytes 4 (k.drop % 2 ^ 32) ++ leBytes 8 x.srv.lastAck ++ leBytes 2 (ebUnits x.errBound) ++ zeros 18)
     (ctlOk 0xB3 r = true → r.length = 32 →
       (x.parent = some (fieldAt r 4 3) → exec (.pulseAckRx t port r) s = .next (s.withTau { x with srv := srv, time := time })) ∧
       (x.parent ≠ some (fieldAt r 4 3) → exec (.pulseAckRx t port r) s = .next (s.withTau (x.bump Reg.GEN_CTL_DMG_CNT)))) ∧
     (ctlOk 0xB4 r = true → r.length = 32 →
       (fieldAt r 16 3 = k.base → exec (.childProbeRx t r) s = .next (s.withTau (x.bypassTo k.parent answer))) ∧
       (fieldAt r 16 3 ≠ k.base → exec (.childProbeRx t r) s = .next (s.withTau (x.bump Reg.GEN_CTL_DMG_CNT)))) ∧
     (x.srv.probes.find? (·.child == c.val) = none → exec (.probeClassify t c upA upB dataA dataB) s = .next (s.withTau x)) ∧
     (x.srv.probes = [p] → p.child = c.val → p.q + 2 ≤ x.per →
       let y := (({ x with srv := { x.srv with probes := [] } }).wr Reg.SRV_LV_CLASS cls c.val).wr Reg.SRV_LV_PROBE_PEND 0 c.val
       exec (.probeClassify t c upA upB dataA dataB) s =
         .next (s.withTau (y.postVerdict y.pulseHome 6 (y.lvVerdict c.val (y.rd Reg.SRV_LV_STATE c.val) cls)))) ∧
     (x.srv.lastProbe.getD c.val none = some q → x.rd Reg.SRV_LV_STATE c.val = 3 →
       q + x.rd Reg.SRV_LV_REPROBE 0 x.pulseHome ≤ x.per → exec (.livenessReprobe t c) s =
         .next (s.withTau (x.startProbe c.val))) ∧
     (x.rd Reg.SRV_LV_STATE c.val ≠ 3 → exec (.livenessReprobe t c) s = .next (s.withTau x))) ∧
  (∀ (s : State) (t : T64) (port : Port) (v : BitVec 32) (u : Fin 8) (k : Fin 16) (w : StWin) (step lo hi from_ p : Nat) (b : BkPair), s.tau.on = true →
     let x := s.tauAt t
     ((x.srv.st.getD u.val StUnit.reset).win = some w → w.from_ + x.rd Reg.SRV_ST_MAXWIN u.val ≤ x.per →
       exec (.stragglerWindowTimeout t u) s =
         .next (s.withTau ((x.setSt u.val fun t => { t with win := none }).bump Reg.SRV_ST_SKIP_CNT u.val))) ∧
     ((x.srv.st.getD u.val StUnit.reset).win = none → exec (.stragglerWindowTimeout t u) s = .next (s.withTau x)) ∧
     (x.srv.bk.getD k.val ⟨false, [], []⟩ = b → b.wait = [] → exec (.backupWaitExpiry t k) s = .next (s.withTau x)) ∧
     (x.srv.bk.getD k.val ⟨false, [], []⟩ = b → b.wait = [(step, lo, hi, from_)] → b.answer 0 lo hi = some p → b.answer 1 lo hi = none →
       from_ + x.rd Reg.SRV_ST_MAXWIN (x.rd Reg.SRV_BK_CTRL_UNIT k.val) ≤ x.per →
       let y := (x.postBackup k.val step 0 2 0 p).setBk k.val fun b => { b with ans := b.ans.filter fun a => decide (hi < a.2.1) }
       exec (.backupWaitExpiry t k) s =
         .next (s.withTau (y.setBk k.val fun b => { b with wait := b.wait.filter (· != (step, lo, hi, from_)) }))) ∧
     (x.rd Reg.GEN_BOOT_STATE = 3 → v.toNat.testBit 0 = true → exec (.driftCapture t port k v) s =
       .next (s.withTau (x.setDr k.val fun d => { d with cap := true }))))

/-! ## Contexts, trains and vectors -/

/-- Contexts (R177, R179 to R181, R198, R200): one whose admission instant has come is admitted, one whose deadline has come is closed, and
one that is complete is built into its train; a context whose instant has not come is untouched, and one of a failed section is not
admitted there (R201). At the active ROOT the digest of a train waits for the standby's, and is compared with it: two that differ are
recorded and counted. A standby takes it as a sign of the active ROOT (R236). Which section counts what befalls the TAU is log entry 8. -/
def Obligations.ContextsRun : Prop :=
  ∀ (s : State) (t : T64) (job consist : BitVec 16) (p : Nat) (dig : BitVec 64) (reach : Bool) (k : Ctx) (own : Nat), s.tau.on = true →
    let x := s.tauAt t
    let d : RootDig := ⟨job.toNat, consist.toNat, p, none, some dig.toNat⟩
    (x.scb.ctxs = [k] → k.st = 1 →
      (k.admitAt ≤ x.now → x.dead k.home = false → exec (.contextAdmit t) s = .next (s.withTau (x.admitCtx k))) ∧
      (x.now < k.admitAt ∨ x.dead k.home = true → exec (.contextAdmit t) s = .next (s.withTau x))) ∧
    (x.scb.ctxs = [k] → k.st = 2 →
      (k.close ≤ x.now → exec (.contextClose t) s = .next (s.withTau (x.closeCtx k false))) ∧
      (x.now < k.close → exec (.contextClose t) s = .next (s.withTau x))) ∧
    (x.scb.ctxs = [k] → k.st = 3 → k.job = job.toNat → k.consist = consist.toNat → k.period = p →
      exec (.trainBuildComplete t job consist p reach) s = .next (s.withTau (x.buildCtx k reach))) ∧
    (x.scb.ctxs = [] → exec (.trainBuildComplete t job consist p reach) s = .next (s.withTau x)) ∧
    (x.roleSet = false ∨ x.role ≠ 3 → exec (.trainDigestRx t job consist p dig) s = .next (s.withTau x)) ∧
    (x.roleSet = true → x.role = 3 → x.isStandby = true → x.scb.digs = [] → exec (.trainDigestRx t job consist p dig) s =
      .next (s.withTau { x with srv := { x.srv with acked := true }, scb := { x.scb with digs := [d] } })) ∧
    (x.roleSet = true → x.role = 3 → x.isStandby = false →
      (x.scb.digs = [] → exec (.trainDigestRx t job consist p dig) s = .next (s.withTau { x with scb := { x.scb with digs := [d] } })) ∧
      (x.scb.digs = [⟨job.toNat, consist.toNat, p, some own, none⟩] →
        let y := { x with scb := { x.scb with digs := [] } }
        (own = dig.toNat → exec (.trainDigestRx t job consist p dig) s = .next (s.withTau y)) ∧
        (own ≠ dig.toNat → exec (.trainDigestRx t job consist p dig) s =
        .next (s.withTau ((y.recordTau 0 6 0x0304 (leBytes 8 p ++ leBytes 8 own ++ leBytes 8 dig.toNat)).bump Reg.GEN_ROOT_DIVERGE_CNT)))))

/-- Vectors of the tree engine (R255, R262 to R273): the first of a section's queue is scored with its model and acts through its map; at the
cut-off the fills that vectors still owe are missed and counted; a host's vector is taken, or refused with BUSY or FIT and counted, and
ends with its scores in memory; a fence is acknowledged once, with a verdict, and an unknown one is refused. Which section counts what
befalls the TAU is log entry 8. -/
def Obligations.VectorsAreScored : Prop :=
  ∀ (s : State) (t : T64) (port : Port) (sec : Fin 4) (v : BitVec 32) (mem : List Byte) (w : Vec) (rest : List Vec) (m : Model) (f : FMap)
    (b : Bind) (h : HostVec) (hs : List HostVec) (id e rank job : Nat), s.tau.on = true →
    let x := s.tauAt t
    let n := bits v.toNat 0 3
    let tag := bits v.toNat 8 8
    let refused (code : Nat) : Tau :=
      (((x.wr Reg.TREE_HV_STAT_CODE code 0 sec).wr Reg.TREE_HV_STAT_TAG tag 0 sec).wr Reg.TREE_HV_STAT_VALID 0 0 sec).bump Reg.TREE_HV_REF_CNT 0 sec
    (x.inService sec = true → x.tree.q.getD sec [] = w :: rest → x.model w.ens = some m → x.tree.binds.getD w.slot none = some b →
      x.fmap b.map = some f →
      let y := { x with tree := { x.tree with q := modifyAt (fun _ => rest) sec x.tree.q } }
      let z := (((y.addVisits sec (m.raw w.feats).2).bump Reg.TREE_VEC_CNT 0 sec).bump Reg.TREE_ENS_VEC_CNT w.ens).wr Reg.TREE_ENS_LAST_PER
        w.period w.ens
      let late := if w.deadline < x.now then (z.bump Reg.TREE_SCORE_LATE_CNT 0 sec).bump Reg.TREE_ENS_LATE_CNT w.ens else z
      let act (i : Nat) (y : Tau) : Tau := match f.outs[i]?, (m.raw w.feats).1[i]? with
        | some o, some r => y.actOutput sec w o i r (m.final i r)
        | _, _ => y
      exec (.vectorScored t sec) s = .next (s.withTau (forIdx f.outs.length act late))) ∧
    (x.inService sec = true → x.tree.q.getD sec [] = [] → exec (.vectorScored t sec) s = .next (s.withTau x)) ∧
    (x.tree.q = [[], [], [], []] → exec (.fillCutoff t) s = .next (s.withTau x)) ∧
    (x.tree.q = [[w], [], [], []] → w.deadline ≤ x.now → w.cut = false → w.child.isSome = true → x.tree.binds.getD w.slot none = some b →
      x.fmap b.map = some f →
      let y := { x with tree := { x.tree with q := [[{ w with cut := true }], [], [], []] } }
      exec (.fillCutoff t) s = .next (s.withTau (y.bumpBy Reg.TREE_FILL_MISS_CNT (f.outs.countP (·.fill != 255))))) ∧
    (x.rd Reg.GEN_BOOT_STATE = 3 → v.toNat.testBit 31 = true →
      (16 ≤ (x.tree.hv.getD sec []).length → exec (.hostVectorSubmit t port sec v mem) s = .next (s.withTau (refused Code.busy))) ∧
      ((x.tree.hv.getD sec []).length < 16 → x.model n = none → exec (.hostVectorSubmit t port sec v mem) s =
        .next (s.withTau (refused Code.fit))) ∧
      ((x.tree.hv.getD sec []).length < 16 → x.model n = some m → x.tree.ensOff.getD n none = none →
        let feats := (List.range m.nfeat).map fun i => (fieldAt mem (4 * i) 4, mapBit (mem.drop (4 * m.nfeat)) i)
        let hv : HostVec := ⟨n, tag, x.rd64 Reg.TREE_HV_RES_LO Reg.TREE_HV_RES_HI 0 sec, feats⟩
        let y := { x with tree := { x.tree with hv := modifyAt (· ++ [hv]) sec x.tree.hv } }
        exec (.hostVectorSubmit t port sec v mem) s =
          .next (s.withTau (((y.wr Reg.TREE_HV_STAT_CODE Code.done 0 sec).wr Reg.TREE_HV_STAT_TAG tag 0 sec).wr Reg.TREE_HV_STAT_VALID 0 0 sec))) ∧
      (x.tree.fences.find? (·.1 == bits v.toNat 0 24) = none → exec (.fenceAck t port v) s =
        .next (s.withTau (x.bump Reg.TREE_ACT_REF_CNT 0 x.anySec))) ∧
      (x.tree.fences = [(id, e, rank, job)] → bits v.toNat 0 24 = id →
        let y := { x with tree := { x.tree with fences := [] } }
        exec (.fenceAck t port v) s = .next (s.withTau ((y.postVerdict x.anySec 7
          { kind := 11, unit := e, job := job, step := id, rank := rank, aux := bits v.toNat 24 1, value := 0, ref := 0, thr := 0
            present := 0, expected := 0, period := y.per }).bump Reg.TREE_FENCE_ACK_CNT)))) ∧
    (x.inService sec = true → x.tree.hv.getD sec [] = h :: hs → x.model h.ens = none →
      let y := { x with tree := { x.tree with hv := modifyAt (fun _ => hs) sec x.tree.hv } }
      exec (.hostVectorComplete t sec) s = .next (s.withTau (y.hvResult sec h Code.aborted 0 []))) ∧
    (x.inService sec = true → x.tree.hv.getD sec [] = h :: hs → x.model h.ens = some m →
      let raws := (m.raw h.feats).1
      let y := { x with tree := { x.tree with hv := modifyAt (fun _ => hs) sec x.tree.hv } }
      let out (i : Nat) (z : Tau) : Tau := z.setOut sec { z.outStat sec h.ens i with
        raw := raws.getD i 0
        final := m.final i (raws.getD i 0) }
      let scores := (List.range raws.length).flatMap fun i =>
        leBytes 8 (unsigned 64 (raws.getD i 0)) ++ leBytes 8 (unsigned 64 (m.final i (raws.getD i 0)))
      exec (.hostVectorComplete t sec) s =
        .next (s.withTau ((forIdx raws.length out (y.addVisits sec (m.raw h.feats).2)).hvResult sec h Code.done m.nout scores)))

/-- The tap units and tallies of the agreement engine (R287, R288, R292 to R294, R302): a unit is armed for a known key until a
named period, or refused, with BUSY while it is armed, with FIT for a period or a key that is not there, and counted (where: log entry 77);
a flit that it names starts it and adds its digests; its owner, silence, or its
deadline closes it with a verdict; tallies go up, where there is a parent and the period is due. -/
def Obligations.TapUnitsRun : Prop :=
  ∀ (s : State) (t : T64) (port : Port) (v : BitVec 32) (k : Fin 8) (g : FlitTag) (payload : List Byte) (p j : Nat) (q : TauPack),
    s.tau.on = true →
    let x := s.tauAt t
    let u := x.agr.tap.getD k.val TapUnit.reset
    let m : TapMatch := ⟨x.rd Reg.AGR_T_MATCH_COLL k.val, x.rd Reg.AGR_T_MATCH_INST k.val, x.rd Reg.AGR_T_CHUNK_LO k.val,
      x.rd Reg.AGR_T_CHUNK_COUNT k.val, x.rd Reg.AGR_T_SRC k.val, x.rd Reg.AGR_T_DST k.val, x.rd Reg.AGR_T_POINT_RESULT_ONLY k.val == 1⟩
    let job := x.rd Reg.AGR_T_JOB k.val
    let ts := (tagTerms g (tapPoint j g.coll) payload).filter fun t => u.m.inRange t.1
    let y := x.setTap k.val fun u => { u with seen := x.per }
    let start (u : TapUnit) : TapUnit := { u with
      st := 2
      acc := ts.foldl (fun a t => Nat.xor a t.2) u.acc
      n := u.n + ts.length
      flits := u.flits + 1 }
    (x.rd Reg.GEN_BOOT_STATE = 3 →
      (v.toNat.testBit 0 = true → v.toNat.testBit 1 = false → u.st = 0 → namedPeriod x.per (x.rd Reg.AGR_T_DEADLINE k.val) = some p →
        x.tapKey job = some j → exec (.tapUnitArm t port k v) s =
        .next (s.withTau ((x.wr Reg.AGR_T_STAT_CODE Code.done k.val).setTap k.val fun _ =>
            { st := 1, status := 0, point := x.rd Reg.AGR_T_POINT_POINT k.val, port := x.rd Reg.AGR_T_POINT_PORT k.val, job := job
              epoch := (x.epochAt job x.per).getD 0, m := m, deadline := p, acc := 0, n := 0, flits := 0, seen := x.per }))) ∧
      (v.toNat.testBit 0 = true → v.toNat.testBit 1 = false → u.st = 1 ∨ u.st = 2 → exec (.tapUnitArm t port k v) s =
        .next (s.withTau ((x.wr Reg.AGR_T_STAT_CODE Code.busy k.val).bump Reg.GEN_ACC_ERR_CNT))) ∧
      (v.toNat.testBit 0 = true → v.toNat.testBit 1 = false → u.st = 0 →
        namedPeriod x.per (x.rd Reg.AGR_T_DEADLINE k.val) = none ∨ x.tapKey job = none → exec (.tapUnitArm t port k v) s =
        .next (s.withTau ((x.wr Reg.AGR_T_STAT_CODE Code.fit k.val).bump Reg.GEN_ACC_ERR_CNT))) ∧
      (v.toNat.testBit 0 = false → v.toNat.testBit 1 = true → exec (.tapUnitDisarm t port k v) s =
        .next (s.withTau (x.closeTap k.val 4)))) ∧
    (exec (.tapUnitFlit t k none payload) s = .next (s.withTau x)) ∧
    (u.st = 1 → payload.length % 8 = 0 → g.coll = u.m.coll → g.inst = u.m.inst → u.m.hits g = true → y.tapKey u.job = some j → ts ≠ [] →
      exec (.tapUnitFlit t k (some g) payload) s = .next (s.withTau (y.setTap k.val start))) ∧
    (u.st = 1 ∨ u.st = 2 → payload.length % 8 = 0 → g.coll = u.m.coll → g.inst = (u.m.inst + 1) % 256 →
      exec (.tapUnitFlit t k (some g) payload) s = .next (s.withTau (x.closeTap k.val 1))) ∧
    (u.st = 1 ∨ u.st = 2 → g.tap = true → payload.length % 8 ≠ 0 → exec (.tapUnitFlit t k (some g) payload) s =
      .next (s.withTau (x.bump Reg.AGR_T_TAGERR k.val))) ∧
    (u.st = 2 → u.seen + x.rd Reg.AGR_TAP_IDLE ≤ x.per → exec (.tapUnitIdleTimeout t k) s =
      .next (s.withTau (x.closeTap k.val 2))) ∧
    (u.st ≠ 2 → exec (.tapUnitIdleTimeout t k) s = .next (s.withTau x)) ∧
    (u.deadline ≤ x.per → exec (.tapUnitDeadline t k) s = .next (s.withTau (x.closeTap k.val (if u.st = 1 then 3 else 7)))) ∧
    (x.parent = none → exec (.tallySend t) s = .next (s.withTau x)) ∧
    (x.rd Reg.AGR_FAIL_TOP = 0 → x.parent ≠ none → x.per % 2 ^ x.rd Reg.AGR_TALLY_DIV = 0 → x.lib.packs = [some q, none, none, none] →
      let y := { x with lib := { x.lib with packs := [some { q with sent := q.tally }, none, none, none] } }
      let send (g : List (Nat × Nat × Nat)) (y : Tau) : Tau := (y.toParent false (mkRecord (y.ownHdr 5 2 0xFFFF 0xFFFF (y.per * 2 ^ 18))
        (digestBody 0 0 0 4 0 q.id (q.ver % 256) 0 g.length y.per ++
          g.flatMap fun (i, a, b) => leBytes 2 i ++ leBytes 3 a ++ leBytes 3 b))).bump Reg.AGR_TALLY_SENT_CNT
      exec (.tallySend t) s = .next (s.withTau (forEach (groups120 q.changes.length q.changes) send y)))

/-! ## The management plane and the cipher's frames -/

/-- Management (R323 to R325, R335) and the long-haul frames' timer (R379): at a port that is enabled and has an address that duplicate
address detection has passed, a datagram that does not open gets no reply and is counted; an opened command is counted and answered with
its code, a READ or READ_BLOCK with the words, a WRITE after it is recorded and has reached the bus, one of another form with FIT; a port
without such an address takes and sends nothing. Pings are answered, and solicitations of an address not found taken, after the
solicitor's own address is learned; a tentative one is taken when another node solicits it for itself or advertises it; an advertisement
of a neighbor's address confirms it. A frame whose wait has run out is sealed. Mismatches reported with no message await the engine's next
one (log entry 79); the neighbors' times and queues are log entry 65, the bytes of echo replies and advertisements log entry 40, when an
address is tentative log entry 64. -/
def Obligations.ManagementAnswers : Prop :=
  ∀ (s : State) (t : T64) (port : Fin 2) (src target : BitVec 128) (sport : BitVec 16) (env p r : List Byte) (m : Reads) (h : EnvHead)
    (y z : Tau) (w : Nat) (ws : List Nat) (code i : Nat) (adv : Bool) (lhp : Fin 16) (dup : Nat) (f : Frame), s.tau.islPg = true →
    let x := s.tauAt t
    let c := y.bump Reg.MGMT_CMD_CNT
    let a := fieldAt p 8 4
    let logged := c.record 4 2 7 0x0F01 (leBytes 4 a ++ leBytes 4 (fieldAt p 16 4) ++ leBytes 4 h.sender ++ leBytes 4 (fieldAt p 4 4))
    let answer (z : Tau) (code : Nat) (ws : List Nat) : Tau := (z.reply port.val src.toNat sport.toNat (cmdReply p code ws))
    let mac := (x.fuses.mac + port.val) % 2 ^ 48
    let own := [2 * port.val, 2 * port.val + 1].find? fun i => x.ownAddr i == some target.toNat
    let advert (flags : Nat) : List Byte := leBytes 1 136 ++ leBytes 1 0 ++ leBytes 1 flags ++ zeros 3 ++ (leBytes 16 target.toNat).reverse ++ [2, 1] ++ (leBytes 6 mac).reverse
    (x.portUp port.val = true → x.openMgmt dup env = (y, none) →
      exec (.mgmtRead t port src sport env dup) s = .next (s.withTau (y.bump Reg.MGMT_CMD_REF_CNT)) ∧
      exec (.mgmtDatagramDiscard t port (some env) dup) s = .next (s.withTau (y.bump Reg.MGMT_CMD_REF_CNT))) ∧
    ((x.rd Reg.MGMT_PORT_CFG_EN).testBit port.val = true → exec (.mgmtDatagramDiscard t port none dup) s =
      .next (s.withTau ((x.dupAwait 4 dup).bump Reg.MGMT_RX_DROP_CNT))) ∧
    (x.portUp port.val = true → x.openMgmt dup env = (y, some (h, p)) → y.lc ≠ 0 → y.lc ≠ 4 → c.mnt.islBusy = false →
      (commandOk p = false → exec (.mgmtInvalidOp t port src sport env dup) s = .next (s.withTau (answer c Code.fit []))) ∧
      (commandOk p = true → c.main = false → railsReach a (fieldAt p 2 2) = false → exec (.mgmtRead t port src sport env dup) s =
        .next (s.withTau (answer (c.bump Reg.MGMT_CMD_RAILS_CNT) Code.busy []))) ∧
      (commandOk p = true → c.main = true → fieldAt p 0 2 = 1 → c.readWord (.mgmt port) a = (w, z) →
        exec (.mgmtRead t port src sport env dup) s = .next (s.withTau (answer z Code.done [w]))) ∧
      (commandOk p = true → c.main = true → fieldAt p 0 2 = 3 → c.readWords (.mgmt port) a (fieldAt p 2 2) = (ws, z) →
        exec (.mgmtReadBlock t port src sport env dup) s = .next (s.withTau (answer z Code.done ws))) ∧
      (commandOk p = true → c.main = true → fieldAt p 0 2 = 2 → logged.regWrite (.mgmt port) a 4 (fieldAt p 16 4) m = (z, code) →
        exec (.mgmtWrite t port src sport env dup m) s = .next (s.withTau (answer z code [])))) ∧
    (exec (.icmpv6EchoRequest t port src r) s =
      .next (s.withTau (x.mgmtSend port.val src.toNat 0 0 (leBytes 1 129 ++ leBytes 1 0 ++ r)))) ∧
    (own = some i →
      (x.tentative i = false → (x.dadOf i).dup = false →
        (src.toNat ≠ 0 → exec (.neighborDiscovery t port src target false) s =
          .next (s.withTau ((x.nbrHeard port.val src.toNat false).mgmtSend port.val src.toNat 0 0 (advert 0x60)))) ∧
        (src.toNat = 0 → exec (.neighborDiscovery t port src target false) s =
          .next (s.withTau (x.mgmtSend port.val (0xFF02 * 2 ^ 112 + 1) 0 0 (advert 0x20))))) ∧
      (x.tentative i = true → adv = true ∨ src.toNat = 0 → exec (.neighborDiscovery t port src target adv) s =
        .next (s.withTau (x.setDad i { x.dadOf i with dup := true }))) ∧
      (x.tentative i = true → adv = false → src.toNat ≠ 0 → exec (.neighborDiscovery t port src target adv) s = .next (s.withTau x)) ∧
      (x.tentative i = false → adv = true ∨ (x.dadOf i).dup = true → exec (.neighborDiscovery t port src target adv) s =
        .next (s.withTau x))) ∧
    (own = none →
      (adv = true → (x.rd Reg.MGMT_PORT_CFG_EN).testBit port.val = true → exec (.neighborDiscovery t port src target adv) s =
        .next (s.withTau (x.nbrHeard port.val target.toNat true))) ∧
      (adv = false ∨ (x.rd Reg.MGMT_PORT_CFG_EN).testBit port.val = false → exec (.neighborDiscovery t port src target adv) s =
        .next (s.withTau x))) ∧
    (x.portUp port.val = false →
      exec (.mgmtRead t port src sport env dup) s = .next (s.withTau x) ∧
      exec (.icmpv6EchoRequest t port src r) s = .next (s.withTau x)) ∧
    (x.main = true → x.cip.frames = [f] → f.port = lhp.val → f.at_ + x.rd Reg.CIP_FRAME_WAIT ≤ x.now →
      exec (.frameSealTimeout t lhp dup) s =
        .next (s.withTau (((x.dupAwait (x.lhEngine lhp.val) dup).sealFrame 0 f).cipherGuard)))

/-! ## Recorder and compression -/

/-- Freezes, windows and snapshots (R344 to R347): a freeze is refused with BUSY while one is active and with FIT for a destination that does
not exist, and starts otherwise; a copy completes with what is left to copy and its header, unless the quota ended it before; one to the
read window ends when the reader is done or too slow; a record is shown by its sequence number, or said to be gone. How far a copy has
come is the model's reading (log entry 25). -/
def Obligations.RecordersFreeze : Prop :=
  ∀ (s : State) (t : T64) (port : Port) (sec : Fin 4) (ring : Fin 5) (v : BitVec 32) (z z' : Freeze) (r : Rec) (gone : Bool), s.tau.on = true →
    let x := s.tauAt t
    let bump (y : Tau) : Tau := y.bump Reg.REC_FRZ_REF_CNT 0 sec
    let y := x.wr Reg.REC_SNAP_SEQ v.toNat 0 sec
    let head := ((y.wr Reg.REC_SNAP_STAT_VALID 1 0 sec).wr Reg.REC_SNAP_STAT_GONE (bit gone) 0 sec).wr Reg.REC_SNAP_STAT_LEN8
      (r.bytes.length / 8) 0 sec
    let shown := forIdx (r.bytes.length / 4) (fun i (z : Tau) => z.wr Reg.REC_SNAP_BUF (fieldAt r.bytes (4 * i) 4) i sec)
      (head.wr Reg.REC_SNAP_SEQ_OUT r.idx 0 sec)
    (x.rd Reg.GEN_BOOT_STATE = 3 → v.toNat.testBit 0 = true →
      ((x.ring sec.val).frz = some z → exec (.freezeStart t port (sec.castLE (by decide)) v) s =
        .next (s.withTau (bump (x.wr Reg.REC_FRZ_STAT_CODE Code.busy 0 sec)))) ∧
      ((x.ring sec.val).frz = none → bits v.toNat 1 2 = 3 → exec (.freezeStart t port (sec.castLE (by decide)) v) s =
        .next (s.withTau (bump (x.wr Reg.REC_FRZ_STAT_CODE Code.fit 0 sec)))) ∧
      ((x.ring sec.val).frz = none → bits v.toNat 1 2 ≠ 3 → exec (.freezeStart t port (sec.castLE (by decide)) v) s =
        .next (s.withTau (x.freezeStart sec.val (bits v.toNat 1 2) (bits v.toNat 3 3)))) ∧
      ((x.ring sec.val).frz = some z → z.dest = 2 → exec (.windowDone t port (sec.castLE (by decide)) v) s =
        .next (s.withTau (x.freezeEnd sec.val))) ∧
      ((x.ring sec.val).frz = none → exec (.windowDone t port (sec.castLE (by decide)) v) s = .next (s.withTau x))) ∧
    ((x.ring ring.val).frz = some z → z.dest ≠ 2 →
      let c := x.copyRecs ring.val (48 + z.bytes + (recBytes (x.ring ring.val).recs).length) z.want
      ((c.ring ring.val).frz = some z' →
        let hdr := z'.header ring.val Code.done (bit z'.trunc) z'.nrec z'.bytes z'.lastSeq
        exec (.freezeCopyComplete t ring) s = .next (s.withTau ((c.putCopy z' 0 hdr).freezeDone ring.val Code.done z'.nrec))) ∧
      ((c.ring ring.val).frz = none → exec (.freezeCopyComplete t ring) s = .next (s.withTau c))) ∧
    ((x.ring ring.val).frz = some z → z.dest = 2 → z.start + x.frz ring.val Reg.REC_WIN_TMO Reg.MGMT_I_WIN_TMO ≤ x.per →
      exec (.windowTimeout t ring) s = .next (s.withTau (x.freezeEnd ring.val))) ∧
    ((x.ring ring.val).frz = none →
      exec (.windowTimeout t ring) s = .next (s.withTau x) ∧ exec (.freezeCopyComplete t ring) s = .next (s.withTau x)) ∧
    (exec (.windowDataRead t port (sec.castLE (by decide))) s =
      .next (s.withTau ((x.windowRead sec.val).2.emitOut (.read (portIdx port) (leBytes 4 (x.windowRead sec.val).1))))) ∧
    (x.rd Reg.GEN_BOOT_STATE = 3 → x.rd (Reg.PG_LOCK 9) 0 sec = 0 →
      ((y.ring sec.val).snapshot (y.rd Reg.REC_SNAP_SEQ 0 sec) = none → exec (.snapshotRead t port sec v) s =
        .next (s.withTau ((y.wr Reg.REC_SNAP_STAT_VALID 0 0 sec).wr Reg.REC_SNAP_STAT_GONE 1 0 sec))) ∧
      ((y.ring sec.val).snapshot (y.rd Reg.REC_SNAP_SEQ 0 sec) = some (r, gone) → exec (.snapshotRead t port sec v) s =
        .next (s.withTau shown)))

/-- Siding posts and compression (R360, R369, R372 to R376): a siding's buffer is refused off a TRAY, for its form, or with BUSY
at 16, and counted, else taken; a job is queued, or refused with BUSY and counted; an aborted job of the queue completes with
ABORTED, once the quota has let its completion record be written; a context with nothing left to write but that writes its completion,
and its engine takes the next; a posted buffer lets a stopped job go on, and one that cannot be taken is counted: a seventeenth shows BUSY
where posts do (log entry 80). What the engine reads of memory is log entry 26. -/
def Obligations.CompressionJobsRun : Prop :=
  ∀ (s : State) (t : T64) (port : Port) (sec : Fin 4) (c : Fin 24) (v : BitVec 32) (m : Reads) (mem : List Byte) (k : CmpCtx) (j : CmpJob),
    s.tau.on = true →
    let x := s.tauAt t
    let e := x.eng sec.val
    let ch := bits v.toNat 0 4
    let base := fieldAt mem 0 8
    let size := fieldAt mem 8 4
    let part := x.rd Reg.TTB_HBM_PART * 2 ^ 30
    let ofs := x.rd Reg.REC_SD_OFS_LO * 32 + x.rd Reg.REC_SD_OFS_HI * 2 ^ 32
    let formOk := 4096 ≤ size ∧ size ≤ 2 ^ 30 ∧ size % 4096 = 0 ∧ base % 4096 = 0 ∧ base + size ≤ part
    let full := 16 ≤ (x.chan ch).posted.length + (x.chan ch).full.length
    let gone := { j with bufs := [], op := 254 }
    let owed := x.cmpOwe sec.val ({ CmpCtx.stream (0, 0) with job := gone, code := Code.aborted } : CmpCtx).end
    let q := bufAt (x.rd Reg.CMP_BUF_OFS_LO 0 sec + 2 ^ 32 * x.rd Reg.CMP_BUF_OFS_HI 0 sec) mem
    let more := { k with job := { k.job with bufs := k.job.bufs ++ [q] }, resumed := k.resumed || k.stopped, stopped := false, owed := k.owed + 16 + (if k.ending && k.code != Code.incompressible then 4 else 0) }
    (x.rd Reg.GEN_BOOT_STATE = 3 →
      (v.toNat.testBit 31 = true → x.isTray = false →
        exec (.sidingPost t port v mem) s =
          .next (s.withTau ((x.wr Reg.REC_SD_POST_STAT_CODE Code.fit).bump Reg.CMP_POST_REF_CNT 0 (x.chanHome ch)))) ∧
      (v.toNat.testBit 31 = true → x.isTray = true → ¬ formOk →
        exec (.sidingPost t port v mem) s =
          .next (s.withTau ((x.wr Reg.REC_SD_POST_STAT_CODE Code.fit).bump Reg.CMP_POST_REF_CNT 0 (x.chanHome ch)))) ∧
      (v.toNat.testBit 31 = true → x.isTray = true → formOk → full →
        exec (.sidingPost t port v mem) s = .next (s.withTau ((x.wr Reg.REC_SD_POST_STAT_CODE Code.busy).bump Reg.CMP_POST_REF_CNT 0 (x.chanHome ch)))) ∧
      (v.toNat.testBit 31 = true → x.isTray = true → formOk → ¬ full →
        let y := ((x.wr Reg.REC_SD_POST_STAT_CODE Code.done).wr Reg.REC_SD_STAT_DRY 0 ch (x.chanHome ch)).setChan ch fun k => { k with posted := k.posted ++ [⟨ofs, base, size, 0, none, false⟩] }
        exec (.sidingPost t port v mem) s = .next (s.withTau (y.sidingResume ch))) ∧
      (v.toNat.testBit 0 = true → 16 ≤ e.queue.length → exec (.cmpJobPost t port sec v m) s =
        .next (s.withTau ((x.wr Reg.CMP_JOB_POST_STAT_CODE Code.busy 0 sec).bump Reg.CMP_POST_REF_CNT 0 sec))) ∧
      (v.toNat.testBit 0 = true → e.queue.length < 16 →
        let y := (x.wr Reg.CMP_JOB_POST_STAT_CODE Code.done 0 sec).setEng sec.val fun e => { e with queue := e.queue ++ [jobOf part m.a m.b m.c] }
        exec (.cmpJobPost t port sec v m) s = .next (s.withTau (y.cmpTake sec.val 24))) ∧
      (v.toNat.testBit 31 = true → x.cctx sec.val (v.toNat % 32) = some k → k.user = 0 → bufOk part k.job.host q = true →
        k.job.bufs.length < 16 → exec (.cmpBufferPost t port sec v mem) s =
          .next (s.withTau ((x.setCctx sec.val (v.toNat % 32) (some more)).cmpPump sec.val (v.toNat % 32)))) ∧
      (v.toNat.testBit 31 = true → x.cctx sec.val (v.toNat % 32) = none ∨ (x.cctx sec.val (v.toNat % 32) = some k ∧
          (k.user ≠ 0 ∨ bufOk part k.job.host q = false)) →
        exec (.cmpBufferPost t port sec v mem) s = .next (s.withTau (x.bump Reg.CMP_POST_REF_CNT 0 sec))) ∧
      (v.toNat.testBit 31 = true → x.cctx sec.val (v.toNat % 32) = some k → k.user = 0 → bufOk part k.job.host q = true →
        16 ≤ k.job.bufs.length → exec (.cmpBufferPost t port sec v mem) s =
          .next (s.withTau ((x.wr Reg.CMP_JOB_POST_STAT_CODE Code.busy 0 sec).bump Reg.CMP_POST_REF_CNT 0 sec))) ∧
      (e.ctxs = List.replicate 24 none → e.queue = [j] → j.tag = v.toNat →
        (owed.2.owed = 0 → exec (.cmpJobAbort t port sec v) s =
          .next (s.withTau ((owed.1.setEng sec.val fun e => { e with queue := e.queue.eraseIdx 0 }).cmpFinish sec.val owed.2))) ∧
        (0 < owed.2.owed → exec (.cmpJobAbort t port sec v) s =
          .next (s.withTau (owed.1.setEng sec.val fun e => { e with queue := modifyAt (fun _ => gone) 0 e.queue })))) ∧
      (e.ctxs = List.replicate 24 none → e.queue = [] → exec (.cmpJobAbort t port sec v) s = .next (s.withTau x))) ∧
    (x.cctx sec.val c.val = none → exec (.cmpJobComplete t sec c) s = .next (s.withTau x)) ∧
    (x.cctx sec.val c.val = some k → k.user = 0 → k.owed ≠ 0 ∨ k.ending = false → exec (.cmpJobComplete t sec c) s = .next (s.withTau x)) ∧
    (x.cctx sec.val c.val = some k → k.user = 0 → k.owed = 0 → k.ending = true →
      let y := if k.code = Code.aborted then x
        else if k.job.op = 0 then (x.encoded sec.val k.inLen).bumpBy Reg.CMP_RAW_CNT (bit k.raw) 0 sec
        else if k.job.op = 1 then x.decoded sec.val k.done else x
      exec (.cmpJobComplete t sec c) s =
        .next (s.withTau (((y.cmpFinish sec.val k).setCctx sec.val c.val none).cmpTake sec.val 24))) ∧
    (x.isTray = false → exec (.cmpFlushIdle t) s = .next (s.withTau x)) ∧
    (x.chanOn 0 = true → (x.chan 0).idle + x.rd Reg.CMP_FLUSH_IDLE ≤ x.per → (∀ c : Fin 16, c ≠ 0 → (((x.sidingClose 0).sidingGrant 0).chanOn c.val) = false) →
      exec (.cmpFlushIdle t) s = .next (s.withTau ((x.sidingClose 0).sidingGrant 0)))

/-! ## Maintenance -/

/-- Sections, guards and firmware (R18, R413, R415, R419, R443, R471): a drain or a return without its token is BUSY and counted, of a
section in another state FIT and counted, else done at its boundary; a drained section nothing needs leaves; a kick is noted, and a section
without one fails; the island's guard restarts its core, until that is done; a checked image fills the idle bank, a switch of it
is armed, a trial ends confirmed or rolls back. That a switch with nothing staged is FIT, and a load over a staged image BUSY, and where
these refusals count, is the model's choice (log entry 77). -/
def Obligations.MaintenanceActs : Prop :=
  ∀ (s : State) (t : T64) (port : Port) (sec : Fin 4) (v : BitVec 32) (mem : List Byte) (p : Nat),
    s.tau.on = true →
    let x := s.tauAt t
    let i := bits v.toNat 0 2
    let per := x.rd Reg.MNT_DRAIN_PER
    let drained (p : Nat) : Tau := { x with mnt := { x.mnt with drains := (i, p) :: x.mnt.drains.filter (·.1 != i) } }
    let returned : Tau := { x with mnt := { x.mnt with returns := i :: x.mnt.returns.filter (· != i) } }
    let kicked : Tau := { x with mnt := { x.mnt with kicks := modifyAt (fun _ => x.per) sec x.mnt.kicks } }
    let armed : Tau := { x with mnt := { x.mnt with switch := some p } }
    let confirmed : Tau := { x with mnt := { x.mnt with trial := none } }
    let restarting : Tau := { x.bump Reg.MNT_ISL_GUARD_CNT with mnt := { x.mnt with islBusy := true } }
    let restarted : Tau := { x with mnt := { x.mnt with islBusy := false } }
    (x.rd Reg.GEN_BOOT_STATE = 3 →
      (v.toNat.testBit 31 = true →
        (x.tokHeld 0 i = false →
          exec (.sectionDrain t port v) s = .next (s.withTau ((x.wr Reg.MNT_DRAIN_STAT_CODE Code.busy).bump Reg.MNT_TOK_REF_CNT)) ∧
          exec (.sectionReturn t port v) s = .next (s.withTau ((x.wr Reg.MNT_RETURN_STAT_CODE Code.busy).bump Reg.MNT_TOK_REF_CNT))) ∧
        (x.tokHeld 0 i = true →
          (x.secState i ≠ 0 → exec (.sectionDrain t port v) s =
            .next (s.withTau ((x.wr Reg.MNT_DRAIN_STAT_CODE Code.fit).bump Reg.MNT_TOK_REF_CNT))) ∧
          (x.secState i = 0 → per = 0 →
            exec (.sectionDrain t port v) s = .next (s.withTau ((drained (x.per + 1)).wr Reg.MNT_DRAIN_STAT_CODE Code.done))) ∧
          (x.secState i < 2 ∨ (x.secState i = 3 ∧ (x.bist i).passed = false) → exec (.sectionReturn t port v) s =
            .next (s.withTau ((x.wr Reg.MNT_RETURN_STAT_CODE Code.fit).bump Reg.MNT_TOK_REF_CNT))) ∧
          (x.secState i = 2 ∨ (x.secState i = 3 ∧ (x.bist i).passed = true) → x.rd Reg.BIST_REPAIR_STAT_UNREP 0 i = 0 → x.rd Reg.BIST_STATE 0 i ≠ 1 →
            exec (.sectionReturn t port v) s = .next (s.withTau (returned.wr Reg.MNT_RETURN_STAT_CODE Code.done))))) ∧
      (v.toNat.testBit 0 = true → exec (.guardKick t port sec v) s = .next (s.withTau kicked)) ∧
      (v.toNat.testBit 0 = true → x.tokHeld 4 0 = false →
        exec (.fwLoad t port v mem) s = .next (s.withTau ((x.wr Reg.MNT_FW_STAT_CODE Code.busy).bump Reg.MNT_TOK_REF_CNT)) ∧
        exec (.fwSwitchArm t port v) s = .next (s.withTau ((x.wr Reg.MNT_FW_STAT_CODE Code.busy).bump Reg.MNT_TOK_REF_CNT))) ∧
      (v.toNat.testBit 0 = true → x.tokHeld 4 0 = true → x.rd Reg.MNT_FW_STATE_STATE = 0 →
        let filled (y : Tau) (i : Image) : Tau :=
          (((y.fillBank (1 - y.rd Reg.MNT_FW_STATE_BANK) i).wr Reg.MNT_FW_STATE_STATE 1).wr Reg.MNT_FW_STAT_CODE Code.done)
        exec (.fwLoad t port v mem) s = .next (s.withTau (match x.fwCheck true mem with
          | (y, _, some i) => (filled y i).fwRecord 0 (1 - y.rd Reg.MNT_FW_STATE_BANK)
          | (y, code, none) => (y.wr Reg.MNT_FW_STAT_CODE code).bump Reg.GEN_LOAD_REFUSED_CNT)) ∧
        exec (.fwSwitchArm t port v) s = .next (s.withTau ((x.wr Reg.MNT_FW_STAT_CODE Code.fit).bump Reg.MNT_TOK_REF_CNT))) ∧
      (v.toNat.testBit 0 = true → x.tokHeld 4 0 = true → x.rd Reg.MNT_FW_STATE_STATE = 1 →
        exec (.fwLoad t port v mem) s = .next (s.withTau ((x.wr Reg.MNT_FW_STAT_CODE Code.busy).bump Reg.GEN_LOAD_REFUSED_CNT)) ∧
        (namedPeriod x.per (x.rd Reg.MNT_FW_SWITCH_PER) = some p →
          exec (.fwSwitchArm t port v) s = .next (s.withTau (armed.wr Reg.MNT_FW_STAT_CODE Code.done)))) ∧
      (v.toNat.testBit 0 = true → x.mnt.trial = some p → x.mnt.switch = none → exec (.fwConfirm t port v) s =
        .next (s.withTau ((confirmed.wr Reg.MNT_FW_STATE_STATE 0).fwRecord 2 (x.rd Reg.MNT_FW_STATE_BANK)))) ∧
      (x.mnt.trial = none → exec (.fwConfirm t port v) s = .next (s.withTau x))) ∧
    (x.secState 0 ≠ 1 → x.secState 1 ≠ 1 → x.secState 2 ≠ 1 → x.secState 3 ≠ 1 →
      exec (.sectionDrainComplete t) s = .next (s.withTau x)) ∧
    (x.secState 0 = 1 → x.scb.ctxs = [] → x.tree.q.getD 0 [] = [] → x.secBusy 0 = false → (∀ i : Fin 4, i ≠ 0 → (x.setSec 0 2 4).secState i.val ≠ 1) →
      exec (.sectionDrainComplete t) s = .next (s.withTau (x.setSec 0 2 4))) ∧
    (x.secState sec.val < 2 → x.mnt.kicks.getD sec.val 0 + x.rd Reg.MNT_GUARD_TMO ≤ x.per → x.mnt.trial = none →
      exec (.guardExpiry t sec) s = .next (s.withTau ((x.bump Reg.MNT_GUARD_CNT 0 sec).failSection sec.val 1))) ∧
    (x.per < x.mnt.kicks.getD sec.val 0 + x.rd Reg.MNT_GUARD_TMO → exec (.guardExpiry t sec) s = .next (s.withTau x)) ∧
    (x.mnt.trial = none → exec (.islandGuardExpiry t) s = .next (s.withTau restarting)) ∧
    (exec (.islandCoreRestartDone t) s = .next (s.withTau restarted)) ∧
    (x.mnt.trial = none → exec (.fwTrialTimeout t) s = .next (s.withTau x)) ∧
    (x.mnt.trial = some p → x.mnt.switch = none → p + x.rd Reg.MNT_FW_TRIAL ≤ x.per →
      let z : Tau := { x with mnt := { x.mnt with switch := some (x.per + 1) } }
      exec (.fwTrialTimeout t) s = .next (s.withTau z))

/-- Built-in self-test (R416 to R418): a run without its token or in a section in service is refused and counted; a memory run
begins over the 96 instances with its results cleared; a slice over its duty does nothing, one of an instance counts the failing bits
that no spare covers and logs them up to 64, and the last one ends the run, passed or failed; an abort takes the next slice's end; a repair
covers the logged failures by spares and runs memory BIST again on their instances, or, where the spares do not suffice, says so. Which
spare takes a bit is the model's choice (log entry 30). -/
def Obligations.SelfTestsRun : Prop :=
  ∀ (s : State) (t : T64) (port : Port) (sec : Fin 4) (v : BitVec 32) (bad : List (Fin 16384 × Fin 72)) (last : Bool)
    (rest : List (Bool × Nat)) (rows cols : List (Nat × Nat)) (n : Nat), s.tau.on = true →
    let x := s.tauAt t
    let b := x.bist sec.val
    let recent := b.recent.filter fun p => decide (x.per < p + 16)
    let sliced : Tau := (x.bump Reg.BIST_PROGRESS 0 sec).setBist sec.val fun b => { b with recent := x.per :: recent }
    let begun (y : Tau) : Tau := (((y.wr Reg.BIST_STATE 1 0 sec).wr Reg.BIST_PROGRESS 0 0 sec).wr Reg.BIST_FAIL_CNT 0 0 sec).wr Reg.BIST_LBIST_PAT 0 0 sec
    let fails := ((bad.map fun f => (f.1.val, f.2.val)).filter fun (f : Nat × Nat) =>
      !(b.rows.contains (n, f.1)) && !(b.cols.contains (n, f.2))).map fun (f : Nat × Nat) => (n, f.1, f.2)
    let counted := (sliced.setBist sec.val fun b => { b with left := rest, log := (b.log ++ fails).take 64 }).bumpBy
      Reg.BIST_FAIL_CNT fails.length 0 sec
    let insts := (List.range 96).filter fun i => b.log.any (·.1 == i)
    let repaired (left : List (Bool × Nat)) : Tau := ((x.setBist sec.val fun b => { b with
      rows := rows
      cols := cols
      left := left
      log := []
      abort := false
      mode := 0 }).wr Reg.BIST_REPAIR_STAT_ROWS (clipU 8 rows.length) 0 sec).wr Reg.BIST_REPAIR_STAT_COLS (clipU 8 cols.length) 0 sec
    (x.rd Reg.GEN_BOOT_STATE = 3 →
      (v.toNat.testBit 0 = true → v.toNat.testBit 3 = false → x.tokHeld 0 sec.val = false →
        exec (.bistStart t port sec v) s = .next (s.withTau ((x.bump Reg.MNT_TOK_REF_CNT).bump Reg.BIST_REF_CNT 0 sec))) ∧
      (v.toNat.testBit 0 = true → v.toNat.testBit 3 = false → x.tokHeld 0 sec.val = true → x.secState sec.val < 2 →
        exec (.bistStart t port sec v) s = .next (s.withTau (x.bump Reg.BIST_REF_CNT 0 sec))) ∧
      (v.toNat.testBit 0 = true → v.toNat.testBit 3 = false → x.tokHeld 0 sec.val = true → 2 ≤ x.secState sec.val → x.lc ≠ 0 →
        bits v.toNat 1 2 = 0 → x.rd Reg.BIST_STATE 0 sec ≠ 1 → exec (.bistStart t port sec v) s =
        .next (s.withTau (begun (x.setBist sec.val fun b => { b with
          mode := 0
          left := (List.range 96).map fun i => (false, i)
          abort := false
          log := [] })))) ∧
      (v.toNat.testBit 0 = false → v.toNat.testBit 3 = true → x.rd Reg.BIST_STATE 0 sec = 1 →
        exec (.bistAbort t port sec v) s = .next (s.withTau (x.setBist sec.val fun b => { b with abort := true }))) ∧
      (v.toNat.testBit 0 = false → x.rd Reg.BIST_STATE 0 sec ≠ 1 → exec (.bistAbort t port sec v) s = .next (s.withTau x)) ∧
      (v.toNat.testBit 0 = true → x.tokHeld 0 sec.val = true → x.secState sec.val < 2 →
        exec (.bistRepair t port sec v) s = .next (s.withTau (x.bump Reg.BIST_REF_CNT 0 sec))) ∧
      (v.toNat.testBit 0 = true → x.tokHeld 0 sec.val = true → 2 ≤ x.secState sec.val → x.lc ≠ 0 → x.rd Reg.BIST_STATE 0 sec = 3 →
        (b.log.foldl coverBit (b.rows, b.cols, true) = (rows, cols, true) → insts ≠ [] → exec (.bistRepair t port sec v) s =
          .next (s.withTau ((((repaired (insts.map fun i => (false, i))).wr Reg.BIST_STATE 1 0 sec).wr Reg.BIST_FAIL_CNT 0 0 sec).wr
            Reg.BIST_PROGRESS 0 0 sec))) ∧
        (b.log.foldl coverBit (b.rows, b.cols, true) = (rows, cols, false) → exec (.bistRepair t port sec v) s =
          .next (s.withTau ((((repaired (insts.map fun i => (false, i))).setBist sec.val fun b => { b with left := [] }).wr
            Reg.BIST_REPAIR_STAT_UNREP 1 0 sec).bistRecord sec.val 7))) ∧
        (b.log = [] → rows = b.rows → cols = b.cols → exec (.bistRepair t port sec v) s = .next (s.withTau (repaired []))))) ∧
    (x.rd Reg.BIST_STATE 0 sec ≠ 1 → exec (.bistSlice t sec [] none false) s = .next (s.withTau x)) ∧
    (x.rd Reg.BIST_DUTY 0 sec ≤ recent.length → exec (.bistSlice t sec [] none false) s = .next (s.withTau x)) ∧
    (x.rd Reg.BIST_STATE 0 sec = 1 → recent.length < x.rd Reg.BIST_DUTY 0 sec → b.left = (false, n) :: rest →
      (b.abort = false → rest ≠ [] → exec (.bistSlice t sec bad none last) s = .next (s.withTau counted)) ∧
      (b.abort = false → rest = [] → exec (.bistSlice t sec bad none last) s =
        .next (s.withTau (counted.bistEnd sec.val (if 0 < counted.rd Reg.BIST_FAIL_CNT 0 sec then 3 else 2)))) ∧
      (b.abort = true → exec (.bistSlice t sec bad none last) s = .next (s.withTau (counted.bistEnd sec.val 4))))

/-- A section that fails holds a SECTION token owned by FAULT; a SECTION request for that section takes the token over from FAULT,
where no other token stands against it; and a forced release of it completes REFUSED_FIT (R412). -/
def Obligations.FaultTokensHold : Prop :=
  ∀ (s : State) (t : T64) (port : Port) (m : Fin 2) (v : BitVec 32) (sec : Fin 4) (cause id : Nat) (k : Token), s.tau.on = true →
    let x := s.tauAt t
    let fault (k : Token) : Bool := k.owner == 3 && k.cls == 0 && k.target == sec.val
    (x.secState sec.val < 2 → ∃ k ∈ (x.failSection sec.val cause).mnt.tokens, fault k = true) ∧
    (x.rd Reg.GEN_BOOT_STATE = 3 → v.toNat.testBit 31 = true → bits v.toNat 0 3 = 0 → x.rd Reg.MNT_TOK_TARGET = sec.val →
      x.mnt.tokens.find? fault = some k → (∀ j ∈ x.mnt.tokens, fault j = true ∨ tokClash (j.cls, j.target) (0, sec.val) = false) →
      ∃ y : Tau, exec (.tokenRequest t port v) s = .next (s.withTau y) ∧ { k with owner := portOwner port } ∈ y.mnt.tokens ∧
        y.rd Reg.MNT_TOK_STAT_CODE = Code.done ∧ y.rd Reg.MNT_TOK_STAT_ID = k.id % 256) ∧
    (x.rd Reg.GEN_BOOT_STATE = 3 → v.toNat.testBit 31 = true → v.toNat.testBit 30 = true → bits v.toNat 0 8 = id →
      x.mnt.tokens.find? (·.id == id) = some k → k.owner = 3 → ∃ y : Tau, exec (.tokenForceRelease t (.mgmt m) v) s = .next (s.withTau y) ∧
        y.mnt.tokens = x.mnt.tokens ∧ y.rd Reg.MNT_TOK_STAT_CODE = Code.fit ∧ y.rd Reg.MNT_TOK_STAT_ID = id)
end

