-- ==== Sys2Proof/Laws/Bytes.lean ====
section
/-!
SUPPORT. The laws of byte lists and fields: what a little-endian field reads of what was laid out, and the width of a CRC-32C.
-/

namespace Sys2Proof.Machine

set_option Elab.async false

@[simp] theorem leBytes_length (w n : Nat) : (leBytes w n).length = w := by
  induction w generalizing n with
  | zero => rfl
  | succ w ih => simp [leBytes, ih]

theorem leNat_leBytes (w n : Nat) : leNat (leBytes w n) = n % 256 ^ w := by
  induction w generalizing n with
  | zero => simp [leBytes, leNat, Nat.mod_one]
  | succ w ih =>
    have e : n % 256 ^ (w + 1) = n % 256 + 256 * (n / 256 % 256 ^ w) := by
      rw [Nat.pow_succ, Nat.mul_comm (256 ^ w), Nat.mod_mul]
    rw [e, leBytes, leNat, ih]
    simp

/-- A field that begins where a prefix ends reads what was laid out there. -/
theorem fieldAt_mid (a c : List Byte) (w n o : Nat) (h : a.length = o) (hn : n < 256 ^ w) :
    fieldAt (a ++ (leBytes w n ++ c)) o w = n := by
  subst h
  simp only [fieldAt, List.drop_left]
  rw [List.take_append_of_le_length (by simp), List.take_of_length_le (by simp), leNat_leBytes, Nat.mod_eq_of_lt hn]

theorem crcStep_lt {c : Nat} (h : c < 2 ^ 32) : crcStep c < 2 ^ 32 := by
  unfold crcStep
  split
  · exact Nat.xor_lt_two_pow (by omega) (by omega)
  · omega

theorem crcByte_lt {c : Nat} (h : c < 2 ^ 32) (b : Byte) : crcByte c b < 2 ^ 32 := by
  unfold crcByte
  have hb : b.toNat < 2 ^ 32 := Nat.lt_trans b.isLt (by decide)
  exact crcStep_lt (crcStep_lt (crcStep_lt (crcStep_lt (crcStep_lt (crcStep_lt (crcStep_lt (crcStep_lt
    (Nat.xor_lt_two_pow h hb))))))))

theorem crc32c_lt (bs : List Byte) : crc32c bs < 2 ^ 32 := by
  have key : ∀ (l : List Byte) (c : Nat), c < 2 ^ 32 → l.foldl crcByte c < 2 ^ 32 := by
    intro l
    induction l with
    | nil => intro c h; exact h
    | cons b r ih => intro c h; exact ih _ (crcByte_lt h b)
  exact Nat.xor_lt_two_pow (key bs _ (by decide)) (by decide)

theorem padLen_eq (n : Nat) (bs : List Byte) : ∃ z, padLen n bs = bs ++ z := ⟨_, rfl⟩

@[simp] theorem padLen_length (n : Nat) (bs : List Byte) : (padLen n bs).length = max n bs.length := by
  simp [padLen, zeros]
  omega

end Sys2Proof.Machine
end

