-- ==== Sys2Proof/Laws/Store.lean ====
section
/-!
SUPPORT. The laws of the sparse stores: a read after a write, and the canonical form that every operation keeps.
-/

namespace Sys2Proof.Machine

set_option Elab.async false

@[simp] theorem Store.find_erase_self (k : Nat) (s : List (Nat × Nat)) : Store.find k (Store.erase k s) = none := by
  induction s with
  | nil => rfl
  | cons e r ih =>
    obtain ⟨a, v⟩ := e
    by_cases h : a = k
    · simp [Store.erase, h, ih]
    · simp [Store.erase, Store.find, h, ih]

theorem Store.find_erase_of_ne {j k : Nat} (h : j ≠ k) (s : List (Nat × Nat)) :
    Store.find j (Store.erase k s) = Store.find j s := by
  induction s with
  | nil => rfl
  | cons e r ih =>
    obtain ⟨a, v⟩ := e
    by_cases hk : a = k
    · subst hk; simp [Store.erase, Store.find, ih, Ne.symm h]
    · simp only [Store.erase, hk, if_false, Store.find, ih]

theorem Store.find_place_self {k : Nat} (v : Nat) {s : List (Nat × Nat)} (h : Store.find k s = none) :
    Store.find k (Store.place k v s) = some v := by
  induction s with
  | nil => simp [Store.place, Store.find]
  | cons e r ih =>
    obtain ⟨a, w⟩ := e
    by_cases ha : a = k
    · simp [Store.find, ha] at h
    · have hr : Store.find k r = none := by simpa [Store.find, ha] using h
      by_cases hk : k < a <;> simp [Store.place, Store.find, hk, ha, ih hr]

theorem Store.find_place_of_ne {j k : Nat} (h : j ≠ k) (v : Nat) (s : List (Nat × Nat)) :
    Store.find j (Store.place k v s) = Store.find j s := by
  induction s with
  | nil => simp [Store.place, Store.find, Ne.symm h]
  | cons e r ih =>
    obtain ⟨a, w⟩ := e
    by_cases hk : k < a
    · simp [Store.place, Store.find, hk, Ne.symm h]
    · simp only [Store.place, hk, if_false, Store.find, ih]

/-- A read after a write to the same key. -/
@[simp] theorem Store.find_put_self (k v d : Nat) (s : List (Nat × Nat)) :
    (Store.find k (Store.put k v d s)).getD d = v := by
  by_cases h : v = d
  · simp [Store.put, h]
  · simp [Store.put, h, Store.insert, Store.find_place_self]

/-- A write leaves every other key alone. -/
theorem Store.find_put_of_ne {j k : Nat} (h : j ≠ k) (v d : Nat) (s : List (Nat × Nat)) :
    Store.find j (Store.put k v d s) = Store.find j s := by
  by_cases hv : v = d
  · simp [Store.put, hv, Store.find_erase_of_ne h]
  · simp [Store.put, hv, Store.insert, Store.find_place_of_ne h, Store.find_erase_of_ne h]

/-! ## The canonical form -/

/-- Every key of the store is above `b`. -/
def Store.above (b : Nat) (s : List (Nat × Nat)) : Prop := ∀ e ∈ s, b < e.1

theorem Store.sorted_cons (e : Nat × Nat) (r : List (Nat × Nat)) :
    Store.sorted (e :: r) = true ↔ Store.above e.1 r ∧ Store.sorted r = true := by
  obtain ⟨a, v⟩ := e
  induction r generalizing a v with
  | nil => simp [Store.sorted, Store.above]
  | cons f r ih =>
    obtain ⟨b, w⟩ := f
    have := ih b w
    simp only [Store.sorted, Bool.and_eq_true, decide_eq_true_eq, this, Store.above, List.mem_cons, forall_eq_or_imp]
    constructor
    · rintro ⟨h, hr, hs⟩
      exact ⟨⟨h, fun e he => Nat.lt_trans h (hr e he)⟩, hr, hs⟩
    · rintro ⟨⟨h, -⟩, hr, hs⟩
      exact ⟨h, hr, hs⟩

theorem Store.above_erase {b k : Nat} {s : List (Nat × Nat)} (h : Store.above b s) : Store.above b (Store.erase k s) := by
  induction s with
  | nil => exact h
  | cons e r ih =>
    obtain ⟨a, v⟩ := e
    have hr : Store.above b r := fun e he => h e (List.mem_cons_of_mem _ he)
    have ha : b < a := h (a, v) (List.mem_cons_self ..)
    by_cases hk : a = k
    · simpa [Store.erase, hk] using ih hr
    · simp only [Store.erase, hk, if_false]
      intro e he
      rcases List.mem_cons.mp he with rfl | he
      · exact ha
      · exact ih hr e he

theorem Store.above_place {b k v : Nat} {s : List (Nat × Nat)} (hb : b < k) (h : Store.above b s) :
    Store.above b (Store.place k v s) := by
  induction s with
  | nil => intro e he; simp [Store.place] at he; simp [he, hb]
  | cons e r ih =>
    obtain ⟨a, w⟩ := e
    have hr : Store.above b r := fun e he => h e (List.mem_cons_of_mem _ he)
    have ha : b < a := h (a, w) (List.mem_cons_self ..)
    by_cases hk : k < a
    · simp only [Store.place, hk, if_true]
      intro e he
      rcases List.mem_cons.mp he with rfl | he
      · exact hb
      · exact h e he
    · simp only [Store.place, hk, if_false]
      intro e he
      rcases List.mem_cons.mp he with rfl | he
      · exact ha
      · exact ih hr e he

theorem Store.sorted_erase {k : Nat} {s : List (Nat × Nat)} (h : Store.sorted s = true) : Store.sorted (Store.erase k s) = true := by
  induction s with
  | nil => exact h
  | cons e r ih =>
    obtain ⟨a, v⟩ := e
    obtain ⟨ha, hr⟩ := (Store.sorted_cons _ _).mp h
    by_cases hk : a = k
    · simpa [Store.erase, hk] using ih hr
    · simp only [Store.erase, hk, if_false]
      exact (Store.sorted_cons _ _).mpr ⟨Store.above_erase ha, ih hr⟩

theorem Store.sorted_place {k v : Nat} {s : List (Nat × Nat)} (h : Store.sorted s = true) (hf : Store.find k s = none) :
    Store.sorted (Store.place k v s) = true := by
  induction s with
  | nil => rfl
  | cons e r ih =>
    obtain ⟨a, w⟩ := e
    obtain ⟨ha, hr⟩ := (Store.sorted_cons _ _).mp h
    have hak : a ≠ k := by rintro rfl; simp [Store.find] at hf
    have hfr : Store.find k r = none := by simpa [Store.find, hak] using hf
    by_cases hk : k < a
    · simp only [Store.place, hk, if_true]
      refine (Store.sorted_cons _ _).mpr ⟨?_, h⟩
      intro e he
      rcases List.mem_cons.mp he with rfl | he
      · exact hk
      · exact Nat.lt_trans hk (ha e he)
    · simp only [Store.place, hk, if_false]
      exact (Store.sorted_cons _ _).mpr ⟨Store.above_place (by show a < k; omega) ha, ih hr hfr⟩

/-- A write keeps the keys in strictly rising order. -/
theorem Store.sorted_put {k v d : Nat} {s : List (Nat × Nat)} (h : Store.sorted s = true) :
    Store.sorted (Store.put k v d s) = true := by
  unfold Store.put
  split
  · exact Store.sorted_erase h
  · exact Store.sorted_place (Store.sorted_erase h) (Store.find_erase_self k s)

end Sys2Proof.Machine
end

