-- ==== Sys2Proof/Laws/Regs.lean ====
section
/-!
SUPPORT. The laws of the register files: a read after a write, other fields unchanged, and the canonical form.
-/

namespace Sys2Proof.Machine

set_option Elab.async false

/-- Fields of different tags never share a key. -/
theorem Fld.key_ne_of_tag {f g : Fld} (h : f.tag ≠ g.tag) (i s j u : Nat) : f.key i s ≠ g.key j u := by
  unfold Fld.tag at h
  unfold Fld.key
  have h1 : (if f.wide then 0 else s % 4) < 4 := by split <;> omega
  have h2 : (if g.wide then 0 else u % 4) < 4 := by split <;> omega
  omega

/-- Different instances of a field never share a key. -/
theorem Fld.key_ne_of_index {i j : Nat} (h : i % 1024 ≠ j % 1024) (f g : Fld) (s u : Nat) : f.key i s ≠ g.key j u := by
  unfold Fld.key
  omega

/-- A field reads the value written to it, cut to its width. -/
@[simp] theorem RegFile.get_put (r : RegFile) (f : Fld) (i s v : Nat) : (r.put f i s v).get f i s = v % 2 ^ f.width := by
  simp [RegFile.get, RegFile.put]

/-- Writing one field leaves the fields of other tags alone. -/
theorem RegFile.get_put_of_tag {f g : Fld} (h : g.tag ≠ f.tag) (r : RegFile) (i s v j u : Nat) :
    (r.put f i s v).get g j u = r.get g j u := by
  simp only [RegFile.get, RegFile.put]
  rw [Store.find_put_of_ne (Fld.key_ne_of_tag h j u i s)]

/-- Writing one instance leaves the others alone. -/
theorem RegFile.get_put_of_index {i j : Nat} (h : j % 1024 ≠ i % 1024) (r : RegFile) (f g : Fld) (s u v : Nat) :
    (r.put f i s v).get g j u = r.get g j u := by
  simp only [RegFile.get, RegFile.put]
  rw [Store.find_put_of_ne (Fld.key_ne_of_index h g f u s)]

/-- A shadow reads the value written to it, cut to the field's width. -/
@[simp] theorem RegFile.getShadow_putShadow (r : RegFile) (f : Fld) (i s v : Nat) :
    (r.putShadow f i s v).getShadow f i s = v % 2 ^ f.width := by
  simp [RegFile.getShadow, RegFile.putShadow]

/-- A write of a shadow leaves every committed value alone. -/
@[simp] theorem RegFile.get_putShadow (r : RegFile) (f g : Fld) (i s v j u : Nat) :
    (r.putShadow f i s v).get g j u = r.get g j u := rfl

/-- A write of a committed value leaves every shadow alone. -/
@[simp] theorem RegFile.getShadow_put (r : RegFile) (f g : Fld) (i s v j u : Nat) :
    (r.put f i s v).getShadow g j u = r.getShadow g j u := rfl

/-- Writing one shadow leaves those of other tags alone. -/
theorem RegFile.getShadow_putShadow_of_tag {f g : Fld} (h : g.tag ≠ f.tag) (r : RegFile) (i s v j u : Nat) :
    (r.putShadow f i s v).getShadow g j u = r.getShadow g j u := by
  simp only [RegFile.getShadow, RegFile.putShadow]
  rw [Store.find_put_of_ne (Fld.key_ne_of_tag h j u i s)]

/-! ## Through the blocks -/

@[simp] theorem Tau.rd_wr (x : Tau) (f : Fld) (v i s : Nat) : (x.wr f v i s).rd f i s = v % 2 ^ f.width :=
  RegFile.get_put x.regs f i s v

theorem Tau.rd_wr_of_tag {f g : Fld} (h : g.tag ≠ f.tag) (x : Tau) (v i s j u : Nat) :
    (x.wr f v i s).rd g j u = x.rd g j u :=
  RegFile.get_put_of_tag h x.regs i s v j u

@[simp] theorem Tdu.rd_wr (d : Tdu) (f : Fld) (v i : Nat) : (d.wr f v i).rd f i = v % 2 ^ f.width :=
  RegFile.get_put d.regs f i 0 v

theorem Tdu.rd_wr_of_tag {f g : Fld} (h : g.tag ≠ f.tag) (d : Tdu) (v i j : Nat) : (d.wr f v i).rd g j = d.rd g j :=
  RegFile.get_put_of_tag h d.regs i 0 v j 0

/-! ## The canonical form -/

/-- The register file lists its committed values, its shadows and its latches with strictly rising keys. -/
def RegFile.wf (r : RegFile) : Bool := Store.sorted r.cur && Store.sorted r.shd && Store.sorted r.latch

theorem RegFile.wf_reset : RegFile.reset.wf = true := rfl

theorem RegFile.wf_put {r : RegFile} (h : r.wf = true) (f : Fld) (i s v : Nat) : (r.put f i s v).wf = true := by
  simp only [RegFile.wf, Bool.and_eq_true] at h ⊢
  exact ⟨⟨Store.sorted_put h.1.1, h.1.2⟩, h.2⟩

theorem RegFile.wf_putShadow {r : RegFile} (h : r.wf = true) (f : Fld) (i s v : Nat) : (r.putShadow f i s v).wf = true := by
  simp only [RegFile.wf, Bool.and_eq_true] at h ⊢
  exact ⟨⟨h.1.1, Store.sorted_put h.1.2⟩, h.2⟩

theorem RegFile.wf_setLatch {r : RegFile} (h : r.wf = true) (p : Port) (a v : Nat) : (r.setLatch p a v).wf = true := by
  simp only [RegFile.wf, Bool.and_eq_true] at h ⊢
  exact ⟨h.1, Store.sorted_put (k := latchKey p a) (v := v + 1) (d := 0) h.2⟩

theorem RegFile.wf_writeField {r : RegFile} (h : r.wf = true) (v s : Nat) (safe : Bool) (fi : Fld × Nat) :
    (r.writeField v s safe fi).wf = true := by
  unfold RegFile.writeField
  dsimp only
  split
  · split
    · exact RegFile.wf_putShadow h ..
    · exact RegFile.wf_put h ..
  all_goals first | exact h | exact RegFile.wf_put h .. | exact RegFile.wf_putShadow h ..

theorem RegFile.wf_foldl {β : Type} {f : RegFile → β → RegFile} (hf : ∀ r b, r.wf = true → (f r b).wf = true) (l : List β) :
    ∀ r : RegFile, r.wf = true → (l.foldl f r).wf = true := by
  induction l with
  | nil => intro r h; exact h
  | cons b t ih => intro r h; exact ih _ (hf r b h)

theorem RegFile.wf_markParity {r : RegFile} (h : r.wf = true) (p s o : Nat) (j : Bool) : (r.markParity p s o j).wf = true := h

/-- A register write keeps the canonical form. -/
theorem RegFile.wf_writeWord {r : RegFile} (h : r.wf = true) (p s o v : Nat) (keep : Fld → Bool) :
    (r.writeWord p s o v keep).wf = true := by
  unfold RegFile.writeWord
  have key : ∀ (b : Bool) (l : List (Fld × Nat)), (l.foldl (fun r fi => r.writeField v s b fi) r).wf = true :=
    fun b l => RegFile.wf_foldl (fun r fi hr => RegFile.wf_writeField hr v s b fi) l r h
  dsimp only
  split
  · split
    · exact RegFile.wf_put (RegFile.wf_markParity (key ..) ..) ..
    · exact RegFile.wf_markParity (key ..) ..
  · exact key ..

/-- A commit keeps the canonical form. -/
theorem RegFile.wf_commit {r : RegFile} (h : r.wf = true) (l : List (Fld × Nat)) (s : Nat) : (r.commit l s).wf = true :=
  RegFile.wf_foldl (fun r fi hr => RegFile.wf_put hr fi.1 fi.2 s (r.getShadow fi.1 fi.2 s)) l r h

theorem RegFile.wf_both {r : RegFile} (h : r.wf = true) (f : Fld) (i s v : Nat) : (r.both f i s v).wf = true :=
  RegFile.wf_putShadow (RegFile.wf_put h ..) ..

theorem RegFile.wf_noteParity {r : RegFile} (h : r.wf = true) (p s : Nat) (ws : List Nat) : (r.noteParity p s ws).wf = true := by
  unfold RegFile.noteParity
  dsimp only
  split
  · exact RegFile.wf_put h ..
  · exact RegFile.wf_put (RegFile.wf_put h ..) ..

theorem RegFile.wf_enterSafe {r : RegFile} (h : r.wf = true) (p s : Nat) (keep : Fld → Bool) : (r.enterSafe p s keep).wf = true := by
  unfold RegFile.enterSafe
  refine RegFile.wf_put (RegFile.wf_foldl (fun r f hr => RegFile.wf_foldl (fun r i hr => ?_) _ r hr) _ r h) ..
  dsimp only
  split
  · exact RegFile.wf_putShadow (RegFile.wf_put hr ..) ..
  · exact RegFile.wf_put hr ..

theorem RegFile.wf_leaveSafe {r : RegFile} (h : r.wf = true) (p s : Nat) (keep : Fld → Bool) : (r.leaveSafe p s keep).wf = true := by
  unfold RegFile.leaveSafe
  refine RegFile.wf_put (RegFile.wf_foldl (fun r f hr => RegFile.wf_foldl (fun r i hr => ?_) _ r hr) _ r h) ..
  exact RegFile.wf_putShadow (RegFile.wf_put hr ..) ..

end Sys2Proof.Machine
end

