-- ==== Sys2Proof/Laws/Commands.lean ====
section
/-!
SUPPORT. What a write of a command register comes to: the register holds nothing, so the write changes nothing but by its command.
-/

namespace Sys2Proof.Machine

set_option Elab.async false

/-- Every field of the word is write-only. -/
def plainCommand (p o : Nat) : Bool := !(wordFields p o).isEmpty && (wordFields p o).all fun fi => fi.1.acc == .wo

theorem RegFile.writeField_wo {fi : Fld × Nat} (h : fi.1.acc = .wo) (v s : Nat) (safe : Bool) (r : RegFile) :
    r.writeField v s safe fi = r := by
  simp [RegFile.writeField, h]

theorem RegFile.writeWord_plain {p o : Nat} (h : plainCommand p o = true) (s v : Nat) (keep : Fld → Bool) (r : RegFile) :
    r.writeWord p s o v keep = r := by
  simp only [plainCommand, Bool.and_eq_true, List.all_eq_true, beq_iff_eq] at h
  have hwo : ∀ fi ∈ (wordFields p o).filter fun fi => !keep fi.1, fi.1.acc = .wo :=
    fun fi hf => h.2 fi (List.mem_filter.mp hf).1
  have hcfg : ((wordFields p o).filter fun fi => !keep fi.1).any (fun fi => fi.1.cfg) = false := by
    rw [List.any_eq_false]
    intro fi hf
    simp [Fld.cfg, hwo fi hf]
  have hfold : ∀ (b : Bool) (l : List (Fld × Nat)) (r : RegFile), (∀ fi ∈ l, fi.1.acc = .wo) →
      l.foldl (fun r fi => r.writeField v s b fi) r = r := by
    intro b l
    induction l with
    | nil => intro r _; rfl
    | cons a t ih =>
      intro r hl
      rw [List.foldl_cons, RegFile.writeField_wo (hl a (List.mem_cons_self ..))]
      exact ih r fun fi hf => hl fi (List.mem_cons_of_mem _ hf)
  unfold RegFile.writeWord
  simp only [hcfg, hfold _ _ r hwo]
  simp

theorem plainCommand_writable {p o : Nat} (h : plainCommand p o = true) : wordWritable p o = true := by
  simp only [plainCommand, Bool.and_eq_true, List.all_eq_true, beq_iff_eq, Bool.not_eq_true', List.isEmpty_eq_false_iff] at h
  obtain ⟨hne, hall⟩ := h
  obtain ⟨fi, t, e⟩ := List.exists_cons_of_ne_nil hne
  have : fi ∈ wordFields p o := by simp [e]
  exact List.any_eq_true.mpr ⟨fi, this, by simp [hall fi this]⟩

theorem plainCommand_not_lockable {p o : Nat} (h : plainCommand p o = true) :
    ((wordFields p o).any fun fi => lockable fi.1) = false := by
  simp only [plainCommand, Bool.and_eq_true, List.all_eq_true, beq_iff_eq] at h
  rw [List.any_eq_false]
  intro fi hf
  simp [lockable, Fld.cfg, h.2 fi hf]

theorem plainCommand_not_rws {p o : Nat} (h : plainCommand p o = true) :
    ((wordFields p o).any fun fi => fi.1.acc == .rws) = false := by
  simp only [plainCommand, Bool.and_eq_true, List.all_eq_true, beq_iff_eq] at h
  rw [List.any_eq_false]
  intro fi hf
  simp [h.2 fi hf]

/-- A write of a command register through any port that reaches it: the command, and nothing else. -/
theorem Tau.regWrite_plain {x : Tau} {a p s o : Nat} {sh : Bool} (hon : x.on = true)
    (ha : tauAddr a = some (p, s, o, sh)) (h4 : a % 4 = 0) (hw : plainCommand p o = true)
    (hb : sectionPage p = false ∨ x.rd Reg.GEN_BOOT_STATE = 3) (hk : isHere p s o Reg.SRV_RET_KEY = false)
    (port : Port) (v : Nat) (m : Reads) :
    (x.regWrite port a 4 v m).1 = x.command port p s o v (x.rd (Reg.PG_LOCK p) 0 s == 1) m := by
  have hi : x.islPg = true := by simp [Tau.on] at hon; exact hon.1
  have hm : x.main = true := by simp [Tau.on] at hon; exact hon.2
  have hb' : (sectionPage p && x.rd Reg.GEN_BOOT_STATE != 3) = false := by
    rcases hb with h | h <;> simp [h]
  have e1 : (!x.islPg || (port == .host && !x.main)) = false := by simp [hi, hm]
  have e2 : (!x.main && !islandPage p) = false := by simp [hm]
  unfold Tau.regWrite
  simp only [e1, e2, h4, ha, hb', hk, plainCommand_writable hw, plainCommand_not_lockable hw, plainCommand_not_rws hw,
    RegFile.writeWord_plain hw, Bool.not_true, Bool.and_false, Bool.false_or, Bool.false_eq_true, if_false, ne_eq,
    not_true_eq_false, or_self]

/-! ## The command registers of the TAU -/

theorem Tau.write_attachGo {x : Tau} (h : x.on = true) (port : Port) (v : Nat) (m : Reads) :
    x.writeField Reg.GEN_ATTACH_GO 0 0 port v m = x.attachGo v := by
  unfold Tau.writeField
  rw [Tau.regWrite_plain h (p := 16) (s := 0) (o := 164) (sh := false) (by decide +kernel) (by decide +kernel)
    (by decide +kernel) (.inl rfl) (by decide +kernel)]
  simp +decide [Tau.command, Tau.genCommand]

theorem Tau.write_promoteGo {x : Tau} (h : x.on = true) (port : Port) (v : Nat) (m : Reads) :
    x.writeField Reg.GEN_PROMOTE_GO 0 0 port v m = x.promoteGo port v := by
  unfold Tau.writeField
  rw [Tau.regWrite_plain h (p := 16) (s := 0) (o := 176) (sh := false) (by decide +kernel) (by decide +kernel)
    (by decide +kernel) (.inl rfl) (by decide +kernel)]
  rfl

theorem Tau.write_bootGo {x : Tau} (h : x.on = true) (port : Port) (v : Nat) (m : Reads) :
    x.writeField Reg.GEN_BOOT_GO 0 0 port v m = x.bootGo v := by
  unfold Tau.writeField
  rw [Tau.regWrite_plain h (p := 16) (s := 0) (o := 84) (sh := false) (by decide +kernel) (by decide +kernel)
    (by decide +kernel) (.inl rfl) (by decide +kernel)]
  rfl

theorem Tau.write_ucodeLoad {x : Tau} (h : x.on = true) (port : Port) (v : Nat) (m : Reads) :
    x.writeField Reg.GEN_UCODE_LOAD_GO 0 0 port v m = x.ucodeLoad v m.a := by
  unfold Tau.writeField
  rw [Tau.regWrite_plain h (p := 16) (s := 0) (o := 192) (sh := false) (by decide +kernel) (by decide +kernel)
    (by decide +kernel) (.inl rfl) (by decide +kernel)]
  rfl

theorem Tau.write_imgLoad {x : Tau} (h : x.on = true) (port : Port) (v : Nat) (m : Reads) :
    x.writeField Reg.GEN_IMG_LOAD_GO 0 0 port v m = x.imgLoad v m.a := by
  unfold Tau.writeField
  rw [Tau.regWrite_plain h (p := 16) (s := 0) (o := 144) (sh := false) (by decide +kernel) (by decide +kernel)
    (by decide +kernel) (.inl rfl) (by decide +kernel)]
  rfl

theorem Tau.write_tduAccess {x : Tau} (h : x.on = true) (port : Port) (v : Nat) (m : Reads) :
    x.writeField Reg.GEN_TDU_ACC_GO 0 0 port v m = x.tduAccess v := by
  unfold Tau.writeField
  rw [Tau.regWrite_plain h (p := 16) (s := 0) (o := 208) (sh := false) (by decide +kernel) (by decide +kernel)
    (by decide +kernel) (.inl rfl) (by decide +kernel)]
  rfl

theorem Tau.write_updateStrobe {x : Tau} (h : x.on = true) (port : Port) (v : Nat) (m : Reads) :
    x.writeField Reg.GEN_UPD_STROBE_MASK 0 0 port v m = x.strobe (bits v 0 16) (v.testBit 16) := by
  unfold Tau.writeField
  rw [Tau.regWrite_plain h (p := 16) (s := 0) (o := 96) (sh := false) (by decide +kernel) (by decide +kernel)
    (by decide +kernel) (.inl rfl) (by decide +kernel)]
  rfl

theorem Tau.write_todSet {x : Tau} (h : x.on = true) (port : Port) (v : Nat) (m : Reads) :
    x.writeField Reg.TIME_TOD_SET_LO 0 0 port v m = x.todSet v := by
  unfold Tau.writeField
  rw [Tau.regWrite_plain h (p := 1) (s := 0) (o := 100) (sh := false) (by decide +kernel) (by decide +kernel)
    (by decide +kernel) (.inl rfl) (by decide +kernel)]
  rfl

theorem Tau.write_jumpAccept {x : Tau} (h : x.on = true) (port : Port) (v : Nat) (m : Reads) :
    x.writeField Reg.TIME_JUMP_ACCEPT_GO 0 0 port v m = x.jumpAccept (bits v 0 5) (v.testBit 31) := by
  unfold Tau.writeField
  rw [Tau.regWrite_plain h (p := 1) (s := 0) (o := 120) (sh := false) (by decide +kernel) (by decide +kernel)
    (by decide +kernel) (.inl rfl) (by decide +kernel)]
  rfl

theorem Tau.write_excAck {x : Tau} (h : x.on = true) (hb : x.rd Reg.GEN_BOOT_STATE = 3) (sec : Fin 4) (port : Port) (v : Nat) (m : Reads) :
    x.writeField Reg.SCB_EXC_ACK_ID 0 sec port v m = x.excAck sec v := by
  unfold Tau.writeField
  rw [Tau.regWrite_plain h (p := 3) (s := sec) (o := 184) (sh := false) (by revert sec; decide +kernel)
    (by revert sec; decide +kernel) (by decide +kernel) (.inr hb) (by revert sec; decide +kernel)]
  match sec with
  | 0 | 1 | 2 | 3 => rfl

theorem Tau.write_surveyIssue {x : Tau} (h : x.on = true) (hb : x.rd Reg.GEN_BOOT_STATE = 3) (port : Port) (v : Nat) (m : Reads) :
    x.writeField Reg.SRV_ISSUE_GO 0 0 port v m = if v.testBit 0 then x.surveyIssue else x := by
  unfold Tau.writeField
  rw [Tau.regWrite_plain h (p := 5) (s := 0) (o := 128) (sh := false) (by decide +kernel) (by decide +kernel)
    (by decide +kernel) (.inr hb) (by decide +kernel)]
  rfl

theorem Tau.write_surveyCancel {x : Tau} (h : x.on = true) (hb : x.rd Reg.GEN_BOOT_STATE = 3) (port : Port) (v : Nat) (m : Reads) :
    x.writeField Reg.SRV_CANCEL_SLOT 0 0 port v m = if v.testBit 31 then x.cancelSurvey (bits v 0 6) else x := by
  unfold Tau.writeField
  rw [Tau.regWrite_plain h (p := 5) (s := 0) (o := 160) (sh := false) (by decide +kernel) (by decide +kernel)
    (by decide +kernel) (.inr hb) (by decide +kernel)]
  rfl

theorem Tau.write_driftCapture {x : Tau} (h : x.on = true) (hb : x.rd Reg.GEN_BOOT_STATE = 3) (k : Fin 16) (port : Port) (v : Nat) (m : Reads) :
    x.writeField Reg.SRV_DR_CAP_GO k 0 port v m = if v.testBit 0 then x.driftCapture k else x := by
  unfold Tau.writeField
  rw [Tau.regWrite_plain h (p := 5) (s := 0) (o := 1820 + Reg.SRV_DR_CAP_GO.stride * k) (sh := false) (by revert k; decide +kernel)
    (by revert k; decide +kernel) (by revert k; decide +kernel) (.inr hb) (by revert k; decide +kernel)]
  have n0 : isHere 5 0 (1820 + Reg.SRV_DR_CAP_GO.stride * k) Reg.SCB_EXC_ACK_ID = false := by revert k; decide +kernel
  have n1 : isHere 5 0 (1820 + Reg.SRV_DR_CAP_GO.stride * k) Reg.SRV_ISSUE_GO = false := by revert k; decide +kernel
  have n2 : isHere 5 0 (1820 + Reg.SRV_DR_CAP_GO.stride * k) Reg.SRV_CANCEL_SLOT = false := by revert k; decide +kernel
  have n3 : isHere 5 0 (1820 + Reg.SRV_DR_CAP_GO.stride * k) Reg.SRV_RET_SEL_JOB = false := by revert k; decide +kernel
  have n4 : isHere 5 0 (1820 + Reg.SRV_DR_CAP_GO.stride * k) Reg.TREE_FENCE_ACK_ID = false := by revert k; decide +kernel
  have n5 : isHere 5 0 (1820 + Reg.SRV_DR_CAP_GO.stride * k) Reg.TREE_HV_CMD_GO = false := by revert k; decide +kernel
  have e : fieldHere 5 0 (1820 + Reg.SRV_DR_CAP_GO.stride * k) Reg.SRV_DR_CAP_GO = some k.val := by revert k; decide +kernel
  have c : (1820 + Reg.SRV_DR_CAP_GO.stride * k) ≠ 0xC := by revert k; decide +kernel
  simp only [Tau.command, Tau.planeCommand, n0, n1, n2, n3, n4, n5, e, c, false_and, if_false, Bool.false_eq_true]

theorem Tau.write_hostVectorSubmit {x : Tau} (h : x.on = true) (hb : x.rd Reg.GEN_BOOT_STATE = 3) (sec : Fin 4) (port : Port) (v : Nat) (m : Reads) :
    x.writeField Reg.TREE_HV_CMD_GO 0 sec port v m = if v.testBit 31 then x.hvSubmit sec v m.a else x := by
  unfold Tau.writeField
  rw [Tau.regWrite_plain h (p := 6) (s := sec) (o := 784) (sh := false) (by revert sec; decide +kernel)
    (by revert sec; decide +kernel) (by decide +kernel) (.inr hb) (by revert sec; decide +kernel)]
  match sec with
  | 0 | 1 | 2 | 3 => rfl

theorem Tau.write_fenceAck {x : Tau} (h : x.on = true) (hb : x.rd Reg.GEN_BOOT_STATE = 3) (port : Port) (v : Nat) (m : Reads) :
    x.writeField Reg.TREE_FENCE_ACK_ID 0 0 port v m = x.fenceAck v := by
  unfold Tau.writeField
  rw [Tau.regWrite_plain h (p := 6) (s := 0) (o := 152) (sh := false) (by decide +kernel) (by decide +kernel)
    (by decide +kernel) (.inr hb) (by decide +kernel)]
  rfl

theorem Tau.write_tapUnitControl {x : Tau} (h : x.on = true) (hb : x.rd Reg.GEN_BOOT_STATE = 3) (k : Fin 8) (port : Port) (v : Nat) (m : Reads) :
    x.writeField Reg.AGR_T_CTRL_GO k 0 port v m = (let y := if v.testBit 0 then x.armTap k else x
      if v.testBit 1 then y.closeTap k 4 else y) := by
  unfold Tau.writeField
  rw [Tau.regWrite_plain h (p := 7) (s := 0) (o := 512 + Reg.AGR_T_CTRL_GO.stride * k) (sh := false) (by revert k; decide +kernel)
    (by revert k; decide +kernel) (by revert k; decide +kernel) (.inr hb) (by revert k; decide +kernel)]
  have n0 : isHere 7 0 (512 + Reg.AGR_T_CTRL_GO.stride * k) Reg.SCB_EXC_ACK_ID = false := by revert k; decide +kernel
  have n1 : isHere 7 0 (512 + Reg.AGR_T_CTRL_GO.stride * k) Reg.SRV_ISSUE_GO = false := by revert k; decide +kernel
  have n2 : isHere 7 0 (512 + Reg.AGR_T_CTRL_GO.stride * k) Reg.SRV_CANCEL_SLOT = false := by revert k; decide +kernel
  have n3 : isHere 7 0 (512 + Reg.AGR_T_CTRL_GO.stride * k) Reg.SRV_RET_SEL_JOB = false := by revert k; decide +kernel
  have n4 : isHere 7 0 (512 + Reg.AGR_T_CTRL_GO.stride * k) Reg.TREE_FENCE_ACK_ID = false := by revert k; decide +kernel
  have n5 : isHere 7 0 (512 + Reg.AGR_T_CTRL_GO.stride * k) Reg.TREE_HV_CMD_GO = false := by revert k; decide +kernel
  have e1 : fieldHere 7 0 (512 + Reg.AGR_T_CTRL_GO.stride * k) Reg.SRV_DR_CAP_GO = none := by revert k; decide +kernel
  have e : fieldHere 7 0 (512 + Reg.AGR_T_CTRL_GO.stride * k) Reg.AGR_T_CTRL_GO = some k.val := by revert k; decide +kernel
  have c : (512 + Reg.AGR_T_CTRL_GO.stride * k) ≠ 0xC := by revert k; decide +kernel
  simp only [Tau.command, Tau.planeCommand, n0, n1, n2, n3, n4, n5, e, c, e1, false_and, if_false, Bool.false_eq_true]

theorem Tau.write_windowDone {x : Tau} (h : x.on = true) (hb : x.rd Reg.GEN_BOOT_STATE = 3) (sec : Fin 4) (port : Port) (v : Nat) (m : Reads) :
    x.writeField Reg.REC_WIN_DONE 0 sec port v m = if v.testBit 0 then x.windowClose sec else x := by
  unfold Tau.writeField
  rw [Tau.regWrite_plain h (p := 9) (s := sec) (o := 164) (sh := false) (by revert sec; decide +kernel)
    (by revert sec; decide +kernel) (by decide +kernel) (.inr hb) (by revert sec; decide +kernel)]
  match sec with
  | 0 | 1 | 2 | 3 => rfl

theorem Tau.write_freezeStart {x : Tau} (h : x.on = true) (hb : x.rd Reg.GEN_BOOT_STATE = 3) (sec : Fin 4) (port : Port) (v : Nat) (m : Reads) :
    x.writeField Reg.REC_FRZ_CMD_GO 0 sec port v m = if v.testBit 0 then x.freezeStart sec (bits v 1 2) (bits v 3 3) else x := by
  unfold Tau.writeField
  rw [Tau.regWrite_plain h (p := 9) (s := sec) (o := 128) (sh := false) (by revert sec; decide +kernel)
    (by revert sec; decide +kernel) (by decide +kernel) (.inr hb) (by revert sec; decide +kernel)]
  match sec with
  | 0 | 1 | 2 | 3 => rfl

theorem Tau.write_islandWindowDone {x : Tau} (h : x.on = true) (port : Port) (v : Nat) (m : Reads) :
    x.writeField Reg.MGMT_I_WIN_DONE 0 0 port v m = if v.testBit 0 then x.windowClose 4 else x := by
  unfold Tau.writeField
  rw [Tau.regWrite_plain h (p := 15) (s := 0) (o := 1060) (sh := false) (by decide +kernel) (by decide +kernel)
    (by decide +kernel) (.inl rfl) (by decide +kernel)]
  rfl

theorem Tau.write_islandFreezeStart {x : Tau} (h : x.on = true) (port : Port) (v : Nat) (m : Reads) :
    x.writeField Reg.MGMT_I_FRZ_CMD_GO 0 0 port v m = if v.testBit 0 then x.freezeStart 4 (bits v 1 2) (bits v 3 3) else x := by
  unfold Tau.writeField
  rw [Tau.regWrite_plain h (p := 15) (s := 0) (o := 1024) (sh := false) (by decide +kernel) (by decide +kernel)
    (by decide +kernel) (.inl rfl) (by decide +kernel)]
  rfl

theorem Tau.write_sidingPost {x : Tau} (h : x.on = true) (hb : x.rd Reg.GEN_BOOT_STATE = 3) (port : Port) (v : Nat) (m : Reads) :
    x.writeField Reg.REC_SD_POST_CH 0 0 port v m = x.sidingPost v m.a := by
  unfold Tau.writeField
  rw [Tau.regWrite_plain h (p := 9) (s := 0) (o := 200) (sh := false) (by decide +kernel) (by decide +kernel)
    (by decide +kernel) (.inr hb) (by decide +kernel)]
  rfl

theorem Tau.write_cmpJobPost {x : Tau} (h : x.on = true) (hb : x.rd Reg.GEN_BOOT_STATE = 3) (sec : Fin 4) (port : Port) (v : Nat) (m : Reads) :
    x.writeField Reg.CMP_JOB_POST_GO 0 sec port v m = if v.testBit 0 then x.cmpPost sec m.a m.b m.c else x := by
  unfold Tau.writeField
  rw [Tau.regWrite_plain h (p := 10) (s := sec) (o := 92) (sh := false) (by revert sec; decide +kernel)
    (by revert sec; decide +kernel) (by decide +kernel) (.inr hb) (by revert sec; decide +kernel)]
  match sec with
  | 0 | 1 | 2 | 3 => rfl

theorem Tau.write_cmpBufferPost {x : Tau} (h : x.on = true) (hb : x.rd Reg.GEN_BOOT_STATE = 3) (sec : Fin 4) (port : Port) (v : Nat) (m : Reads) :
    x.writeField Reg.CMP_BUF_POST_CTX 0 sec port v m = if v.testBit 31 then x.cmpBuffer sec v m.a else x := by
  unfold Tau.writeField
  rw [Tau.regWrite_plain h (p := 10) (s := sec) (o := 108) (sh := false) (by revert sec; decide +kernel)
    (by revert sec; decide +kernel) (by decide +kernel) (.inr hb) (by revert sec; decide +kernel)]
  match sec with
  | 0 | 1 | 2 | 3 => rfl

theorem Tau.write_cmpJobAbort {x : Tau} (h : x.on = true) (hb : x.rd Reg.GEN_BOOT_STATE = 3) (sec : Fin 4) (port : Port) (v : Nat) (m : Reads) :
    x.writeField Reg.CMP_JOB_ABORT 0 sec port v m = x.cmpAbort sec v := by
  unfold Tau.writeField
  rw [Tau.regWrite_plain h (p := 10) (s := sec) (o := 112) (sh := false) (by revert sec; decide +kernel)
    (by revert sec; decide +kernel) (by decide +kernel) (.inr hb) (by revert sec; decide +kernel)]
  match sec with
  | 0 | 1 | 2 | 3 => rfl

theorem Tau.write_noticeIssue {x : Tau} (h : x.on = true) (hb : x.rd Reg.GEN_BOOT_STATE = 3) (port : Port) (v : Nat) (m : Reads) :
    x.writeField Reg.MNT_ISSUE_GO 0 0 port v m = if v.testBit 0 then x.noticeIssue m.a else x := by
  unfold Tau.writeField
  rw [Tau.regWrite_plain h (p := 12) (s := 0) (o := 136) (sh := false) (by decide +kernel) (by decide +kernel)
    (by decide +kernel) (.inr hb) (by decide +kernel)]
  simp +decide [Tau.command, Tau.mntCommand]

theorem Tau.write_forceRelease {x : Tau} (h : x.on = true) (hb : x.rd Reg.GEN_BOOT_STATE = 3) (port : Port) (v : Nat) (m : Reads) :
    x.writeField Reg.MNT_FORCE_RELEASE_JOB 0 0 port v m = x.forceRelease port v := by
  unfold Tau.writeField
  rw [Tau.regWrite_plain h (p := 12) (s := 0) (o := 148) (sh := false) (by decide +kernel) (by decide +kernel)
    (by decide +kernel) (.inr hb) (by decide +kernel)]
  simp +decide [Tau.command, Tau.mntCommand]

theorem Tau.write_tokenRequest {x : Tau} (h : x.on = true) (hb : x.rd Reg.GEN_BOOT_STATE = 3) (port : Port) (v : Nat) (m : Reads) :
    x.writeField Reg.MNT_TOK_REQ_CLASS 0 0 port v m = x.tokRequest port v := by
  unfold Tau.writeField
  rw [Tau.regWrite_plain h (p := 12) (s := 0) (o := 192) (sh := false) (by decide +kernel) (by decide +kernel)
    (by decide +kernel) (.inr hb) (by decide +kernel)]
  simp +decide [Tau.command, Tau.mntCommand]

theorem Tau.write_tokenRelease {x : Tau} (h : x.on = true) (hb : x.rd Reg.GEN_BOOT_STATE = 3) (port : Port) (v : Nat) (m : Reads) :
    x.writeField Reg.MNT_TOK_REL_ID 0 0 port v m = x.tokRelease port v := by
  unfold Tau.writeField
  rw [Tau.regWrite_plain h (p := 12) (s := 0) (o := 212) (sh := false) (by decide +kernel) (by decide +kernel)
    (by decide +kernel) (.inr hb) (by decide +kernel)]
  simp +decide [Tau.command, Tau.mntCommand]

theorem Tau.write_sectionDrain {x : Tau} (h : x.on = true) (hb : x.rd Reg.GEN_BOOT_STATE = 3) (port : Port) (v : Nat) (m : Reads) :
    x.writeField Reg.MNT_DRAIN_SECTION 0 0 port v m = x.drain v := by
  unfold Tau.writeField
  rw [Tau.regWrite_plain h (p := 12) (s := 0) (o := 232) (sh := false) (by decide +kernel) (by decide +kernel)
    (by decide +kernel) (.inr hb) (by decide +kernel)]
  simp +decide [Tau.command, Tau.mntCommand]

theorem Tau.write_sectionReturn {x : Tau} (h : x.on = true) (hb : x.rd Reg.GEN_BOOT_STATE = 3) (port : Port) (v : Nat) (m : Reads) :
    x.writeField Reg.MNT_RETURN_SECTION 0 0 port v m = x.returnSec v := by
  unfold Tau.writeField
  rw [Tau.regWrite_plain h (p := 12) (s := 0) (o := 240) (sh := false) (by decide +kernel) (by decide +kernel)
    (by decide +kernel) (.inr hb) (by decide +kernel)]
  simp +decide [Tau.command, Tau.mntCommand]

theorem Tau.write_guardKick {x : Tau} (h : x.on = true) (hb : x.rd Reg.GEN_BOOT_STATE = 3) (sec : Fin 4) (port : Port) (v : Nat) (m : Reads) :
    x.writeField Reg.MNT_GUARD_KICK 0 sec port v m = x.guardKick sec v := by
  unfold Tau.writeField
  rw [Tau.regWrite_plain h (p := 12) (s := sec) (o := 260) (sh := false) (by revert sec; decide +kernel)
    (by revert sec; decide +kernel) (by decide +kernel) (.inr hb) (by revert sec; decide +kernel)]
  match sec with
  | 0 | 1 | 2 | 3 => rfl

theorem Tau.write_fwLoad {x : Tau} (h : x.on = true) (hb : x.rd Reg.GEN_BOOT_STATE = 3) (port : Port) (v : Nat) (m : Reads) :
    x.writeField Reg.MNT_FW_LOAD_GO 0 0 port v m = x.fwLoad v m.a := by
  unfold Tau.writeField
  rw [Tau.regWrite_plain h (p := 12) (s := 0) (o := 300) (sh := false) (by decide +kernel) (by decide +kernel)
    (by decide +kernel) (.inr hb) (by decide +kernel)]
  simp +decide [Tau.command, Tau.mntCommand]

theorem Tau.write_fwSwitchArm {x : Tau} (h : x.on = true) (hb : x.rd Reg.GEN_BOOT_STATE = 3) (port : Port) (v : Nat) (m : Reads) :
    x.writeField Reg.MNT_FW_SWITCH_GO 0 0 port v m = x.fwSwitchArm v := by
  unfold Tau.writeField
  rw [Tau.regWrite_plain h (p := 12) (s := 0) (o := 312) (sh := false) (by decide +kernel) (by decide +kernel)
    (by decide +kernel) (.inr hb) (by decide +kernel)]
  simp +decide [Tau.command, Tau.mntCommand]

theorem Tau.write_fwConfirm {x : Tau} (h : x.on = true) (hb : x.rd Reg.GEN_BOOT_STATE = 3) (port : Port) (v : Nat) (m : Reads) :
    x.writeField Reg.MNT_FW_CONFIRM 0 0 port v m = x.fwConfirm v := by
  unfold Tau.writeField
  rw [Tau.regWrite_plain h (p := 12) (s := 0) (o := 320) (sh := false) (by decide +kernel) (by decide +kernel)
    (by decide +kernel) (.inr hb) (by decide +kernel)]
  simp +decide [Tau.command, Tau.mntCommand]

theorem Tau.write_bistControl {x : Tau} (h : x.on = true) (hb : x.rd Reg.GEN_BOOT_STATE = 3) (sec : Fin 4) (port : Port) (v : Nat) (m : Reads) :
    x.writeField Reg.BIST_BIST_CTRL_GO 0 sec port v m = x.bistCtrl sec v := by
  unfold Tau.writeField
  rw [Tau.regWrite_plain h (p := 13) (s := sec) (o := 64) (sh := false) (by revert sec; decide +kernel)
    (by revert sec; decide +kernel) (by decide +kernel) (.inr hb) (by revert sec; decide +kernel)]
  match sec with
  | 0 | 1 | 2 | 3 => rfl

theorem Tau.write_bistRepair {x : Tau} (h : x.on = true) (hb : x.rd Reg.GEN_BOOT_STATE = 3) (sec : Fin 4) (port : Port) (v : Nat) (m : Reads) :
    x.writeField Reg.BIST_REPAIR_GO 0 sec port v m = x.bistRepair sec v := by
  unfold Tau.writeField
  rw [Tau.regWrite_plain h (p := 13) (s := sec) (o := 104) (sh := false) (by revert sec; decide +kernel)
    (by revert sec; decide +kernel) (by decide +kernel) (.inr hb) (by revert sec; decide +kernel)]
  match sec with
  | 0 | 1 | 2 | 3 => rfl

/-! ## The command registers of the TDU -/

/-- A write that changes no register drives no pin. -/
@[simp] theorem Tdu.driveWritten_self (d : Tdu) : d.driveWritten d = d := by
  have z (n m : Nat) : Nat.land n (m - Nat.land m m) = 0 := by
    change n &&& (m - (m &&& m)) = 0
    simp
  simp [Tdu.driveWritten, z, Tdu.interrupt, Tdu.drive]

/-- A write of a command register of the TDU through any port that may write it: the command, and nothing else. -/
theorem Tdu.regWrite_plain {d : Tdu} {a p o : Nat} {sh : Bool} (hr : d.reachable = true) (ha : dieAddr a = some (p, o, sh))
    (h4 : a % 4 = 0) (hw : plainCommand p o = true) (hh : ((wordFields p o).any fun fi => hostBarred fi.1) = false)
    (port : Port) (v : Nat) : d.regWrite port a 4 v = d.command p o v (d.rd (Reg.PG_LOCK p) == 1) := by
  unfold Tdu.regWrite
  simp only [hr, h4, ha, hh, plainCommand_writable hw, plainCommand_not_lockable hw, plainCommand_not_rws hw,
    RegFile.writeWord_plain hw]
  simp [show ({ d with regs := d.regs } : Tdu) = d from rfl]

theorem Tdu.write_strobe {d : Tdu} (h : d.reachable = true) (port : Port) (v : Nat) :
    d.writeField Reg.TGEN_UPD_STROBE_MASK 0 port v = d.strobe (bits v 0 16) (v.testBit 16) := by
  unfold Tdu.writeField
  rw [Tdu.regWrite_plain h (p := 0x20) (o := 88) (sh := false) (by decide +kernel) (by decide +kernel) (by decide +kernel)
    (by decide +kernel)]
  rfl

theorem Tdu.write_traceCommand {d : Tdu} (h : d.reachable = true) (port : Port) (v : Nat) :
    d.writeField Reg.TTRC_CMD_ARM 0 port v =
      (let e := if v.testBit 0 then d.traceArm else d
      if v.testBit 1 then e.traceTrigger 0 0 else e) := by
  unfold Tdu.writeField
  rw [Tdu.regWrite_plain h (p := 0x28) (o := 68) (sh := false) (by decide +kernel) (by decide +kernel) (by decide +kernel)
    (by decide +kernel)]
  rfl

theorem Tdu.write_authRevoke {d : Tdu} (h : d.reachable = true) (port : Port) (v : Nat) :
    d.writeField Reg.TTRC_AUTH_REVOKE 0 port v = if v.testBit 0 then d.authRevoke else d := by
  unfold Tdu.writeField
  rw [Tdu.regWrite_plain h (p := 0x28) (o := 180) (sh := false) (by decide +kernel) (by decide +kernel) (by decide +kernel)
    (by decide +kernel)]
  unfold Tdu.command
  cases v.testBit 0 <;> rfl

end Sys2Proof.Machine
end

