-- ==== Sys2Proof/Laws/State.lean ====
section
/-!
SUPPORT. One lemma for each field and each update of the state, and what the operations under every command can do: writing a
register, counting, emitting, taking a free value, the passing of time, and where a command acts.
-/

namespace Sys2Proof.Machine

set_option Elab.async false

/-! ## Writing a field -/

@[simp] theorem Tau.wr_ft (x : Tau) (f : Fld) (v i s : Nat) : (x.wr f v i s).ft = x.ft := rfl
@[simp] theorem Tau.wr_fuses (x : Tau) (f : Fld) (v i s : Nat) : (x.wr f v i s).fuses = x.fuses := rfl
@[simp] theorem Tau.wr_islPg (x : Tau) (f : Fld) (v i s : Nat) : (x.wr f v i s).islPg = x.islPg := rfl
@[simp] theorem Tau.wr_main (x : Tau) (f : Fld) (v i s : Nat) : (x.wr f v i s).main = x.main := rfl
@[simp] theorem Tau.wr_links (x : Tau) (f : Fld) (v i s : Nat) : (x.wr f v i s).links = x.links := rfl
@[simp] theorem Tau.wr_intrUsed (x : Tau) (f : Fld) (v i s : Nat) : (x.wr f v i s).intrUsed = x.intrUsed := rfl
@[simp] theorem Tau.wr_time (x : Tau) (f : Fld) (v i s : Nat) : (x.wr f v i s).time = x.time := rfl
@[simp] theorem Tau.wr_eg (x : Tau) (f : Fld) (v i s : Nat) : (x.wr f v i s).eg = x.eg := rfl
@[simp] theorem Tau.wr_rings (x : Tau) (f : Fld) (v i s : Nat) : (x.wr f v i s).rings = x.rings := rfl
@[simp] theorem Tau.wr_recq (x : Tau) (f : Fld) (v i s : Nat) : (x.wr f v i s).recq = x.recq := rfl
@[simp] theorem Tau.wr_scb (x : Tau) (f : Fld) (v i s : Nat) : (x.wr f v i s).scb = x.scb := rfl
@[simp] theorem Tau.wr_jobs (x : Tau) (f : Fld) (v i s : Nat) : (x.wr f v i s).jobs = x.jobs := rfl
@[simp] theorem Tau.wr_lib (x : Tau) (f : Fld) (v i s : Nat) : (x.wr f v i s).lib = x.lib := rfl
@[simp] theorem Tau.wr_srv (x : Tau) (f : Fld) (v i s : Nat) : (x.wr f v i s).srv = x.srv := rfl
@[simp] theorem Tau.wr_tree (x : Tau) (f : Fld) (v i s : Nat) : (x.wr f v i s).tree = x.tree := rfl
@[simp] theorem Tau.wr_agr (x : Tau) (f : Fld) (v i s : Nat) : (x.wr f v i s).agr = x.agr := rfl
@[simp] theorem Tau.wr_chans (x : Tau) (f : Fld) (v i s : Nat) : (x.wr f v i s).chans = x.chans := rfl
@[simp] theorem Tau.wr_cmp (x : Tau) (f : Fld) (v i s : Nat) : (x.wr f v i s).cmp = x.cmp := rfl
@[simp] theorem Tau.wr_cip (x : Tau) (f : Fld) (v i s : Nat) : (x.wr f v i s).cip = x.cip := rfl
@[simp] theorem Tau.wr_ntc (x : Tau) (f : Fld) (v i s : Nat) : (x.wr f v i s).ntc = x.ntc := rfl
@[simp] theorem Tau.wr_mnt (x : Tau) (f : Fld) (v i s : Nat) : (x.wr f v i s).mnt = x.mnt := rfl
@[simp] theorem Tau.wr_boot (x : Tau) (f : Fld) (v i s : Nat) : (x.wr f v i s).boot = x.boot := rfl
@[simp] theorem Tau.wr_out (x : Tau) (f : Fld) (v i s : Nat) : (x.wr f v i s).out = x.out := rfl
@[simp] theorem Tau.wr_free (x : Tau) (f : Fld) (v i s : Nat) : (x.wr f v i s).free = x.free := rfl

@[simp] theorem Tdu.wr_ft (d : Tdu) (f : Fld) (v i : Nat) : (d.wr f v i).ft = d.ft := rfl
@[simp] theorem Tdu.wr_fuses (d : Tdu) (f : Fld) (v i : Nat) : (d.wr f v i).fuses = d.fuses := rfl
@[simp] theorem Tdu.wr_time (d : Tdu) (f : Fld) (v i : Nat) : (d.wr f v i).time = d.time := rfl
@[simp] theorem Tdu.wr_emit (d : Tdu) (f : Fld) (v i : Nat) : (d.wr f v i).emit = d.emit := rfl
@[simp] theorem Tdu.wr_cap (d : Tdu) (f : Fld) (v i : Nat) : (d.wr f v i).cap = d.cap := rfl
@[simp] theorem Tdu.wr_consists (d : Tdu) (f : Fld) (v i : Nat) : (d.wr f v i).consists = d.consists := rfl
@[simp] theorem Tdu.wr_jobs (d : Tdu) (f : Fld) (v i : Nat) : (d.wr f v i).jobs = d.jobs := rfl
@[simp] theorem Tdu.wr_past (d : Tdu) (f : Fld) (v i : Nat) : (d.wr f v i).past = d.past := rfl
@[simp] theorem Tdu.wr_tap (d : Tdu) (f : Fld) (v i : Nat) : (d.wr f v i).tap = d.tap := rfl
@[simp] theorem Tdu.wr_scr (d : Tdu) (f : Fld) (v i : Nat) : (d.wr f v i).scr = d.scr := rfl
@[simp] theorem Tdu.wr_trc (d : Tdu) (f : Fld) (v i : Nat) : (d.wr f v i).trc = d.trc := rfl
@[simp] theorem Tdu.wr_srv (d : Tdu) (f : Fld) (v i : Nat) : (d.wr f v i).srv = d.srv := rfl
@[simp] theorem Tdu.wr_ctl (d : Tdu) (f : Fld) (v i : Nat) : (d.wr f v i).ctl = d.ctl := rfl
@[simp] theorem Tdu.wr_out (d : Tdu) (f : Fld) (v i : Nat) : (d.wr f v i).out = d.out := rfl
@[simp] theorem Tdu.wr_free (d : Tdu) (f : Fld) (v i : Nat) : (d.wr f v i).free = d.free := rfl

/-! ## Counting -/

@[simp] theorem Tau.bump_ft (x : Tau) (f : Fld) (i s : Nat) : (x.bump f i s).ft = x.ft := rfl
@[simp] theorem Tau.bump_fuses (x : Tau) (f : Fld) (i s : Nat) : (x.bump f i s).fuses = x.fuses := rfl
@[simp] theorem Tau.bump_islPg (x : Tau) (f : Fld) (i s : Nat) : (x.bump f i s).islPg = x.islPg := rfl
@[simp] theorem Tau.bump_main (x : Tau) (f : Fld) (i s : Nat) : (x.bump f i s).main = x.main := rfl
@[simp] theorem Tau.bump_links (x : Tau) (f : Fld) (i s : Nat) : (x.bump f i s).links = x.links := rfl
@[simp] theorem Tau.bump_intrUsed (x : Tau) (f : Fld) (i s : Nat) : (x.bump f i s).intrUsed = x.intrUsed := rfl
@[simp] theorem Tau.bump_time (x : Tau) (f : Fld) (i s : Nat) : (x.bump f i s).time = x.time := rfl
@[simp] theorem Tau.bump_eg (x : Tau) (f : Fld) (i s : Nat) : (x.bump f i s).eg = x.eg := rfl
@[simp] theorem Tau.bump_rings (x : Tau) (f : Fld) (i s : Nat) : (x.bump f i s).rings = x.rings := rfl
@[simp] theorem Tau.bump_recq (x : Tau) (f : Fld) (i s : Nat) : (x.bump f i s).recq = x.recq := rfl
@[simp] theorem Tau.bump_scb (x : Tau) (f : Fld) (i s : Nat) : (x.bump f i s).scb = x.scb := rfl
@[simp] theorem Tau.bump_jobs (x : Tau) (f : Fld) (i s : Nat) : (x.bump f i s).jobs = x.jobs := rfl
@[simp] theorem Tau.bump_lib (x : Tau) (f : Fld) (i s : Nat) : (x.bump f i s).lib = x.lib := rfl
@[simp] theorem Tau.bump_srv (x : Tau) (f : Fld) (i s : Nat) : (x.bump f i s).srv = x.srv := rfl
@[simp] theorem Tau.bump_tree (x : Tau) (f : Fld) (i s : Nat) : (x.bump f i s).tree = x.tree := rfl
@[simp] theorem Tau.bump_agr (x : Tau) (f : Fld) (i s : Nat) : (x.bump f i s).agr = x.agr := rfl
@[simp] theorem Tau.bump_chans (x : Tau) (f : Fld) (i s : Nat) : (x.bump f i s).chans = x.chans := rfl
@[simp] theorem Tau.bump_cmp (x : Tau) (f : Fld) (i s : Nat) : (x.bump f i s).cmp = x.cmp := rfl
@[simp] theorem Tau.bump_cip (x : Tau) (f : Fld) (i s : Nat) : (x.bump f i s).cip = x.cip := rfl
@[simp] theorem Tau.bump_ntc (x : Tau) (f : Fld) (i s : Nat) : (x.bump f i s).ntc = x.ntc := rfl
@[simp] theorem Tau.bump_mnt (x : Tau) (f : Fld) (i s : Nat) : (x.bump f i s).mnt = x.mnt := rfl
@[simp] theorem Tau.bump_boot (x : Tau) (f : Fld) (i s : Nat) : (x.bump f i s).boot = x.boot := rfl
@[simp] theorem Tau.bump_out (x : Tau) (f : Fld) (i s : Nat) : (x.bump f i s).out = x.out := rfl
@[simp] theorem Tau.bump_free (x : Tau) (f : Fld) (i s : Nat) : (x.bump f i s).free = x.free := rfl

@[simp] theorem Tdu.bump_ft (d : Tdu) (f : Fld) (i : Nat) : (d.bump f i).ft = d.ft := rfl
@[simp] theorem Tdu.bump_fuses (d : Tdu) (f : Fld) (i : Nat) : (d.bump f i).fuses = d.fuses := rfl
@[simp] theorem Tdu.bump_time (d : Tdu) (f : Fld) (i : Nat) : (d.bump f i).time = d.time := rfl
@[simp] theorem Tdu.bump_emit (d : Tdu) (f : Fld) (i : Nat) : (d.bump f i).emit = d.emit := rfl
@[simp] theorem Tdu.bump_cap (d : Tdu) (f : Fld) (i : Nat) : (d.bump f i).cap = d.cap := rfl
@[simp] theorem Tdu.bump_consists (d : Tdu) (f : Fld) (i : Nat) : (d.bump f i).consists = d.consists := rfl
@[simp] theorem Tdu.bump_jobs (d : Tdu) (f : Fld) (i : Nat) : (d.bump f i).jobs = d.jobs := rfl
@[simp] theorem Tdu.bump_past (d : Tdu) (f : Fld) (i : Nat) : (d.bump f i).past = d.past := rfl
@[simp] theorem Tdu.bump_tap (d : Tdu) (f : Fld) (i : Nat) : (d.bump f i).tap = d.tap := rfl
@[simp] theorem Tdu.bump_scr (d : Tdu) (f : Fld) (i : Nat) : (d.bump f i).scr = d.scr := rfl
@[simp] theorem Tdu.bump_trc (d : Tdu) (f : Fld) (i : Nat) : (d.bump f i).trc = d.trc := rfl
@[simp] theorem Tdu.bump_srv (d : Tdu) (f : Fld) (i : Nat) : (d.bump f i).srv = d.srv := rfl
@[simp] theorem Tdu.bump_ctl (d : Tdu) (f : Fld) (i : Nat) : (d.bump f i).ctl = d.ctl := rfl
@[simp] theorem Tdu.bump_out (d : Tdu) (f : Fld) (i : Nat) : (d.bump f i).out = d.out := rfl
@[simp] theorem Tdu.bump_free (d : Tdu) (f : Fld) (i : Nat) : (d.bump f i).free = d.free := rfl

/-! ## Emitting -/

@[simp] theorem Tau.emitOut_ft (x : Tau) (o : Output) : (x.emitOut o).ft = x.ft := rfl
@[simp] theorem Tau.emitOut_regs (x : Tau) (o : Output) : (x.emitOut o).regs = x.regs := rfl
@[simp] theorem Tau.emitOut_fuses (x : Tau) (o : Output) : (x.emitOut o).fuses = x.fuses := rfl
@[simp] theorem Tau.emitOut_islPg (x : Tau) (o : Output) : (x.emitOut o).islPg = x.islPg := rfl
@[simp] theorem Tau.emitOut_main (x : Tau) (o : Output) : (x.emitOut o).main = x.main := rfl
@[simp] theorem Tau.emitOut_links (x : Tau) (o : Output) : (x.emitOut o).links = x.links := rfl
@[simp] theorem Tau.emitOut_intrUsed (x : Tau) (o : Output) : (x.emitOut o).intrUsed = x.intrUsed := rfl
@[simp] theorem Tau.emitOut_time (x : Tau) (o : Output) : (x.emitOut o).time = x.time := rfl
@[simp] theorem Tau.emitOut_eg (x : Tau) (o : Output) : (x.emitOut o).eg = x.eg := rfl
@[simp] theorem Tau.emitOut_rings (x : Tau) (o : Output) : (x.emitOut o).rings = x.rings := rfl
@[simp] theorem Tau.emitOut_recq (x : Tau) (o : Output) : (x.emitOut o).recq = x.recq := rfl
@[simp] theorem Tau.emitOut_scb (x : Tau) (o : Output) : (x.emitOut o).scb = x.scb := rfl
@[simp] theorem Tau.emitOut_jobs (x : Tau) (o : Output) : (x.emitOut o).jobs = x.jobs := rfl
@[simp] theorem Tau.emitOut_lib (x : Tau) (o : Output) : (x.emitOut o).lib = x.lib := rfl
@[simp] theorem Tau.emitOut_srv (x : Tau) (o : Output) : (x.emitOut o).srv = x.srv := rfl
@[simp] theorem Tau.emitOut_tree (x : Tau) (o : Output) : (x.emitOut o).tree = x.tree := rfl
@[simp] theorem Tau.emitOut_agr (x : Tau) (o : Output) : (x.emitOut o).agr = x.agr := rfl
@[simp] theorem Tau.emitOut_chans (x : Tau) (o : Output) : (x.emitOut o).chans = x.chans := rfl
@[simp] theorem Tau.emitOut_cmp (x : Tau) (o : Output) : (x.emitOut o).cmp = x.cmp := rfl
@[simp] theorem Tau.emitOut_cip (x : Tau) (o : Output) : (x.emitOut o).cip = x.cip := rfl
@[simp] theorem Tau.emitOut_ntc (x : Tau) (o : Output) : (x.emitOut o).ntc = x.ntc := rfl
@[simp] theorem Tau.emitOut_mnt (x : Tau) (o : Output) : (x.emitOut o).mnt = x.mnt := rfl
@[simp] theorem Tau.emitOut_boot (x : Tau) (o : Output) : (x.emitOut o).boot = x.boot := rfl
@[simp] theorem Tau.emitOut_free (x : Tau) (o : Output) : (x.emitOut o).free = x.free := rfl

@[simp] theorem Tdu.emitOut_ft (d : Tdu) (o : Output) : (d.emitOut o).ft = d.ft := rfl
@[simp] theorem Tdu.emitOut_regs (d : Tdu) (o : Output) : (d.emitOut o).regs = d.regs := rfl
@[simp] theorem Tdu.emitOut_fuses (d : Tdu) (o : Output) : (d.emitOut o).fuses = d.fuses := rfl
@[simp] theorem Tdu.emitOut_time (d : Tdu) (o : Output) : (d.emitOut o).time = d.time := rfl
@[simp] theorem Tdu.emitOut_emit (d : Tdu) (o : Output) : (d.emitOut o).emit = d.emit := rfl
@[simp] theorem Tdu.emitOut_cap (d : Tdu) (o : Output) : (d.emitOut o).cap = d.cap := rfl
@[simp] theorem Tdu.emitOut_consists (d : Tdu) (o : Output) : (d.emitOut o).consists = d.consists := rfl
@[simp] theorem Tdu.emitOut_jobs (d : Tdu) (o : Output) : (d.emitOut o).jobs = d.jobs := rfl
@[simp] theorem Tdu.emitOut_past (d : Tdu) (o : Output) : (d.emitOut o).past = d.past := rfl
@[simp] theorem Tdu.emitOut_tap (d : Tdu) (o : Output) : (d.emitOut o).tap = d.tap := rfl
@[simp] theorem Tdu.emitOut_scr (d : Tdu) (o : Output) : (d.emitOut o).scr = d.scr := rfl
@[simp] theorem Tdu.emitOut_trc (d : Tdu) (o : Output) : (d.emitOut o).trc = d.trc := rfl
@[simp] theorem Tdu.emitOut_srv (d : Tdu) (o : Output) : (d.emitOut o).srv = d.srv := rfl
@[simp] theorem Tdu.emitOut_ctl (d : Tdu) (o : Output) : (d.emitOut o).ctl = d.ctl := rfl
@[simp] theorem Tdu.emitOut_free (d : Tdu) (o : Output) : (d.emitOut o).free = d.free := rfl

@[simp] theorem Tau.emitOut_out (x : Tau) (o : Output) : (x.emitOut o).out = o :: x.out := rfl
@[simp] theorem Tdu.emitOut_out (d : Tdu) (o : Output) : (d.emitOut o).out = o :: d.out := rfl

@[simp] theorem Tau.emitOut_rd (x : Tau) (o : Output) (f : Fld) (i s : Nat) : (x.emitOut o).rd f i s = x.rd f i s := rfl
@[simp] theorem Tdu.emitOut_rd (d : Tdu) (o : Output) (f : Fld) (i : Nat) : (d.emitOut o).rd f i = d.rd f i := rfl

/-! ## Free values -/

@[simp] theorem Tau.pick_ft (x : Tau) (n : Nat) : (x.pick n |>.2).ft = x.ft := rfl
@[simp] theorem Tau.pick_regs (x : Tau) (n : Nat) : (x.pick n |>.2).regs = x.regs := rfl
@[simp] theorem Tau.pick_fuses (x : Tau) (n : Nat) : (x.pick n |>.2).fuses = x.fuses := rfl
@[simp] theorem Tau.pick_islPg (x : Tau) (n : Nat) : (x.pick n |>.2).islPg = x.islPg := rfl
@[simp] theorem Tau.pick_main (x : Tau) (n : Nat) : (x.pick n |>.2).main = x.main := rfl
@[simp] theorem Tau.pick_links (x : Tau) (n : Nat) : (x.pick n |>.2).links = x.links := rfl
@[simp] theorem Tau.pick_intrUsed (x : Tau) (n : Nat) : (x.pick n |>.2).intrUsed = x.intrUsed := rfl
@[simp] theorem Tau.pick_time (x : Tau) (n : Nat) : (x.pick n |>.2).time = x.time := rfl
@[simp] theorem Tau.pick_eg (x : Tau) (n : Nat) : (x.pick n |>.2).eg = x.eg := rfl
@[simp] theorem Tau.pick_rings (x : Tau) (n : Nat) : (x.pick n |>.2).rings = x.rings := rfl
@[simp] theorem Tau.pick_recq (x : Tau) (n : Nat) : (x.pick n |>.2).recq = x.recq := rfl
@[simp] theorem Tau.pick_scb (x : Tau) (n : Nat) : (x.pick n |>.2).scb = x.scb := rfl
@[simp] theorem Tau.pick_jobs (x : Tau) (n : Nat) : (x.pick n |>.2).jobs = x.jobs := rfl
@[simp] theorem Tau.pick_lib (x : Tau) (n : Nat) : (x.pick n |>.2).lib = x.lib := rfl
@[simp] theorem Tau.pick_srv (x : Tau) (n : Nat) : (x.pick n |>.2).srv = x.srv := rfl
@[simp] theorem Tau.pick_tree (x : Tau) (n : Nat) : (x.pick n |>.2).tree = x.tree := rfl
@[simp] theorem Tau.pick_agr (x : Tau) (n : Nat) : (x.pick n |>.2).agr = x.agr := rfl
@[simp] theorem Tau.pick_chans (x : Tau) (n : Nat) : (x.pick n |>.2).chans = x.chans := rfl
@[simp] theorem Tau.pick_cmp (x : Tau) (n : Nat) : (x.pick n |>.2).cmp = x.cmp := rfl
@[simp] theorem Tau.pick_cip (x : Tau) (n : Nat) : (x.pick n |>.2).cip = x.cip := rfl
@[simp] theorem Tau.pick_ntc (x : Tau) (n : Nat) : (x.pick n |>.2).ntc = x.ntc := rfl
@[simp] theorem Tau.pick_mnt (x : Tau) (n : Nat) : (x.pick n |>.2).mnt = x.mnt := rfl
@[simp] theorem Tau.pick_boot (x : Tau) (n : Nat) : (x.pick n |>.2).boot = x.boot := rfl
@[simp] theorem Tau.pick_out (x : Tau) (n : Nat) : (x.pick n |>.2).out = x.out := rfl

@[simp] theorem Tdu.pick_ft (d : Tdu) (n : Nat) : (d.pick n |>.2).ft = d.ft := rfl
@[simp] theorem Tdu.pick_regs (d : Tdu) (n : Nat) : (d.pick n |>.2).regs = d.regs := rfl
@[simp] theorem Tdu.pick_fuses (d : Tdu) (n : Nat) : (d.pick n |>.2).fuses = d.fuses := rfl
@[simp] theorem Tdu.pick_time (d : Tdu) (n : Nat) : (d.pick n |>.2).time = d.time := rfl
@[simp] theorem Tdu.pick_emit (d : Tdu) (n : Nat) : (d.pick n |>.2).emit = d.emit := rfl
@[simp] theorem Tdu.pick_cap (d : Tdu) (n : Nat) : (d.pick n |>.2).cap = d.cap := rfl
@[simp] theorem Tdu.pick_consists (d : Tdu) (n : Nat) : (d.pick n |>.2).consists = d.consists := rfl
@[simp] theorem Tdu.pick_jobs (d : Tdu) (n : Nat) : (d.pick n |>.2).jobs = d.jobs := rfl
@[simp] theorem Tdu.pick_past (d : Tdu) (n : Nat) : (d.pick n |>.2).past = d.past := rfl
@[simp] theorem Tdu.pick_tap (d : Tdu) (n : Nat) : (d.pick n |>.2).tap = d.tap := rfl
@[simp] theorem Tdu.pick_scr (d : Tdu) (n : Nat) : (d.pick n |>.2).scr = d.scr := rfl
@[simp] theorem Tdu.pick_trc (d : Tdu) (n : Nat) : (d.pick n |>.2).trc = d.trc := rfl
@[simp] theorem Tdu.pick_srv (d : Tdu) (n : Nat) : (d.pick n |>.2).srv = d.srv := rfl
@[simp] theorem Tdu.pick_ctl (d : Tdu) (n : Nat) : (d.pick n |>.2).ctl = d.ctl := rfl
@[simp] theorem Tdu.pick_out (d : Tdu) (n : Nat) : (d.pick n |>.2).out = d.out := rfl

/-- A free value lies below its bound. -/
theorem Tau.pick_lt (x : Tau) {n : Nat} (h : 0 < n) : (x.pick n).1 < n := Nat.mod_lt _ h

/-- A free value lies below its bound. -/
theorem Tdu.pick_lt (d : Tdu) {n : Nat} (h : 0 < n) : (d.pick n).1 < n := Nat.mod_lt _ h

/-! ## The passing of time -/

/-- REF10M_OUT adds at most one item to what has been put out, and changes nothing else. -/
theorem Tau.refOut_eq (x : Tau) (a b : Nat) : ∃ o, x.refOut a b = { x with out := o } := by
  unfold Tau.refOut
  split <;> exact ⟨_, rfl⟩

/-- REF10M_OUT puts pulses out, and changes nothing else. -/
theorem Tau.refFor_eq (x : Tau) (a dt : Nat) : ∃ o, x.refFor a dt = { x with out := o } := by
  unfold Tau.refFor
  dsimp only
  split
  · exact x.refOut_eq _ _
  · obtain ⟨o, h⟩ := x.refOut_eq a (2 ^ 64 - 1)
    rw [h]
    split <;> exact ⟨_, rfl⟩

/-- All that an instant changes in the TAU: FT, what is left to slew, the filtered offsets, the bound in holdover,
TIME_STATE.SLEWING, and what REF10M_OUT has put out. -/
theorem Tau.advance_eq (t : T64) (x : Tau) :
    x.advance t = x ∨
      ∃ time o v, x.advance t = ({ x with ft := t, time := time, out := o }).wr Reg.TIME_TIME_STATE_SLEWING v := by
  unfold Tau.advance
  dsimp only
  obtain ⟨o, h⟩ := x.refFor_eq x.ft.toNat (ticksTo x.ft t)
  rw [h]
  split
  · exact .inl rfl
  · exact .inr ⟨_, _, _, rfl⟩

@[simp] theorem Tau.advance_fuses (t : T64) (x : Tau) : (x.advance t).fuses = x.fuses := by
  rcases Tau.advance_eq t x with h | ⟨_, _, _, h⟩ <;> rw [h] <;> rfl
@[simp] theorem Tau.advance_islPg (t : T64) (x : Tau) : (x.advance t).islPg = x.islPg := by
  rcases Tau.advance_eq t x with h | ⟨_, _, _, h⟩ <;> rw [h] <;> rfl
@[simp] theorem Tau.advance_main (t : T64) (x : Tau) : (x.advance t).main = x.main := by
  rcases Tau.advance_eq t x with h | ⟨_, _, _, h⟩ <;> rw [h] <;> rfl
@[simp] theorem Tau.advance_links (t : T64) (x : Tau) : (x.advance t).links = x.links := by
  rcases Tau.advance_eq t x with h | ⟨_, _, _, h⟩ <;> rw [h] <;> rfl
@[simp] theorem Tau.advance_intrUsed (t : T64) (x : Tau) : (x.advance t).intrUsed = x.intrUsed := by
  rcases Tau.advance_eq t x with h | ⟨_, _, _, h⟩ <;> rw [h] <;> rfl
@[simp] theorem Tau.advance_eg (t : T64) (x : Tau) : (x.advance t).eg = x.eg := by
  rcases Tau.advance_eq t x with h | ⟨_, _, _, h⟩ <;> rw [h] <;> rfl
@[simp] theorem Tau.advance_rings (t : T64) (x : Tau) : (x.advance t).rings = x.rings := by
  rcases Tau.advance_eq t x with h | ⟨_, _, _, h⟩ <;> rw [h] <;> rfl
@[simp] theorem Tau.advance_recq (t : T64) (x : Tau) : (x.advance t).recq = x.recq := by
  rcases Tau.advance_eq t x with h | ⟨_, _, _, h⟩ <;> rw [h] <;> rfl
@[simp] theorem Tau.advance_scb (t : T64) (x : Tau) : (x.advance t).scb = x.scb := by
  rcases Tau.advance_eq t x with h | ⟨_, _, _, h⟩ <;> rw [h] <;> rfl
@[simp] theorem Tau.advance_jobs (t : T64) (x : Tau) : (x.advance t).jobs = x.jobs := by
  rcases Tau.advance_eq t x with h | ⟨_, _, _, h⟩ <;> rw [h] <;> rfl
@[simp] theorem Tau.advance_lib (t : T64) (x : Tau) : (x.advance t).lib = x.lib := by
  rcases Tau.advance_eq t x with h | ⟨_, _, _, h⟩ <;> rw [h] <;> rfl
@[simp] theorem Tau.advance_srv (t : T64) (x : Tau) : (x.advance t).srv = x.srv := by
  rcases Tau.advance_eq t x with h | ⟨_, _, _, h⟩ <;> rw [h] <;> rfl
@[simp] theorem Tau.advance_tree (t : T64) (x : Tau) : (x.advance t).tree = x.tree := by
  rcases Tau.advance_eq t x with h | ⟨_, _, _, h⟩ <;> rw [h] <;> rfl
@[simp] theorem Tau.advance_agr (t : T64) (x : Tau) : (x.advance t).agr = x.agr := by
  rcases Tau.advance_eq t x with h | ⟨_, _, _, h⟩ <;> rw [h] <;> rfl
@[simp] theorem Tau.advance_chans (t : T64) (x : Tau) : (x.advance t).chans = x.chans := by
  rcases Tau.advance_eq t x with h | ⟨_, _, _, h⟩ <;> rw [h] <;> rfl
@[simp] theorem Tau.advance_cmp (t : T64) (x : Tau) : (x.advance t).cmp = x.cmp := by
  rcases Tau.advance_eq t x with h | ⟨_, _, _, h⟩ <;> rw [h] <;> rfl
@[simp] theorem Tau.advance_cip (t : T64) (x : Tau) : (x.advance t).cip = x.cip := by
  rcases Tau.advance_eq t x with h | ⟨_, _, _, h⟩ <;> rw [h] <;> rfl
@[simp] theorem Tau.advance_ntc (t : T64) (x : Tau) : (x.advance t).ntc = x.ntc := by
  rcases Tau.advance_eq t x with h | ⟨_, _, _, h⟩ <;> rw [h] <;> rfl
@[simp] theorem Tau.advance_mnt (t : T64) (x : Tau) : (x.advance t).mnt = x.mnt := by
  rcases Tau.advance_eq t x with h | ⟨_, _, _, h⟩ <;> rw [h] <;> rfl
@[simp] theorem Tau.advance_boot (t : T64) (x : Tau) : (x.advance t).boot = x.boot := by
  rcases Tau.advance_eq t x with h | ⟨_, _, _, h⟩ <;> rw [h] <;> rfl
@[simp] theorem Tau.advance_free (t : T64) (x : Tau) : (x.advance t).free = x.free := by
  rcases Tau.advance_eq t x with h | ⟨_, _, _, h⟩ <;> rw [h] <;> rfl

@[simp] theorem Tau.advance_on (t : T64) (x : Tau) : (x.advance t).on = x.on := by simp [Tau.on]

/-- Every register but TIME_STATE.SLEWING reads the same after an instant. -/
theorem Tau.advance_rd {g : Fld} (h : g.tag ≠ Reg.TIME_TIME_STATE_SLEWING.tag) (t : T64) (x : Tau) (i s : Nat) :
    (x.advance t).rd g i s = x.rd g i s := by
  rcases Tau.advance_eq t x with e | ⟨_, _, _, e⟩
  · rw [e]
  · rw [e, Tau.rd_wr_of_tag h]; rfl

/-- FT never runs back: a command at an instant that has passed runs at the FT reached. -/
theorem Tau.advance_ft (t : T64) (x : Tau) : (x.advance t).ft = if ticksTo x.ft t = 0 then x.ft else t := by
  unfold Tau.advance
  dsimp only
  split <;> rfl

/-- Screening credit is all that accrues in the die's registers (R100). -/
theorem Tdu.accrue_eq (d : Tdu) (n : Nat) :
    d.accrue n = d ∨ ∃ k v, d.accrue n = ({ d with emit := { d.emit with credFrac := k } }).wr Reg.TEMIT_SCR_CREDIT v := by
  unfold Tdu.accrue
  split
  · exact .inr ⟨_, _, rfl⟩
  · exact .inl rfl

/-- Counting changes the counter's value and its count of increments, and nothing else (R109). -/
theorem Tdu.count_eq (d : Tdu) (i n : Nat) :
    ∃ cnt inc, d.count i n = { d with cap := { d.cap with cnt := cnt, inc := inc } } := by
  unfold Tdu.count
  split
  · exact ⟨_, _, rfl⟩
  · exact ⟨_, _, rfl⟩

/-- REFCLK's own count changes the part of a cycle kept and fixed counter 14, and nothing else. -/
theorem Tdu.countRef_eq (d : Tdu) (n : Int) :
    ∃ r cnt inc, d.countRef n =
      { d with time := { d.time with refFrac := r }, cap := { d.cap with cnt := cnt, inc := inc } } := by
  unfold Tdu.countRef
  dsimp only
  split
  · exact ⟨_, _, _, rfl⟩
  · obtain ⟨cnt, inc, h⟩ := Tdu.count_eq ({ d with time := { d.time with refFrac := (d.time.refFrac + n) % 8000000 } }) 14
      ((d.time.refFrac + n) / 8000000).toNat
    exact ⟨_, cnt, inc, h⟩

/-- All that an instant changes in the TDU: FT, what its timebase keeps of it, the counts, and the screening credit. -/
theorem Tdu.advance_eq (t : T64) (d : Tdu) :
    d.advance t = d ∨ ∃ time cnt inc, (∃ k v, d.advance t =
      ({ d with ft := t, time := time, cap := { d.cap with cnt := cnt, inc := inc },
                emit := { d.emit with credFrac := k } }).wr Reg.TEMIT_SCR_CREDIT v) ∨
      d.advance t = { d with ft := t, time := time, cap := { d.cap with cnt := cnt, inc := inc } } := by
  unfold Tdu.advance
  dsimp only
  split
  · exact .inl rfl
  · obtain ⟨r, cnt, inc, hc⟩ := Tdu.countRef_eq (d.accrue (ticksTo d.ft t))
      (2000000 * ↑(ticksTo d.ft t) - (d.time.steer - slewAfter 50 (ticksTo d.ft t) d.time.steer))
    rw [hc]
    rcases Tdu.accrue_eq d (ticksTo d.ft t) with h | ⟨k, v, h⟩ <;> rw [h]
    · exact .inr ⟨_, cnt, inc, .inr rfl⟩
    · exact .inr ⟨_, cnt, inc, .inl ⟨k, v, rfl⟩⟩

@[simp] theorem Tdu.advance_fuses (t : T64) (d : Tdu) : (d.advance t).fuses = d.fuses := by
  rcases Tdu.advance_eq t d with h | ⟨_, _, _, ⟨_, _, h⟩ | h⟩ <;> rw [h] <;> rfl
/-- An instant changes the counts of the capture units alone. -/
theorem Tdu.advance_cap (t : T64) (d : Tdu) :
    ∃ cnt inc, (d.advance t).cap = { d.cap with cnt := cnt, inc := inc } := by
  rcases Tdu.advance_eq t d with h | ⟨_, cnt, inc, ⟨_, _, h⟩ | h⟩ <;> rw [h]
  · exact ⟨_, _, rfl⟩
  · exact ⟨cnt, inc, rfl⟩
  · exact ⟨cnt, inc, rfl⟩
@[simp] theorem Tdu.advance_consists (t : T64) (d : Tdu) : (d.advance t).consists = d.consists := by
  rcases Tdu.advance_eq t d with h | ⟨_, _, _, ⟨_, _, h⟩ | h⟩ <;> rw [h] <;> rfl
@[simp] theorem Tdu.advance_jobs (t : T64) (d : Tdu) : (d.advance t).jobs = d.jobs := by
  rcases Tdu.advance_eq t d with h | ⟨_, _, _, ⟨_, _, h⟩ | h⟩ <;> rw [h] <;> rfl
@[simp] theorem Tdu.advance_past (t : T64) (d : Tdu) : (d.advance t).past = d.past := by
  rcases Tdu.advance_eq t d with h | ⟨_, _, _, ⟨_, _, h⟩ | h⟩ <;> rw [h] <;> rfl
@[simp] theorem Tdu.advance_tap (t : T64) (d : Tdu) : (d.advance t).tap = d.tap := by
  rcases Tdu.advance_eq t d with h | ⟨_, _, _, ⟨_, _, h⟩ | h⟩ <;> rw [h] <;> rfl
@[simp] theorem Tdu.advance_scr (t : T64) (d : Tdu) : (d.advance t).scr = d.scr := by
  rcases Tdu.advance_eq t d with h | ⟨_, _, _, ⟨_, _, h⟩ | h⟩ <;> rw [h] <;> rfl
@[simp] theorem Tdu.advance_trc (t : T64) (d : Tdu) : (d.advance t).trc = d.trc := by
  rcases Tdu.advance_eq t d with h | ⟨_, _, _, ⟨_, _, h⟩ | h⟩ <;> rw [h] <;> rfl
@[simp] theorem Tdu.advance_srv (t : T64) (d : Tdu) : (d.advance t).srv = d.srv := by
  rcases Tdu.advance_eq t d with h | ⟨_, _, _, ⟨_, _, h⟩ | h⟩ <;> rw [h] <;> rfl
@[simp] theorem Tdu.advance_ctl (t : T64) (d : Tdu) : (d.advance t).ctl = d.ctl := by
  rcases Tdu.advance_eq t d with h | ⟨_, _, _, ⟨_, _, h⟩ | h⟩ <;> rw [h] <;> rfl
@[simp] theorem Tdu.advance_out (t : T64) (d : Tdu) : (d.advance t).out = d.out := by
  rcases Tdu.advance_eq t d with h | ⟨_, _, _, ⟨_, _, h⟩ | h⟩ <;> rw [h] <;> rfl
@[simp] theorem Tdu.advance_free (t : T64) (d : Tdu) : (d.advance t).free = d.free := by
  rcases Tdu.advance_eq t d with h | ⟨_, _, _, ⟨_, _, h⟩ | h⟩ <;> rw [h] <;> rfl

/-- Every register but SCR_CREDIT reads the same after an instant. -/
theorem Tdu.advance_rd {g : Fld} (h : g.tag ≠ Reg.TEMIT_SCR_CREDIT.tag) (t : T64) (d : Tdu) (i : Nat) :
    (d.advance t).rd g i = d.rd g i := by
  rcases Tdu.advance_eq t d with e | ⟨_, _, _, ⟨_, _, e⟩ | e⟩
  · rw [e]
  · rw [e, Tdu.rd_wr_of_tag h]; rfl
  · rw [e]; rfl

/-- The supplies, clock and gate of the die are not changed by the passing of time. -/
theorem Tdu.advance_inputs (t : T64) (d : Tdu) :
    (d.advance t).time.por = d.time.por ∧ (d.advance t).time.vdd = d.time.vdd ∧ (d.advance t).time.gated = d.time.gated ∧
      (d.advance t).time.clock = d.time.clock := by
  unfold Tdu.advance
  dsimp only
  split
  · exact ⟨rfl, rfl, rfl, rfl⟩
  · obtain ⟨r, cnt, inc, hc⟩ := Tdu.countRef_eq (d.accrue (ticksTo d.ft t))
      (2000000 * ↑(ticksTo d.ft t) - (d.time.steer - slewAfter 50 (ticksTo d.ft t) d.time.steer))
    rw [hc]
    unfold Tdu.accrue
    dsimp only
    split <;> exact ⟨rfl, rfl, rfl, rfl⟩

@[simp] theorem Tdu.advance_por (t : T64) (d : Tdu) : (d.advance t).time.por = d.time.por := (Tdu.advance_inputs t d).1
@[simp] theorem Tdu.advance_vdd (t : T64) (d : Tdu) : (d.advance t).time.vdd = d.time.vdd := (Tdu.advance_inputs t d).2.1
@[simp] theorem Tdu.advance_gated (t : T64) (d : Tdu) : (d.advance t).time.gated = d.time.gated := (Tdu.advance_inputs t d).2.2.1
@[simp] theorem Tdu.advance_clock (t : T64) (d : Tdu) : (d.advance t).time.clock = d.time.clock := (Tdu.advance_inputs t d).2.2.2

@[simp] theorem Tdu.advance_live (t : T64) (d : Tdu) : (d.advance t).live = d.live := by
  unfold Tdu.live
  rw [Tdu.advance_rd (by decide)]
  simp

@[simp] theorem Tdu.advance_clocked (t : T64) (d : Tdu) : (d.advance t).clocked = d.clocked := by simp [Tdu.clocked]

@[simp] theorem Tdu.advance_reachable (t : T64) (d : Tdu) : (d.advance t).reachable = d.reachable := by simp [Tdu.reachable]

/-! ## What surrounds a command of the TAU -/

/-- While no copy to HBM or to the host runs, none proceeds (R345). -/
theorem Tau.freezeStep_of_still {x : Tau} (h : x.still = true) : x.freezeStep = x := by
  have step : ∀ g ∈ List.range 4, (match (x.ring g).frz with
      | some z => if z.dest = 2 then x else x.copyRecs g (2 * (x.now - z.t)) z.want
      | none => x) = x := by
    intro g hg
    have := List.all_eq_true.mp h g hg
    revert this
    cases (x.ring g).frz with
    | none => intro _; rfl
    | some z => intro hz; exact if_pos (by simpa using hz)
  have fold : ∀ l : List Nat, (∀ g ∈ l, g ∈ List.range 4) →
      l.foldl (fun y g => match (y.ring g).frz with
        | some z => if z.dest = 2 then y else y.copyRecs g (2 * (y.now - z.t)) z.want
        | none => y) x = x := by
    intro l
    induction l with
    | nil => intro _; rfl
    | cons g t ih =>
      intro hl
      rw [List.foldl_cons, step g (hl g (List.mem_cons_self ..))]
      exact ih fun k hk => hl k (List.mem_cons_of_mem _ hk)
  exact fold (List.range 4) fun _ hg => hg

@[simp] theorem Tau.advance_still (t : T64) (x : Tau) : (x.advance t).still = x.still := by
  simp [Tau.still, Tau.ring]

/-- A command that records nothing leaves nothing to write. -/
theorem Tau.flushRecords_of_none {x : Tau} (h : x.recq = []) : x.flushRecords = x := by
  simp [Tau.flushRecords, h]

/-! ## Where a command acts -/

@[simp] theorem State.onTau_tau (f : Tau → Tau) (s : State) : (s.onTau f).tau = f s.tau := rfl
@[simp] theorem State.onTau_tdu (f : Tau → Tau) (s : State) : (s.onTau f).tdu = s.tdu := rfl
@[simp] theorem State.onTau_pending (f : Tau → Tau) (s : State) : (s.onTau f).pending = s.pending := rfl
@[simp] theorem State.onTdu_tdu (f : Tdu → Tdu) (s : State) : (s.onTdu f).tdu = f s.tdu := rfl
@[simp] theorem State.onTdu_tau (f : Tdu → Tdu) (s : State) : (s.onTdu f).tau = s.tau := rfl
@[simp] theorem State.onTdu_pending (f : Tdu → Tdu) (s : State) : (s.onTdu f).pending = s.pending := rfl

@[simp] theorem State.onIsland_tdu (t : T64) (f : Tau → Tau) (s : State) : (s.onIsland t f).tdu = s.tdu := rfl
@[simp] theorem State.onIsland_pending (t : T64) (f : Tau → Tau) (s : State) : (s.onIsland t f).pending = s.pending := rfl
@[simp] theorem State.onMain_tdu (t : T64) (f : Tau → Tau) (s : State) : (s.onMain t f).tdu = s.tdu := rfl
@[simp] theorem State.onMain_pending (t : T64) (f : Tau → Tau) (s : State) : (s.onMain t f).pending = s.pending := rfl
@[simp] theorem State.onDie_tau (t : T64) (f : Tdu → Tdu) (s : State) : (s.onDie t f).tau = s.tau := rfl
@[simp] theorem State.onDie_pending (t : T64) (f : Tdu → Tdu) (s : State) : (s.onDie t f).pending = s.pending := rfl

/-- A command that leaves the inputs alone is not changed by restoring them. -/
theorem Tau.inputsOf_eq {x y : Tau} (hi : y.islPg = x.islPg) (hm : y.main = x.main) (hl : y.links = x.links) :
    x.inputsOf y = y := by
  unfold Tau.inputsOf
  rw [← hi, ← hm, ← hl]

/-- A command that leaves the inputs alone is not changed by restoring them. -/
theorem Tdu.inputsOf_eq {d e : Tdu} (hp : e.time.por = d.time.por) (hv : e.time.vdd = d.time.vdd)
    (hg : e.time.gated = d.time.gated) (hc : e.time.clock = d.time.clock) : d.inputsOf e = e := by
  unfold Tdu.inputsOf
  rw [← hp, ← hv, ← hg, ← hc]

@[simp] theorem Tau.inputsOf_islPg (x y : Tau) : (x.inputsOf y).islPg = x.islPg := rfl
@[simp] theorem Tau.inputsOf_main (x y : Tau) : (x.inputsOf y).main = x.main := rfl
@[simp] theorem Tau.inputsOf_links (x y : Tau) : (x.inputsOf y).links = x.links := rfl
@[simp] theorem Tdu.inputsOf_por (d e : Tdu) : (d.inputsOf e).time.por = d.time.por := rfl
@[simp] theorem Tdu.inputsOf_vdd (d e : Tdu) : (d.inputsOf e).time.vdd = d.time.vdd := rfl
@[simp] theorem Tdu.inputsOf_gated (d e : Tdu) : (d.inputsOf e).time.gated = d.time.gated := rfl
@[simp] theorem Tdu.inputsOf_clock (d e : Tdu) : (d.inputsOf e).time.clock = d.time.clock := rfl

/-- With the island fed, a command runs at its instant, and what it recorded takes its place. -/
theorem State.onIsland_of_fed {s : State} (h : s.tau.islPg = true) (t : T64) (f : Tau → Tau) :
    s.onIsland t f = s.onTau fun x => x.inputsOf (f (x.advance t).freezeStep).flushRecords := by
  simp [State.onIsland, State.onTau, h]

/-- With the main rails up, a command runs at its instant, and what it recorded takes its place. -/
theorem State.onMain_of_on {s : State} (h : s.tau.on = true) (t : T64) (f : Tau → Tau) :
    s.onMain t f = s.onTau fun x => x.inputsOf (f (x.advance t).freezeStep).flushRecords := by
  simp [State.onMain, State.onTau, h]

/-- With TDU_POR_N high, a command runs at its instant. -/
theorem State.onDie_of_por {s : State} (h : s.tdu.time.por = true) (t : T64) (f : Tdu → Tdu) :
    s.onDie t f = s.onTdu fun d => d.inputsOf (f (d.advance t)) := by
  simp [State.onDie, State.onTdu, h]

/-- An island that is off does nothing (R477). -/
theorem State.onIsland_of_off {s : State} (h : s.tau.islPg = false) (t : T64) (f : Tau → Tau) : s.onIsland t f = s := by
  simp [State.onIsland, State.onTau, h]

/-- Without the main rails the sections do nothing (R38). -/
theorem State.onMain_of_off {s : State} (h : s.tau.on = false) (t : T64) (f : Tau → Tau) : s.onMain t f = s := by
  simp [State.onMain, State.onTau, h]

/-- A TDU held in reset does nothing (R487). -/
theorem State.onDie_of_off {s : State} (h : s.tdu.time.por = false) (t : T64) (f : Tdu → Tdu) : s.onDie t f = s := by
  simp [State.onDie, State.onTdu, h]

/-- What a command on the island comes to, where no copy runs, it records nothing, and it leaves the inputs alone. -/
theorem State.onIsland_eq {s : State} {t : T64} {f : Tau → Tau} (h : s.tau.islPg = true) (hz : s.tau.still = true) {y : Tau}
    (hy : f (s.tau.advance t) = y) (hq : y.recq = []) (hi : y.islPg = (s.tau.advance t).islPg)
    (hm : y.main = (s.tau.advance t).main) (hl : y.links = (s.tau.advance t).links) :
    s.onIsland t f = { s with tau := y } := by
  subst hy
  simp only [State.onIsland, State.onTau, h, if_true]
  rw [Tau.freezeStep_of_still (by simpa using hz), Tau.flushRecords_of_none hq,
    Tau.inputsOf_eq (by simpa using hi) (by simpa using hm) (by simpa using hl)]

/-- What a command on the sections comes to, where no copy runs, it records nothing, and it leaves the inputs alone. -/
theorem State.onMain_eq {s : State} {t : T64} {f : Tau → Tau} (h : s.tau.on = true) (hz : s.tau.still = true) {y : Tau}
    (hy : f (s.tau.advance t) = y) (hq : y.recq = []) (hi : y.islPg = (s.tau.advance t).islPg)
    (hm : y.main = (s.tau.advance t).main) (hl : y.links = (s.tau.advance t).links) :
    s.onMain t f = { s with tau := y } := by
  subst hy
  simp only [State.onMain, State.onTau, h, if_true]
  rw [Tau.freezeStep_of_still (by simpa using hz), Tau.flushRecords_of_none hq,
    Tau.inputsOf_eq (by simpa using hi) (by simpa using hm) (by simpa using hl)]

/-- What a command on the TDU comes to, where it leaves the inputs alone. -/
theorem State.onDie_eq {s : State} {t : T64} {f : Tdu → Tdu} (h : s.tdu.time.por = true) {e : Tdu} (he : f (s.tdu.advance t) = e)
    (hp : e.time.por = (s.tdu.advance t).time.por) (hv : e.time.vdd = (s.tdu.advance t).time.vdd)
    (hg : e.time.gated = (s.tdu.advance t).time.gated) (hc : e.time.clock = (s.tdu.advance t).time.clock) :
    s.onDie t f = { s with tdu := e } := by
  subst he
  simp only [State.onDie, State.onTdu, h, if_true]
  rw [Tdu.inputsOf_eq (by simpa using hp) (by simpa using hv) (by simpa using hg) (by simpa using hc)]

theorem Tau.islPg_of_on {x : Tau} (h : x.on = true) : x.islPg = true := by simp [Tau.on] at h; exact h.1
theorem Tau.main_of_on {x : Tau} (h : x.on = true) : x.main = true := by simp [Tau.on] at h; exact h.2
theorem Tdu.por_of_reachable {d : Tdu} (h : d.reachable = true) : d.time.por = true := by simp [Tdu.reachable] at h; exact h.1.1

end Sys2Proof.Machine
end

