-- ==== Sys2Proof/Laws/Step.lean ====
section
/-!
SUPPORT. What a step can do, said once: where every command acts.
-/

namespace Sys2Proof.Machine

set_option Elab.async false

/-- A change of the state by a command on the island, on the sections, or on the TDU. -/
inductive Acts (s : State) : State → Prop
  | island (t : T64) (f : Tau → Tau) : Acts s (s.onIsland t f)
  | main (t : T64) (f : Tau → Tau) : Acts s (s.onMain t f)
  | die (t : T64) (f : Tdu → Tdu) : Acts s (s.onDie t f)

theorem acts_headerWrite (s : State) (t : T64) (b : Block) (port : Port) (page sec : Nat) (f : Nat → Fld) (v : Nat) :
    Acts s (s.headerWrite t b port page sec f v) := by
  cases b
  · exact .island t fun x => x.writeField (f page) 0 sec port v ⟨[], [], []⟩
  · exact .die t fun d => d.writeField (f page) 0 port v

theorem acts_tauWrite (s : State) (t : T64) (f : Fld) (i sec : Nat) (port : Port) (v : BitVec 32) (m : Reads) :
    Acts s (s.tauWrite t f i sec port v m) := .island ..

theorem acts_tduWrite (s : State) (t : T64) (f : Fld) (i : Nat) (port : Port) (v : BitVec 32) :
    Acts s (s.tduWrite t f i port v) := .die ..

theorem acts_core (s : State) (t : T64) (act : CoreAct) (f : Tdu → Tdu) : Acts s (s.onCore t act f) :=
  .die t fun d => f (d.core act)

/-- Every command answers a next state; one that is no event on an input acts on the island, on the sections or on the TDU. -/
theorem exec_acts (c : Instr) (s : State) (h : c.onInput = false) : ∃ s', exec c s = .next s' ∧ Acts s s' := by
  cases c
  case registerWrite b _ _ _ _ _ => cases b <;> exact ⟨_, rfl, by first | with_reducible exact .island .. | exact .die ..⟩
  case lowWordRead b _ _ _ _ => cases b <;> exact ⟨_, rfl, by first | with_reducible exact .island .. | exact acts_core ..⟩
  case updateStrobe b _ _ _ => cases b <;> exact ⟨_, rfl, by first | with_reducible exact .island .. | exact acts_core ..⟩
  case windowDone => refine ⟨_, rfl, ?_⟩; split <;> exact acts_tauWrite ..
  case freezeStart => refine ⟨_, rfl, ?_⟩; split <;> exact acts_tauWrite ..
  case linkUp e => cases e <;> first | cases h; done | exact ⟨_, rfl, .die ..⟩
  case linkDown e _ => cases e <;> first | cases h; done | exact ⟨_, rfl, .die ..⟩
  case linkDiscardReport e => cases e <;> exact ⟨_, rfl, by first | with_reducible exact .main .. | exact .die ..⟩
  case vcCreditReturn e _ => cases e <;> exact ⟨_, rfl, by first | with_reducible exact .main .. | exact .die ..⟩
  all_goals first
    | (cases h; done)
    | (refine ⟨_, rfl, ?_⟩
       first
        | with_reducible exact .island ..
        | with_reducible exact .main ..
        | with_reducible exact .die ..
        | with_reducible exact acts_core ..
        | with_reducible exact acts_tauWrite ..
        | with_reducible exact acts_tduWrite ..
        | with_reducible exact acts_headerWrite ..)

/-- An event on an input acts on one block alone. -/
theorem exec_onInput (c : Instr) (s : State) (h : c.onInput = true) :
    ∃ s', exec c s = .next s' ∧ ((∃ f, s' = s.onTau f) ∨ (∃ f, s' = s.onTdu f)) := by
  cases c
  case linkUp e => cases e <;> first | (cases h; done) | exact ⟨_, rfl, .inl ⟨_, rfl⟩⟩
  case linkDown e _ => cases e <;> first | (cases h; done) | exact ⟨_, rfl, .inl ⟨_, rfl⟩⟩
  all_goals first
    | (cases h; done)
    | exact ⟨_, rfl, .inl ⟨_, rfl⟩⟩
    | exact ⟨_, rfl, .inr ⟨_, rfl⟩⟩

/-- What a command that is no event on an input leaves alone: the queue, the other block, and the levels of the inputs. -/
theorem Acts.frame {s s' : State} (h : Acts s s') :
    s'.pending = s.pending ∧ (s'.tau = s.tau ∨ s'.tdu = s.tdu) ∧
    s'.tau.islPg = s.tau.islPg ∧ s'.tau.main = s.tau.main ∧ s'.tau.links = s.tau.links ∧
    s'.tdu.time.por = s.tdu.time.por ∧ s'.tdu.time.vdd = s.tdu.time.vdd ∧ s'.tdu.time.gated = s.tdu.time.gated ∧
    s'.tdu.time.clock = s.tdu.time.clock := by
  cases h with
  | island t f => by_cases hp : s.tau.islPg = true <;> simp [State.onIsland, State.onTau, hp]
  | main t f => by_cases hp : s.tau.on = true <;> simp [State.onMain, State.onTau, hp]
  | die t f => by_cases hp : s.tdu.time.por = true <;> simp [State.onDie, State.onTdu, hp]

end Sys2Proof.Machine
end

