-- ==== Sys2Proof/Tests/Slice0.lean ====
section
/-!
SUPPORT. The author's tests. For every statement with hypotheses, a state and operands that meet them together, clause by clause
(`test_<statement>_meets`; a statement made of several parts has one for each part); a command of each kind that `Instr.wf` refuses;
and worked examples of the manual.
-/

namespace Sys2Proof.Tests

open Sys2Proof Sys2Proof.Machine

set_option linter.unusedVariables false
set_option Elab.async false
set_option maxRecDepth 10000

/-! ## Worked examples of the manual -/

/-- The example under R5. -/
theorem test_period_path_tick : T64.period 0x1A2B3C4D5E6F7A8C#64 = 0x068ACF13579B ∧ T64.path 0x1A2B3C4D5E6F7A8C#64 = 13 ∧
    (0x1A2B3C4D5E6F7A8C#64).toNat % 2 ^ 14 = 14988 := by decide +kernel

/-- The example under R41, from the timestamp: a tie rounds to even. -/
theorem test_ptp_to_t64 : ptpToT64 1700000000 123456789 24576 = some 6800000000493827158 := by decide +kernel

/-- The example under R41, back again. -/
theorem test_t64_to_ptp : t64ToPtp 6800000000493827158 = (1700000000, 123456789, 32768) := by decide +kernel

/-- The example of an error bound in a record: 17 ticks are carried as 2. -/
theorem test_error_bound_units : ebUnits 17 = 2 := by decide +kernel

/-- The example under R278. -/
theorem test_digest_field : gfMul 0x8000000000000000 2 = 0x1B := by decide +kernel

/-- The header of the coach in the example under R146. -/
theorem test_coach_header :
    Hdr.parse [0x11, 0x02, 0x98, 0x00, 0x40, 0x01, 0x2B, 0xA0, 0x00, 0x07, 0x21, 0x00, 0x00, 0x00, 0x47, 0xB6, 0x00, 0x00, 0x6C, 0x5E,
        0x4D, 0x3C, 0x2B, 0x1A] =
      { ver := 1, cls := 1, sev := 2, ho := false, gap := false, late := false, order := false, sat := false, len := 152, consist := 0x140
        rank := 41003, epochLo := 7, job := 0x21, eb := 0, sigT := 71, sigL := 182, t := 0x068ACF13579B * 2 ^ 18, rsv := false } := by
  decide +kernel

/-- CRC-32C of the nine digits, the check value of that polynomial (R148). -/
theorem test_crc32c : crc32c [0x31, 0x32, 0x33, 0x34, 0x35, 0x36, 0x37, 0x38, 0x39] = 0xE3069283 := by decide +kernel

/-- The AES-256 example of FIPS 197, appendix C.3 (R377). -/
theorem test_aes256 : beNum (aesBlock (aesKeys (List.range 32)) ((List.range 16).map (17 * ·))) = 0x8EA2B7CA516745BFEAFC49904B496089 := by
  decide +kernel

/-- SHA-384 of "abc", FIPS 180-4 (R381). -/
theorem test_sha384 : beNum ((sha384 [0x61, 0x62, 0x63]).map (·.toNat)) =
    0xCB00753F45A35E8BB5A03D699AC65007272C32AB0EDED1631A8B605A43FF5BED8086072BA1E7CC2358BAECA134C825A7 := by decide +kernel

/-! ## States and records for the witnesses -/

def res (c : Instr) (s : State) : State := match exec c s with | .next t => t | _ => s
def wt (l : List (Fld × Nat)) (x : Tau) : Tau := l.foldl (fun x f => x.wr f.1 f.2) x
def wd (l : List (Fld × Nat)) (x : Tdu) : Tdu := l.foldl (fun x f => x.wr f.1 f.2) x
def T : T64 := 0x500000007#64
def TT : T64 := 0x500000000007#64
/-- A booted TAU of a role. -/
def booted (role : Nat) : State :=
  State.reset.onTau (wt [(Reg.GEN_BOOT_STATE, 3), (Reg.GEN_ROLE_CFG_ROLE, role), (Reg.GEN_ROLE_CFG_SET, 1), (Reg.TIME_TIME_STATE_STATE, 1)])
def bootedWith (role : Nat) (l : List (Fld × Nat)) : State := (booted role).onTau (wt l)
def locked (p : Nat) : State := State.reset.onTau (wt [(Reg.PG_LOCK p, 1)])
def lockedDie (p : Nat) : State := State.reset.onTdu (wd [(Reg.PG_LOCK p, 1)])
def linked : State := (booted 0).onTau fun x => { x with links := 5 }
def b1 := State.reset.onTau (wt [(Reg.GEN_BOOT_STATE, 1)])
def ans (id code : Nat) : List Byte :=
  mkControl (leBytes 1 0xB2 ++ zeros 3 ++ leBytes 4 id ++ leBytes 1 code ++ leBytes 1 3 ++ zeros 2 ++ leBytes 3 0 ++ zeros 1 ++ leBytes 8 77 ++ zeros 4)
def asking := (bootedWith 0 [(Reg.GEN_ATTACH_STAT_STATE, 1)]).onTau fun x => { x with boot := { x.boot with req := some (1, false) } }
def ad : Adopt := ⟨9, 1, false, false, 0, 64, 16, 5, [], none⟩
def bd := (booted 0).onTau fun x => { x with boot := { x.boot with adopts := [ad] } }
def e3 : Exc := ⟨3, 2, 5, 6, 7, 0, 0⟩
def be := (booted 0).onTau fun x => { x with scb := { x.scb with exc := modifyAt (fun _ => [e3]) 1 x.scb.exc } }
def bs := bootedWith 3 [(Reg.GEN_ROLE_CFG_STANDBY, 1), (Reg.GEN_PROMOTE_PER, 0x100000)]
def row := bootedWith 1 [(Reg.SCB_RANK_BASE, 0), (Reg.SCB_RANK_SPAN, 1024)]
def req (adopt : Bool) (id base : Nat) : List Byte :=
  mkControl (leBytes 1 0xB1 ++ leBytes 1 (bit adopt) ++ leBytes 2 48 ++ leBytes 1 0 ++ leBytes 1 1 ++
    zeros 2 ++ leBytes 3 base ++ zeros 1 ++ leBytes 4 16 ++ leBytes 4 1000 ++ leBytes 4 id ++
    leBytes 8 7 ++ leBytes 2 0xFFFF ++ zeros 2 ++ leBytes 4 16)
def q7 : AttachReq := (AttachReq.parse (req false 7 64)).get (by decide +kernel)
def q8 : AttachReq := (AttachReq.parse (req true 8 128)).get (by decide +kernel)
def rowKid := (res (.attachRequestRx T none (req false 7 64)) row).onTau (wt [(Reg.GEN_ATTACH_STAT_STATE, 2)])
def live0 : State := State.reset.onTdu fun d =>
  { wd [(Reg.TGEN_BOOT_STATE, 2), (Reg.TTIME_TT_STATE_STATE, 1), (Reg.TGEN_RANK, 7)] d with
    time := { d.time with link := d.time.link.map fun l => { l with up := true } } }
def bat (flags job mask eff nseq : Nat) (ws : List (Nat × Nat)) : List Byte :=
  mkControl (leBytes 1 0xB7 ++ leBytes 1 flags ++ leBytes 2 ws.length ++ leBytes 2 job ++ leBytes 2 mask ++ leBytes 8 eff ++ leBytes 4 0 ++
    leBytes 4 nseq ++ zeros 8 ++ ws.flatMap fun w => leBytes 4 w.1 ++ leBytes 4 w.2)
def keyRec :=
  mkControl (leBytes 1 0xB9 ++ zeros 3 ++ leBytes 2 5 ++ zeros 2 ++ leBytes 4 3 ++ leBytes 4 1 ++ leBytes 8 0xABCD ++ leBytes 8 0)
def grantRec (f n : Nat) := mkControl (leBytes 1 0xB6 ++ leBytes 1 f ++ zeros 2 ++ leBytes 4 n ++ zeros 4)
def ucode : List Byte := leBytes 1 0x20 ++ leBytes 1 0 ++ leBytes 2 9 ++ leBytes 4 32 ++ zeros 8 ++ sha384 (zeros 32) ++ zeros 32
def frag (i n total : Nat) (p : List Byte) :=
  mkControl (leBytes 1 0xB8 ++ leBytes 1 2 ++ leBytes 2 p.length ++ leBytes 2 i ++ leBytes 2 n ++
  leBytes 4 total ++ leBytes 4 5 ++ leBytes 2 0xFFFF ++ zeros 2 ++ zeros 12 ++ p)
def cmOf (cmd eff mask id n : Nat) := mkControl (leBytes 1 0xBA ++ leBytes 1 cmd ++ leBytes 2 5 ++ leBytes 4 3 ++ leBytes 4 n ++ leBytes 2 id ++
  leBytes 2 0 ++ leBytes 8 eff ++ leBytes 2 mask ++ zeros 2)
def cm (cmd eff mask id : Nat) := cmOf cmd eff mask id 1
def cmN (cmd n : Nat) := cmOf cmd 0 0 4 n
def pk : Pack := ⟨4, 0, 1, 0, [], [], [], 0, 0, 0, 0, none, false, none⟩
def packed := live0.onTdu fun d => { d with scr := { d.scr with packs := modifyAt (fun _ => some pk) 0 d.scr.packs } }
def sched := live0.onTdu fun d => { d with emit := { d.emit with sc := modifyAt (fun _ => some ⟨77, 0x200⟩) 0 d.emit.sc } }
def oneLink := State.reset.onTdu fun d => { d with time := { d.time with link := modifyAt (fun l => { l with up := true }) 0 d.time.link } }
def hello := mkControl (leBytes 1 0xB0 ++ leBytes 1 0 ++ leBytes 1 0x20 ++ leBytes 1 2 ++ leBytes 8 99 ++ zeros 16)
def withCode := (booted 0).onTau fun x => { x with lib := { x.lib with ucode := some ucode } }
def running := (booted 0).onTau fun x => x.wr Reg.GEN_TDU_STATE_STATE 4 3
def asked := running.onTau fun x => { x with boot := { x.boot with acc := some (3, 0x44, false) } }
def container (type : Nat) (p : List Byte) : List Byte :=
  [0x5A, 0x43, 0x4E, 0x31] ++ leBytes 1 type ++ leBytes 1 1 ++ zeros 2 ++ leBytes 4 p.length ++ leBytes 4 7 ++ zeros 16 ++ padTo 8 p ++
    leBytes 2 1 ++ zeros 7422
def base0 : Timetable := ⟨0, zeros 64⟩
def reporting :=
  (booted 0).onTau fun x => { (wt [(Reg.GEN_ATTACH_STAT_STATE, 2), (Reg.SCB_RANK_SPAN, 16), (Reg.GEN_BASE_TT, 0)] (x.wr Reg.GEN_TDU_STATE_STATE 3 3)) with
  lib := { x.lib with tts := [base0] } }
def ptpOn (i mech : Nat) (l : List (Fld × Nat)) (f : Source → Source) : State :=
  (bootedWith 1 l).onTau fun x => (x.wr Reg.TIME_P_CFG_EN 1 i |>.wr Reg.TIME_P_CFG_DELAY_MECH mech i).setSource i f
def heardOf (i mech : Nat) (f : Source → Source) : State := ptpOn i mech [] fun s => f { s with announced := true }
def msg (two : Bool) : PtpMsg := ⟨0, false, 5, 5, 1000, 32768, two⟩
def ann (tai : Bool) : Announce := ⟨0, false, tai, 37, Source.reset.set⟩
def synced := State.reset.onTdu fun d => { wd [(Reg.TGEN_BOOT_STATE, 2), (Reg.TTIME_TT_STATE_STATE, 1)] d with
  ft := T, time := { d.time with link := d.time.link.map fun l => { l with up := true, d2 := some 0, echo := some 5, fresh := false } } }
def T2 : T64 := 0x500001003#64
def T3 : T64 := 0x500101003#64
def T4 : T64 := 0x500000000#64
def T5 : T64 := 21476000000000#64
def tw (t : Nat) := withCrc (leBytes 8 t ++ leBytes 1 0 ++ leBytes 1 (t / 4096) ++ leBytes 2 3)
def die (l : List (Fld × Nat)) (f : Tdu → Tdu := id) : State := State.reset.onTdu fun d =>
  f ({ wd ([(Reg.TGEN_BOOT_STATE, 2), (Reg.TGEN_RANK, 5), (Reg.TTIME_TT_STATE_STATE, 1)] ++ l) d with
    ft := 5#64, time := { d.time with link := d.time.link.map fun l => { l with up := true } } })
def cs : State := die [(Reg.THIST_SLOT_THR, 1), (Reg.TPMU_FIX_EN, 65535), (Reg.TPMU_PRG_EN_LO, 1), (Reg.TPMU_CFG_OVF_SMP, 1)]
def cs3 := die [(Reg.TTIME_TT_STATE_STATE, 3)]
def csF :=
  die [] fun d => { d with cap := { d.cap with markQ := List.replicate 64 ⟨0,0,0,0,0,false,false,0⟩, phaseQ := List.replicate 32 ⟨0,0,0,false,false,0⟩ } }
def csS := die [(Reg.TCAP_SH_CH_EN_LO, 16), (Reg.THIST_H_CTRL_EN, 1), (Reg.THIST_H_CTRL_SRC, 5), (Reg.THIST_H_ARG, 4)] fun d =>
  { d with cap := { d.cap with armed := modifyAt (fun _ => some (4, true, 9)) 4 d.cap.armed } }
def csR :=
  die [(Reg.THIST_H_CTRL_EN, 1), (Reg.THIST_H_CTRL_SRC, 3), (Reg.THIST_H_ARG, 2)] fun d => { d with cap := { d.cap with retry := [none, some (4, true)] } }
def csT (b c : Bool) := die [(Reg.TCAP_STRETCH_MERGE, 1000)] fun d => { d with cap := { d.cap with
  stretch := if b then some ⟨⟨1, true, 4⟩, ⟨T.toNat - 5, true, 4⟩, 2, 3⟩ else none
  stretchStart := if c then some (⟨3, true, 9⟩, 0) else none } }
def csO (v : Nat) :=
  cs.onTdu fun d => { d with cap := { d.cap with cnt := modifyAt (fun _ => v) 16 d.cap.cnt, written := modifyAt (fun _ => 1000) 0 d.cap.written }, emit := { d.emit with unsched := [⟨zeros 8192, none⟩] } }
def fl (k a n : Nat) : FlowEvent := { kind := k, addr := a, nret := n, priv := false, sec := false }
def csTr (st : Nat) (l : List (Fld × Nat)) :=
  die ([(Reg.TTRC_STATE, st), (Reg.TTRC_TRIG_SRC, 3), (Reg.TTRC_TRIG_ARG, 9), (Reg.TTRC_SYNC_INTV, 4), (Reg.TTRC_TS_GRAN, 1000)] ++ l)
def trg (tt : Nat) := (csTr 2 [(Reg.TTIME_TT_STATE_STATE, tt)]).onTdu fun d => (d.wr Reg.TEMIT_TRG_CTRL_EN 1 2).wr Reg.TEMIT_TRG_OFFSET 7 2
def cau (st na : Nat) := die [(Reg.TTRC_AUTH_STATE, st)] fun d => { d with trc := { d.trc with auth := some ⟨3, na, 1⟩ } }
def pat1 : Pat := ⟨7, 0, 100, 0, 4, 1, 5⟩
def pk1 : Pack := ⟨4, 1, 3, 0, [], [pat1, { pat1 with margin := 0 }], [1,2,3,4], 60, 0, 0, 0, some 0, false, none⟩
def ss (st credit : Nat) (f : Tdu → Tdu) : State :=
  die [(Reg.TSCR_EN, 1), (Reg.TSCR_STATE, st), (Reg.TSCR_MG_SETTLE, 1000), (Reg.TSCR_SLICE_MAX, 100000), (Reg.TEMIT_SCR_CREDIT, credit)] fun d =>
  f { d with scr := { d.scr with packs := modifyAt (fun _ => some pk1) 0 d.scr.packs, copied := some (d.stageBase, pk1.blobs [0]) } }
def sl1 (start acc : Nat) : Slice := ⟨0, 0, [0, 1], 2200, 0, start, acc, 1, [], [], 0⟩
def ssl (st start acc : Nat) := ss st 3000 fun d => d.setSlice (sl1 start acc)
def g1 : FlitTag := ⟨true, true, true, 9, 2, 0, 1, 2⟩
def rs : ResSlot := ⟨9, 5, 1, 2, true, 0, 0, [], 0, 0⟩
def tk : TapKey := ⟨5, 0, 0x1234⟩
def tp := die [(Reg.TTAP_LINK_EN, 1)] fun d => { d with tap := { d.tap with res := [some rs, none, none, none], keys := [tk] } }
def sv0 (kind : Nat) : Survey :=
  { sid := 3, base := 64, level := 1, consist := 5, job := 6, epoch := 1, period := 0, deadline := 90000, lo := 0, kind := kind, hi := 0xFFFF, flags := 0, maxans := 1, fmask := 0, terms := [], par := if kind < 2 then [] else zeros 16 }
def cancelRec (sid base lvl : Nat) := mkControl (leBytes 1 0xBD ++ zeros 3 ++ leBytes 4 sid ++ leBytes 3 base ++ leBytes 1 lvl ++ zeros 8)
def probeRec (sender rank : Nat) :=
  mkControl (leBytes 1 0xB4 ++ zeros 3 ++ leBytes 4 9 ++ leBytes 8 5 ++ leBytes 3 rank ++ zeros 1 ++ leBytes 3 sender ++ zeros 5)
def csB := die [] fun d => { d with srv := { d.srv with slots := List.replicate 8 (some ⟨sv0 1, [], false⟩) } }
def csFi (st : Nat) :=
  die [] fun d => { d with tap := { d.tap with filt := modifyAt (fun f => { f with st := st, deadline := 4 }) 1 d.tap.filt, store := { d.tap.store with frozen := some 3 } } }
def qr : QRec := ⟨zeros 72, none, 3, 0, none⟩
def bq (l : List (Fld × Nat)) :=
  (bootedWith 1 l).onTau fun x => { x with links := 0x20003, eg := { x.eg with up := { x.eg.up with qs := modifyAt (fun _ => [qr]) 1 x.eg.up.qs }, sb := { x.eg.sb with qs := modifyAt (fun _ => [qr]) 1 x.eg.sb.qs }, down := modifyAt (fun p => { p with fifo := [qr] }) 5 x.eg.down } }
def key32 : List Byte := (List.range 32).map fun i => BitVec.ofNat 8 (7 * i + 1)
def gr0 : Grant := ⟨3, 2, 64, 5, key32⟩
def jb (st : Nat) : TauJob :=
  { handle := 5, st := st, epochs := [(0, 3)], keys := [(0, 7)], tt := 1, streams := [], maps := [], ranges := [(0, 64)], effect := 0, slots := [], quota := 100, rel := false }
def con7 : Consist :=
  { id := 7, sev := 0, maxLen := 64, minLen := 32, digest := zeros 32, nameId := 0, fields := [], job := 0xFFFF, from_ := 0, until_ := none }
def kid3 (role span : Nat) (l : List (Fld × Nat)) : State :=
  (bootedWith role ([(Reg.SCB_RANK_BASE, 0), (Reg.SCB_RANK_SPAN, 1024)] ++ l)).onTau fun x =>
  { x.addKid 3 ⟨0, none, 5, [], 1, none, none⟩ 64 span false with lib := { x.lib with consists := [con7] }, jobs := [jb 2] }
def coach (cls consist job epoch : Nat) (body : List Byte) : List Byte :=
  mkRecord {
    ver := 1, cls := cls, sev := 0, ho := false, gap := false, late := false, order := false, sat := false, len := 0, consist := consist
    rank := 64, epochLo := epoch, job := job, eb := 0, sigT := 0, sigL := 0, t := 0x4FFFC0000, rsv := false } body
def nx (st : Nat) : State :=
  (booted 1).onTau fun x => { x with jobs := if st = 0 then [] else [jb st], ntc := { x.ntc with last := [(5, 3, 1), (0xFFFF, 0, 4)] } }
def nt (kind job epoch nseq effect : Nat) (b : List Byte) : List Byte :=
  ((⟨kind, job, epoch, nseq, effect, 90000, false, false, b⟩ : Notice).frags).headD []
def lastFrag : List Byte :=
  mkControl (leBytes 1 0x8C ++ zeros 1 ++ leBytes 2 0xFFFF ++ zeros 4 ++ leBytes 4 9 ++ leBytes 2 1 ++ leBytes 2 2 ++ leBytes 8 80000 ++ leBytes 4 90000 ++ leBytes 2 8 ++ zeros 2 ++ zeros 8)
def sc (i : Nat) := (nx 0).onTau fun x => x.setSc i (some ⟨90000, 8⟩)
def jobEnv (job : Nat) : List Byte :=
  let h := leBytes 4 64 ++ leBytes 8 1 ++ leBytes 1 Purpose.jobkey ++ leBytes 1 0 ++ leBytes 2 5
  let k := gr0.derive Purpose.jobkey 0xFF job 5
  let ct := gcmStream k (gcmIv 64 1) (nats (leBytes 8 77))
  h ++ bytesOf ct ++ bytesOf (gcmTag k (gcmIv 64 1) (nats h) ct)
def keyed (s : State) : State := s.onTau fun x => { x with cip := { x.cip with cur := some gr0 } }
def startable : State := keyed ((nx 0).onTau fun x => { x with
  fuses := { x.fuses with lc := 2 }
  lib := { x.lib with tts := [⟨1, zeros 64⟩], consists := [con7] } })
def startBody : List Byte :=
  leBytes 2 1 ++ leBytes 1 1 ++ leBytes 1 0 ++ leBytes 2 1 ++ zeros 2 ++ (List.range 5).flatMap (fun _ => leBytes 2 900) ++ zeros 6 ++
  jobEnv 5 ++ leBytes 2 7 ++ leBytes 1 0 ++ zeros 5 ++ leBytes 3 0 ++ zeros 1 ++ leBytes 4 64
def disablable : State := (nx 0).onTau fun x => { x with lib := { x.lib with consists := [con7] } }
def row1 : State := kid3 1 16 []
def ak : Ack := ⟨false, false, 5, 3, 2, 1, 0, 0, 0, 0, 2, 77, []⟩
def mg : AckMerge := { a := ak, pend := 8, dl := 3, own := true, hold := none, scope := [(64, 16)] }
def row2 := row1.onTau fun x => { x with ntc := { x.ntc with merge := [mg] } }
def rpOf (c job : Nat) :=
  mkControl (leBytes 1 c ++ zeros 1 ++ leBytes 2 1 ++ leBytes 3 64 ++ zeros 1 ++ leBytes 4 16 ++ zeros 4 ++ leBytes 2 job ++ zeros 2 ++ leBytes 4 3 ++ leBytes 4 1 ++ zeros 4)
def rp (c : Nat) := rpOf c 5
def ntc1 : Notice := ⟨7, 0xFFFF, 3, 2, 0, 90000, false, false, zeros 8⟩
def slot1 : NtcSlot := ⟨0, { ak with nseq := 1, unreached := 9, ranges := [(64, 16)] }, 3, 0, 16, [], [], true, false⟩
def root1 : State := kid3 3 16 []
def run1 : PackRun :=
  { die := 3, epoch := 0, nseq := 3, pack := 4, ver := 1, due := 5, grace := 6, met := true, sent := true, above := false, todo := [0, 1] }
def late1 := (booted 0).onTau fun x => { x with ntc := { x.ntc with runs := [run1] } }
def tok1 : Token := ⟨3, 2, 0, 0⟩
def toks := root1.onTau fun x => x.setTokens [tok1]
def issueMem := leBytes 1 0x87 ++ zeros 1 ++ leBytes 2 0xFFFF ++ zeros 12 ++ leBytes 8 90000 ++ leBytes 4 90000 ++ zeros 4 ++ leBytes 2 8
def rs1 (d : Nat) : State :=
  row1.onTau fun x => { x with srv := { x.srv with slots := some { s := { sv0 0 with deadline := d }, here := true, st := 1, pend := 0, nMatch := 0, nNo := 0, nRet := 0, nTmo := 0, nBusy := 0, nExcl := 0, nUnj := 0, eflags := 0, stored := 0, pair := none, asked := [] } :: List.replicate 63 none } }
def tsv (d : Nat) : TauSurvey :=
  { s := { sv0 0 with deadline := d }, here := true, st := 1, pend := 0, nMatch := 0, nNo := 0, nRet := 0, nTmo := 0, nBusy := 0, nExcl := 0, nUnj := 0, eflags := 0, stored := 0, pair := none, asked := [] }
def trayJob : State := kid3 0 1 []
def sv5 : Survey := { sv0 1 with job := 5, epoch := 3, consist := 7, period := 0x14000, base := 64, hi := 0xFFFF, deadline := 0x14010 }
def streamed : State := trayJob.onTau fun x => { x with scb := { x.scb with streams := [⟨5, 7, 0, 0, 0, 0, 0, 0, none, 0⟩] } }
def rowP := row1.onTau (wt [(Reg.GEN_ATTACH_STAT_STATE, 2), (Reg.GEN_PRI_PARENT, 9)])
def ackRec :=
  mkControl (leBytes 1 0xB3 ++ zeros 3 ++ leBytes 3 9 ++ leBytes 1 3 ++ leBytes 8 77 ++ leBytes 4 5 ++ leBytes 2 6 ++ leBytes 1 1 ++ zeros 5)
def pb : Probe := { child := 3, id := 1, q := 5, dead := false, ans := [] }
def probing := row1.onTau fun x => { x with srv := { x.srv with probes := [pb] } }
def contested :=
  row1.onTau fun x => { (x.wr Reg.SRV_LV_STATE 3 3) with srv := { x.srv with lastProbe := modifyAt (fun _ => some 3) 3 x.srv.lastProbe } }
def win1 : StWin := StWin.fresh 4 3
def bk1 : BkPair := ⟨true, [(0, 5, 77)], [(9, 4, 6, 3)]⟩
def strag :=
  row1.onTau fun x => { x with srv := { x.srv with st := modifyAt (fun u => { u with win := some win1 }) 2 x.srv.st, bk := modifyAt (fun _ => bk1) 5 x.srv.bk } }
def cx (st adm close : Nat) : Ctx :=
  { job := 5, consist := 7, epoch := 3, period := 0x13FFF, home := 1, st := st, exp := 8, counts := [], admitAt := adm, close := close, arr := 0, acc := [], parts := [], satc := 0, sev := 0, ho := false, gap := false, order := false, eb := 0, sigT := -128, sigL := 0, lost := false, early := false, rehome := false, late := 0, summ := [] }
def ctxs (l : List Ctx) : State := row1.onTau fun x => { x with scb := { x.scb with ctxs := l } }
def digs (o : Option Nat) : State :=
  root1.onTau fun x => { x with scb := { x.scb with digs := match o with | some d => [⟨5, 7, 9, some d, none⟩] | none => [] } }
def mod1 : Model :=
  { id := 3, digest := [], nout := 1, nfeat := 1, lscale := 0, wmax := 1, types := [0], bias := [5], trees := [], nodes := [], sets := [], cal := [], name := 0 }
def fmap1 : FMap :=
  { id := 4, model := 3, consist := 7, perRank := true, roles := 31, digest := [], ents := [], outs := [{ thr := 2 ^ 40, act := 0, sev := 0, template := 0, subj := 0, fill := 3, count := 1, holdoff := 0 }], until_ := none }
def bind1 : Bind := { job := 5, map := 4, ens := 2, from_ := 0, until_ := none }
def vec1 : Vec :=
  { slot := 0, ens := 2, job := 5, consist := 7, period := 9, child := some 3, rank := 64, present := 1, expected := 1, feats := [(9, false)], subj := [64], deadline := 0, cut := false }
def hv1 : HostVec := { ens := 2, tag := 9, res := 4096, feats := [(9, false)] }
def hv2 : HostVec := { hv1 with ens := 5 }
def scoring (q : List Vec) (h : List HostVec) : State := trayJob.onTau fun x => { x with
  lib := { x.lib with models := modifyAt (fun _ => some mod1) 2 x.lib.models, maps := [fmap1] }
  tree := { x.tree with binds := modifyAt (fun _ => some bind1) 0 x.tree.binds, q := [q, [], [], []], hv := modifyAt (fun _ => h) 0 x.tree.hv, fences := [(7, 2, 64, 5)] } }
def tapu (st : Nat) : TapUnit := { TapUnit.reset with st := st, job := 5, m := ⟨9, 2, 0, 16, 0xFFFFFF, 0xFFFFFF, false⟩ }
def taps (st : Nat) (l : List (Fld × Nat)) : State :=
  (kid3 0 1 l).onTau fun x => { x with agr := { x.agr with tap := modifyAt (fun _ => tapu st) 2 x.agr.tap } }
def pack1 : TauPack := ⟨4, 1, [], [(3, 5, 1)], []⟩
def tally : State := rowP.onTau fun x => { x with lib := { x.lib with packs := [some pack1, none, none, none] } }
def mgmtEnv (p : List Byte) : List Byte :=
  let h := leBytes 4 70 ++ leBytes 8 9 ++ leBytes 1 Purpose.mgmt ++ leBytes 1 0 ++ leBytes 2 5
  let k := gr0.derive Purpose.mgmt 2 0 5
  let ct := gcmStream k (gcmIv 70 9) (nats p)
  h ++ bytesOf ct ++ bytesOf (gcmTag k (gcmIv 70 9) (nats h) ct)
def cmd (op n addr : Nat) (data : List Byte) : List Byte := leBytes 2 op ++ leBytes 2 n ++ leBytes 4 77 ++ leBytes 4 addr ++ zeros 4 ++ data
def managed : State :=
  keyed ((bootedWith 1 [(Reg.MGMT_PORT_CFG_EN, 3)]).onTau fun x => { x with fuses := { x.fuses with lc := 2, mac := 0x0123456789AB } })
def managedOff : State := managed.onTau fun x => { x with main := false }
def frame1 : Frame := ⟨4, 64, [zeros 32], 0⟩
def framed : State := keyed (row1.onTau fun x => { x with cip := { x.cip with frames := [frame1] } })
def faulty : State := (bootedWith 1 [(Reg.MNT_TOK_TARGET, 2)]).onTau fun x => x.setTokens [⟨6, 0, 2, 3⟩, ⟨1, 2, 0, 0⟩]
def rec1 : Rec := { idx := 4, sev := 3, bytes := zeros 16, pinned := true, spilled := false }
def frz1 (dest : Nat) : Freeze := ⟨dest, 0, 0, 4, 4, 0, T.toNat - 5, 0, 0, 4096, if dest = 2 then zeros 12 else [], 3, 4, 1, false, 0, 0⟩
def recs (z : Option Freeze) : State :=
  (booted 0).onTau fun x => { x with rings := modifyAt (fun r => { r with recs := [rec1], seq := 5, frz := z }) 2 x.rings }
def sidn : Siding := ⟨64, 4096, 4096, 0, none, false⟩
def hostBuf : List Byte := leBytes 8 8192 ++ leBytes 4 4096
def tray0 (n : Nat) (l : List (Fld × Nat)) : State :=
  (bootedWith 0 ([(Reg.TTB_HBM_PART, 1)] ++ l)).onTau fun x => { x with chans := modifyAt (fun k => { k with posted := List.replicate n sidn }) 0 x.chans }
def job1 : CmpJob := { CmpJob.empty with tag := 0x80000000, host := true }
def ctx1 : CmpCtx := { CmpCtx.stream (0, 0) with job := job1 }
def engine (q : List CmpJob) (k : Option CmpCtx) : State :=
  (bootedWith 0 [(Reg.TTB_HBM_PART, 1)]).onTau fun x => { x with cmp := modifyAt (fun e => { e with queue := q, ctxs := modifyAt (fun _ => k) 3 e.ctxs }) 0 x.cmp }
def idleChan : State := (bootedWith 0 []).onTau fun x => x.wr Reg.REC_SD_CTRL_EN 1 0 (x.chanHome 0)
def sect (st : Nat) (toks : List Token) (l : List (Fld × Nat)) : State :=
  (bootedWith 0 ([(Reg.MNT_SEC_STATE, st * 16)] ++ l)).onTau fun x => { x.setTokens toks with fuses := { x.fuses with lc := 2 } }
def secTok : Token := ⟨1, 0, 2, 0⟩
def fwTok : Token := ⟨1, 4, 0, 0⟩
def trial (p : Nat) : State := (sect 0 [] [(Reg.MNT_FW_STATE_STATE, 2)]).onTau fun x => { x with mnt := { x.mnt with trial := some p } }
def bistOf (st : Nat) (b : BistSt) : State :=
  (sect 2 [secTok] []).onTau fun x => { (x.wr Reg.BIST_STATE st 0 2) with mnt := { x.mnt with bist := modifyAt (fun _ => b) 2 x.mnt.bist } }
def mem1 (abort : Bool) : BistSt := { BistSt.reset with left := [(false, 95)], abort := abort }

/-! ## What meets the hypotheses of each statement -/

theorem test_registerWritesAct_meets : ([(
  let s : State := State.reset
  let t : T64 := T
  let x := s.tauAt t
  [decide (s.tau.on = true),
    decide (x.rd (Reg.PG_LOCK 0x10) = 0),
    decide (x.rd (Reg.PG_STATUS_SAFE 0x10) = 0)]),
  (
  let s : State := State.reset
  let t : T64 := T
  let x := s.tauAt t
  [decide (s.tau.on = true),
    decide (x.rd (Reg.PG_LOCK 0x10) = 0),
    decide (x.rd (Reg.PG_PARITY_INJECT 0x10) = 0),
    decide (x.scMask.testBit 0 = false)]),
  (
  let s : State := State.reset
  [decide (s.tau.on = true)]),
  (
  let s : State := locked 0x10
  let t : T64 := T
  let x := s.tauAt t
  [decide (s.tau.on = true),
    decide (x.rd (Reg.PG_LOCK 0x10) = 1)]),
  (
  let s : State := State.reset
  let a : Nat := 0x51
  let len : Nat := 2
  [decide (s.tau.on = true),
    decide (len ≠ 4 ∨ a % 4 ≠ 0)]),
  (
  let s : State := State.reset
  let t : T64 := T
  let port : Port := .mgmt 0
  let d := s.tduAt t
  [decide (s.tdu.reachable = true),
    decide (port ≠ .host),
    decide (d.rd (Reg.PG_LOCK 0x20) = 0),
    decide (d.rd (Reg.PG_STATUS_SAFE 0x20) = 0)]),
  (
  let s : State := State.reset
  [decide (s.tdu.reachable = true)]),
  (
  let s : State := lockedDie 0x20
  let t : T64 := T
  let port : Port := .mgmt 0
  let d := s.tduAt t
  [decide (s.tdu.reachable = true),
    decide (port ≠ .host),
    decide (d.rd (Reg.PG_LOCK 0x20) = 1)])] : List (List Bool)).all (·.all id) = true := by decide +kernel

theorem test_registerWritesAct_meets_2 : ([(
  let s : State := State.reset
  let a : Nat := 0x91
  let len : Nat := 4
  [decide (s.tdu.reachable = true),
    decide (len ≠ 4 ∨ a % 4 ≠ 0)])] : List (List Bool)).all (·.all id) = true := by decide +kernel

theorem test_lowWordReadLatches_meets : ([(
  let s : State := State.reset
  [decide (s.tau.on = true)]),
  (
  let s : State := synced
  let t : T64 := T2
  let act : CoreAct := ⟨[], []⟩
  let d := (s.tduAt t).core act
  [decide (s.tdu.time.por = true),
    decide (d.reachable = true)])] : List (List Bool)).all (·.all id) = true := by decide +kernel

theorem test_pageHeadersAct_meets : ([(
  let s : State := State.reset
  [decide (s.tau.on = true)]),
  (
  let s : State := sect 0 [] []
  let t : T64 := T
  let x := s.tauAt t
  [decide (s.tau.on = true),
    decide (x.rd Reg.GEN_BOOT_STATE = 3)]),
  (
  let s : State := State.reset
  [decide (s.tdu.reachable = true)])] : List (List Bool)).all (·.all id) = true := by decide +kernel

theorem test_suppliesAct_meets : ([(
  let s : State := linked
  [decide (s.tau.islPg = true),
    decide (s.tau.main = true)]),
  (
  let s : State := res (.mainRailsLoss T) linked
  [decide (s.tau.islPg = true),
    decide (s.tau.main = false)]),
  (
  let s : State := linked
  [decide (s.tau.islPg = true)])] : List (List Bool)).all (·.all id) = true := by decide +kernel

theorem test_bootRuns_meets : ([(
  let s : State := State.reset
  let t : T64 := T
  let v : BitVec 32 := 1#32
  let x := s.tauAt t
  [decide (s.tau.on = true),
    decide (v.toNat.testBit 0 = true),
    decide (x.rd Reg.GEN_BOOT_STATE = 0),
    decide (x.rd Reg.GEN_BOOT_LEN ≤ 16777216)]),
  (
  let s : State := booted 0
  let t : T64 := T
  let v : BitVec 32 := 1#32
  let x := s.tauAt t
  [decide (s.tau.on = true),
    decide (v.toNat.testBit 0 = true),
    decide (x.rd Reg.GEN_BOOT_STATE = 3)]),
  (
  let s : State := b1
  let t : T64 := T
  let x := s.tauAt t
  [decide (s.tau.on = true),
    decide (x.rd Reg.GEN_BOOT_STATE = 1)])] : List (List Bool)).all (·.all id) = true := by decide +kernel

theorem test_rolesAct_meets : ([(
  let s : State := State.reset
  let t : T64 := T
  let v : BitVec 32 := 0x13#32
  let x := s.tauAt t
  [decide (s.tau.on = true),
    decide (x.rd (Reg.PG_LOCK 0x10) = 0),
    decide (x.roleSet = false),
    decide (bits v.toNat 0 3 ≤ 4)]),
  (
  let s : State := State.reset
  let t : T64 := T
  let v : BitVec 32 := 5#32
  let x := s.tauAt t
  [decide (s.tau.on = true),
    decide (x.rd (Reg.PG_LOCK 0x10) = 0),
    decide (x.roleSet = false),
    decide (4 < bits v.toNat 0 3)]),
  (
  let s : State := booted 0
  let t : T64 := T
  let x := s.tauAt t
  [decide (s.tau.on = true),
    decide (x.rd (Reg.PG_LOCK 0x10) = 0),
    decide (x.roleSet = true)]),
  (
  let s : State := bs
  let t : T64 := T
  let v : BitVec 32 := 0x80000000#32
  let p : Nat := 0x100000
  let x := s.tauAt t
  [decide (s.tau.on = true),
    decide (v.toNat.testBit 31 = true),
    decide (x.isStandby = true),
    decide (namedPeriod x.per (x.rd Reg.GEN_PROMOTE_PER) = some p)]),
  (
  let s : State := bs
  let port : Port := .host
  let v : BitVec 32 := 0x80000000#32
  [decide (s.tau.on = true),
    decide (v.toNat.testBit 31 = true),
    decide (isMgmt port = false)])] : List (List Bool)).all (·.all id) = true := by decide +kernel

theorem test_attachmentRuns_meets : ([(
  let s : State := row
  let t : T64 := T
  let via : Option (Fin 16) := none
  let r : List Byte := req false 7 64
  let q : AttachReq := q7
  let c : Nat := 0
  let x := s.tauAt t
  let v := via.map Fin.val
  [decide (s.tau.on = true),
    decide (AttachReq.parse r = some q),
    decide (x.roleSet = true),
    decide (q.adopt = false),
    decide (x.knownKid q v = none),
    decide (x.unset = false),
    decide (roleTakes x.role q.role = true),
    decide (x.freeKid = some c),
    decide (x.role ≠ 4),
    decide (x.rangeOk q = true),
    decide (q.ready ≤ x.emitOfs)]),
  (
  let s : State := bootedWith 1 [(Reg.SCB_RANK_BASE, 0), (Reg.SCB_RANK_SPAN, 1024), (Reg.TIME_TIME_STATE_STATE, 0)]
  let t : T64 := T
  let via : Option (Fin 16) := none
  let r : List Byte := req false 7 64
  let q : AttachReq := q7
  let x := s.tauAt t
  let v := via.map Fin.val
  [decide (s.tau.on = true),
    decide (AttachReq.parse r = some q),
    decide (x.roleSet = true),
    decide (q.adopt = false),
    decide (x.knownKid q v = none),
    decide (x.unset = true)]),
  (
  let s : State := rowKid
  let t : T64 := T
  let via : Option (Fin 16) := none
  let r : List Byte := req true 8 128
  let q : AttachReq := q8
  let x := s.tauAt t
  let v := via.map Fin.val
  let pr := x.newReqId.2.postExc x.anySec 1 0 0 q.base x.newReqId.1
  [decide (s.tau.on = true),
    decide (AttachReq.parse r = some q),
    decide (x.roleSet = true),
    decide (q.adopt = true),
    decide (x.knownKid q v = none),
    decide (x.unset = false),
    decide (roleTakes x.role q.role = true),
    decide (x.parent.isSome = true),
    decide (x.children.length + x.boot.adopts.length < fanIn x.role),
    decide (x.rd Reg.SCB_ADOPT_NUM + x.boot.adopts.length < 16),
    decide (q.ready ≤ x.emitOfs),
    decide (pr.2 = true)]),
  (
  let s : State := rowKid
  let t : T64 := T
  let up : Fin 64 := 0
  let r : List Byte := req true 8 128
  let q : AttachReq := q8
  let x := s.tauAt t
  let pr := x.meterIn up r.length
  [decide (s.tau.on = true),
    decide (AttachReq.parse r = some q),
    decide (x.roleSet = true),
    decide (q.adopt = true),
    decide ((x.kid up).isSome = true),
    decide (pr.2 = 0)]),
  (
  let s : State := bootedWith 0 [(Reg.TIME_TIME_STATE_STATE, 0)]
  let t : T64 := T
  let v : BitVec 32 := 1#32
  let x := s.tauAt t
  [decide (s.tau.on = true),
    decide (v.toNat.testBit 0 = true),
    decide (x.unset = true ∨ x.roleSet = false)]),
  (
  let s : State := booted 0
  let t : T64 := T
  let v : BitVec 32 := 1#32
  let x := s.tauAt t
  [decide (s.tau.on = true),
    decide (v.toNat.testBit 0 = true),
    decide (x.unset = false),
    decide (x.roleSet = true),
    decide (x.role < 2),
    decide (x.rd Reg.GEN_ATTACH_STAT_STATE = 0)]),
  (
  let s : State := asking
  let t : T64 := T
  let r : List Byte := ans 1 0
  let x := s.tauAt t
  let id := fieldAt r 4 4
  [decide (s.tau.on = true),
    decide (ctlOk 0xB2 r = true),
    decide (r.length = 32),
    decide (x.boot.adopts.find? (·.up == id) = none),
    decide (x.boot.req = some (id, false)),
    decide (x.rd Reg.GEN_ATTACH_STAT_STATE = 1),
    decide (fieldAt r 8 1 = 0)]),
  (
  let t : T64 := T
  let r : List Byte := ans 1 0
  let id := fieldAt r 4 4
  let s : State := (bootedWith 0 [(Reg.GEN_ATTACH_STAT_STATE, 2)]).onTau fun x => { x with boot := { x.boot with req := some (1, true) } }
  let x := s.tauAt t
  [decide (s.tau.on = true),
    decide (ctlOk 0xB2 r = true),
    decide (r.length = 32),
    decide (x.boot.adopts.find? (·.up == id) = none),
    decide (x.boot.req = some (id, true)),
    decide (x.rd Reg.GEN_ATTACH_STAT_STATE = 2),
    decide (fieldAt r 8 1 = 0)])] : List (List Bool)).all (·.all id) = true := by decide +kernel

theorem test_attachmentRuns_meets_2 : ([(
  let s : State := asking
  let t : T64 := T
  let r : List Byte := ans 1 6
  let x := s.tauAt t
  let id := fieldAt r 4 4
  [decide (s.tau.on = true),
    decide (ctlOk 0xB2 r = true),
    decide (r.length = 32),
    decide (x.boot.adopts.find? (·.up == id) = none),
    decide (x.boot.req = some (id, false)),
    decide (x.rd Reg.GEN_ATTACH_STAT_STATE = 1),
    decide (fieldAt r 8 1 ≠ 0)]),
  (
  let s : State := bd
  let t : T64 := T
  let r : List Byte := ans 1 0
  let a : Adopt := ad
  let x := s.tauAt t
  let id := fieldAt r 4 4
  [decide (s.tau.on = true),
    decide (ctlOk 0xB2 r = true),
    decide (r.length = 32),
    decide (x.boot.adopts = [a]),
    decide (a.up = id),
    decide (a.acked = false),
    decide (fieldAt r 8 1 = 0)])] : List (List Bool)).all (·.all id) = true := by decide +kernel

theorem test_exceptionsEnd_meets : ([(
  let s : State := be
  let t : T64 := T
  let sec : Fin 4 := 1
  let v : BitVec 32 := 3
  let e : Exc := e3
  let x := s.tauAt t
  [decide (s.tau.on = true),
    decide (x.rd Reg.GEN_BOOT_STATE = 3),
    decide ((x.scb.exc.getD sec []).find? (·.id == bits v.toNat 0 6) = some e),
    decide (e.kind ≠ 1)]),
  (
  let s : State := be
  let t : T64 := T
  let sec : Fin 4 := 2
  let e : Exc := e3
  let x := s.tauAt t
  let due := (x.scb.exc.getD sec []).filter fun e => decide (e.posted + x.rd Reg.SCB_EXC_DEADLINE 0 sec ≤ x.per)
  [decide (s.tau.on = true),
    decide (due = [])]),
  (
  let s : State := be
  let t : T64 := T
  let sec : Fin 4 := 1
  let e : Exc := e3
  let x := s.tauAt t
  let due := (x.scb.exc.getD sec []).filter fun e => decide (e.posted + x.rd Reg.SCB_EXC_DEADLINE 0 sec ≤ x.per)
  let body := leBytes 1 e.kind ++ leBytes 1 e.id ++ zeros 2 ++ leBytes 2 e.job ++ leBytes 2 e.consist ++ leBytes 4 e.info
  let y := (x.bump Reg.SCB_STUCK_CNT 0 sec).record sec 0 6 0x0303 body
  let near := y.per :: (y.scb.stuck.getD sec []).filter fun p => decide (y.per < p + 16)
  [decide (s.tau.on = true),
    decide (due = [e]),
    decide (e.kind ≠ 1),
    decide (near.length < y.rd Reg.SCB_STUCK_LIMIT 0 sec)])] : List (List Bool)).all (·.all id) = true := by decide +kernel

theorem test_dieTakesItsRecords_meets : ([(
  let s : State := live0
  let r : List Byte := bat 2 0xFFFF 0 0 0 [(0x44, 0)]
  [decide (s.tdu.live = true),
    decide (ctlOk 0xB7 r = true),
    decide (r.length = 40 + 8 * fieldAt r 2 2),
    decide (1 ≤ fieldAt r 2 2),
    decide (fieldAt r 2 2 ≤ 507),
    decide ((fieldAt r 1 1).testBit 1 = true)]),
  (
  let s : State := live0
  let t : T64 := T
  let r : List Byte := bat 1 0xFFFF 0x200 0 0 [(0x9040, 30)]
  let act : CoreAct := ⟨[], []⟩
  let d := s.tduAt t
  let b := d.core act
  let pr := b.batchCheck r
  [decide (s.tdu.live = true),
    decide (ctlOk 0xB7 r = true),
    decide (r.length = 40 + 8 * fieldAt r 2 2),
    decide (1 ≤ fieldAt r 2 2),
    decide (fieldAt r 2 2 ≤ 507),
    decide ((fieldAt r 1 1).testBit 1 = false),
    decide (fieldAt r 20 4 = 0),
    decide (fieldAt r 8 8 = 0),
    decide (pr.1 = 0)]),
  (
  let s : State := live0
  let t : T64 := T
  let r : List Byte := keyRec
  let d := s.tduAt t
  let job := fieldAt r 4 2
  [decide (s.tdu.live = true),
    decide (ctlOk 0xB9 r = true),
    decide (r.length = 40),
    decide (d.nidStand 1 job (fieldAt r 8 4) (fieldAt r 12 4) = .next),
    decide (d.ctl.held = []),
    decide (d.job job = none),
    decide (d.keyJobs.length < 4),
    decide (fieldAt r 24 8 = 0)]),
  (
  let s : State := live0
  let r : List Byte := grantRec 0 900
  [decide (s.tdu.live = true),
    decide (ctlOk 0xB6 r = true),
    decide (r.length = 16),
    decide ((fieldAt r 1 1).testBit 0 = false)]),
  (
  let s : State := live0
  let r : List Byte := grantRec 1 900
  [decide (s.tdu.live = true),
    decide (ctlOk 0xB6 r = true),
    decide (r.length = 16),
    decide ((fieldAt r 1 1).testBit 0 = true)]),
  (
  let s : State := State.reset
  let t : T64 := T
  let r : List Byte := frag 0 1 96 ucode
  let d := s.tduAt t
  let p := (r.drop 32).take (fieldAt r 2 2)
  [decide (s.tdu.reachable = true),
    decide (fragOk r = true),
    decide (fieldAt r 1 1 = 2),
    decide (d.rd Reg.TGEN_BOOT_STATE = 0),
    decide (d.ctl.gather = []),
    decide (fieldAt r 6 2 = 1),
    decide (fieldAt p 0 1 = 0x20),
    decide (fieldAt p 4 4 + 64 = p.length),
    decide (sha384 (p.drop 64) = (p.drop 16).take 48)]),
  (
  let s : State := State.reset
  let t : T64 := T
  let r : List Byte := frag 1 2 4064 (zeros 8)
  let d := s.tduAt t
  [decide (s.tdu.reachable = true),
    decide (fragOk r = true),
    decide (fieldAt r 1 1 = 2),
    decide (d.rd Reg.TGEN_BOOT_STATE = 0),
    decide (d.ctl.gather = []),
    decide (1 < fieldAt r 6 2)])] : List (List Bool)).all (·.all id) = true := by decide +kernel

theorem test_dieCommandsAct_meets : ([(
  let t : T64 := T
  let r : List Byte := cmN 1 3
  let job := fieldAt r 2 2
  let nid := (job, fieldAt r 4 4, fieldAt r 8 4)
  let s : State := packed.onTdu fun d => { d with ctl := { d.ctl with last := [(5, 3, 0)] } }
  let b := s.tduAt t
  let stand := b.nidStand 0 job (fieldAt r 4 4) (fieldAt r 8 4)
  [decide (s.tdu.live = true),
    decide (ctlOk 0xBA r = true),
    decide (r.length = 32),
    decide (fieldAt r 8 4 ≠ 0),
    decide (stand = .gap),
    decide ((∀ h ∈ b.ctl.held, h.1 ≠ nid)),
    decide (fieldAt r 1 1 = 1)]),
  (
  let s : State := packed
  let t : T64 := T
  let r : List Byte := cm 1 9 0 4
  let i : Nat := 0
  let b := s.tduAt t
  let d := { b with ctl := { b.ctl with held := b.ctl.held.filter (·.2 != r) } }
  let job := fieldAt r 2 2
  let id := fieldAt r 12 2
  let stand := b.nidStand 0 job (fieldAt r 4 4) (fieldAt r 8 4)
  [decide (s.tdu.live = true),
    decide (ctlOk 0xBA r = true),
    decide (r.length = 32),
    decide (fieldAt r 8 4 ≠ 0),
    decide (stand = .next ∨ (stand = .gap ∧ b.ctl.held.any (·.2 == r) = true)),
    decide (fieldAt r 1 1 = 1),
    decide (firstIdx (fun o => match o with | some k => k.id == id && k.ver == fieldAt r 14 2 && !k.staged | none => false) d.scr.packs = some i)]),
  (
  let s : State := live0
  let t : T64 := T
  let r : List Byte := cm 2 0 0 4
  let b := s.tduAt t
  let job := fieldAt r 2 2
  let effect := fieldAt r 16 8
  let stand := b.nidStand 0 job (fieldAt r 4 4) (fieldAt r 8 4)
  [decide (s.tdu.live = true),
    decide (ctlOk 0xBA r = true),
    decide (r.length = 32),
    decide (fieldAt r 8 4 ≠ 0),
    decide (stand = .next ∨ (stand = .gap ∧ b.ctl.held.any (·.2 == r) = true)),
    decide (fieldAt r 1 1 = 2),
    decide (effect = 0)]),
  (
  let s : State := live0
  let t : T64 := T
  let r : List Byte := cm 2 9 0 4
  let b := s.tduAt t
  let job := fieldAt r 2 2
  let effect := fieldAt r 16 8
  let stand := b.nidStand 0 job (fieldAt r 4 4) (fieldAt r 8 4)
  [decide (s.tdu.live = true),
    decide (ctlOk 0xBA r = true),
    decide (r.length = 32),
    decide (fieldAt r 8 4 ≠ 0),
    decide (stand = .next ∨ (stand = .gap ∧ b.ctl.held.any (·.2 == r) = true)),
    decide (fieldAt r 1 1 = 2),
    decide (effect ≠ 0)]),
  (
  let s : State := live0
  let t : T64 := T
  let r : List Byte := cm 3 0 0 4
  let b := s.tduAt t
  let job := fieldAt r 2 2
  let effect := fieldAt r 16 8
  let stand := b.nidStand 0 job (fieldAt r 4 4) (fieldAt r 8 4)
  [decide (s.tdu.live = true),
    decide (ctlOk 0xBA r = true),
    decide (r.length = 32),
    decide (fieldAt r 8 4 ≠ 0),
    decide (stand = .next ∨ (stand = .gap ∧ b.ctl.held.any (·.2 == r) = true)),
    decide (fieldAt r 1 1 = 3),
    decide (effect = 0)]),
  (
  let s : State := live0
  let t : T64 := T
  let r : List Byte := cm 4 77 0x200 4
  let i : Nat := 0
  let b := s.tduAt t
  let d := { b with ctl := { b.ctl with held := b.ctl.held.filter (·.2 != r) } }
  let job := fieldAt r 2 2
  let mask := fieldAt r 24 2
  let stand := b.nidStand 0 job (fieldAt r 4 4) (fieldAt r 8 4)
  [decide (s.tdu.live = true),
    decide (ctlOk 0xBA r = true),
    decide (r.length = 32),
    decide (fieldAt r 8 4 ≠ 0),
    decide (stand = .next ∨ (stand = .gap ∧ b.ctl.held.any (·.2 == r) = true)),
    decide (fieldAt r 1 1 = 4),
    decide (firstIdx Option.isNone d.emit.sc = some i),
    decide (Nat.land mask (schedMask d.emit.sc) = 0),
    decide (Nat.land mask (d.rd Reg.TGEN_UPD_PEND) = 0)]),
  (
  let s : State := sched
  let t : T64 := T
  let r : List Byte := cm 5 77 0x200 4
  let i : Nat := 0
  let b := s.tduAt t
  let d := { b with ctl := { b.ctl with held := b.ctl.held.filter (·.2 != r) } }
  let job := fieldAt r 2 2
  let effect := fieldAt r 16 8
  let mask := fieldAt r 24 2
  let stand := b.nidStand 0 job (fieldAt r 4 4) (fieldAt r 8 4)
  [decide (s.tdu.live = true),
    decide (ctlOk 0xBA r = true),
    decide (r.length = 32),
    decide (fieldAt r 8 4 ≠ 0),
    decide (stand = .next ∨ (stand = .gap ∧ b.ctl.held.any (·.2 == r) = true)),
    decide (fieldAt r 1 1 = 5),
    decide (firstIdx (· == some ⟨effect, mask⟩) d.emit.sc = some i)]),
  (
  let s : State := live0
  let t : T64 := T
  let r : List Byte := cm 6 77 0x200 4
  let b := s.tduAt t
  let job := fieldAt r 2 2
  let stand := b.nidStand 0 job (fieldAt r 4 4) (fieldAt r 8 4)
  [decide (s.tdu.live = true),
    decide (ctlOk 0xBA r = true),
    decide (r.length = 32),
    decide (fieldAt r 8 4 ≠ 0),
    decide (stand = .next ∨ (stand = .gap ∧ b.ctl.held.any (·.2 == r) = true)),
    decide (fieldAt r 1 1 = 6)])] : List (List Bool)).all (·.all id) = true := by decide +kernel

theorem test_dieCommandsAct_meets_2 : ([(
  let s : State := packed
  let t : T64 := T
  let r : List Byte := cm 7 77 0 4
  let b := s.tduAt t
  let job := fieldAt r 2 2
  let stand := b.nidStand 0 job (fieldAt r 4 4) (fieldAt r 8 4)
  [decide (s.tdu.live = true),
    decide (ctlOk 0xBA r = true),
    decide (r.length = 32),
    decide (fieldAt r 8 4 ≠ 0),
    decide (stand = .next ∨ (stand = .gap ∧ b.ctl.held.any (·.2 == r) = true)),
    decide (fieldAt r 1 1 = 7)]),
  (
  let s : State := live0
  let t : T64 := T
  let r : List Byte := cm 9 77 0 4
  let b := s.tduAt t
  let job := fieldAt r 2 2
  let stand := b.nidStand 0 job (fieldAt r 4 4) (fieldAt r 8 4)
  [decide (s.tdu.live = true),
    decide (ctlOk 0xBA r = true),
    decide (r.length = 32),
    decide (fieldAt r 8 4 ≠ 0),
    decide (stand = .next ∨ (stand = .gap ∧ b.ctl.held.any (·.2 == r) = true)),
    decide (7 < fieldAt r 1 1)])] : List (List Bool)).all (·.all id) = true := by decide +kernel

theorem test_diesAttachAndAreReached_meets : ([(
  let s : State := oneLink
  let t : T64 := T
  let d := s.tduAt t
  [decide (s.tdu.reachable = true),
    decide (d.time.clock = true),
    decide (d.rd Reg.TGEN_BOOT_STATE ≠ 2),
    decide ((d.lnk 0).up = true),
    decide ((d.lnk 1).up = false)]),
  (
  let s : State := withCode
  let t : T64 := T
  let link : Fin 32 := 3
  let r : List Byte := hello
  let p : List Byte := ucode
  let x := s.tauAt t
  [decide (s.tau.on = true),
    decide (ctlOk 0xB0 r = true),
    decide (r.length = 32),
    decide (x.isTray = true),
    decide (link.val < 16),
    decide ((x.kid link).isNone = true),
    decide (x.dead (x.linkHome link) = false),
    decide (x.boot.dies.all (fun k => k.ids == [none, none]) = true),
    decide (fieldAt r 1 1 = 0),
    decide (x.lib.ucode = some p),
    decide (x.boot.acc = none)]),
  (
  let s : State := reporting
  let t : T64 := T
  let die : Fin 16 := 3
  let tt : Timetable := base0
  let x := s.tauAt t
  [decide (s.tau.on = true),
    decide (x.rd Reg.GEN_TDU_STATE_STATE die = 3),
    decide (x.baseTt = some tt),
    decide (x.isTray = true),
    decide (x.parent.isSome = true),
    decide (x.unset = false),
    decide (die.val < x.rd Reg.SCB_RANK_SPAN),
    decide (x.jobs = [])]),
  (
  let s : State := running
  let t : T64 := T
  let v : BitVec 32 := 0x80000003#32
  let x := s.tauAt t
  let n := bits v.toNat 0 4
  [decide (s.tau.on = true),
    decide (v.toNat.testBit 31 = true),
    decide (x.boot.acc = none),
    decide (x.rd Reg.GEN_TDU_STATE_STATE n = 4)]),
  (
  let t : T64 := T
  let die : Fin 16 := 3
  let r : List Byte := readResponse 0 0x44 7
  let l : Nat := 3
  let ls : List Nat := []
  let s : State := asked.onTau fun x => { x with links := 8 }
  let x := s.tauAt t
  [decide (s.tau.on = true),
    decide (ctlOk 0xBB r = true),
    decide (r.length = 24),
    decide (x.isTray = true),
    decide ((x.kid die).isNone = true),
    decide (x.dieLinks die = l :: ls),
    decide (x.kidLost die = false),
    decide (x.boot.acc = some (die.val, fieldAt r 4 4, false)),
    decide (fieldAt r 1 1 = 0)])] : List (List Bool)).all (·.all id) = true := by decide +kernel

theorem test_exchangesMeasure_meets : ([(
  let s : State := heardOf 4 0 id
  let t : T64 := T
  let port : Fin 18 := 4
  let m : PtpMsg := msg true
  let x := s.tauAt t
  let i := port.val
  [decide (s.tau.islPg = true),
    decide (x.ptpHears i m.domain m.udp = true),
    decide (x.rd Reg.TIME_P_CFG_MODE i = 0),
    decide ((x.source i).announced = true),
    decide (m.twoStep = true)]),
  (
  let s : State := heardOf 4 0 id
  let t : T64 := T
  let port : Fin 18 := 4
  let m : PtpMsg := msg false
  let a : Int := 20000004002
  let x := s.tauAt t
  let i := port.val
  [decide (s.tau.islPg = true),
    decide (x.ptpHears i m.domain m.udp = true),
    decide (x.rd Reg.TIME_P_CFG_MODE i = 0),
    decide ((x.source i).announced = true),
    decide (m.twoStep = false),
    decide (ptpToT64 m.sec m.ns m.corr = some a)]),
  (
  let s : State := heardOf 4 0 fun s => { s with sync := some (5, 100, 32768) }
  let t : T64 := T
  let port : Fin 18 := 4
  let m : PtpMsg := msg false
  let a : Int := 20000004004
  let b : Int := 100
  let c : Int := 32768
  let x := s.tauAt t
  let i := port.val
  [decide (s.tau.islPg = true),
    decide (x.ptpHears i m.domain m.udp = true),
    decide (x.rd Reg.TIME_P_CFG_MODE i = 0),
    decide ((x.source i).announced = true),
    decide ((x.source i).sync = some (m.seq, b, c)),
    decide (ptpToT64 m.sec m.ns (c + m.corr) = some a)]),
  (
  let s : State := heardOf 4 0 fun s => { s with req := some (5, 77), t12 := some (10, 20) }
  let t : T64 := T
  let port : Fin 18 := 4
  let m : PtpMsg := msg false
  let a : Int := 10
  let b : Int := 20
  let c : Int := 77
  let d : Int := 20000004002
  let x := s.tauAt t
  let i := port.val
  [decide (s.tau.islPg = true),
    decide (x.ptpHears i m.domain m.udp = true),
    decide (x.rd Reg.TIME_P_CFG_MODE i = 0),
    decide ((x.source i).announced = true),
    decide (x.rd Reg.TIME_P_CFG_DELAY_MECH i = 0),
    decide ((x.source i).req = some (m.seq, c)),
    decide ((x.source i).t12 = some (a, b)),
    decide (ptpToT64 m.sec m.ns m.corr = some d)]),
  (
  let s : State := heardOf 4 1 fun s => { s with req := some (5, 77) }
  let t : T64 := T
  let port : Fin 18 := 4
  let m : PtpMsg := msg false
  let a : Int := 77
  let x := s.tauAt t
  let i := port.val
  [decide (s.tau.islPg = true),
    decide (x.ptpHears i m.domain m.udp = true),
    decide (x.rd Reg.TIME_P_CFG_MODE i = 0),
    decide ((x.source i).announced = true),
    decide (x.rd Reg.TIME_P_CFG_DELAY_MECH i = 1),
    decide ((x.source i).req = some (m.seq, a)),
    decide (m.twoStep = false)]),
  (
  let s : State := heardOf 4 1 fun s => { s with req := some (5, 77) }
  let t : T64 := T
  let port : Fin 18 := 4
  let m : PtpMsg := msg true
  let a : Int := 77
  let b : Int := 20000004002
  let x := s.tauAt t
  let i := port.val
  [decide (s.tau.islPg = true),
    decide (x.ptpHears i m.domain m.udp = true),
    decide (x.rd Reg.TIME_P_CFG_MODE i = 0),
    decide ((x.source i).announced = true),
    decide (x.rd Reg.TIME_P_CFG_DELAY_MECH i = 1),
    decide ((x.source i).req = some (m.seq, a)),
    decide (m.twoStep = true),
    decide (ptpToT64 m.sec m.ns m.corr = some b)]),
  (
  let s : State := heardOf 4 1 fun s => { s with req := some (5, 77), presp := some (5, 30, 40) }
  let t : T64 := T
  let port : Fin 18 := 4
  let m : PtpMsg := msg false
  let a : Int := 77
  let b : Int := 30
  let c : Int := 20000004002
  let d : Int := 40
  let q : Nat := 5
  let x := s.tauAt t
  let i := port.val
  [decide (s.tau.islPg = true),
    decide (x.ptpHears i m.domain m.udp = true),
    decide (x.rd Reg.TIME_P_CFG_MODE i = 0),
    decide ((x.source i).announced = true),
    decide (x.rd Reg.TIME_P_CFG_DELAY_MECH i = 1),
    decide ((x.source i).req = some (m.seq, a)),
    decide (q = m.seq),
    decide ((x.source i).presp = some (q, b, d)),
    decide (ptpToT64 m.sec m.ns m.corr = some c)]),
  (
  let s : State := linked
  [decide (s.tau.islPg = true)])] : List (List Bool)).all (·.all id) = true := by decide +kernel

theorem test_exchangesMeasure_meets_2 : ([(
  let s : State := ptpOn 4 0 [] id
  let t : T64 := T
  let port : Fin 18 := 4
  let m : PtpMsg := msg false
  let x := s.tauAt t
  let i := port.val
  [decide (s.tau.islPg = true),
    decide (x.ptpHears i m.domain m.udp = true),
    decide ((x.source i).barred = false),
    decide (x.ptpMaster i = true),
    decide (x.rd Reg.TIME_P_CFG_DELAY_MECH i = 0)]),
  (
  let s : State := heardOf 4 0 fun s => { s with barred := true }
  let t : T64 := T
  let port : Fin 18 := 4
  let m : PtpMsg := msg false
  let x := s.tauAt t
  let i := port.val
  [decide (s.tau.islPg = true),
    decide (x.ptpHears i m.domain m.udp = true),
    decide ((x.source i).barred = true)]),
  (
  let s : State := ptpOn 4 1 [] id
  let t : T64 := T
  let port : Fin 18 := 4
  let m : PtpMsg := msg false
  let x := s.tauAt t
  let i := port.val
  [decide (s.tau.islPg = true),
    decide (x.ptpHears i m.domain m.udp = true),
    decide ((x.source i).barred = false),
    decide (x.rd Reg.TIME_P_CFG_DELAY_MECH i = 1),
    decide (x.rd Reg.TIME_PTP_CFG_TWO_STEP = 0)]),
  (
  let s : State := ptpOn 4 0 [] id
  let t : T64 := T
  let port : Fin 18 := 4
  let x := s.tauAt t
  let i := port.val
  [decide (s.tau.islPg = true),
    decide (x.ptpHears i (x.rd Reg.TIME_PTP_CFG_DOMAIN) (x.ptpUdp i) = true),
    decide (x.unset = false),
    decide (x.ptpMaster i = true),
    decide (x.rd Reg.TIME_PTP_CFG_TWO_STEP = 0)]),
  (
  let s : State := ptpOn 4 0 [] id
  let t : T64 := T
  let port : Fin 18 := 4
  let x := s.tauAt t
  let i := port.val
  [decide (s.tau.islPg = true),
    decide (x.ptpHears i (x.rd Reg.TIME_PTP_CFG_DOMAIN) (x.ptpUdp i) = true),
    decide (x.unset = false),
    decide (x.ptpMaster i = true)]),
  (
  let s : State := heardOf 4 0 id
  let t : T64 := T
  let port : Fin 18 := 4
  let x := s.tauAt t
  let i := port.val
  [decide (s.tau.islPg = true),
    decide (x.ptpHears i (x.rd Reg.TIME_PTP_CFG_DOMAIN) (x.ptpUdp i) = true),
    decide ((x.source i).announced = true)])] : List (List Bool)).all (·.all id) = true := by decide +kernel

theorem test_announceQualifies_meets : ([(
  let s : State := ptpOn 4 0 [] id
  let t : T64 := T
  let port : Fin 18 := 4
  let a : Announce := ann true
  let x := s.tauAt t
  let i := port.val
  [decide (s.tau.islPg = true),
    decide (x.ptpHears i a.domain a.udp = true),
    decide (x.rd Reg.TIME_P_CFG_MODE i = 0),
    decide (a.ptpTimescale = true)]),
  (
  let s : State := ptpOn 4 0 [] id
  let t : T64 := T
  let port : Fin 18 := 4
  let a : Announce := ann false
  let x := s.tauAt t
  let i := port.val
  [decide (s.tau.islPg = true),
    decide (x.ptpHears i a.domain a.udp = true),
    decide (x.rd Reg.TIME_P_CFG_MODE i = 0),
    decide (a.ptpTimescale = false)]),
  (
  let s : State := linked
  [decide (s.tau.islPg = true)])] : List (List Bool)).all (·.all id) = true := by decide +kernel

theorem test_timeEntersAndLeaves_meets : ([(
  let s : State := State.reset
  [decide (s.tau.on = true)]),
  (
  let s : State := bootedWith 0 [(Reg.TIME_TIME_STATE_STATE, 2), (Reg.TIME_TIME_STATE_EXT10M, 1)]
  let t : T64 := T
  let x := s.tauAt t
  [decide (s.tau.on = true),
    decide (x.rd Reg.TIME_TIME_STATE_STATE ≠ 1)]),
  (
  let t : T64 := T
  let sec : Nat := 9
  let s : State := (bootedWith 0 [(Reg.TIME_TIME_STATE_STATE, 0), (Reg.TIME_TIME_STATE_EXT10M, 1)]).onTau fun x => { x with time := { x.time with todArmed := some 9 } }
  let x := s.tauAt t
  [decide (s.tau.on = true),
    decide (x.unset = true),
    decide (x.time.todArmed = some sec),
    decide (x.rd Reg.TIME_TIME_STATE_EXT10M = 1),
    decide (sec ≤ 4611686018)]),
  (
  let s : State := bootedWith 0 [(Reg.TIME_TIME_STATE_STATE, 2)]
  let t : T64 := T
  let x := s.tauAt t
  [decide (s.tau.on = true),
    decide (x.unset = false),
    decide (x.rd Reg.TIME_TIME_STATE_EXT10M = 0),
    decide (x.rd Reg.TIME_TIME_STATE_STATE ≠ 1)]),
  (
  let s : State := bootedWith 0 [(Reg.TIME_TIME_STATE_STATE, 0)]
  let t : T64 := T
  let x := s.tauAt t
  [decide (s.tau.on = true),
    decide (x.unset = true)]),
  (
  let s : State := booted 0
  let t : T64 := T
  let x := s.tauAt t
  [decide (s.tau.on = true),
    decide (x.unset = false)]),
  (
  let s : State := heardOf 4 0 fun s => { s with refused := some 9 }
  let t : T64 := T
  let v : BitVec 32 := 0x80000004#32
  let x := s.tauAt t
  [decide (s.tau.on = true),
    decide (v.toNat.testBit 31 = true),
    decide (bits v.toNat 0 5 < 19),
    decide ((x.source (bits v.toNat 0 5)).refused.isSome = true)]),
  (
  let t : T64 := T4
  let s : State := (booted 0).onTau fun x => { x with links := 0x10003 }
  let x := s.tauAt t
  [decide (s.tau.on = true),
    decide (x.isTray = true),
    decide (x.unset = false),
    decide (t.toNat % 4096 = 0)])] : List (List Bool)).all (·.all id) = true := by decide +kernel

theorem test_timeEntersAndLeaves_meets_2 : ([(
  let t : T64 := T4
  let link : Fin 32 := 0
  let s : State := (booted 0).onTau fun x => { x with links := 0x10003 }
  let x := s.tauAt t
  [decide (s.tau.on = true),
    decide (x.links.testBit link = true)]),
  (
  let t : T64 := T4
  let k : Fin 4 := 2
  let s : State := (booted 0).onTau fun x => ({ x with time := { x.time with tev := modifyAt (fun _ => ⟨3, some T4.toNat⟩) 2 x.time.tev } }).wr Reg.TIME_TEV_CTRL_EN 1 2
  let x := s.tauAt t
  [decide (s.tau.on = true),
    decide (x.rd Reg.TIME_TEV_CTRL_EN k = 1),
    decide ((x.time.tev.getD k ⟨0, none⟩).next = some t.toNat)]),
  (
  let s : State := bootedWith 0 [(Reg.TIME_PIN_CFG_PPS_OUT_EN, 1), (Reg.TIME_PIN_CFG_REF10M_OUT_EN, 0)]
  let t : T64 := T5
  let x := s.tauAt t
  [decide (s.tau.on = true),
    decide (x.unset = false),
    decide (t.toNat % 4000000000 = 0),
    decide (x.rd Reg.TIME_PIN_CFG_PPS_OUT_EN = 1)])] : List (List Bool)).all (·.all id) = true := by decide +kernel

theorem test_dieTimeAndSupplies_meets : ([(
  let s : State := synced
  let t : T64 := T2
  let link : Fin 2 := 0
  let w : List Byte := zeros 16
  let d := s.tduAt t
  let l := link.val
  [decide (s.tdu.clocked = true),
    decide ((d.lnk l).up = true),
    decide (wordOk w = false)]),
  (
  let s : State := synced
  let t : T64 := T2
  let link : Fin 2 := 0
  let w : List Byte := tw 0x500001000
  let d2 : Int := 0
  let d := s.tduAt t
  let l := link.val
  let diff : Int := ((2 * fieldAt w 0 8 : Nat) + d2) - ((2 * d.now + bit d.time.half : Nat) : Int)
  [decide (s.tdu.clocked = true),
    decide ((d.lnk l).up = true),
    decide (wordOk w = true),
    decide ((d.lnk l).fresh = false),
    decide (fieldAt w 0 8 / 4096 % 2 ^ d.rd Reg.TTIME_ECHO_INTV ≠ 0),
    decide ((d.lnk l).d2 = some d2),
    decide (d.wordLink = l),
    decide (d.tt = 1),
    decide (diff.natAbs ≤ 2 * d.rd Reg.TTIME_TW_TOL)]),
  (
  let s : State := synced
  let t : T64 := T2
  let link : Fin 2 := 1
  let t1 : Nat := 5
  let d := s.tduAt t
  let l := link.val
  [decide (s.tdu.clocked = true),
    decide ((d.lnk l).up = true),
    decide ((d.lnk l).echo = some t1)]),
  (
  let s : State := synced
  let t : T64 := T3
  let d := s.tduAt t
  [decide (s.tdu.clocked = true),
    decide (d.tt = 1),
    decide (d.rd Reg.TTIME_TW_LOST * 4096 ≤ d.now - d.time.heard)]),
  (
  let s : State := synced
  [decide (s.tdu.clocked = true)]),
  (
  let s : State := synced
  let t : T64 := T2
  let act : CoreAct := ⟨[], []⟩
  let d := s.tduAt t
  [decide (s.tdu.time.por = true),
    decide (d.time.gated = false),
    decide ((d.core act).tt ≠ 3)]),
  (
  let s : State := synced
  let t : T64 := T2
  let d := s.tduAt t
  [decide (s.tdu.time.por = true),
    decide (d.time.gated = false),
    decide (d.tt ≠ 3)]),
  (
  let s : State := synced
  let t : T64 := T2
  let d := s.tduAt t
  [decide (s.tdu.time.por = true),
    decide (d.tt ≠ 3)])] : List (List Bool)).all (·.all id) = true := by decide +kernel

theorem test_dieTimeAndSupplies_meets_2 : ([(
  let s : State := synced
  [decide (s.tdu.time.por = true)])] : List (List Bool)).all (·.all id) = true := by decide +kernel

theorem test_sidebandsAreStamped_meets : ([(
  let s : State := cs
  let t : T64 := T
  let code : Fin 8 := 4
  let d := s.tduAt t
  [decide (s.tdu.clocked = true),
    decide (code.val < 5),
    decide (d.tt ≠ 3),
    decide (d.cap.markQ.length < 64)]),
  (
  let s : State := cs
  let code : Fin 8 := 5
  [decide (s.tdu.clocked = true),
    decide (5 ≤ code.val)]),
  (
  let s : State := cs3
  let t : T64 := T
  let code : Fin 8 := 1
  let d := s.tduAt t
  [decide (s.tdu.clocked = true),
    decide (code.val < 5),
    decide (d.tt = 3)]),
  (
  let s : State := csF
  let t : T64 := T
  let code : Fin 8 := 3
  let d := s.tduAt t
  [decide (s.tdu.clocked = true),
    decide (code.val < 5),
    decide (d.tt ≠ 3),
    decide (64 ≤ d.cap.markQ.length)]),
  (
  let s : State := cs
  let t : T64 := T
  let code : Fin 8 := 0
  let d := s.tduAt t
  [decide (s.tdu.clocked = true),
    decide (code.val < 5),
    decide (d.tt ≠ 3),
    decide (d.cap.phaseQ.length < 32)]),
  (
  let s : State := csF
  let t : T64 := T
  let code : Fin 8 := 3
  let d := s.tduAt t
  [decide (s.tdu.clocked = true),
    decide (code.val < 5),
    decide (d.tt ≠ 3),
    decide (32 ≤ d.cap.phaseQ.length)])] : List (List Bool)).all (·.all id) = true := by decide +kernel

theorem test_dieCaptures_meets : ([(
  let s : State := csS
  let t : T64 := T
  let ch : Fin 64 := 4
  let err : Bool := false
  let d := s.tduAt t
  let en := if ch.val < 32 then (d.rd Reg.TCAP_SH_CH_EN_LO).testBit ch.val else (d.rd Reg.TCAP_SH_CH_EN_HI).testBit (ch.val - 32)
  [decide (s.tdu.clocked = true),
    decide (d.tt ≠ 3),
    decide (en = true),
    decide (err = false)]),
  (
  let s : State := die [(Reg.TCAP_SH_CH_EN_LO, 16)]
  let t : T64 := T
  let ch : Fin 64 := 4
  let err : Bool := true
  let d := s.tduAt t
  let en := if ch.val < 32 then (d.rd Reg.TCAP_SH_CH_EN_LO).testBit ch.val else (d.rd Reg.TCAP_SH_CH_EN_HI).testBit (ch.val - 32)
  [decide (s.tdu.clocked = true),
    decide (d.tt ≠ 3),
    decide (en = true),
    decide (err = true),
    decide ((∀ u : Fin 16, d.rd Reg.THIST_H_CTRL_EN u.val = 0))]),
  (
  let s : State := csS
  let t : T64 := T
  let ch : Fin 64 := 5
  let d := s.tduAt t
  let en := if ch.val < 32 then (d.rd Reg.TCAP_SH_CH_EN_LO).testBit ch.val else (d.rd Reg.TCAP_SH_CH_EN_HI).testBit (ch.val - 32)
  [decide (s.tdu.clocked = true),
    decide (d.tt ≠ 3),
    decide (en = false)]),
  (
  let s : State := cs3
  let t : T64 := T
  let d := s.tduAt t
  [decide (s.tdu.clocked = true),
    decide (d.tt = 3)]),
  (
  let s : State := cs3
  let t : T64 := T
  let d := s.tduAt t
  [decide (s.tdu.live = true),
    decide (d.clocked = false ∨ d.tt = 3)]),
  (
  let s : State := csT false false
  let t : T64 := T
  let l : Fin 2 := 0
  let d := s.tduAt t
  [decide (s.tdu.live = true),
    decide (d.clocked = true),
    decide (d.tt ≠ 3),
    decide (d.cap.retry.getD l.val none = none)]),
  (
  let s : State := csR
  let t : T64 := T
  let l : Fin 2 := 1
  let t0 : Nat := 4
  let f0 : Bool := true
  let d := s.tduAt t
  [decide (s.tdu.live = true),
    decide (d.clocked = true),
    decide (d.tt ≠ 3),
    decide (d.cap.retry.getD l.val none = some (t0, f0))]),
  (
  let s : State := csT false false
  let t : T64 := T
  let act : CoreAct := ⟨[], []⟩
  let d := (s.tduAt t).core act
  [decide (s.tdu.time.por = true),
    decide (d.clocked = true),
    decide (d.tt ≠ 3),
    decide (d.cap.stretch = none)])] : List (List Bool)).all (·.all id) = true := by decide +kernel

theorem test_dieCaptures_meets_2 : ([(
  let s : State := csT true false
  let t : T64 := T
  let act : CoreAct := ⟨[], []⟩
  let m : Stretch := ⟨⟨1, true, 4⟩, ⟨T.toNat - 5, true, 4⟩, 2, 3⟩
  let d := (s.tduAt t).core act
  [decide (s.tdu.time.por = true),
    decide (d.clocked = true),
    decide (d.tt ≠ 3),
    decide (d.cap.stretch = some m),
    decide (0 < d.rd Reg.TCAP_STRETCH_MERGE),
    decide (d.now - m.stop.t ≤ d.rd Reg.TCAP_STRETCH_MERGE)]),
  (
  let t : T64 := T
  let act : CoreAct := ⟨[], []⟩
  let m : Stretch := ⟨⟨1, true, 4⟩, ⟨T.toNat - 5, true, 4⟩, 2, 3⟩
  let s : State := (csT true false).onTdu fun d => d.wr Reg.TCAP_STRETCH_MERGE 2
  let d := (s.tduAt t).core act
  [decide (s.tdu.time.por = true),
    decide (d.clocked = true),
    decide (d.tt ≠ 3),
    decide (d.cap.stretch = some m),
    decide (d.rd Reg.TCAP_STRETCH_MERGE = 0 ∨ d.rd Reg.TCAP_STRETCH_MERGE < d.now - m.stop.t)]),
  (
  let s : State := cs3
  let t : T64 := T
  let act : CoreAct := ⟨[], []⟩
  let d := (s.tduAt t).core act
  [decide (s.tdu.time.por = true),
    decide (d.clocked = true),
    decide (d.tt = 3)]),
  (
  let s : State := csT false true
  let t : T64 := T
  let act : CoreAct := ⟨[], []⟩
  let m0 : Mark := ⟨3, true, 9⟩
  let c0 : Nat := 0
  let d := (s.tduAt t).core act
  [decide (s.tdu.time.por = true),
    decide (d.clocked = true),
    decide (d.tt ≠ 3),
    decide (d.cap.stretchStart = some (m0, c0)),
    decide (d.cap.stretch = none)]),
  (
  let s : State := csT true true
  let t : T64 := T
  let act : CoreAct := ⟨[], []⟩
  let m0 : Mark := ⟨3, true, 9⟩
  let c0 : Nat := 0
  let m : Stretch := ⟨⟨1, true, 4⟩, ⟨T.toNat - 5, true, 4⟩, 2, 3⟩
  let d := (s.tduAt t).core act
  [decide (s.tdu.time.por = true),
    decide (d.clocked = true),
    decide (d.tt ≠ 3),
    decide (d.cap.stretchStart = some (m0, c0)),
    decide (d.cap.stretch = some m)]),
  (
  let t : T64 := T
  let m : Stretch := ⟨⟨1, true, 4⟩, ⟨T.toNat - 5, true, 4⟩, 2, 3⟩
  let s : State := (csT true false).onTdu fun d => d.wr Reg.TCAP_STRETCH_MERGE 2
  let d := s.tduAt t
  [decide (s.tdu.clocked = true),
    decide (d.cap.stretchStart = none),
    decide (d.cap.stretch = some m),
    decide (m.stop.t ≤ d.now),
    decide (d.rd Reg.TCAP_STRETCH_MERGE ≤ d.now - m.stop.t)]),
  (
  let s : State := csT true false
  let t : T64 := T
  let m : Stretch := ⟨⟨1, true, 4⟩, ⟨T.toNat - 5, true, 4⟩, 2, 3⟩
  let d := s.tduAt t
  [decide (s.tdu.clocked = true),
    decide (d.cap.stretchStart = none),
    decide (d.cap.stretch = some m),
    decide (m.stop.t ≤ d.now),
    decide (d.now - m.stop.t < d.rd Reg.TCAP_STRETCH_MERGE)])] : List (List Bool)).all (·.all id) = true := by decide +kernel

theorem test_countersOverflowAndAreWritten_meets : ([(
  let s : State := cs3
  let t : T64 := T
  let c : CoreCycle := ⟨0#256,false,false,0#16,false,false,false,false,false,false,⟨0,0,false,false⟩⟩
  let d := s.tduAt t
  let lines := d.cap.evtNow &&& ~~~c.low
  let hit (j : Nat) : Bool := d.prgHit j d.cap.evtWas lines
  [decide (s.tdu.live = true),
    decide ((∀ j : Fin 64, hit j.val = false))]),
  (
  let t : T64 := T
  let c : CoreCycle := ⟨0#256,false,false,0#16,false,false,false,false,false,false,⟨0,0,false,false⟩⟩
  let k : Fin 64 := 0
  let s : State := (csO 5).onTdu fun d => { d with cap := { d.cap with evtNow := 1#256 } }
  let d := s.tduAt t
  let lines := d.cap.evtNow &&& ~~~c.low
  let hit (j : Nat) : Bool := d.prgHit j d.cap.evtWas lines
  let v := d.cap.cnt.getD (16 + k.val) 0 + 1
  [decide (s.tdu.live = true),
    decide (hit k.val = true),
    decide ((∀ j : Fin 64, j ≠ k → hit j.val = false)),
    decide (v < 2 ^ 48)]),
  (
  let t : T64 := T
  let c : CoreCycle := ⟨0#256,false,false,0#16,false,false,false,false,false,false,⟨0,0,false,false⟩⟩
  let after : List TraceCycle := []
  let k : Fin 64 := 0
  let s : State := (csO (2 ^ 48 - 1)).onTdu fun d => { d with cap := { d.cap with evtNow := 1#256 } }
  let d := s.tduAt t
  let lines := d.cap.evtNow &&& ~~~c.low
  let hit (j : Nat) : Bool := d.prgHit j d.cap.evtWas lines
  let v := d.cap.cnt.getD (16 + k.val) 0 + 1
  let seen := ((c.tp :: after.take 3).filter (fun c => c.ret != 0)).getLast?.getD d.cap.lastRet
  [decide (s.tdu.live = true),
    decide (hit k.val = true),
    decide ((∀ j : Fin 64, j ≠ k → hit j.val = false)),
    decide (2 ^ 48 ≤ v),
    decide (d.rd Reg.TPMU_CFG_OVF_SMP k.val = 1),
    decide (d.rd Reg.TPMU_CFG_OVF_INTR k.val = 0),
    decide (d.clocked = true),
    decide (d.tt ≠ 3),
    decide (d.cap.samples = []),
    decide (seen.priv = false),
    decide (seen.sec = false),
    decide (d.unschedRoom 48 = false),
    decide (d.rd Reg.TTRC_TRIG_SRC ≠ 5)]),
  (
  let t : T64 := T
  let c : CoreCycle := ⟨0#256,false,false,0#16,false,false,false,false,false,false,⟨0,0,false,false⟩⟩
  let after : List TraceCycle := []
  let k : Fin 64 := 0
  let s : State := (csO (2 ^ 48 - 1)).onTdu fun d => { d with cap := { d.cap with evtNow := 1#256 } }
  let d := s.tduAt t
  let lines := d.cap.evtNow &&& ~~~c.low
  let hit (j : Nat) : Bool := d.prgHit j d.cap.evtWas lines
  let v := d.cap.cnt.getD (16 + k.val) 0 + 1
  let seen := ((c.tp :: after.take 3).filter (fun c => c.ret != 0)).getLast?.getD d.cap.lastRet
  [decide (s.tdu.live = true),
    decide (hit k.val = true),
    decide ((∀ j : Fin 64, j ≠ k → hit j.val = false)),
    decide (2 ^ 48 ≤ v),
    decide (d.rd Reg.TPMU_CFG_OVF_SMP k.val = 1),
    decide (d.rd Reg.TPMU_CFG_OVF_INTR k.val = 0),
    decide (d.clocked = true),
    decide (d.tt ≠ 3),
    decide (d.cap.samples = []),
    decide (seen.priv = false),
    decide (seen.sec = false),
    decide (d.unschedRoom 48 = false),
    decide (d.rd Reg.TTRC_TRIG_SRC ≠ 5),
    decide (16 + k.val < d.cap.cnt.length)]),
  (
  let s : State := die []
  let t : T64 := T
  let act : CoreAct := ⟨[], []⟩
  let d := (s.tduAt t).core act
  [decide (s.tdu.time.por = true),
    decide (d.rd Reg.TTRC_TRIG_SRC ≠ 3)]),
  (
  let s : State := cs
  let t : T64 := T
  let act : CoreAct := ⟨[], []⟩
  let d := (s.tduAt t).core act
  [decide (s.tdu.time.por = true),
    decide (d.reachable = true),
    decide (d.rd (Reg.PG_LOCK 0x23) = 0)])] : List (List Bool)).all (·.all id) = true := by decide +kernel

theorem test_tracesRunAndTrigger_meets : ([(
  let s : State := csTr 2 []
  let t : T64 := T
  let e : FlowEvent := fl 0 100 4
  let d := s.tduAt t
  [decide (s.tdu.live = true),
    decide (d.tracing = true),
    decide (d.trc.losing = none),
    decide ((hasTarget e.kind = false ∨ (d.admits e.priv e.sec = true ∧ e.addr ≠ d.rd64 Reg.TTRC_TRIG_ADDR_LO Reg.TTRC_TRIG_ADDR_HI)))]),
  (
  let s : State := csTr 1 []
  let t : T64 := T
  let d := s.tduAt t
  [decide (s.tdu.live = true),
    decide (d.tracing = true)]),
  (
  let s : State := csTr 2 []
  let t : T64 := T
  let line : Fin 256 := 9
  let act : CoreAct := ⟨[], []⟩
  let d := s.tduAt t
  let e := d.core act
  [decide (s.tdu.live = true),
    decide (e.live = true),
    decide (e.rd Reg.TTRC_TRIG_SRC = 3),
    decide (e.rd Reg.TTRC_TRIG_ARG = line.val)]),
  (
  let s : State := trg 3
  let t : T64 := T
  let k : Fin 8 := 2
  let d := s.tduAt t
  [decide (s.tdu.live = true),
    decide (d.trgDue k.val d.now = true),
    decide (d.clocked = false ∨ d.timed = false)]),
  (
  let s : State := trg 1
  let t : T64 := T
  let k : Fin 8 := 2
  let d := s.tduAt t
  [decide (s.tdu.live = true),
    decide (d.trgDue k.val d.now = true),
    decide (d.timed = true),
    decide (s.tdu.clocked = true),
    decide (d.rd Reg.TEMIT_TRG_CTRL_KIND k.val ≠ 1),
    decide (d.rd Reg.TTRC_TRIG_SRC ≠ 4)]),
  (
  let s : State := csTr 2 [(Reg.TTRC_TRIG_SRC, 0)]
  let t : T64 := T
  let v : BitVec 32 := 2#32
  let d := s.tduAt t
  [decide (s.tdu.live = true),
    decide (v.toNat.testBit 0 = false),
    decide (v.toNat.testBit 1 = true),
    decide (d.rd (Reg.PG_LOCK 0x28) = 0),
    decide (d.rd Reg.TTRC_TRIG_SRC = 0)]),
  (
  let s : State := csTr 4 []
  let t : T64 := T
  let v : BitVec 32 := 1#32
  let d := s.tduAt t
  [decide (s.tdu.live = true),
    decide (v.toNat.testBit 0 = true),
    decide (v.toNat.testBit 1 = false),
    decide (d.rd (Reg.PG_LOCK 0x28) = 0)])] : List (List Bool)).all (·.all id) = true := by decide +kernel

theorem test_authorisationsStartAndEnd_meets : ([(
  let s : State := cau 1 (2 ^ 60)
  let t : T64 := T
  let a : DebugAuth := ⟨3, 2 ^ 60, 1⟩
  let d := s.tduAt t
  [decide (s.tdu.live = true),
    decide (d.trc.auth = some a),
    decide (d.rd Reg.TTRC_AUTH_STATE = 1),
    decide (d.timed = true),
    decide (a.notBefore ≤ d.now),
    decide (d.now < a.notAfter)]),
  (
  let s : State := cau 2 4
  let t : T64 := T
  let a : DebugAuth := ⟨3, 4, 1⟩
  let d := s.tduAt t
  [decide (s.tdu.live = true),
    decide (d.trc.auth = some a),
    decide (a.notAfter ≤ d.now),
    decide (d.rd Reg.TTRC_AUTH_STATE = 2),
    decide (d.tracing = false)]),
  (
  let s : State := cau 2 4
  let t : T64 := T
  let v : BitVec 32 := 1#32
  let d := s.tduAt t
  [decide (s.tdu.live = true),
    decide (v.toNat.testBit 0 = true),
    decide (d.rd (Reg.PG_LOCK 0x28) = 0),
    decide (d.rd Reg.TTRC_AUTH_STATE = 2),
    decide (d.tracing = false)])] : List (List Bool)).all (·.all id) = true := by decide +kernel

theorem test_interruptWindowsOpen_meets : ([(
  let s : State := State.reset
  let t : T64 := T
  [decide (s.tau.islPg = true),
    decide (t.toNat % 4000000000 ≠ 0)]),
  (
  let s : State := State.reset
  let t : T64 := T
  [decide (s.tdu.time.por = true),
    decide (t.toNat % 4000000000 ≠ 0)]),
  (
  let s : State := State.reset
  let t : T64 := T5
  let x := s.tauAt t
  [decide (t.toNat % 4000000000 = 0),
    decide (s.tau.islPg = true),
    decide (x.rd Reg.TTB_HOST_INTR_PEND = 0)]),
  (
  let s : State := State.reset.onTau (wt [(Reg.TTB_HOST_INTR_PEND, 5), (Reg.TTB_HOST_INTR_CAP, 3)])
  let t : T64 := T5
  let x := s.tauAt t
  [decide (t.toNat % 4000000000 = 0),
    decide (s.tau.islPg = true),
    decide (x.rd Reg.TTB_HOST_INTR_PEND ≠ 0),
    decide (0 < x.rd Reg.TTB_HOST_INTR_CAP)]),
  (
  let s : State := State.reset
  let t : T64 := T5
  let d := s.tduAt t
  [decide (t.toNat % 4000000000 = 0),
    decide (s.tdu.time.por = true),
    decide (d.rd Reg.TEMIT_INTR_PEND = 0)]),
  (
  let s : State := cs.onTdu (wd [(Reg.TEMIT_INTR_PEND, 5), (Reg.TEMIT_INTR_CAP, 3)])
  let t : T64 := T5
  let d := s.tduAt t
  [decide (t.toNat % 4000000000 = 0),
    decide (s.tdu.time.por = true),
    decide (d.rd Reg.TEMIT_INTR_PEND ≠ 0),
    decide (0 < d.rd Reg.TEMIT_INTR_CAP)])] : List (List Bool)).all (·.all id) = true := by decide +kernel

theorem test_screeningRuns_meets : ([(
  let s : State := ss 0 3000 id
  let t : T64 := T
  let k : Pack := pk1
  let i : Nat := 0
  let m : Nat := 0
  let len : Nat := 2200
  let l : List Nat := [0, 1]
  let d := s.tduAt t
  let f : Tdu := { d with free := d.free + 1, scr := { d.scr with waits := none } }
  let pr := f.stage i (k.blobs l)
  [decide (s.tdu.clocked = true),
    decide (d.rd Reg.TSCR_EN = 1),
    decide (d.scr.slice = none),
    decide (d.scr.waits = none),
    decide (d.dueRuns = [i]),
    decide (d.scr.packs.getD i none = some k),
    decide (d.nextSlice k = some (m, l, len)),
    decide (pr.2 = false)]),
  (
  let t : T64 := T
  let k : Pack := pk1
  let i : Nat := 0
  let m : Nat := 0
  let len : Nat := 2200
  let l : List Nat := [0, 1]
  let s : State := (ss 0 3000 id).onTdu fun d => { d with scr := { d.scr with copied := some (d.stageBase, pk1.blobs [0, 1]) } }
  let d := s.tduAt t
  let f : Tdu := { d with free := d.free + 1, scr := { d.scr with waits := none } }
  let pr := f.stage i (k.blobs l)
  let e : Tdu := pr.1
  [decide (s.tdu.clocked = true),
    decide (d.rd Reg.TSCR_EN = 1),
    decide (d.scr.slice = none),
    decide (d.scr.waits = none),
    decide (d.dueRuns = [i]),
    decide (d.scr.packs.getD i none = some k),
    decide (d.nextSlice k = some (m, l, len)),
    decide (pr.2 = true),
    decide (len ≤ e.rd Reg.TEMIT_SCR_CREDIT)]),
  (
  let t : T64 := T
  let k : Pack := pk1
  let i : Nat := 0
  let m : Nat := 0
  let len : Nat := 2200
  let l : List Nat := [0, 1]
  let s : State := (ss 0 9 id).onTdu fun d => { d with scr := { d.scr with copied := some (d.stageBase, pk1.blobs [0, 1]) } }
  let d := s.tduAt t
  let f : Tdu := { d with free := d.free + 1, scr := { d.scr with waits := none } }
  let pr := f.stage i (k.blobs l)
  let e : Tdu := pr.1
  [decide (s.tdu.clocked = true),
    decide (d.rd Reg.TSCR_EN = 1),
    decide (d.scr.slice = none),
    decide (d.scr.waits = none),
    decide (d.dueRuns = [i]),
    decide (d.scr.packs.getD i none = some k),
    decide (d.nextSlice k = some (m, l, len)),
    decide (pr.2 = true),
    decide (e.rd Reg.TEMIT_SCR_CREDIT < len)]),
  (
  let t : T64 := T
  let i : Nat := 0
  let s : State := (ss 0 3000 id).onTdu fun d => { d with scr := { d.scr with waits := some ((d.advance T).per, 0) } }
  let d := s.tduAt t
  [decide (s.tdu.clocked = true),
    decide (d.scr.slice = none),
    decide (d.scr.waits = some (d.per, i))]),
  (
  let s : State := ssl 1 0 5
  let t : T64 := T
  let v : Slice := sl1 0 5
  let d := s.tduAt t
  [decide (s.tdu.clocked = true),
    decide (d.scr.slice = some v),
    decide (d.rd Reg.TSCR_STATE = 1)]),
  (
  let s : State := ssl 1 0 5
  let t : T64 := T
  let k : Pack := pk1
  let v : Slice := sl1 0 5
  let d := s.tduAt t
  [decide (s.tdu.clocked = true),
    decide (d.scr.slice = some v),
    decide (d.rd Reg.TSCR_STATE = 1),
    decide (v.reqAt + d.rd Reg.TSCR_REQ_TMO ≤ d.per),
    decide (d.scr.packs.getD v.slot none = some k)]),
  (
  let s : State := ssl 2 T.toNat 5
  let t : T64 := T
  let k : Pack := pk1
  let v : Slice := sl1 T.toNat 5
  let d := s.tduAt t
  [decide (s.tdu.clocked = true),
    decide (d.scr.slice = some v),
    decide (d.rd Reg.TSCR_STATE = 2),
    decide (v.todo ≠ []),
    decide (d.scr.packs.getD v.slot none = some k),
    decide (d.now - v.start ≤ d.rd Reg.TSCR_MG_SETTLE)]),
  (
  let s : State := ssl 2 0 5
  let t : T64 := T
  let k : Pack := pk1
  let v : Slice := sl1 0 5
  let d := s.tduAt t
  [decide (s.tdu.clocked = true),
    decide (d.scr.slice = some v),
    decide (d.rd Reg.TSCR_STATE = 2),
    decide (v.todo ≠ []),
    decide (d.scr.packs.getD v.slot none = some k)])] : List (List Bool)).all (·.all id) = true := by decide +kernel

theorem test_screeningRuns_meets_2 : ([(
  let s : State := ssl 2 5 5
  let t : T64 := T
  let k : Pack := pk1
  let v : Slice := sl1 5 5
  let d := s.tduAt t
  [decide (s.tdu.clocked = true),
    decide (d.scr.slice = some v),
    decide (d.rd Reg.TSCR_STATE = 2),
    decide (v.todo ≠ []),
    decide (d.scr.packs.getD v.slot none = some k),
    decide (v.start + d.rd Reg.TSCR_MG_SETTLE ≤ d.now)]),
  (
  let s : State := ssl 4 0 5
  let t : T64 := T
  let v : Slice := sl1 0 5
  let d := s.tduAt t
  [decide (s.tdu.clocked = true),
    decide (d.scr.slice = some v),
    decide (d.rd Reg.TSCR_STATE = 4)]),
  (
  let s : State := ssl 3 0 5
  let t : T64 := T
  let k : Pack := pk1
  let v : Slice := sl1 0 5
  let i : Nat := 0
  let q : Pat := pat1
  let d := s.tduAt t
  [decide (s.tdu.clocked = true),
    decide (d.scr.slice = some v),
    decide (d.rd Reg.TSCR_STATE = 3),
    decide (d.scr.packs.getD v.slot none = some k),
    decide (k.pats[i]? = some q),
    decide (k.stop = none)]),
  (
  let s : State := ssl 3 0 4
  let t : T64 := T
  let k : Pack := pk1
  let v : Slice := sl1 0 4
  let i : Nat := 0
  let rest : List Nat := [1]
  let q : Pat := pat1
  let d := s.tduAt t
  let dig := Nat.xor v.n v.acc
  [decide (s.tdu.clocked = true),
    decide (d.scr.slice = some v),
    decide (d.rd Reg.TSCR_STATE = 3),
    decide (d.scr.packs.getD v.slot none = some k),
    decide (k.pats[i]? = some q),
    decide (k.stop = none),
    decide (v.todo = i :: rest),
    decide (v.n = q.words),
    decide (dig = q.expect)]),
  (
  let s : State := ssl 3 0 5
  let t : T64 := T
  let k : Pack := pk1
  let v : Slice := sl1 0 5
  let i : Nat := 0
  let rest : List Nat := [1]
  let q : Pat := pat1
  let d := s.tduAt t
  let dig := Nat.xor v.n v.acc
  [decide (s.tdu.clocked = true),
    decide (d.scr.slice = some v),
    decide (d.rd Reg.TSCR_STATE = 3),
    decide (d.scr.packs.getD v.slot none = some k),
    decide (k.pats[i]? = some q),
    decide (k.stop = none),
    decide (v.todo = i :: rest),
    decide (¬ (v.n = q.words ∧ dig = q.expect))]),
  (
  let s : State := ssl 3 0 5
  let t : T64 := T
  let k : Pack := pk1
  let v : Slice := sl1 0 5
  let i : Nat := 0
  let q : Pat := pat1
  let d := s.tduAt t
  [decide (s.tdu.clocked = true),
    decide (d.scr.slice = some v),
    decide (d.rd Reg.TSCR_STATE = 3),
    decide (d.scr.packs.getD v.slot none = some k),
    decide (k.pats[i]? = some q),
    decide (k.stop = none),
    decide (v.start + v.len ≤ d.now + d.rd Reg.TSCR_MG_SETTLE)])] : List (List Bool)).all (·.all id) = true := by decide +kernel

theorem test_dieTapsAnswer_meets : ([(
  let s : State := tp
  [decide (s.tdu.live = true)]),
  (
  let t : T64 := T
  let payload : List Byte := [1]
  let g : FlitTag := g1
  let s : State := tp.onTdu fun d => { d with tap := { d.tap with res := [none, none, none, none] } }
  let d := s.tduAt t
  [decide (s.tdu.live = true),
    decide (g.tap = true),
    decide (payload.length % 8 ≠ 0),
    decide (d.tap.res = [none, none, none, none]),
    decide ((∀ f ∈ d.tap.filt, f.st = 0))]),
  (
  let t : T64 := T
  let link : Fin 2 := 0
  let dir : Fin 2 := 0
  let payload : List Byte := leBytes 8 77 ++ leBytes 8 99
  let g : FlitTag := g1
  let f0 : Filter := { Filter.reset with st := 1, job := 5, m := ⟨9, 2, 0, 16, 0xFFFFFF, 0xFFFFFF, false⟩ }
  let k : TapKey := tk
  let ts := tagTerms g (tapPoint k.j g.coll) payload
  let fs := ts.filter fun t => f0.m.inRange t.1
  let s : State := tp.onTdu fun d => { d with tap := { d.tap with res := [none, none, none, none], filt := [{ Filter.reset with st := 1, job := 5, m := ⟨9, 2, 0, 16, 0xFFFFFF, 0xFFFFFF, false⟩ }, Filter.reset] } }
  let d := s.tduAt t
  [decide (s.tdu.live = true),
    decide (payload.length % 8 = 0),
    decide ((d.rd Reg.TTAP_LINK_EN).testBit link.val = true),
    decide (d.tap.res = [none, none, none, none]),
    decide (d.tap.filt = [f0, Filter.reset]),
    decide (f0.st = 1),
    decide (f0.link = link.val),
    decide (f0.dir = dir.val),
    decide (f0.m.hits g = true),
    decide (d.tapKey f0.job = some k),
    decide (fs ≠ [])]),
  (
  let s : State := tp
  let t : T64 := T
  let link : Fin 2 := 0
  let payload : List Byte := leBytes 8 77 ++ leBytes 8 99
  let g : FlitTag := g1
  let v : ResSlot := rs
  let k : TapKey := tk
  let d := s.tduAt t
  [decide (s.tdu.live = true),
    decide (g.tap = true),
    decide (payload.length % 8 = 0),
    decide (g.result = true),
    decide (g.own = true),
    decide ((d.rd Reg.TTAP_LINK_EN).testBit link.val = true),
    decide (d.tap.res = [some v, none, none, none]),
    decide (v.coll = g.coll),
    decide (v.st = 1),
    decide (v.inst = g.inst),
    decide (d.tapKey v.job = some k),
    decide ((∀ f ∈ d.tap.filt, f.st = 0))]),
  (
  let s : State := cs
  let r : List Byte := (sv0 2).record
  let v := Survey.parse (r.drop 8)
  [decide (s.tdu.live = true),
    decide (surveyRecOk r = true),
    decide (v.kind = 2)]),
  (
  let s : State := cs
  let t : T64 := T
  let r : List Byte := (sv0 3).record
  let i : Nat := 0
  let d := s.tduAt t
  let v := Survey.parse (r.drop 8)
  let a := d.tap.filt.getD (fieldAt v.par 6 1 % 2) Filter.reset
  [decide (s.tdu.live = true),
    decide (surveyRecOk r = true),
    decide (v.kind = 3),
    decide (firstIdx Option.isNone d.srv.slots = some i),
    decide (a.st ≠ 1),
    decide (a.st ≠ 2)]),
  (
  let t : T64 := T
  let r : List Byte := (sv0 3).record
  let f : Fin 2 := 0
  let i : Nat := 0
  let v := Survey.parse (r.drop 8)
  let s : State := (csFi 2).onTdu fun d => d.setFilter 0 fun f => { f with st := 2 }
  let d := s.tduAt t
  let a := d.tap.filt.getD (fieldAt v.par 6 1 % 2) Filter.reset
  [decide (s.tdu.live = true),
    decide (surveyRecOk r = true),
    decide (v.kind = 3),
    decide (firstIdx Option.isNone d.srv.slots = some i),
    decide (a.st = 1 ∨ a.st = 2)]),
  (
  let s : State := csB
  let t : T64 := T
  let r : List Byte := (sv0 3).record
  let d := s.tduAt t
  let v := Survey.parse (r.drop 8)
  [decide (s.tdu.live = true),
    decide (surveyRecOk r = true),
    decide (v.kind = 3),
    decide (firstIdx Option.isNone d.srv.slots = none)])] : List (List Bool)).all (·.all id) = true := by decide +kernel

theorem test_dieTapsAnswer_meets_2 : ([(
  let s : State := cs
  let r : List Byte := [1, 2]
  [decide (s.tdu.live = true),
    decide (surveyRecOk r = false)]),
  (
  let s : State := csFi 0
  let t : T64 := T
  let p : Nat := 3
  let d := s.tduAt t
  [decide (s.tdu.live = true),
    decide (d.tap.store.frozen = some p),
    decide (p + d.rd Reg.TTAP_CH_HOLD ≤ d.per)]),
  (
  let s : State := csFi 1
  let t : T64 := T
  let f : Fin 2 := 1
  let d := s.tduAt t
  let g := d.tap.filt.getD f.val Filter.reset
  [decide (s.tdu.live = true),
    decide (g.deadline ≤ d.per),
    decide (g.st = 1)]),
  (
  let s : State := csFi 2
  let t : T64 := T
  let f : Fin 2 := 1
  let d := s.tduAt t
  let g := d.tap.filt.getD f.val Filter.reset
  [decide (s.tdu.live = true),
    decide (g.deadline ≤ d.per),
    decide (g.st = 2)]),
  (
  let s : State := csFi 0
  let t : T64 := T
  let f : Fin 2 := 1
  let d := s.tduAt t
  let g := d.tap.filt.getD f.val Filter.reset
  [decide (s.tdu.live = true),
    decide (g.deadline ≤ d.per),
    decide (g.st = 0)])] : List (List Bool)).all (·.all id) = true := by decide +kernel

theorem test_dieAnswersSurveys_meets : ([(
  let s : State := cs
  let t : T64 := T
  let r : List Byte := (sv0 0).record
  let i : Nat := 0
  let d := s.tduAt t
  let v := Survey.parse (r.drop 8)
  [decide (s.tdu.live = true),
    decide (surveyRecOk r = true),
    decide (v.kind = 0),
    decide (firstIdx Option.isNone d.srv.slots = some i)]),
  (
  let s : State := cs
  let t : T64 := T
  let r : List Byte := (sv0 1).record
  let i : Nat := 0
  let d := s.tduAt t
  let v := Survey.parse (r.drop 8)
  [decide (s.tdu.live = true),
    decide (surveyRecOk r = true),
    decide (v.kind = 1),
    decide (firstIdx Option.isNone d.srv.slots = some i)]),
  (
  let s : State := csB
  let t : T64 := T
  let r : List Byte := (sv0 1).record
  let d := s.tduAt t
  let v := Survey.parse (r.drop 8)
  [decide (s.tdu.live = true),
    decide (surveyRecOk r = true),
    decide (v.kind < 2),
    decide (firstIdx Option.isNone d.srv.slots = none)]),
  (
  let s : State := csB
  let r : List Byte := cancelRec 3 64 1
  [decide (s.tdu.live = true),
    decide (ctlOk 0xBD r = true),
    decide (r.length = 24)]),
  (
  let s : State := cs
  let t : T64 := T
  let r : List Byte := probeRec 64 5
  let link : Fin 2 := 0
  let d := s.tduAt t
  let a := d.probeAnswer r link.val
  [decide (s.tdu.live = true),
    decide (ctlOk 0xB4 r = true),
    decide (r.length = 32),
    decide (fieldAt r 16 3 = d.rd Reg.TGEN_RANK),
    decide (d.rd Reg.TGEN_RANK ≠ 0xFFFFFF),
    decide (d.timed = true),
    decide ((d.lnk link.val).up = true),
    decide (d.ctl.outq = []),
    decide (vcUnits a ≤ (d.lnk link.val).credit)]),
  (
  let t : T64 := T
  let r : List Byte := probeRec 64 5
  let link : Fin 2 := 0
  let s : State := cs.onTdu fun d => d.setLnk 0 fun k => { k with up := false }
  let d := s.tduAt t
  let a := d.probeAnswer r link.val
  [decide (s.tdu.live = true),
    decide (ctlOk 0xB4 r = true),
    decide (r.length = 32),
    decide (fieldAt r 16 3 = d.rd Reg.TGEN_RANK),
    decide (d.rd Reg.TGEN_RANK ≠ 0xFFFFFF),
    decide (d.timed = true),
    decide ((d.lnk link.val).up = false ∨ (d.lnk link.val).credit < vcUnits a)])] : List (List Bool)).all (·.all id) = true := by decide +kernel

theorem test_strobesPendOrCommit_meets : ([(
  let s : State := booted 0
  let t : T64 := T
  let v : BitVec 32 := 0x34#32
  let x := s.tauAt t
  [decide (s.tau.on = true),
    decide (x.scMask = 0),
    decide (v.toNat.testBit 16 = false)]),
  (
  let s : State := booted 0
  let t : T64 := T
  let v : BitVec 32 := 0x1FFFF#32
  let x := s.tauAt t
  [decide (s.tau.on = true),
    decide (x.scMask = 0),
    decide (v.toNat.testBit 16 = true)]),
  (
  let s : State := live0
  let t : T64 := T
  let v : BitVec 32 := 0x34#32
  let act : CoreAct := ⟨[], []⟩
  let d := (s.tduAt t).core act
  [decide (s.tdu.time.por = true),
    decide (d.reachable = true),
    decide (schedMask d.emit.sc = 0),
    decide (v.toNat.testBit 16 = false)]),
  (
  let s : State := live0
  let t : T64 := T
  let v : BitVec 32 := 0x1FFFF#32
  let act : CoreAct := ⟨[], []⟩
  let d := (s.tduAt t).core act
  [decide (s.tdu.time.por = true),
    decide (d.reachable = true),
    decide (schedMask d.emit.sc = 0),
    decide (v.toNat.testBit 16 = true)])] : List (List Bool)).all (·.all id) = true := by decide +kernel

theorem test_diePathsAndPeriodsRun_meets : ([(
  let s : State := cs3
  let t : T64 := T
  let d := s.tduAt t
  [decide (s.tdu.time.por = true),
    decide (d.timed = false)]),
  (
  let s : State := cs
  let t : T64 := T
  let d := s.tduAt t
  [decide (s.tdu.time.por = true),
    decide (s.tdu.clocked = true),
    decide (d.timed = true),
    decide (d.emit.sched = []),
    decide (d.emit.unsched = []),
    decide (d.emit.gap = []),
    decide (d.emit.resend = none),
    decide (d.cap.samples = []),
    decide (d.trc.ring = []),
    decide (d.srv.wait = []),
    decide ((∀ o ∈ d.srv.slots, o = none)),
    decide ((∀ ie ∈ d.entries, ie.2.path ≠ T64.path d.ft))]),
  (
  let s : State := cs3.onTdu fun d => { d with time := { d.time with clock := false } }
  let t : T64 := T
  let act : CoreAct := ⟨[], []⟩
  let c := (s.tduAt t).core act
  [decide (s.tdu.time.por = true),
    decide (c.clocked = false)]),
  (
  let s : State := cs3
  let t : T64 := T2
  let act : CoreAct := ⟨[], []⟩
  let c := (s.tduAt t).core act
  [decide (s.tdu.time.por = true),
    decide (c.clocked = true),
    decide (c.timed = false)]),
  (
  let s : State := synced
  let t : T64 := T2
  let act : CoreAct := ⟨[], []⟩
  let c := (s.tduAt t).core act
  [decide (s.tdu.time.por = true),
    decide (c.clocked = true),
    decide (c.timed = true)]),
  (
  let s : State := synced
  [decide (s.tdu.time.por = true)])] : List (List Bool)).all (·.all id) = true := by decide +kernel

theorem test_tauBoundaries_meets : ([(
  let s : State := bq []
  let t : T64 := T
  let x := s.tauAt t
  [decide (s.tau.islPg = true),
    decide (s.tau.main = true),
    decide (x.eg.msg = [])]),
  (
  let s : State := bq []
  [decide (s.tau.islPg = true),
    decide (s.tau.main = true)]),
  (
  let t : T64 := T
  let s : State := (bq []).onTau fun x => { x with main := false }
  let x := s.tauAt t
  let n : Tau := x.acceptAtBoundary.programFuses.nbrTimers
  let i : Tau := { n with cip := { n.cip with failed := [] } }
  [decide (s.tau.islPg = true),
    decide (i.on = false)]),
  (
  let s : State := bq []
  let t : T64 := T
  let x := s.tauAt t
  let n : Tau := x.acceptAtBoundary.programFuses.nbrTimers
  let i : Tau := { n with cip := { n.cip with failed := [] } }
  [decide (s.tau.islPg = true),
    decide (i.on = true)])] : List (List Bool)).all (·.all id) = true := by decide +kernel

theorem test_linksCarry_meets : ([(
  let s : State := ctxs []
  let t : T64 := T
  let l : Fin 32 := 0
  let y := s.tau.advance t
  [decide (s.tau.on = true),
    decide ((y.vc l.val).wait = [])]),
  (
  let s : State := State.reset
  [decide (s.tau.on = true)]),
  (
  let t : T64 := T
  let l : Fin 32 := 17
  let r : List Byte := zeros 40
  let c := l.val % 16
  let s : State := (bq []).onTau fun x => x.setDown 1 fun p => { p with last := some (17, zeros 40) }
  let y := s.tau.advance t
  let k := y.vcCount l.val
  [decide (s.tau.on = true),
    decide ((k.eg.down.getD c DownPort.reset).last = some (l.val, r))]),
  (
  let s : State := ctxs []
  let t : T64 := T
  let l : Fin 32 := 0
  let x := s.tauAt t
  [decide (s.tau.on = true),
    decide ((x.vc l.val).wait = [])]),
  (
  let s : State := synced
  [decide (s.tdu.time.por = true)]),
  (
  let s : State := cs
  let t : T64 := T
  let d := s.tduAt t
  [decide (s.tdu.time.por = true),
    decide (d.emit.last = none)]),
  (
  let s : State := bq [(Reg.GEN_ATTACH_STAT_STATE, 2), (Reg.GEN_PRI_PARENT, 64)]
  let t : T64 := TT
  let base : Nat := 64
  let x := s.tauAt t
  let e : QRec := ((x.eg.up.start (x.rd Reg.SHP_UP_RATE) x.now).getD (qr, EgPort.reset 0)).1
  let p : EgPort := ((x.eg.up.start (x.rd Reg.SHP_UP_RATE) x.now).getD (qr, EgPort.reset 0)).2
  [decide (s.tau.on = true),
    decide (x.eg.up.start (x.rd Reg.SHP_UP_RATE) x.now = some (e, p)),
    decide (e.dst = none),
    decide (x.parent = some base)]),
  (
  let t : T64 := TT
  let reach : Bool := false
  let base : Nat := 64
  let s : State := (bq [(Reg.GEN_ATTACH_STAT_STATE, 2), (Reg.GEN_PRI_PARENT, 9)]).onTau fun x => { x with eg := { x.eg with up := { x.eg.up with qs := modifyAt (fun _ => [{ qr with dst := some 64 }]) 1 x.eg.up.qs } } }
  let x := s.tauAt t
  let e : QRec := ((x.eg.up.start (x.rd Reg.SHP_UP_RATE) x.now).getD (qr, EgPort.reset 0)).1
  let p : EgPort := ((x.eg.up.start (x.rd Reg.SHP_UP_RATE) x.now).getD (qr, EgPort.reset 0)).2
  [decide (s.tau.on = true),
    decide (x.eg.up.start (x.rd Reg.SHP_UP_RATE) x.now = some (e, p)),
    decide (e.dst = some base),
    decide (isTrain e.bytes = false ∨ reach = true)])] : List (List Bool)).all (·.all id) = true := by decide +kernel

theorem test_linksCarry_meets_2 : ([(
  let t : T64 := TT
  let reach : Bool := false
  let base : Nat := 64
  let s : State := (bq [(Reg.GEN_ATTACH_STAT_STATE, 2), (Reg.GEN_PRI_PARENT, 9)]).onTau fun x => { x with eg := { x.eg with up := { x.eg.up with qs := modifyAt (fun _ => [{ qr with dst := some 64, bytes := coach 6 7 5 3 (zeros 64) }]) 1 x.eg.up.qs } } }
  let x := s.tauAt t
  let e : QRec := ((x.eg.up.start (x.rd Reg.SHP_UP_RATE) x.now).getD (qr, EgPort.reset 0)).1
  let p : EgPort := ((x.eg.up.start (x.rd Reg.SHP_UP_RATE) x.now).getD (qr, EgPort.reset 0)).2
  [decide (s.tau.on = true),
    decide (x.eg.up.start (x.rd Reg.SHP_UP_RATE) x.now = some (e, p)),
    decide (e.dst = some base),
    decide (isTrain e.bytes = true),
    decide (reach = false)]),
  (
  let s : State := booted 1
  let t : T64 := TT
  let x := s.tauAt t
  [decide (s.tau.on = true),
    decide (x.eg.up.start (x.rd Reg.SHP_UP_RATE) x.now = none)]),
  (
  let s : State := bq [(Reg.GEN_ATTACH_STAT_STATE, 2), (Reg.GEN_PRI_PARENT, 64)]
  let t : T64 := TT
  let x := s.tauAt t
  let e : QRec := ((x.eg.sb.start (x.rd Reg.SHP_SB_RATE) x.now).getD (qr, EgPort.reset 0)).1
  let p : EgPort := ((x.eg.sb.start (x.rd Reg.SHP_SB_RATE) x.now).getD (qr, EgPort.reset 0)).2
  [decide (s.tau.on = true),
    decide (x.eg.sb.start (x.rd Reg.SHP_SB_RATE) x.now = some (e, p))]),
  (
  let s : State := booted 1
  let t : T64 := TT
  let reach : Bool := false
  let x := s.tauAt t
  [decide (s.tau.on = true),
    decide (reach = false),
    decide (x.rd Reg.MGMT_EXP_CTRL_EN = 0)]),
  (
  let t : T64 := TT
  let reach : Bool := false
  let cur : Grant := gr0
  let s : State := (bootedWith 1 [(Reg.MGMT_EXP_CTRL_EN, 1)]).onTau fun x => { x with cip := { x.cip with cur := some gr0 }, eg := { x.eg with ex := { x.eg.ex with qs := modifyAt (fun _ => [{ qr with tpl := 256 }]) 1 x.eg.ex.qs }, tplSent := [256] } }
  let x := s.tauAt t
  let e : QRec := ((x.eg.ex.start (x.rd Reg.SHP_EXP_RATE) x.now).getD (qr, EgPort.reset 0)).1
  let p : EgPort := ((x.eg.ex.start (x.rd Reg.SHP_EXP_RATE) x.now).getD (qr, EgPort.reset 0)).2
  [decide (s.tau.on = true),
    decide (reach = false),
    decide (x.rd Reg.MGMT_EXP_CTRL_EN = 1),
    decide (x.cip.cur = some cur),
    decide (x.rd Reg.MGMT_EXP_CTRL_VIA ≠ 3),
    decide (x.eg.ex.start (x.rd Reg.SHP_EXP_RATE) x.now = some (e, p)),
    decide (16 + msgLen 0 x.eg.msg + ((if msgLast x.eg.msg = e.tpl then 0 else 4) + e.bytes.length) ≤ x.rd Reg.MGMT_MTU - 80),
    decide (x.eg.tplSent.contains e.tpl = true)]),
  (
  let s : State := bq [(Reg.GEN_ATTACH_STAT_STATE, 2), (Reg.GEN_PRI_PARENT, 64)]
  let t : T64 := TT
  let c : Fin 64 := 5
  let q : QRec := qr
  let x := s.tauAt t
  let k := ((x.eg.down.getD c.val DownPort.reset).settle (x.rd Reg.SHP_DN_RATE) x.now).letIn x.now 4096
  [decide (s.tau.on = true),
    decide (k.fifo = [q]),
    decide (0 ≤ k.credit),
    decide (x.isTray = false)]),
  (
  let t : T64 := TT
  let l : Nat := 5
  let rest : List Nat := []
  let p : EgPort := State.reset.tau.eg.up
  let c : Fin 64 := 5
  let q : QRec := qr
  let s : State := (bootedWith 0 []).onTau fun x => { x with links := 0x20, eg := { x.eg with down := modifyAt (fun p => { p with fifo := [qr] }) 5 x.eg.down, vc := x.eg.vc.map fun v => { v with credit := 128 } } }
  let x := s.tauAt t
  let k := ((x.eg.down.getD c.val DownPort.reset).settle (x.rd Reg.SHP_DN_RATE) x.now).letIn x.now 4096
  [decide (s.tau.on = true),
    decide (k.fifo = [q]),
    decide (0 ≤ k.credit),
    decide (x.isTray = true),
    decide (x.dieLinks c.val = l :: rest),
    decide ((x.vc l).wait = []),
    decide (vcUnits q.bytes ≤ (x.vc l).credit)]),
  (
  let t : T64 := TT
  let cur : Grant := gr0
  let s : State := (bootedWith 1 [(Reg.MGMT_EXP_CTRL_EN, 1)]).onTau fun x => { x with cip := { x.cip with cur := some gr0 } }
  let x := s.tauAt t
  [decide (s.tau.on = true),
    decide (x.rd Reg.MGMT_EXP_CTRL_EN = 1),
    decide (x.cip.cur = some cur),
    decide (x.templatesDue = true)])] : List (List Bool)).all (·.all id) = true := by decide +kernel

theorem test_linksCarry_meets_3 : ([(
  let s : State := booted 0
  let t : T64 := T
  let x := s.tauAt t
  [decide (s.tau.on = true),
    decide (x.templatesDue = false)]),
  (
  let s : State := booted 1
  let t : T64 := TT
  let x := s.tauAt t
  [decide (s.tau.on = true),
    decide (x.rd Reg.MGMT_EXP_CTRL_VIA = 0),
    decide (x.portUp 0 = true)]),
  (
  let s : State := bootedWith 1 [(Reg.MGMT_PORT_CFG_EN, 0)]
  let t : T64 := TT
  let x := s.tauAt t
  [decide (s.tau.on = true),
    decide (x.portUp 0 = false),
    decide (x.portUp 1 = false)]),
  (
  let s : State := bootedWith 1 [(Reg.MGMT_EXP_CTRL_VIA, 2)]
  let t : T64 := T
  let x := s.tauAt t
  [decide (s.tau.on = true),
    decide (x.rd Reg.MGMT_EXP_CTRL_VIA = 2),
    decide (x.portUp 0 = true),
    decide (x.portUp 1 = true)]),
  (
  let t : T64 := T
  let c : Fin 64 := 3
  let r : List Byte := zeros 4000
  let s : State := row1.onTau fun x => x.wr Reg.SHP_PBS 0 3
  let x := s.tauAt t
  let pr := x.meterIn c.val r.length
  let j : Nat := pr.2
  [decide (s.tau.on = true),
    decide ((x.kid c.val).isSome = true),
    decide (j = 2)]),
  (
  let s : State := row1
  let t : T64 := T
  let c : Fin 64 := 3
  let r : List Byte := lastFrag
  let x := s.tauAt t
  let pr := x.meterIn c.val r.length
  let j : Nat := pr.2
  [decide (s.tau.on = true),
    decide ((x.kid c.val).isSome = true),
    decide (j < 2)])] : List (List Bool)).all (·.all id) = true := by decide +kernel

theorem test_recordsAreReceived_meets : ([(
  let t : T64 := T
  let from_ : Sender := .link 3
  let r : List Byte := leBytes 1 1 ++ zeros 1 ++ leBytes 2 65528 ++ zeros 28
  let c : Nat := 3
  let s : State := (kid3 0 1 []).onTau fun x => x.wr Reg.SHP_PBS 0 3
  let x := match from_ with | .link l => (s.tauAt t).vcReturn l r.length | _ => s.tauAt t
  let a := x.whence from_
  let pr := x.meterIn c (fieldAt r 2 2)
  let k : Nat := pr.2
  [decide (s.tau.on = true),
    decide ((fieldAt r 0 1).testBit 7 = false),
    decide (x.lostAt from_ = false),
    decide (a.kid = some c),
    decide (k = 2)]),
  (
  let s : State := kid3 0 1 []
  let t : T64 := T
  let from_ : Sender := .link 3
  let r : List Byte := zeros 32
  let c : Nat := 3
  let x := match from_ with | .link l => (s.tauAt t).vcReturn l r.length | _ => s.tauAt t
  let a := x.whence from_
  let pr := x.meterIn c (fieldAt r 2 2)
  let k : Nat := pr.2
  let z : Tau := pr.1
  [decide (s.tau.on = true),
    decide ((fieldAt r 0 1).testBit 7 = false),
    decide (x.lostAt from_ = false),
    decide (a.kid = some c),
    decide (k < 2),
    decide (0 < z.coachFault (some c) r)]),
  (
  let s : State := kid3 0 1 []
  let t : T64 := T
  let from_ : Sender := .link 3
  let r : List Byte := coach 4 0xFFFF 5 9 (zeros 16 ++ leBytes 1 5 ++ zeros 27)
  let c : Nat := 3
  let x := match from_ with | .link l => (s.tauAt t).vcReturn l r.length | _ => s.tauAt t
  let a := x.whence from_
  let pr := x.meterIn c (fieldAt r 2 2)
  let k : Nat := pr.2
  let z : Tau := pr.1
  [decide (s.tau.on = true),
    decide ((fieldAt r 0 1).testBit 7 = false),
    decide (x.lostAt from_ = false),
    decide (a.kid = some c),
    decide (k < 2),
    decide (z.coachFault (some c) r = 0),
    decide (z.stale (Hdr.parse r) = true)]),
  (
  let s : State := kid3 0 1 []
  let t : T64 := T
  let from_ : Sender := .link 3
  let r : List Byte := coach 0 0xFF00 0xFFFF 0 []
  let c : Nat := 3
  let x := match from_ with | .link l => (s.tauAt t).vcReturn l r.length | _ => s.tauAt t
  let a := x.whence from_
  let pr := x.meterIn c (fieldAt r 2 2)
  let k : Nat := pr.2
  let z : Tau := pr.1
  let q := z.federate c r
  [decide (s.tau.on = true),
    decide ((fieldAt r 0 1).testBit 7 = false),
    decide (x.lostAt from_ = false),
    decide (a.kid = some c),
    decide (k < 2),
    decide (z.coachFault (some c) r = 0),
    decide (z.stale (Hdr.parse r) = false),
    decide ((Hdr.parse q).cls = 0 ∨ (Hdr.parse q).cls = 1 ∨ (Hdr.parse q).cls = 6)]),
  (
  let s : State := kid3 0 1 []
  let t : T64 := T
  let from_ : Sender := .link 3
  let r : List Byte := coach 3 0xFF01 0xFFFF 0 (zeros 28)
  let c : Nat := 3
  let x := match from_ with | .link l => (s.tauAt t).vcReturn l r.length | _ => s.tauAt t
  let a := x.whence from_
  let pr := x.meterIn c (fieldAt r 2 2)
  let k : Nat := pr.2
  let z : Tau := pr.1
  let q := z.federate c r
  [decide (s.tau.on = true),
    decide ((fieldAt r 0 1).testBit 7 = false),
    decide (x.lostAt from_ = false),
    decide (a.kid = some c),
    decide (k < 2),
    decide (z.coachFault (some c) r = 0),
    decide (z.stale (Hdr.parse r) = false),
    decide ((Hdr.parse q).cls = 2 ∨ (Hdr.parse q).cls = 3)]),
  (
  let s : State := kid3 0 1 []
  let t : T64 := T
  let from_ : Sender := .link 3
  let r : List Byte := coach 4 7 5 3 (zeros 16 ++ leBytes 1 2 ++ zeros 3)
  let c : Nat := 3
  let x := match from_ with | .link l => (s.tauAt t).vcReturn l r.length | _ => s.tauAt t
  let a := x.whence from_
  let pr := x.meterIn c (fieldAt r 2 2)
  let k : Nat := pr.2
  let z : Tau := pr.1
  let q := z.federate c r
  [decide (s.tau.on = true),
    decide ((fieldAt r 0 1).testBit 7 = false),
    decide (x.lostAt from_ = false),
    decide (a.kid = some c),
    decide (k < 2),
    decide (z.coachFault (some c) r = 0),
    decide (z.stale (Hdr.parse r) = false),
    decide ((Hdr.parse q).cls = 4),
    decide (fieldAt q 40 1 ≠ 4),
    decide (fieldAt q 40 1 ≠ 5)]),
  (
  let s : State := kid3 0 1 []
  let t : T64 := T
  let from_ : Sender := .link 3
  let r : List Byte := coach 4 7 5 3 (zeros 16 ++ leBytes 1 4 ++ zeros 35)
  let c : Nat := 3
  let x := match from_ with | .link l => (s.tauAt t).vcReturn l r.length | _ => s.tauAt t
  let a := x.whence from_
  let pr := x.meterIn c (fieldAt r 2 2)
  let k : Nat := pr.2
  let z : Tau := pr.1
  let q := z.federate c r
  [decide (s.tau.on = true),
    decide ((fieldAt r 0 1).testBit 7 = false),
    decide (x.lostAt from_ = false),
    decide (a.kid = some c),
    decide (k < 2),
    decide (z.coachFault (some c) r = 0),
    decide (z.stale (Hdr.parse r) = false),
    decide ((Hdr.parse q).cls = 4),
    decide (fieldAt q 40 1 = 4)]),
  (
  let s : State := kid3 0 1 []
  let t : T64 := T
  let from_ : Sender := .link 3
  let r : List Byte := coach 4 0xFFFF 5 3 (zeros 16 ++ leBytes 1 5 ++ zeros 27)
  let c : Nat := 3
  let x := match from_ with | .link l => (s.tauAt t).vcReturn l r.length | _ => s.tauAt t
  let a := x.whence from_
  let pr := x.meterIn c (fieldAt r 2 2)
  let k : Nat := pr.2
  let z : Tau := pr.1
  let q := z.federate c r
  [decide (s.tau.on = true),
    decide ((fieldAt r 0 1).testBit 7 = false),
    decide (x.lostAt from_ = false),
    decide (a.kid = some c),
    decide (k < 2),
    decide (z.coachFault (some c) r = 0),
    decide (z.stale (Hdr.parse r) = false),
    decide ((Hdr.parse q).cls = 4),
    decide (fieldAt q 40 1 = 5),
    decide (z.isTray = true)])] : List (List Bool)).all (·.all id) = true := by decide +kernel

theorem test_recordsAreReceived_meets_2 : ([(
  let s : State := kid3 0 1 []
  let t : T64 := T
  let from_ : Sender := .link 3
  let r : List Byte := coach 5 0xFFFF 0xFFFF 0 (zeros 8 ++ leBytes 1 2 ++ zeros 99)
  let c : Nat := 3
  let x := match from_ with | .link l => (s.tauAt t).vcReturn l r.length | _ => s.tauAt t
  let a := x.whence from_
  let pr := x.meterIn c (fieldAt r 2 2)
  let k : Nat := pr.2
  let z : Tau := pr.1
  let q := z.federate c r
  [decide (s.tau.on = true),
    decide ((fieldAt r 0 1).testBit 7 = false),
    decide (x.lostAt from_ = false),
    decide (a.kid = some c),
    decide (k < 2),
    decide (z.coachFault (some c) r = 0),
    decide (z.stale (Hdr.parse r) = false),
    decide ((Hdr.parse q).cls = 5),
    decide (fieldAt q 32 1 = 2),
    decide (z.isTray = true)]),
  (
  let s : State := kid3 0 1 []
  let t : T64 := T
  let from_ : Sender := .link 3
  let r : List Byte := coach 5 0xFFFF 0xFFFF 0 (zeros 8 ++ leBytes 1 3 ++ zeros 43)
  let c : Nat := 3
  let x := match from_ with | .link l => (s.tauAt t).vcReturn l r.length | _ => s.tauAt t
  let a := x.whence from_
  let pr := x.meterIn c (fieldAt r 2 2)
  let k : Nat := pr.2
  let z : Tau := pr.1
  let q := z.federate c r
  [decide (s.tau.on = true),
    decide ((fieldAt r 0 1).testBit 7 = false),
    decide (x.lostAt from_ = false),
    decide (a.kid = some c),
    decide (k < 2),
    decide (z.coachFault (some c) r = 0),
    decide (z.stale (Hdr.parse r) = false),
    decide ((Hdr.parse q).cls = 5),
    decide (fieldAt q 32 1 = 3)]),
  (
  let s : State := kid3 0 1 []
  let t : T64 := T
  let from_ : Sender := .link 3
  let r : List Byte := coach 5 0xFFFF 0xFFFF 0 (zeros 8 ++ leBytes 1 4 ++ zeros 15)
  let c : Nat := 3
  let x := match from_ with | .link l => (s.tauAt t).vcReturn l r.length | _ => s.tauAt t
  let a := x.whence from_
  let pr := x.meterIn c (fieldAt r 2 2)
  let k : Nat := pr.2
  let z : Tau := pr.1
  let q := z.federate c r
  [decide (s.tau.on = true),
    decide ((fieldAt r 0 1).testBit 7 = false),
    decide (x.lostAt from_ = false),
    decide (a.kid = some c),
    decide (k < 2),
    decide (z.coachFault (some c) r = 0),
    decide (z.stale (Hdr.parse r) = false),
    decide ((Hdr.parse q).cls = 5),
    decide (3 < fieldAt q 32 1)]),
  (
  let s : State := kid3 0 1 []
  let t : T64 := T
  let from_ : Sender := .link 3
  let r : List Byte := coach 7 0xFFFF 0xFFFF 0 (zeros 12 ++ leBytes 2 1 ++ zeros 11)
  let c : Nat := 3
  let x := match from_ with | .link l => (s.tauAt t).vcReturn l r.length | _ => s.tauAt t
  let a := x.whence from_
  let pr := x.meterIn c (fieldAt r 2 2)
  let k : Nat := pr.2
  let z : Tau := pr.1
  let q := z.federate c r
  [decide (s.tau.on = true),
    decide ((fieldAt r 0 1).testBit 7 = false),
    decide (x.lostAt from_ = false),
    decide (a.kid = some c),
    decide (k < 2),
    decide (z.coachFault (some c) r = 0),
    decide (z.stale (Hdr.parse r) = false),
    decide (6 < (Hdr.parse q).cls)]),
  (
  let s : State := sect 3 [] []
  let t : T64 := T
  let from_ : Sender := .link 18
  let r : List Byte := zeros 32
  let x := match from_ with | .link l => (s.tauAt t).vcReturn l r.length | _ => s.tauAt t
  [decide (s.tau.on = true),
    decide ((fieldAt r 0 1).testBit 7 = false),
    decide (x.lostAt from_ = true)]),
  (
  let s : State := kid3 0 1 []
  let t : T64 := T
  let from_ : Sender := .link 4
  let r : List Byte := zeros 32
  let x := match from_ with | .link l => (s.tauAt t).vcReturn l r.length | _ => s.tauAt t
  [decide (s.tau.on = true),
    decide ((fieldAt r 0 1).testBit 7 = false),
    decide (x.lostAt from_ = false),
    decide ((x.whence from_).kid = none)]),
  (
  let s : State := booted 0
  let t : T64 := T
  let port : Fin 16 := 0
  let x := s.tauAt t
  [decide (s.tau.on = true),
    decide (x.dead (x.lhEngine port.val) = false)]),
  (
  let s : State := sect 3 [] []
  let t : T64 := T
  let port : Fin 16 := 2
  let x := s.tauAt t
  [decide (s.tau.on = true),
    decide (x.dead (x.lhEngine port.val) = true)])] : List (List Bool)).all (·.all id) = true := by decide +kernel

theorem test_noticesAreTaken_meets : ([(
  let s : State := nx 0
  let t : T64 := T
  let r : List Byte := lastFrag
  let x := let x := s.tauAt t
        if x.roleSet && x.role == 3 && !x.isStandby then x.emitOut (.noticeCopy r) else x
  [decide (s.tau.on = true),
    decide (noticeFragOk r = true),
    decide (x.ntc.gather = []),
    decide (1 < fieldAt r 14 2)]),
  (
  let s : State := nx 0
  let t : T64 := T
  let r : List Byte := nt 1 5 2 9 80000 (zeros 64)
  let x := let x := s.tauAt t
        if x.roleSet && x.role == 3 && !x.isStandby then x.emitOut (.noticeCopy r) else x
  let n : Notice := ⟨fieldAt r 0 1 - 0x80, fieldAt r 2 2, fieldAt r 4 4, fieldAt r 8 4, fieldAt r 16 8, nearPeriod x.per (fieldAt r 24 4), fieldAt r 1 1 == 1, false, (r.drop 32).take (fieldAt r 28 2)⟩
  [decide (s.tau.on = true),
    decide (noticeFragOk r = true),
    decide (x.ntc.gather = []),
    decide (fieldAt r 14 2 = 1),
    decide (n.kind = 1),
    decide (n.epoch < (x.lastNid n.job).1)]),
  (
  let s : State := nx 1
  let t : T64 := T
  let r : List Byte := nt 2 5 3 2 0 []
  let x := let x := s.tauAt t
        if x.roleSet && x.role == 3 && !x.isStandby then x.emitOut (.noticeCopy r) else x
  let n : Notice := ⟨fieldAt r 0 1 - 0x80, fieldAt r 2 2, fieldAt r 4 4, fieldAt r 8 4, fieldAt r 16 8, nearPeriod x.per (fieldAt r 24 4), fieldAt r 1 1 == 1, false, (r.drop 32).take (fieldAt r 28 2)⟩
  let st := x.jobState n.job
  [decide (s.tau.on = true),
    decide (noticeFragOk r = true),
    decide (x.ntc.gather = []),
    decide (fieldAt r 14 2 = 1),
    decide (x.inOrder n = true),
    decide (kindJobOk n.kind n.job = true),
    decide ((x.lastNid n.job).1 ≤ n.epoch),
    decide ((n.epoch = (x.lastNid n.job).1 → (x.lastNid n.job).2 < n.nseq)),
    decide (n.kind = 2),
    decide (st = 1)]),
  (
  let s : State := nx 2
  let t : T64 := T
  let r : List Byte := nt 3 5 3 2 0 []
  let x := let x := s.tauAt t
        if x.roleSet && x.role == 3 && !x.isStandby then x.emitOut (.noticeCopy r) else x
  let n : Notice := ⟨fieldAt r 0 1 - 0x80, fieldAt r 2 2, fieldAt r 4 4, fieldAt r 8 4, fieldAt r 16 8, nearPeriod x.per (fieldAt r 24 4), fieldAt r 1 1 == 1, false, (r.drop 32).take (fieldAt r 28 2)⟩
  let st := x.jobState n.job
  [decide (s.tau.on = true),
    decide (noticeFragOk r = true),
    decide (x.ntc.gather = []),
    decide (fieldAt r 14 2 = 1),
    decide (x.inOrder n = true),
    decide (kindJobOk n.kind n.job = true),
    decide ((x.lastNid n.job).1 ≤ n.epoch),
    decide ((n.epoch = (x.lastNid n.job).1 → (x.lastNid n.job).2 < n.nseq)),
    decide (n.kind = 3),
    decide (st = 2)]),
  (
  let s : State := nx 4
  let t : T64 := T
  let r : List Byte := nt 4 5 3 2 0 []
  let x := let x := s.tauAt t
        if x.roleSet && x.role == 3 && !x.isStandby then x.emitOut (.noticeCopy r) else x
  let n : Notice := ⟨fieldAt r 0 1 - 0x80, fieldAt r 2 2, fieldAt r 4 4, fieldAt r 8 4, fieldAt r 16 8, nearPeriod x.per (fieldAt r 24 4), fieldAt r 1 1 == 1, false, (r.drop 32).take (fieldAt r 28 2)⟩
  let st := x.jobState n.job
  [decide (s.tau.on = true),
    decide (noticeFragOk r = true),
    decide (x.ntc.gather = []),
    decide (fieldAt r 14 2 = 1),
    decide (x.inOrder n = true),
    decide (kindJobOk n.kind n.job = true),
    decide ((x.lastNid n.job).1 ≤ n.epoch),
    decide ((n.epoch = (x.lastNid n.job).1 → (x.lastNid n.job).2 < n.nseq)),
    decide (n.kind = 4),
    decide (st = 4)]),
  (
  let s : State := nx 2
  let t : T64 := T
  let r : List Byte := nt 5 5 3 2 90000 (zeros 8)
  let x := let x := s.tauAt t
        if x.roleSet && x.role == 3 && !x.isStandby then x.emitOut (.noticeCopy r) else x
  let n : Notice := ⟨fieldAt r 0 1 - 0x80, fieldAt r 2 2, fieldAt r 4 4, fieldAt r 8 4, fieldAt r 16 8, nearPeriod x.per (fieldAt r 24 4), fieldAt r 1 1 == 1, false, (r.drop 32).take (fieldAt r 28 2)⟩
  let st := x.jobState n.job
  [decide (s.tau.on = true),
    decide (noticeFragOk r = true),
    decide (x.ntc.gather = []),
    decide (fieldAt r 14 2 = 1),
    decide (x.inOrder n = true),
    decide (kindJobOk n.kind n.job = true),
    decide ((x.lastNid n.job).1 ≤ n.epoch),
    decide ((n.epoch = (x.lastNid n.job).1 → (x.lastNid n.job).2 < n.nseq)),
    decide (n.kind = 5),
    decide (st = 2),
    decide (n.body.length = 8),
    decide (fieldAt n.body 3 1 ≤ 2)]),
  (
  let s : State := keyed (nx 2)
  let t : T64 := T
  let r : List Byte := nt 6 5 4 1 90000 (jobEnv 5)
  let k : Nat := 77
  let x := let x := s.tauAt t
        if x.roleSet && x.role == 3 && !x.isStandby then x.emitOut (.noticeCopy r) else x
  let n : Notice := ⟨fieldAt r 0 1 - 0x80, fieldAt r 2 2, fieldAt r 4 4, fieldAt r 8 4, fieldAt r 16 8, nearPeriod x.per (fieldAt r 24 4), fieldAt r 1 1 == 1, false, (r.drop 32).take (fieldAt r 28 2)⟩
  let st := x.jobState n.job
  let pr := x.openJobKey n.job n.body
  [decide (s.tau.on = true),
    decide (noticeFragOk r = true),
    decide (x.ntc.gather = []),
    decide (fieldAt r 14 2 = 1),
    decide (x.inOrder n = true),
    decide (kindJobOk n.kind n.job = true),
    decide ((x.lastNid n.job).1 ≤ n.epoch),
    decide ((n.epoch = (x.lastNid n.job).1 → (x.lastNid n.job).2 < n.nseq)),
    decide (n.kind = 6),
    decide (n.job ≠ 0xFFFF),
    decide (st = 2),
    decide (n.body.length = 40),
    decide (pr.2 = some k)]),
  (
  let s : State := nx 2
  let t : T64 := T
  let r : List Byte := nt 6 0xFFFF 1 1 90000 []
  let x := let x := s.tauAt t
        if x.roleSet && x.role == 3 && !x.isStandby then x.emitOut (.noticeCopy r) else x
  let n : Notice := ⟨fieldAt r 0 1 - 0x80, fieldAt r 2 2, fieldAt r 4 4, fieldAt r 8 4, fieldAt r 16 8, nearPeriod x.per (fieldAt r 24 4), fieldAt r 1 1 == 1, false, (r.drop 32).take (fieldAt r 28 2)⟩
  [decide (s.tau.on = true),
    decide (noticeFragOk r = true),
    decide (x.ntc.gather = []),
    decide (fieldAt r 14 2 = 1),
    decide (x.inOrder n = true),
    decide (kindJobOk n.kind n.job = true),
    decide ((x.lastNid n.job).1 ≤ n.epoch),
    decide ((n.epoch = (x.lastNid n.job).1 → (x.lastNid n.job).2 < n.nseq)),
    decide (n.kind = 6),
    decide (n.job = 0xFFFF),
    decide (n.body = [])])] : List (List Bool)).all (·.all id) = true := by decide +kernel

theorem test_noticesAreTaken_meets_2 : ([(
  let s : State := nx 0
  let t : T64 := T
  let r : List Byte := nt 7 0xFFFF 0 5 90000 (leBytes 2 8)
  let i : Nat := 0
  let x := let x := s.tauAt t
        if x.roleSet && x.role == 3 && !x.isStandby then x.emitOut (.noticeCopy r) else x
  let n : Notice := ⟨fieldAt r 0 1 - 0x80, fieldAt r 2 2, fieldAt r 4 4, fieldAt r 8 4, fieldAt r 16 8, nearPeriod x.per (fieldAt r 24 4), fieldAt r 1 1 == 1, false, (r.drop 32).take (fieldAt r 28 2)⟩
  [decide (s.tau.on = true),
    decide (noticeFragOk r = true),
    decide (x.ntc.gather = []),
    decide (fieldAt r 14 2 = 1),
    decide (x.inOrder n = true),
    decide (kindJobOk n.kind n.job = true),
    decide ((x.lastNid n.job).1 ≤ n.epoch),
    decide ((n.epoch = (x.lastNid n.job).1 → (x.lastNid n.job).2 < n.nseq)),
    decide (n.kind = 7),
    decide (n.body.length = 2),
    decide ((List.range 4).find? (fun i => (x.scSlot i).isNone) = some i),
    decide (Nat.land (fieldAt n.body 0 2) x.scMask = 0),
    decide (Nat.land (fieldAt n.body 0 2) (x.rd Reg.GEN_UPD_PEND) = 0)]),
  (
  let s : State := sc 1
  let t : T64 := T
  let r : List Byte := nt 8 0xFFFF 0 5 0 (leBytes 2 8 ++ zeros 6 ++ leBytes 8 90000)
  let i : Nat := 1
  let x := let x := s.tauAt t
        if x.roleSet && x.role == 3 && !x.isStandby then x.emitOut (.noticeCopy r) else x
  let n : Notice := ⟨fieldAt r 0 1 - 0x80, fieldAt r 2 2, fieldAt r 4 4, fieldAt r 8 4, fieldAt r 16 8, nearPeriod x.per (fieldAt r 24 4), fieldAt r 1 1 == 1, false, (r.drop 32).take (fieldAt r 28 2)⟩
  [decide (s.tau.on = true),
    decide (noticeFragOk r = true),
    decide (x.ntc.gather = []),
    decide (fieldAt r 14 2 = 1),
    decide (x.inOrder n = true),
    decide (kindJobOk n.kind n.job = true),
    decide ((x.lastNid n.job).1 ≤ n.epoch),
    decide ((n.epoch = (x.lastNid n.job).1 → (x.lastNid n.job).2 < n.nseq)),
    decide (n.kind = 8),
    decide (n.body.length = 16),
    decide (allZero ((n.body.drop 2).take 6) = true),
    decide ((List.range 4).find? (fun i => x.scSlot i == some ⟨fieldAt n.body 8 8, fieldAt n.body 0 2⟩) = some i)]),
  (
  let s : State := disablable
  let t : T64 := T
  let r : List Byte := nt 9 0xFFFF 0 5 90000 (leBytes 2 0 ++ leBytes 2 7)
  let x := let x := s.tauAt t
        if x.roleSet && x.role == 3 && !x.isStandby then x.emitOut (.noticeCopy r) else x
  let n : Notice := ⟨fieldAt r 0 1 - 0x80, fieldAt r 2 2, fieldAt r 4 4, fieldAt r 8 4, fieldAt r 16 8, nearPeriod x.per (fieldAt r 24 4), fieldAt r 1 1 == 1, false, (r.drop 32).take (fieldAt r 28 2)⟩
  [decide (s.tau.on = true),
    decide (noticeFragOk r = true),
    decide (x.ntc.gather = []),
    decide (fieldAt r 14 2 = 1),
    decide (x.inOrder n = true),
    decide (kindJobOk n.kind n.job = true),
    decide ((x.lastNid n.job).1 ≤ n.epoch),
    decide ((n.epoch = (x.lastNid n.job).1 → (x.lastNid n.job).2 < n.nseq)),
    decide (n.kind = 9),
    decide (n.job = 0xFFFF),
    decide (x.disableCode n = Code.done)]),
  (
  let s : State := nx 0
  let t : T64 := T
  let r : List Byte := nt 10 0xFFFF 0 5 90000 (zeros 64)
  let x := let x := s.tauAt t
        if x.roleSet && x.role == 3 && !x.isStandby then x.emitOut (.noticeCopy r) else x
  let n : Notice := ⟨fieldAt r 0 1 - 0x80, fieldAt r 2 2, fieldAt r 4 4, fieldAt r 8 4, fieldAt r 16 8, nearPeriod x.per (fieldAt r 24 4), fieldAt r 1 1 == 1, false, (r.drop 32).take (fieldAt r 28 2)⟩
  [decide (s.tau.on = true),
    decide (noticeFragOk r = true),
    decide (x.ntc.gather = []),
    decide (fieldAt r 14 2 = 1),
    decide (x.inOrder n = true),
    decide (kindJobOk n.kind n.job = true),
    decide ((x.lastNid n.job).1 ≤ n.epoch),
    decide ((n.epoch = (x.lastNid n.job).1 → (x.lastNid n.job).2 < n.nseq)),
    decide (n.kind = 10)]),
  (
  let s : State := nx 0
  let t : T64 := T
  let r : List Byte := nt 11 0xFFFF 0 5 80000 (leBytes 2 3 ++ leBytes 2 1 ++ leBytes 4 100 ++ leBytes 2 0 ++ zeros 6)
  let x := let x := s.tauAt t
        if x.roleSet && x.role == 3 && !x.isStandby then x.emitOut (.noticeCopy r) else x
  let z : Tau := x
  let n : Notice := ⟨fieldAt r 0 1 - 0x80, fieldAt r 2 2, fieldAt r 4 4, fieldAt r 8 4, fieldAt r 16 8, nearPeriod x.per (fieldAt r 24 4), fieldAt r 1 1 == 1, false, (r.drop 32).take (fieldAt r 28 2)⟩
  [decide (s.tau.on = true),
    decide (noticeFragOk r = true),
    decide (x.ntc.gather = []),
    decide (fieldAt r 14 2 = 1),
    decide (x.inOrder n = true),
    decide (kindJobOk n.kind n.job = true),
    decide ((x.lastNid n.job).1 ≤ n.epoch),
    decide ((n.epoch = (x.lastNid n.job).1 → (x.lastNid n.job).2 < n.nseq)),
    decide (n.kind = 11),
    decide (x.packRun n = (z, Code.done))]),
  (
  let s : State := nx 0
  let t : T64 := T
  let r : List Byte := nt 12 0xFFFF 0 5 80000 (zeros 16)
  let x := let x := s.tauAt t
        if x.roleSet && x.role == 3 && !x.isStandby then x.emitOut (.noticeCopy r) else x
  let n : Notice := ⟨fieldAt r 0 1 - 0x80, fieldAt r 2 2, fieldAt r 4 4, fieldAt r 8 4, fieldAt r 16 8, nearPeriod x.per (fieldAt r 24 4), fieldAt r 1 1 == 1, false, (r.drop 32).take (fieldAt r 28 2)⟩
  [decide (s.tau.on = true),
    decide (noticeFragOk r = true),
    decide (x.ntc.gather = []),
    decide (fieldAt r 14 2 = 1),
    decide (x.inOrder n = true),
    decide (kindJobOk n.kind n.job = true),
    decide ((x.lastNid n.job).1 ≤ n.epoch),
    decide ((n.epoch = (x.lastNid n.job).1 → (x.lastNid n.job).2 < n.nseq)),
    decide (n.kind = 12),
    decide (rankMapOk n.body = true)])] : List (List Bool)).all (·.all id) = true := by decide +kernel

theorem test_answersToNotices_meets : ([(
  let s : State := row2
  let t : T64 := T
  let child : Fin 64 := 3
  let r : List Byte := ak.bytes
  let m : AckMerge := mg
  let x := s.tauAt t
  let o := x.vcFrom child.val r.length
  let a := Ack.parse r
  let mine (m : AckMerge) : Bool := m.is a.job a.epoch a.nseq && m.pend.testBit child.val
  let pr := o.meterIn child.val r.length
  let z : Tau := pr.1
  let k : Nat := pr.2
  [decide (s.tau.on = true),
    decide (o.kidLost child.val = false),
    decide ((o.kid child.val).isSome = true),
    decide (k < 2),
    decide (ackOk r = true),
    decide (z.isTray = false),
    decide (z.ntc.merge = [m]),
    decide (mine m = true),
    decide (m.a.replay = a.replay)]),
  (
  let s : State := row1
  let t : T64 := T
  let child : Fin 64 := 3
  let r : List Byte := ak.bytes
  let x := s.tauAt t
  let o := x.vcFrom child.val r.length
  let a := Ack.parse r
  let pr := o.meterIn child.val r.length
  let z : Tau := pr.1
  let k : Nat := pr.2
  [decide (s.tau.on = true),
    decide (o.kidLost child.val = false),
    decide ((o.kid child.val).isSome = true),
    decide (k < 2),
    decide (ackOk r = true),
    decide (z.isTray = false),
    decide (z.ntc.merge = []),
    decide (a.replay = false)]),
  (
  let s : State := row1
  let t : T64 := T
  let child : Fin 64 := 3
  let r : List Byte := ({ ak with replay := true } : Ack).bytes
  let x := s.tauAt t
  let o := x.vcFrom child.val r.length
  let a := Ack.parse r
  let pr := o.meterIn child.val r.length
  let z : Tau := pr.1
  let k : Nat := pr.2
  [decide (s.tau.on = true),
    decide (o.kidLost child.val = false),
    decide ((o.kid child.val).isSome = true),
    decide (k < 2),
    decide (ackOk r = true),
    decide (z.isTray = false),
    decide (z.ntc.merge = []),
    decide (a.replay = true)]),
  (
  let s : State := row1
  let t : T64 := T
  let child : Fin 64 := 3
  let r : List Byte := rp 0xA1
  let x := s.tauAt t
  let o := x.vcFrom child.val r.length
  let pr := o.meterIn child.val r.length
  let z : Tau := pr.1
  let k : Nat := pr.2
  [decide (s.tau.on = true),
    decide (o.kidLost child.val = false),
    decide ((o.kid child.val).isSome = true),
    decide (k < 2),
    decide (replayOk 0xA1 r = true),
    decide (z.ntc.log = [])]),
  (
  let t : T64 := T
  let child : Fin 64 := 3
  let r : List Byte := rpOf 0xA1 0xFFFF
  let epoch : Nat := 3
  let nseq : Nat := 1
  let n : Notice := ntc1
  let s : State := row1.onTau fun x => { x.wr Reg.TTB_HBM_QUOTA 0 with ntc := { x.ntc with log := [ntc1] } }
  let x := s.tauAt t
  let o := x.vcFrom child.val r.length
  let pr := o.meterIn child.val r.length
  let z : Tau := pr.1
  let k : Nat := pr.2
  let pr2 := z.hbmCharge z.anySec 0 n.size
  [decide (s.tau.on = true),
    decide (o.kidLost child.val = false),
    decide ((o.kid child.val).isSome = true),
    decide (k < 2),
    decide (replayOk 0xA1 r = true),
    decide (z.isTray = false),
    decide (z.ntc.log = [n]),
    decide (n.job = 0xFFFF),
    decide (replayEntries r = [(0xFFFF, epoch, nseq)]),
    decide (epoch < n.epoch ∨ (epoch = n.epoch ∧ nseq < n.nseq)),
    decide (pr2.2 = false)]),
  (
  let t : T64 := T
  let child : Fin 64 := 3
  let r : List Byte := rpOf 0xA1 0xFFFF
  let epoch : Nat := 3
  let nseq : Nat := 1
  let n : Notice := ntc1
  let s : State := row1.onTau fun x => { x.wr Reg.TTB_HBM_PART 1 with ntc := { x.ntc with log := [ntc1] } }
  let x := s.tauAt t
  let o := x.vcFrom child.val r.length
  let pr := o.meterIn child.val r.length
  let z : Tau := pr.1
  let k : Nat := pr.2
  let pr2 := z.hbmCharge z.anySec 0 n.size
  [decide (s.tau.on = true),
    decide (o.kidLost child.val = false),
    decide ((o.kid child.val).isSome = true),
    decide (k < 2),
    decide (replayOk 0xA1 r = true),
    decide (z.isTray = false),
    decide (z.ntc.log = [n]),
    decide (n.job = 0xFFFF),
    decide (replayEntries r = [(0xFFFF, epoch, nseq)]),
    decide (epoch < n.epoch ∨ (epoch = n.epoch ∧ nseq < n.nseq)),
    decide (pr2.2 = true)]),
  (
  let s : State := root1
  let t : T64 := T
  let child : Fin 64 := 3
  let r : List Byte := rp 0xA2
  let x := s.tauAt t
  let o := x.vcFrom child.val r.length
  let pr := o.meterIn child.val r.length
  let z : Tau := pr.1
  let k : Nat := pr.2
  [decide (s.tau.on = true),
    decide (o.kidLost child.val = false),
    decide ((o.kid child.val).isSome = true),
    decide (k < 2),
    decide (replayOk 0xA2 r = true),
    decide (z.ntc.slots = []),
    decide (z.roleSet = true),
    decide (3 ≤ z.role)]),
  (
  let s : State := row1
  let t : T64 := T
  let child : Fin 64 := 3
  let r : List Byte := rp 0xA2
  let x := s.tauAt t
  let o := x.vcFrom child.val r.length
  let pr := o.meterIn child.val r.length
  let z : Tau := pr.1
  let k : Nat := pr.2
  [decide (s.tau.on = true),
    decide (o.kidLost child.val = false),
    decide ((o.kid child.val).isSome = true),
    decide (k < 2),
    decide (replayOk 0xA2 r = true),
    decide (z.ntc.slots = []),
    decide (z.role < 3)])] : List (List Bool)).all (·.all id) = true := by decide +kernel

theorem test_answersToNotices_meets_2 : ([(
  let t : T64 := T
  let child : Fin 64 := 3
  let r : List Byte := rp 0xA2
  let job : Nat := 5
  let epoch : Nat := 3
  let nseq : Nat := 1
  let v : NtcSlot := slot1
  let s : State := root1.onTau fun x => { x with ntc := { x.ntc with slots := [slot1] } }
  let x := s.tauAt t
  let o := x.vcFrom child.val r.length
  let pr := o.meterIn child.val r.length
  let z : Tau := pr.1
  let k : Nat := pr.2
  [decide (s.tau.on = true),
    decide (o.kidLost child.val = false),
    decide ((o.kid child.val).isSome = true),
    decide (k < 2),
    decide (replayOk 0xA2 r = true),
    decide (z.roleSet = true),
    decide (3 ≤ z.role),
    decide (z.ntc.slots = [v]),
    decide (replayEntries r = [(job, epoch, nseq)]),
    decide (v.a.job = job),
    decide (v.a.epoch < epoch ∨ (v.a.epoch = epoch ∧ v.a.nseq ≤ nseq))]),
  (
  let t : T64 := T
  let child : Fin 64 := 3
  let r : List Byte := rp 0xA2
  let job : Nat := 5
  let epoch : Nat := 3
  let nseq : Nat := 1
  let v : NtcSlot := slot1
  let s : State := root1.onTau fun x => { x with ntc := { x.ntc with slots := [slot1] } }
  let x := s.tauAt t
  let o := x.vcFrom child.val r.length
  let pr := o.meterIn child.val r.length
  let z : Tau := pr.1
  let k : Nat := pr.2
  [decide (s.tau.on = true),
    decide (o.kidLost child.val = false),
    decide ((o.kid child.val).isSome = true),
    decide (k < 2),
    decide (replayOk 0xA2 r = true),
    decide (z.roleSet = true),
    decide (3 ≤ z.role),
    decide (z.ntc.slots = [v]),
    decide (replayEntries r = [(job, epoch, nseq)]),
    decide (v.a.job = job),
    decide (v.a.epoch < epoch ∨ (v.a.epoch = epoch ∧ v.a.nseq ≤ nseq)),
    decide (v.closed = true),
    decide (v.dl ≤ z.per),
    decide (v.acks = [])]),
  (
  let s : State := row1
  let t : T64 := T
  let child : Fin 64 := 3
  let r : List Byte := zeros 40
  let x := s.tauAt t
  let o := x.vcFrom child.val r.length
  let pr := o.meterIn child.val r.length
  let k : Nat := pr.2
  [decide (s.tau.on = true),
    decide (o.kidLost child.val = false),
    decide ((o.kid child.val).isSome = true),
    decide (k < 2),
    decide (ackOk r = false)]),
  (
  let s : State := row1
  let t : T64 := T
  let child : Fin 64 := 3
  let r : List Byte := zeros 40
  let x := s.tauAt t
  let o := x.vcFrom child.val r.length
  let pr := o.meterIn child.val r.length
  let k : Nat := pr.2
  [decide (s.tau.on = true),
    decide (o.kidLost child.val = false),
    decide ((o.kid child.val).isSome = true),
    decide (k < 2),
    decide (replayOk 0xA1 r = false)]),
  (
  let s : State := root1
  let t : T64 := T
  let child : Fin 64 := 3
  let r : List Byte := zeros 40
  let x := s.tauAt t
  let o := x.vcFrom child.val r.length
  let pr := o.meterIn child.val r.length
  let k : Nat := pr.2
  [decide (s.tau.on = true),
    decide (o.kidLost child.val = false),
    decide ((o.kid child.val).isSome = true),
    decide (k < 2),
    decide (replayOk 0xA2 r = false)]),
  (
  let s : State := row1
  let t : T64 := T
  let m : AckMerge := mg
  let x := s.tauAt t
  [decide (s.tau.on = true),
    decide ((∀ m ∈ x.ntc.merge, x.per < m.dl ∨ m.pend = 0))]),
  (
  let s : State := row2
  let t : T64 := TT
  let m : AckMerge := mg
  let x := s.tauAt t
  [decide (s.tau.on = true),
    decide (x.ntc.merge = [m]),
    decide (m.dl ≤ x.per),
    decide (m.pend ≠ 0)]),
  (
  let s : State := late1
  let t : T64 := T
  let p : PackRun := run1
  let x := s.tauAt t
  [decide (s.tau.on = true),
    decide (x.ntc.runs = [p]),
    decide (p.above = false),
    decide (p.due + p.grace ≤ x.per)])] : List (List Bool)).all (·.all id) = true := by decide +kernel

theorem test_noticesAndTokensByCommand_meets : ([(
  let s : State := root1
  let t : T64 := T
  let v : BitVec 32 := 1#32
  let x := s.tauAt t
  [decide (s.tau.on = true),
    decide (x.rd Reg.GEN_BOOT_STATE = 3),
    decide (v.toNat.testBit 0 = true)]),
  (
  let s : State := root1
  let t : T64 := T
  let port : Port := .host
  let v : BitVec 32 := 0x80000001#32
  let x := s.tauAt t
  [decide (s.tau.on = true),
    decide (x.rd Reg.GEN_BOOT_STATE = 3),
    decide (v.toNat.testBit 31 = true),
    decide (isMgmt port = false)]),
  (
  let s : State := root1
  let t : T64 := T
  let v : BitVec 32 := 0x80000005#32
  let x := s.tauAt t
  let pr := x.issueNotice 4 (bits v.toNat 0 16) 0 (x.per + x.rd Reg.MNT_ACK_TMO) []
  [decide (s.tau.on = true),
    decide (x.rd Reg.GEN_BOOT_STATE = 3),
    decide (v.toNat.testBit 31 = true),
    decide (pr.2.1 = 0)]),
  (
  let s : State := root1
  let t : T64 := T
  let v : BitVec 32 := 0x80000007#32
  let x := s.tauAt t
  let cls := bits v.toNat 0 3
  [decide (s.tau.on = true),
    decide (x.rd Reg.GEN_BOOT_STATE = 3),
    decide (v.toNat.testBit 31 = true),
    decide (tokTarget cls (x.rd Reg.MNT_TOK_TARGET) = false)]),
  (
  let s : State := root1
  let t : T64 := T
  let v : BitVec 32 := 0x80000003#32
  let x := s.tauAt t
  let cls := bits v.toNat 0 3
  [decide (s.tau.on = true),
    decide (x.rd Reg.GEN_BOOT_STATE = 3),
    decide (v.toNat.testBit 31 = true),
    decide (tokTarget cls (x.rd Reg.MNT_TOK_TARGET) = true),
    decide (x.mnt.tokens = [])]),
  (
  let s : State := toks
  let t : T64 := T
  let v : BitVec 32 := 0x80000002#32
  let k : Token := tok1
  let x := s.tauAt t
  let cls := bits v.toNat 0 3
  [decide (s.tau.on = true),
    decide (x.rd Reg.GEN_BOOT_STATE = 3),
    decide (v.toNat.testBit 31 = true),
    decide (tokTarget cls (x.rd Reg.MNT_TOK_TARGET) = true),
    decide (x.mnt.tokens = [k]),
    decide (tokClash (k.cls, k.target) (cls, x.rd Reg.MNT_TOK_TARGET) = true),
    decide (k.owner ≠ 3)]),
  (
  let s : State := toks
  let t : T64 := T
  let port : Port := .host
  let v : BitVec 32 := 0x80000003#32
  let k : Token := tok1
  let x := s.tauAt t
  let id := bits v.toNat 0 8
  [decide (s.tau.on = true),
    decide (x.rd Reg.GEN_BOOT_STATE = 3),
    decide (v.toNat.testBit 31 = true),
    decide (x.mnt.tokens = [k]),
    decide (k.id = id),
    decide (k.owner = portOwner port),
    decide (v.toNat.testBit 30 = false)]),
  (
  let s : State := toks
  let t : T64 := T
  let v : BitVec 32 := 0xC0000003#32
  let k : Token := tok1
  let x := s.tauAt t
  let id := bits v.toNat 0 8
  [decide (s.tau.on = true),
    decide (x.rd Reg.GEN_BOOT_STATE = 3),
    decide (v.toNat.testBit 31 = true),
    decide (x.mnt.tokens = [k]),
    decide (k.id = id),
    decide (k.owner ≠ 3),
    decide (v.toNat.testBit 30 = true)])] : List (List Bool)).all (·.all id) = true := by decide +kernel

theorem test_noticesAndTokensByCommand_meets_2 : ([(
  let s : State := root1
  let t : T64 := T
  let port : Port := .host
  let v : BitVec 32 := 0xC0000003#32
  let x := s.tauAt t
  [decide (s.tau.on = true),
    decide (x.rd Reg.GEN_BOOT_STATE = 3),
    decide (v.toNat.testBit 31 = true),
    decide (v.toNat.testBit 30 = true),
    decide (isMgmt port = false)])] : List (List Bool)).all (·.all id) = true := by decide +kernel

theorem test_surveysRun_meets : ([(
  let s : State := booted 0
  let t : T64 := T
  let v : BitVec 32 := 1#32
  let x := s.tauAt t
  [decide (s.tau.on = true),
    decide (x.rd Reg.GEN_BOOT_STATE = 3),
    decide (v.toNat.testBit 0 = true)]),
  (
  let s : State := rs1 3
  let t : T64 := T
  let v : BitVec 32 := 0x80000000#32
  let u : TauSurvey := tsv 3
  let x := s.tauAt t
  [decide (s.tau.on = true),
    decide (x.rd Reg.GEN_BOOT_STATE = 3),
    decide (v.toNat.testBit 31 = true),
    decide (x.srv.slots.getD (bits v.toNat 0 6) none = some u),
    decide (u.pend = 0)]),
  (
  let s : State := streamed
  let t : T64 := T
  let r : List Byte := sv5.record
  let x := s.tauAt t
  let q := Survey.parse (r.drop 8)
  [decide (s.tau.on = true),
    decide (surveyRecOk r = true),
    decide (x.surveyCode q false (surveyRsv (r.drop 8)) = Code.done)]),
  (
  let s : State := row1
  let t : T64 := T
  let r : List Byte := (sv0 0).record
  let x := s.tauAt t
  let q := Survey.parse (r.drop 8)
  [decide (s.tau.on = true),
    decide (surveyRecOk r = true),
    decide (x.surveyCode q false (surveyRsv (r.drop 8)) ≠ Code.done),
    decide (x.isStandby = false)]),
  (
  let s : State := row1
  let r : List Byte := []
  [decide (s.tau.on = true),
    decide (surveyRecOk r = false)]),
  (
  let s : State := row1
  let t : T64 := T
  let r : List Byte := cancelRec 3 64 1
  let x := s.tauAt t
  [decide (s.tau.on = true),
    decide (ctlOk 0xBD r = true),
    decide (r.length = 24),
    decide ((∀ o ∈ x.srv.slots, o = none))]),
  (
  let s : State := rs1 3
  let t : T64 := T
  let r : List Byte := cancelRec 3 64 1
  let u : TauSurvey := tsv 3
  let x := s.tauAt t
  [decide (s.tau.on = true),
    decide (ctlOk 0xBD r = true),
    decide (r.length = 24),
    decide (x.srv.slots = some u :: List.replicate 63 none),
    decide (u.s.sid = fieldAt r 4 4),
    decide (u.s.base = fieldAt r 8 3),
    decide (u.s.level = fieldAt r 11 1)]),
  (
  let s : State := row1
  let t : T64 := T
  let x := s.tauAt t
  [decide (s.tau.on = true),
    decide ((∀ o ∈ x.srv.slots, o = none))])] : List (List Bool)).all (·.all id) = true := by decide +kernel

theorem test_surveysRun_meets_2 : ([(
  let s : State := rs1 3
  let t : T64 := T
  let u : TauSurvey := tsv 3
  let x := s.tauAt t
  [decide (s.tau.on = true),
    decide (x.srv.slots = some u :: List.replicate 63 none),
    decide (u.pend = 0),
    decide (u.s.deadline ≤ x.per)])] : List (List Bool)).all (·.all id) = true := by decide +kernel

theorem test_livenessAndWaitsEnd_meets : ([(
  let s : State := rowP
  let t : T64 := T
  let r : List Byte := ackRec
  let x := s.tauAt t
  [decide (s.tau.on = true),
    decide (ctlOk 0xB3 r = true),
    decide (r.length = 32),
    decide (x.parent = some (fieldAt r 4 3))]),
  (
  let s : State := row1
  let t : T64 := T
  let r : List Byte := ackRec
  let x := s.tauAt t
  [decide (s.tau.on = true),
    decide (ctlOk 0xB3 r = true),
    decide (r.length = 32),
    decide (x.parent ≠ some (fieldAt r 4 3))]),
  (
  let s : State := row1
  let t : T64 := T
  let r : List Byte := probeRec 64 0
  let x := s.tauAt t
  let k := x.islandSays
  [decide (s.tau.on = true),
    decide (ctlOk 0xB4 r = true),
    decide (r.length = 32),
    decide (fieldAt r 16 3 = k.base)]),
  (
  let s : State := row1
  let t : T64 := T
  let r : List Byte := probeRec 64 5
  let x := s.tauAt t
  let k := x.islandSays
  [decide (s.tau.on = true),
    decide (ctlOk 0xB4 r = true),
    decide (r.length = 32),
    decide (fieldAt r 16 3 ≠ k.base)]),
  (
  let s : State := rowP
  let t : T64 := T
  let c : Fin 64 := 3
  let x := s.tauAt t
  [decide (s.tau.on = true),
    decide (x.srv.probes.find? (·.child == c.val) = none)]),
  (
  let s : State := probing
  let t : T64 := T
  let c : Fin 64 := 3
  let p : Probe := pb
  let x := s.tauAt t
  [decide (s.tau.on = true),
    decide (x.srv.probes = [p]),
    decide (p.child = c.val),
    decide (p.q + 2 ≤ x.per)]),
  (
  let s : State := contested
  let t : T64 := TT
  let c : Fin 64 := 3
  let q : Nat := 3
  let x := s.tauAt t
  [decide (s.tau.on = true),
    decide (x.srv.lastProbe.getD c.val none = some q),
    decide (x.rd Reg.SRV_LV_STATE c.val = 3),
    decide (q + x.rd Reg.SRV_LV_REPROBE 0 x.pulseHome ≤ x.per)]),
  (
  let s : State := row1
  let t : T64 := T
  let c : Fin 64 := 3
  let x := s.tauAt t
  [decide (s.tau.on = true),
    decide (x.rd Reg.SRV_LV_STATE c.val ≠ 3)])] : List (List Bool)).all (·.all id) = true := by decide +kernel

theorem test_livenessAndWaitsEnd_meets_2 : ([(
  let s : State := strag
  let t : T64 := TT
  let u : Fin 8 := 2
  let w : StWin := win1
  let x := s.tauAt t
  [decide (s.tau.on = true),
    decide ((x.srv.st.getD u.val StUnit.reset).win = some w),
    decide (w.from_ + x.rd Reg.SRV_ST_MAXWIN u.val ≤ x.per)]),
  (
  let s : State := strag
  let t : T64 := TT
  let u : Fin 8 := 3
  let x := s.tauAt t
  [decide (s.tau.on = true),
    decide ((x.srv.st.getD u.val StUnit.reset).win = none)]),
  (
  let s : State := strag
  let t : T64 := TT
  let k : Fin 16 := 4
  let b : BkPair := ⟨false, [], []⟩
  let x := s.tauAt t
  [decide (s.tau.on = true),
    decide (x.srv.bk.getD k.val ⟨false, [], []⟩ = b),
    decide (b.wait = [])]),
  (
  let s : State := strag
  let t : T64 := TT
  let k : Fin 16 := 5
  let step : Nat := 9
  let lo : Nat := 4
  let hi : Nat := 6
  let from_ : Nat := 3
  let p : Nat := 77
  let b : BkPair := bk1
  let x := s.tauAt t
  [decide (s.tau.on = true),
    decide (x.srv.bk.getD k.val ⟨false, [], []⟩ = b),
    decide (b.wait = [(step, lo, hi, from_)]),
    decide (b.answer 0 lo hi = some p),
    decide (b.answer 1 lo hi = none),
    decide (from_ + x.rd Reg.SRV_ST_MAXWIN (x.rd Reg.SRV_BK_CTRL_UNIT k.val) ≤ x.per)]),
  (
  let s : State := booted 0
  let t : T64 := T
  let v : BitVec 32 := 1#32
  let x := s.tauAt t
  [decide (s.tau.on = true),
    decide (x.rd Reg.GEN_BOOT_STATE = 3),
    decide (v.toNat.testBit 0 = true)])] : List (List Bool)).all (·.all id) = true := by decide +kernel

theorem test_contextsRun_meets : ([(
  let s : State := ctxs [cx 1 5 9]
  let t : T64 := T
  let k : Ctx := cx 1 5 9
  let x := s.tauAt t
  [decide (s.tau.on = true),
    decide (x.scb.ctxs = [k]),
    decide (k.st = 1),
    decide (k.admitAt ≤ x.now),
    decide (x.dead k.home = false)]),
  (
  let s : State := ctxs [cx 1 (2 ^ 60) (2 ^ 61)]
  let t : T64 := T
  let k : Ctx := cx 1 (2 ^ 60) (2 ^ 61)
  let x := s.tauAt t
  [decide (s.tau.on = true),
    decide (x.scb.ctxs = [k]),
    decide (k.st = 1),
    decide (x.now < k.admitAt ∨ x.dead k.home = true)]),
  (
  let s : State := ctxs [cx 2 5 9]
  let t : T64 := T
  let k : Ctx := cx 2 5 9
  let x := s.tauAt t
  [decide (s.tau.on = true),
    decide (x.scb.ctxs = [k]),
    decide (k.st = 2),
    decide (k.close ≤ x.now)]),
  (
  let s : State := ctxs [cx 2 5 (2 ^ 61)]
  let t : T64 := T
  let k : Ctx := cx 2 5 (2 ^ 61)
  let x := s.tauAt t
  [decide (s.tau.on = true),
    decide (x.scb.ctxs = [k]),
    decide (k.st = 2),
    decide (x.now < k.close)]),
  (
  let s : State := ctxs [cx 3 5 9]
  let t : T64 := T
  let job : BitVec 16 := 5#16
  let consist : BitVec 16 := 7#16
  let p : Nat := 0x13FFF
  let k : Ctx := cx 3 5 9
  let x := s.tauAt t
  [decide (s.tau.on = true),
    decide (x.scb.ctxs = [k]),
    decide (k.st = 3),
    decide (k.job = job.toNat),
    decide (k.consist = consist.toNat),
    decide (k.period = p)]),
  (
  let s : State := ctxs []
  let t : T64 := T
  let x := s.tauAt t
  [decide (s.tau.on = true),
    decide (x.scb.ctxs = [])]),
  (
  let s : State := booted 0
  let t : T64 := T
  let x := s.tauAt t
  [decide (s.tau.on = true),
    decide (x.roleSet = false ∨ x.role ≠ 3)]),
  (
  let s : State := (bootedWith 3 [(Reg.GEN_ROLE_CFG_STANDBY, 1)])
  let t : T64 := T
  let x := s.tauAt t
  [decide (s.tau.on = true),
    decide (x.roleSet = true),
    decide (x.role = 3),
    decide (x.isStandby = true),
    decide (x.scb.digs = [])])] : List (List Bool)).all (·.all id) = true := by decide +kernel

theorem test_contextsRun_meets_2 : ([(
  let s : State := digs none
  let t : T64 := T
  let x := s.tauAt t
  [decide (s.tau.on = true),
    decide (x.roleSet = true),
    decide (x.role = 3),
    decide (x.isStandby = false),
    decide (x.scb.digs = [])]),
  (
  let s : State := digs (some 77)
  let t : T64 := T
  let job : BitVec 16 := 5#16
  let consist : BitVec 16 := 7#16
  let p : Nat := 9
  let dig : BitVec 64 := 77#64
  let own : Nat := 77
  let x := s.tauAt t
  [decide (s.tau.on = true),
    decide (x.roleSet = true),
    decide (x.role = 3),
    decide (x.isStandby = false),
    decide (x.scb.digs = [⟨job.toNat, consist.toNat, p, some own, none⟩]),
    decide (own = dig.toNat)]),
  (
  let s : State := digs (some 78)
  let t : T64 := T
  let job : BitVec 16 := 5#16
  let consist : BitVec 16 := 7#16
  let p : Nat := 9
  let dig : BitVec 64 := 77#64
  let own : Nat := 78
  let x := s.tauAt t
  [decide (s.tau.on = true),
    decide (x.roleSet = true),
    decide (x.role = 3),
    decide (x.isStandby = false),
    decide (x.scb.digs = [⟨job.toNat, consist.toNat, p, some own, none⟩]),
    decide (own ≠ dig.toNat)])] : List (List Bool)).all (·.all id) = true := by decide +kernel

theorem test_vectorsAreScored_meets : ([(
  let s : State := scoring [vec1] [hv1]
  let t : T64 := T
  let sec : Fin 4 := 0
  let w : Vec := vec1
  let rest : List Vec := []
  let m : Model := mod1
  let f : FMap := fmap1
  let b : Bind := bind1
  let x := s.tauAt t
  [decide (s.tau.on = true),
    decide (x.inService sec = true),
    decide (x.tree.q.getD sec [] = w :: rest),
    decide (x.model w.ens = some m),
    decide (x.tree.binds.getD w.slot none = some b),
    decide (x.fmap b.map = some f)]),
  (
  let s : State := scoring [vec1] [hv1]
  let t : T64 := T
  let sec : Fin 4 := 1
  let x := s.tauAt t
  [decide (s.tau.on = true),
    decide (x.inService sec = true),
    decide (x.tree.q.getD sec [] = [])]),
  (
  let s : State := trayJob
  let t : T64 := T
  let x := s.tauAt t
  [decide (s.tau.on = true),
    decide (x.tree.q = [[], [], [], []])]),
  (
  let s : State := scoring [vec1] [hv1]
  let t : T64 := T
  let w : Vec := vec1
  let f : FMap := fmap1
  let b : Bind := bind1
  let x := s.tauAt t
  [decide (s.tau.on = true),
    decide (x.tree.q = [[w], [], [], []]),
    decide (w.deadline ≤ x.now),
    decide (w.cut = false),
    decide (w.child.isSome = true),
    decide (x.tree.binds.getD w.slot none = some b),
    decide (x.fmap b.map = some f)]),
  (
  let s : State := scoring [] (List.replicate 16 hv1)
  let t : T64 := T
  let sec : Fin 4 := 0
  let v : BitVec 32 := 0x80000902#32
  let x := s.tauAt t
  [decide (s.tau.on = true),
    decide (x.rd Reg.GEN_BOOT_STATE = 3),
    decide (v.toNat.testBit 31 = true),
    decide (16 ≤ (x.tree.hv.getD sec []).length)]),
  (
  let s : State := scoring [vec1] [hv1]
  let t : T64 := T
  let sec : Fin 4 := 0
  let v : BitVec 32 := 0x80000905#32
  let x := s.tauAt t
  let n := bits v.toNat 0 3
  [decide (s.tau.on = true),
    decide (x.rd Reg.GEN_BOOT_STATE = 3),
    decide (v.toNat.testBit 31 = true),
    decide ((x.tree.hv.getD sec []).length < 16),
    decide (x.model n = none)]),
  (
  let s : State := scoring [vec1] [hv1]
  let t : T64 := T
  let sec : Fin 4 := 0
  let v : BitVec 32 := 0x80000902#32
  let m : Model := mod1
  let x := s.tauAt t
  let n := bits v.toNat 0 3
  [decide (s.tau.on = true),
    decide (x.rd Reg.GEN_BOOT_STATE = 3),
    decide (v.toNat.testBit 31 = true),
    decide ((x.tree.hv.getD sec []).length < 16),
    decide (x.model n = some m),
    decide (x.tree.ensOff.getD n none = none)]),
  (
  let s : State := scoring [vec1] [hv1]
  let t : T64 := T
  let v : BitVec 32 := 0x80000902#32
  let x := s.tauAt t
  [decide (s.tau.on = true),
    decide (x.rd Reg.GEN_BOOT_STATE = 3),
    decide (v.toNat.testBit 31 = true),
    decide (x.tree.fences.find? (·.1 == bits v.toNat 0 24) = none)])] : List (List Bool)).all (·.all id) = true := by decide +kernel

theorem test_vectorsAreScored_meets_2 : ([(
  let s : State := scoring [vec1] [hv1]
  let t : T64 := T
  let v : BitVec 32 := 0x80000007#32
  let id : Nat := 7
  let e : Nat := 2
  let rank : Nat := 64
  let job : Nat := 5
  let x := s.tauAt t
  [decide (s.tau.on = true),
    decide (x.rd Reg.GEN_BOOT_STATE = 3),
    decide (v.toNat.testBit 31 = true),
    decide (x.tree.fences = [(id, e, rank, job)]),
    decide (bits v.toNat 0 24 = id)]),
  (
  let s : State := scoring [] [hv2]
  let t : T64 := T
  let sec : Fin 4 := 0
  let h : HostVec := hv2
  let hs : List HostVec := []
  let x := s.tauAt t
  [decide (s.tau.on = true),
    decide (x.inService sec = true),
    decide (x.tree.hv.getD sec [] = h :: hs),
    decide (x.model h.ens = none)]),
  (
  let s : State := scoring [vec1] [hv1]
  let t : T64 := T
  let sec : Fin 4 := 0
  let m : Model := mod1
  let h : HostVec := hv1
  let hs : List HostVec := []
  let x := s.tauAt t
  [decide (s.tau.on = true),
    decide (x.inService sec = true),
    decide (x.tree.hv.getD sec [] = h :: hs),
    decide (x.model h.ens = some m)])] : List (List Bool)).all (·.all id) = true := by decide +kernel

theorem test_tapUnitsRun_meets : ([(
  let t : T64 := TT
  let v : BitVec 32 := 1#32
  let k : Fin 8 := 2
  let j : Nat := 7
  let s : State := (taps 0 []).onTau fun x => (x.wr Reg.AGR_T_DEADLINE 0x14000005 2).wr Reg.AGR_T_JOB 5 2
  let x := s.tauAt t
  let p : Nat := (namedPeriod x.per (x.rd Reg.AGR_T_DEADLINE k.val)).getD 0
  let u := x.agr.tap.getD k.val TapUnit.reset
  let job := x.rd Reg.AGR_T_JOB k.val
  [decide (s.tau.on = true),
    decide (x.rd Reg.GEN_BOOT_STATE = 3),
    decide (v.toNat.testBit 0 = true),
    decide (v.toNat.testBit 1 = false),
    decide (u.st = 0),
    decide (namedPeriod x.per (x.rd Reg.AGR_T_DEADLINE k.val) = some p),
    decide (x.tapKey job = some j)]),
  (
  let s : State := taps 1 []
  let t : T64 := T
  let v : BitVec 32 := 1#32
  let k : Fin 8 := 2
  let x := s.tauAt t
  let u := x.agr.tap.getD k.val TapUnit.reset
  [decide (s.tau.on = true),
    decide (x.rd Reg.GEN_BOOT_STATE = 3),
    decide (v.toNat.testBit 0 = true),
    decide (v.toNat.testBit 1 = false),
    decide (u.st = 1 ∨ u.st = 2)]),
  (
  let s : State := taps 1 []
  let t : T64 := T
  let v : BitVec 32 := 1#32
  let k : Fin 8 := 3
  let x := s.tauAt t
  let u := x.agr.tap.getD k.val TapUnit.reset
  let job := x.rd Reg.AGR_T_JOB k.val
  [decide (s.tau.on = true),
    decide (x.rd Reg.GEN_BOOT_STATE = 3),
    decide (v.toNat.testBit 0 = true),
    decide (v.toNat.testBit 1 = false),
    decide (u.st = 0),
    decide (namedPeriod x.per (x.rd Reg.AGR_T_DEADLINE k.val) = none ∨ x.tapKey job = none)]),
  (
  let s : State := taps 1 []
  let t : T64 := T
  let v : BitVec 32 := 2#32
  let x := s.tauAt t
  [decide (s.tau.on = true),
    decide (x.rd Reg.GEN_BOOT_STATE = 3),
    decide (v.toNat.testBit 0 = false),
    decide (v.toNat.testBit 1 = true)]),
  (
  let s : State := State.reset
  [decide (s.tau.on = true)]),
  (
  let s : State := taps 1 []
  let t : T64 := T
  let k : Fin 8 := 2
  let g : FlitTag := g1
  let payload : List Byte := leBytes 8 77 ++ leBytes 8 99
  let j : Nat := 7
  let x := s.tauAt t
  let u := x.agr.tap.getD k.val TapUnit.reset
  let ts := (tagTerms g (tapPoint j g.coll) payload).filter fun t => u.m.inRange t.1
  let y := x.setTap k.val fun u => { u with seen := x.per }
  [decide (s.tau.on = true),
    decide (u.st = 1),
    decide (payload.length % 8 = 0),
    decide (g.coll = u.m.coll),
    decide (g.inst = u.m.inst),
    decide (u.m.hits g = true),
    decide (y.tapKey u.job = some j),
    decide (ts ≠ [])]),
  (
  let s : State := taps 1 []
  let t : T64 := T
  let k : Fin 8 := 2
  let g : FlitTag := { g1 with inst := 3 }
  let payload : List Byte := leBytes 8 77 ++ leBytes 8 99
  let x := s.tauAt t
  let u := x.agr.tap.getD k.val TapUnit.reset
  [decide (s.tau.on = true),
    decide (u.st = 1 ∨ u.st = 2),
    decide (payload.length % 8 = 0),
    decide (g.coll = u.m.coll),
    decide (g.inst = (u.m.inst + 1) % 256)]),
  (
  let s : State := taps 1 []
  let t : T64 := T
  let k : Fin 8 := 2
  let g : FlitTag := g1
  let payload : List Byte := [1]
  let x := s.tauAt t
  let u := x.agr.tap.getD k.val TapUnit.reset
  [decide (s.tau.on = true),
    decide (u.st = 1 ∨ u.st = 2),
    decide (g.tap = true),
    decide (payload.length % 8 ≠ 0)])] : List (List Bool)).all (·.all id) = true := by decide +kernel

theorem test_tapUnitsRun_meets_2 : ([(
  let s : State := taps 2 []
  let t : T64 := TT
  let k : Fin 8 := 2
  let x := s.tauAt t
  let u := x.agr.tap.getD k.val TapUnit.reset
  [decide (s.tau.on = true),
    decide (u.st = 2),
    decide (u.seen + x.rd Reg.AGR_TAP_IDLE ≤ x.per)]),
  (
  let s : State := taps 0 []
  let t : T64 := T
  let k : Fin 8 := 2
  let x := s.tauAt t
  let u := x.agr.tap.getD k.val TapUnit.reset
  [decide (s.tau.on = true),
    decide (u.st ≠ 2)]),
  (
  let s : State := taps 1 []
  let t : T64 := T
  let k : Fin 8 := 2
  let x := s.tauAt t
  let u := x.agr.tap.getD k.val TapUnit.reset
  [decide (s.tau.on = true),
    decide (u.deadline ≤ x.per)]),
  (
  let s : State := taps 0 []
  let t : T64 := T
  let x := s.tauAt t
  [decide (s.tau.on = true),
    decide (x.parent = none)]),
  (
  let s : State := tally
  let t : T64 := 0x500000000000#64
  let q : TauPack := pack1
  let x := s.tauAt t
  [decide (s.tau.on = true),
    decide (x.rd Reg.AGR_FAIL_TOP = 0),
    decide (x.parent ≠ none),
    decide (x.per % 2 ^ x.rd Reg.AGR_TALLY_DIV = 0),
    decide (x.lib.packs = [some q, none, none, none])])] : List (List Bool)).all (·.all id) = true := by decide +kernel

theorem test_managementAnswers_meets : ([(
  let s : State := managed
  let t : T64 := T
  let port : Fin 2 := 0
  let env : List Byte := zeros 40
  let dup : Nat := 0
  let x := s.tauAt t
  let pr := x.openMgmt dup env
  [decide (s.tau.islPg = true),
    decide (x.portUp port.val = true),
    decide (pr.2 = none)]),
  (
  let s : State := managed
  let t : T64 := T
  let port : Fin 2 := 0
  let x := s.tauAt t
  [decide (s.tau.islPg = true),
    decide ((x.rd Reg.MGMT_PORT_CFG_EN).testBit port.val = true)]),
  (
  let s : State := managed
  let t : T64 := T
  let port : Fin 2 := 0
  let env : List Byte := mgmtEnv (cmd 4 1 0 [])
  let p : List Byte := cmd 4 1 0 []
  let h : EnvHead := EnvHead.parse env
  let dup : Nat := 0
  let x := s.tauAt t
  let pr := x.openMgmt dup env
  let y : Tau := pr.1
  let c := y.bump Reg.MGMT_CMD_CNT
  [decide (s.tau.islPg = true),
    decide (x.portUp port.val = true),
    decide (pr.2 = some (h, p)),
    decide (y.lc ≠ 0),
    decide (y.lc ≠ 4),
    decide (c.mnt.islBusy = false),
    decide (commandOk p = false)]),
  (
  let s : State := managedOff
  let t : T64 := T
  let port : Fin 2 := 0
  let env : List Byte := mgmtEnv (cmd 1 1 0x50 [])
  let p : List Byte := cmd 1 1 0x50 []
  let h : EnvHead := EnvHead.parse env
  let dup : Nat := 0
  let x := s.tauAt t
  let a := fieldAt p 8 4
  let pr := x.openMgmt dup env
  let y : Tau := pr.1
  let c := y.bump Reg.MGMT_CMD_CNT
  [decide (s.tau.islPg = true),
    decide (x.portUp port.val = true),
    decide (pr.2 = some (h, p)),
    decide (y.lc ≠ 0),
    decide (y.lc ≠ 4),
    decide (c.mnt.islBusy = false),
    decide (commandOk p = true),
    decide (c.main = false),
    decide (railsReach a (fieldAt p 2 2) = false)]),
  (
  let s : State := managed
  let t : T64 := T
  let port : Fin 2 := 0
  let env : List Byte := mgmtEnv (cmd 1 1 0x1004 [])
  let p : List Byte := cmd 1 1 0x1004 []
  let h : EnvHead := EnvHead.parse env
  let dup : Nat := 0
  let x := s.tauAt t
  let pr := x.openMgmt dup env
  let y : Tau := pr.1
  let c := y.bump Reg.MGMT_CMD_CNT
  [decide (s.tau.islPg = true),
    decide (x.portUp port.val = true),
    decide (pr.2 = some (h, p)),
    decide (y.lc ≠ 0),
    decide (y.lc ≠ 4),
    decide (c.mnt.islBusy = false),
    decide (commandOk p = true),
    decide (c.main = true),
    decide (fieldAt p 0 2 = 1)]),
  (
  let s : State := managed
  let t : T64 := T
  let port : Fin 2 := 0
  let env : List Byte := mgmtEnv (cmd 3 4 0x1000 [])
  let p : List Byte := cmd 3 4 0x1000 []
  let h : EnvHead := EnvHead.parse env
  let dup : Nat := 0
  let x := s.tauAt t
  let pr := x.openMgmt dup env
  let y : Tau := pr.1
  let c := y.bump Reg.MGMT_CMD_CNT
  [decide (s.tau.islPg = true),
    decide (x.portUp port.val = true),
    decide (pr.2 = some (h, p)),
    decide (y.lc ≠ 0),
    decide (y.lc ≠ 4),
    decide (c.mnt.islBusy = false),
    decide (commandOk p = true),
    decide (c.main = true),
    decide (fieldAt p 0 2 = 3)]),
  (
  let s : State := managed
  let t : T64 := T
  let port : Fin 2 := 0
  let env : List Byte := mgmtEnv (cmd 2 1 0x50 (leBytes 4 9))
  let p : List Byte := cmd 2 1 0x50 (leBytes 4 9)
  let h : EnvHead := EnvHead.parse env
  let dup : Nat := 0
  let x := s.tauAt t
  let pr := x.openMgmt dup env
  let y : Tau := pr.1
  let c := y.bump Reg.MGMT_CMD_CNT
  [decide (s.tau.islPg = true),
    decide (x.portUp port.val = true),
    decide (pr.2 = some (h, p)),
    decide (y.lc ≠ 0),
    decide (y.lc ≠ 4),
    decide (c.mnt.islBusy = false),
    decide (commandOk p = true),
    decide (c.main = true),
    decide (fieldAt p 0 2 = 2)]),
  (
  let s : State := managed
  [decide (s.tau.islPg = true)])] : List (List Bool)).all (·.all id) = true := by decide +kernel

theorem test_managementAnswers_meets_2 : ([(
  let s : State := managed
  let t : T64 := T
  let port : Fin 2 := 0
  let src : BitVec 128 := 5#128
  let target : BitVec 128 := BitVec.ofNat 128 (managed.tau.linkLocal 0)
  let i : Nat := 1
  let x := s.tauAt t
  let own := [2 * port.val, 2 * port.val + 1].find? fun i => x.ownAddr i == some target.toNat
  [decide (s.tau.islPg = true),
    decide (own = some i),
    decide (x.tentative i = false),
    decide ((x.dadOf i).dup = false),
    decide (src.toNat ≠ 0)]),
  (
  let s : State := managed
  let t : T64 := T
  let port : Fin 2 := 0
  let src : BitVec 128 := 0#128
  let target : BitVec 128 := BitVec.ofNat 128 (managed.tau.linkLocal 0)
  let i : Nat := 1
  let x := s.tauAt t
  let own := [2 * port.val, 2 * port.val + 1].find? fun i => x.ownAddr i == some target.toNat
  [decide (s.tau.islPg = true),
    decide (own = some i),
    decide (x.tentative i = false),
    decide ((x.dadOf i).dup = false),
    decide (src.toNat = 0)]),
  (
  let t : T64 := T
  let port : Fin 2 := 0
  let src : BitVec 128 := 0#128
  let target : BitVec 128 := BitVec.ofNat 128 (managed.tau.linkLocal 0)
  let i : Nat := 1
  let adv : Bool := false
  let s : State := managed.onTau fun x => x.setDad 1 ⟨some (T.toNat - 5), false⟩
  let x := s.tauAt t
  let own := [2 * port.val, 2 * port.val + 1].find? fun i => x.ownAddr i == some target.toNat
  [decide (s.tau.islPg = true),
    decide (own = some i),
    decide (x.tentative i = true),
    decide (adv = true ∨ src.toNat = 0)]),
  (
  let t : T64 := T
  let port : Fin 2 := 0
  let src : BitVec 128 := 5#128
  let target : BitVec 128 := BitVec.ofNat 128 (managed.tau.linkLocal 0)
  let i : Nat := 1
  let adv : Bool := false
  let s : State := managed.onTau fun x => x.setDad 1 ⟨some (T.toNat - 5), false⟩
  let x := s.tauAt t
  let own := [2 * port.val, 2 * port.val + 1].find? fun i => x.ownAddr i == some target.toNat
  [decide (s.tau.islPg = true),
    decide (own = some i),
    decide (x.tentative i = true),
    decide (adv = false),
    decide (src.toNat ≠ 0)]),
  (
  let t : T64 := T
  let port : Fin 2 := 0
  let target : BitVec 128 := BitVec.ofNat 128 (managed.tau.linkLocal 0)
  let i : Nat := 1
  let adv : Bool := false
  let s : State := managed.onTau fun x => x.setDad 1 ⟨none, true⟩
  let x := s.tauAt t
  let own := [2 * port.val, 2 * port.val + 1].find? fun i => x.ownAddr i == some target.toNat
  [decide (s.tau.islPg = true),
    decide (own = some i),
    decide (x.tentative i = false),
    decide (adv = true ∨ (x.dadOf i).dup = true)]),
  (
  let s : State := managed
  let t : T64 := T
  let port : Fin 2 := 0
  let target : BitVec 128 := 0#128
  let i : Nat := 0
  let adv : Bool := true
  let x := s.tauAt t
  let own := [2 * port.val, 2 * port.val + 1].find? fun i => x.ownAddr i == some target.toNat
  [decide (s.tau.islPg = true),
    decide (own = none),
    decide (adv = true),
    decide ((x.rd Reg.MGMT_PORT_CFG_EN).testBit port.val = true)]),
  (
  let s : State := linked
  let t : T64 := T
  let port : Fin 2 := 0
  let target : BitVec 128 := 0#128
  let i : Nat := 0
  let adv : Bool := false
  let x := s.tauAt t
  let own := [2 * port.val, 2 * port.val + 1].find? fun i => x.ownAddr i == some target.toNat
  [decide (s.tau.islPg = true),
    decide (own = none),
    decide (adv = false ∨ (x.rd Reg.MGMT_PORT_CFG_EN).testBit port.val = false)]),
  (
  let s : State := bootedWith 1 [(Reg.MGMT_PORT_CFG_EN, 0)]
  let t : T64 := T
  let port : Fin 2 := 0
  let x := s.tauAt t
  [decide (s.tau.islPg = true),
    decide (x.portUp port.val = false)])] : List (List Bool)).all (·.all id) = true := by decide +kernel

theorem test_managementAnswers_meets_3 : ([(
  let s : State := framed
  let t : T64 := TT
  let lhp : Fin 16 := 4
  let f : Frame := frame1
  let x := s.tauAt t
  [decide (s.tau.islPg = true),
    decide (x.main = true),
    decide (x.cip.frames = [f]),
    decide (f.port = lhp.val),
    decide (f.at_ + x.rd Reg.CIP_FRAME_WAIT ≤ x.now)])] : List (List Bool)).all (·.all id) = true := by decide +kernel

theorem test_recordersFreeze_meets : ([(
  let s : State := recs (some (frz1 2))
  let t : T64 := T
  let sec : Fin 4 := 2
  let v : BitVec 32 := 1#32
  let z : Freeze := frz1 2
  let x := s.tauAt t
  [decide (s.tau.on = true),
    decide (x.rd Reg.GEN_BOOT_STATE = 3),
    decide (v.toNat.testBit 0 = true),
    decide ((x.ring sec.val).frz = some z)]),
  (
  let s : State := recs none
  let t : T64 := T
  let sec : Fin 4 := 2
  let v : BitVec 32 := 7#32
  let x := s.tauAt t
  [decide (s.tau.on = true),
    decide (x.rd Reg.GEN_BOOT_STATE = 3),
    decide (v.toNat.testBit 0 = true),
    decide ((x.ring sec.val).frz = none),
    decide (bits v.toNat 1 2 = 3)]),
  (
  let s : State := recs none
  let t : T64 := T
  let sec : Fin 4 := 2
  let v : BitVec 32 := 3#32
  let x := s.tauAt t
  [decide (s.tau.on = true),
    decide (x.rd Reg.GEN_BOOT_STATE = 3),
    decide (v.toNat.testBit 0 = true),
    decide ((x.ring sec.val).frz = none),
    decide (bits v.toNat 1 2 ≠ 3)]),
  (
  let s : State := recs (some (frz1 2))
  let t : T64 := T
  let sec : Fin 4 := 2
  let v : BitVec 32 := 1#32
  let z : Freeze := frz1 2
  let x := s.tauAt t
  [decide (s.tau.on = true),
    decide (x.rd Reg.GEN_BOOT_STATE = 3),
    decide (v.toNat.testBit 0 = true),
    decide ((x.ring sec.val).frz = some z),
    decide (z.dest = 2)]),
  (
  let s : State := recs none
  let t : T64 := T
  let sec : Fin 4 := 2
  let v : BitVec 32 := 1#32
  let x := s.tauAt t
  [decide (s.tau.on = true),
    decide (x.rd Reg.GEN_BOOT_STATE = 3),
    decide (v.toNat.testBit 0 = true),
    decide ((x.ring sec.val).frz = none)]),
  (
  let s : State := recs (some (frz1 1))
  let t : T64 := T
  let ring : Fin 5 := 2
  let x := s.tauAt t
  let z : Freeze := ((x.ring ring.val).frz).getD (frz1 0)
  let c := x.copyRecs ring.val (48 + z.bytes + (recBytes (x.ring ring.val).recs).length) z.want
  let z' : Freeze := ((c.ring ring.val).frz).getD (frz1 0)
  [decide (s.tau.on = true),
    decide ((x.ring ring.val).frz = some z),
    decide (z.dest ≠ 2),
    decide ((c.ring ring.val).frz = some z')]),
  (
  let t : T64 := T
  let ring : Fin 5 := 2
  let s : State := (recs (some (frz1 0))).onTau fun x => x.wr Reg.TTB_HBM_QUOTA 0
  let x := s.tauAt t
  let z : Freeze := ((x.ring ring.val).frz).getD (frz1 0)
  let c := x.copyRecs ring.val (48 + z.bytes + (recBytes (x.ring ring.val).recs).length) z.want
  [decide (s.tau.on = true),
    decide ((x.ring ring.val).frz = some z),
    decide (z.dest ≠ 2),
    decide ((c.ring ring.val).frz = none)]),
  (
  let s : State := recs (some (frz1 2))
  let t : T64 := TT
  let ring : Fin 5 := 2
  let z : Freeze := frz1 2
  let x := s.tauAt t
  [decide (s.tau.on = true),
    decide ((x.ring ring.val).frz = some z),
    decide (z.dest = 2),
    decide (z.start + x.frz ring.val Reg.REC_WIN_TMO Reg.MGMT_I_WIN_TMO ≤ x.per)])] : List (List Bool)).all (·.all id) = true := by decide +kernel

theorem test_recordersFreeze_meets_2 : ([(
  let s : State := recs none
  let t : T64 := T
  let ring : Fin 5 := 2
  let x := s.tauAt t
  [decide (s.tau.on = true),
    decide ((x.ring ring.val).frz = none)]),
  (
  let s : State := State.reset
  [decide (s.tau.on = true)]),
  (
  let s : State := recs (some (frz1 2))
  let t : T64 := T
  let sec : Fin 4 := 2
  let v : BitVec 32 := 9#32
  let x := s.tauAt t
  let y := x.wr Reg.REC_SNAP_SEQ v.toNat 0 sec
  [decide (s.tau.on = true),
    decide (x.rd Reg.GEN_BOOT_STATE = 3),
    decide (x.rd (Reg.PG_LOCK 9) 0 sec = 0),
    decide ((y.ring sec.val).snapshot (y.rd Reg.REC_SNAP_SEQ 0 sec) = none)]),
  (
  let s : State := recs (some (frz1 2))
  let t : T64 := T
  let sec : Fin 4 := 2
  let v : BitVec 32 := 3#32
  let r : Rec := rec1
  let gone : Bool := true
  let x := s.tauAt t
  let y := x.wr Reg.REC_SNAP_SEQ v.toNat 0 sec
  [decide (s.tau.on = true),
    decide (x.rd Reg.GEN_BOOT_STATE = 3),
    decide (x.rd (Reg.PG_LOCK 9) 0 sec = 0),
    decide ((y.ring sec.val).snapshot (y.rd Reg.REC_SNAP_SEQ 0 sec) = some (r, gone))])] : List (List Bool)).all (·.all id) = true := by decide +kernel

theorem test_compressionJobsRun_meets : ([(
  let s : State := booted 1
  let t : T64 := T
  let v : BitVec 32 := 0x80000000#32
  let x := s.tauAt t
  [decide (s.tau.on = true),
    decide (x.rd Reg.GEN_BOOT_STATE = 3),
    decide (v.toNat.testBit 31 = true),
    decide (x.isTray = false)]),
  (
  let s : State := tray0 0 []
  let t : T64 := T
  let v : BitVec 32 := 0x80000000#32
  let mem : List Byte := leBytes 8 8192 ++ leBytes 4 4095
  let x := s.tauAt t
  let base := fieldAt mem 0 8
  let size := fieldAt mem 8 4
  let part := x.rd Reg.TTB_HBM_PART * 2 ^ 30
  let formOk := 4096 ≤ size ∧ size ≤ 2 ^ 30 ∧ size % 4096 = 0 ∧ base % 4096 = 0 ∧ base + size ≤ part
  [decide (s.tau.on = true),
    decide (x.rd Reg.GEN_BOOT_STATE = 3),
    decide (v.toNat.testBit 31 = true),
    decide (x.isTray = true),
    decide (¬ formOk)]),
  (
  let s : State := tray0 16 []
  let t : T64 := T
  let v : BitVec 32 := 0x80000000#32
  let mem : List Byte := hostBuf
  let x := s.tauAt t
  let ch := bits v.toNat 0 4
  let base := fieldAt mem 0 8
  let size := fieldAt mem 8 4
  let part := x.rd Reg.TTB_HBM_PART * 2 ^ 30
  let formOk := 4096 ≤ size ∧ size ≤ 2 ^ 30 ∧ size % 4096 = 0 ∧ base % 4096 = 0 ∧ base + size ≤ part
  let full := 16 ≤ (x.chan ch).posted.length + (x.chan ch).full.length
  [decide (s.tau.on = true),
    decide (x.rd Reg.GEN_BOOT_STATE = 3),
    decide (v.toNat.testBit 31 = true),
    decide (x.isTray = true),
    decide (formOk),
    decide (full)]),
  (
  let s : State := tray0 0 []
  let t : T64 := T
  let v : BitVec 32 := 0x80000000#32
  let mem : List Byte := hostBuf
  let x := s.tauAt t
  let ch := bits v.toNat 0 4
  let base := fieldAt mem 0 8
  let size := fieldAt mem 8 4
  let part := x.rd Reg.TTB_HBM_PART * 2 ^ 30
  let formOk := 4096 ≤ size ∧ size ≤ 2 ^ 30 ∧ size % 4096 = 0 ∧ base % 4096 = 0 ∧ base + size ≤ part
  let full := 16 ≤ (x.chan ch).posted.length + (x.chan ch).full.length
  [decide (s.tau.on = true),
    decide (x.rd Reg.GEN_BOOT_STATE = 3),
    decide (v.toNat.testBit 31 = true),
    decide (x.isTray = true),
    decide (formOk),
    decide (¬ full)]),
  (
  let s : State := engine (List.replicate 16 job1) none
  let t : T64 := T
  let sec : Fin 4 := 0
  let v : BitVec 32 := 1#32
  let x := s.tauAt t
  let e := x.eng sec.val
  [decide (s.tau.on = true),
    decide (x.rd Reg.GEN_BOOT_STATE = 3),
    decide (v.toNat.testBit 0 = true),
    decide (16 ≤ e.queue.length)]),
  (
  let s : State := tray0 0 []
  let t : T64 := T
  let sec : Fin 4 := 0
  let v : BitVec 32 := 1#32
  let x := s.tauAt t
  let e := x.eng sec.val
  [decide (s.tau.on = true),
    decide (x.rd Reg.GEN_BOOT_STATE = 3),
    decide (v.toNat.testBit 0 = true),
    decide (e.queue.length < 16)]),
  (
  let s : State := engine [] (some ctx1)
  let t : T64 := T
  let sec : Fin 4 := 0
  let v : BitVec 32 := 0x80000003#32
  let mem : List Byte := hostBuf
  let k : CmpCtx := ctx1
  let x := s.tauAt t
  let part := x.rd Reg.TTB_HBM_PART * 2 ^ 30
  let q := bufAt (x.rd Reg.CMP_BUF_OFS_LO 0 sec + 2 ^ 32 * x.rd Reg.CMP_BUF_OFS_HI 0 sec) mem
  [decide (s.tau.on = true),
    decide (x.rd Reg.GEN_BOOT_STATE = 3),
    decide (v.toNat.testBit 31 = true),
    decide (x.cctx sec.val (v.toNat % 32) = some k),
    decide (k.user = 0),
    decide (bufOk part k.job.host q = true),
    decide (k.job.bufs.length < 16)]),
  (
  let s : State := scoring [vec1] [hv1]
  let t : T64 := T
  let sec : Fin 4 := 0
  let v : BitVec 32 := 0x80000902#32
  let mem : List Byte := zeros 40
  let k : CmpCtx := ctx1
  let x := s.tauAt t
  let part := x.rd Reg.TTB_HBM_PART * 2 ^ 30
  let q := bufAt (x.rd Reg.CMP_BUF_OFS_LO 0 sec + 2 ^ 32 * x.rd Reg.CMP_BUF_OFS_HI 0 sec) mem
  [decide (s.tau.on = true),
    decide (x.rd Reg.GEN_BOOT_STATE = 3),
    decide (v.toNat.testBit 31 = true),
    decide (x.cctx sec.val (v.toNat % 32) = none ∨ (x.cctx sec.val (v.toNat % 32) = some k ∧ (k.user ≠ 0 ∨ bufOk part k.job.host q = false)))])] : List (List Bool)).all (·.all id) = true := by decide +kernel

theorem test_compressionJobsRun_meets_2 : ([(
  let s : State := engine [] (some { ctx1 with job := { job1 with bufs := List.replicate 16 (bufAt 4096 hostBuf) } })
  let t : T64 := T
  let sec : Fin 4 := 0
  let v : BitVec 32 := 0x80000003#32
  let mem : List Byte := hostBuf
  let k : CmpCtx := { ctx1 with job := { job1 with bufs := List.replicate 16 (bufAt 4096 hostBuf) } }
  let x := s.tauAt t
  let part := x.rd Reg.TTB_HBM_PART * 2 ^ 30
  let q := bufAt (x.rd Reg.CMP_BUF_OFS_LO 0 sec + 2 ^ 32 * x.rd Reg.CMP_BUF_OFS_HI 0 sec) mem
  [decide (s.tau.on = true),
    decide (x.rd Reg.GEN_BOOT_STATE = 3),
    decide (v.toNat.testBit 31 = true),
    decide (x.cctx sec.val (v.toNat % 32) = some k),
    decide (k.user = 0),
    decide (bufOk part k.job.host q = true),
    decide (16 ≤ k.job.bufs.length)]),
  (
  let s : State := engine [job1] none
  let t : T64 := T
  let sec : Fin 4 := 0
  let v : BitVec 32 := 0x80000000#32
  let j : CmpJob := job1
  let x := s.tauAt t
  let e := x.eng sec.val
  let gone := { j with bufs := [], op := 254 }
  let owed := x.cmpOwe sec.val ({ CmpCtx.stream (0, 0) with job := gone, code := Code.aborted } : CmpCtx).end
  [decide (s.tau.on = true),
    decide (x.rd Reg.GEN_BOOT_STATE = 3),
    decide (e.ctxs = List.replicate 24 none),
    decide (e.queue = [j]),
    decide (j.tag = v.toNat),
    decide (owed.2.owed = 0)]),
  (
  let s : State := (engine [job1] none).onTau (wt [(Reg.TTB_HBM_QUOTA, 0)])
  let t : T64 := T
  let sec : Fin 4 := 0
  let v : BitVec 32 := 0x80000000#32
  let j : CmpJob := job1
  let x := s.tauAt t
  let e := x.eng sec.val
  let gone := { j with bufs := [], op := 254 }
  let owed := x.cmpOwe sec.val ({ CmpCtx.stream (0, 0) with job := gone, code := Code.aborted } : CmpCtx).end
  [decide (s.tau.on = true),
    decide (x.rd Reg.GEN_BOOT_STATE = 3),
    decide (e.ctxs = List.replicate 24 none),
    decide (e.queue = [j]),
    decide (j.tag = v.toNat),
    decide (0 < owed.2.owed)]),
  (
  let s : State := tray0 0 []
  let t : T64 := T
  let sec : Fin 4 := 0
  let x := s.tauAt t
  let e := x.eng sec.val
  [decide (s.tau.on = true),
    decide (x.rd Reg.GEN_BOOT_STATE = 3),
    decide (e.ctxs = List.replicate 24 none),
    decide (e.queue = [])]),
  (
  let s : State := tray0 0 []
  let t : T64 := T
  let sec : Fin 4 := 0
  let c : Fin 24 := 3
  let x := s.tauAt t
  [decide (s.tau.on = true),
    decide (x.cctx sec.val c.val = none)]),
  (
  let s : State := engine [] (some ctx1)
  let t : T64 := T
  let sec : Fin 4 := 0
  let c : Fin 24 := 3
  let k : CmpCtx := ctx1
  let x := s.tauAt t
  [decide (s.tau.on = true),
    decide (x.cctx sec.val c.val = some k),
    decide (k.user = 0),
    decide (k.owed ≠ 0 ∨ k.ending = false)]),
  (
  let s : State := engine [] (some { ctx1 with ending := true })
  let t : T64 := T
  let sec : Fin 4 := 0
  let c : Fin 24 := 3
  let k : CmpCtx := { ctx1 with ending := true }
  let x := s.tauAt t
  [decide (s.tau.on = true),
    decide (x.cctx sec.val c.val = some k),
    decide (k.user = 0),
    decide (k.owed = 0),
    decide (k.ending = true)]),
  (
  let s : State := booted 1
  let t : T64 := T
  let x := s.tauAt t
  [decide (s.tau.on = true),
    decide (x.isTray = false)])] : List (List Bool)).all (·.all id) = true := by decide +kernel

theorem test_compressionJobsRun_meets_3 : ([(
  let s : State := idleChan
  let t : T64 := TT
  let c : Fin 24 := 3
  let x := s.tauAt t
  [decide (s.tau.on = true),
    decide (x.chanOn 0 = true),
    decide ((x.chan 0).idle + x.rd Reg.CMP_FLUSH_IDLE ≤ x.per),
    decide ((∀ c : Fin 16, c ≠ 0 → (((x.sidingClose 0).sidingGrant 0).chanOn c.val) = false))])] : List (List Bool)).all (·.all id) = true := by decide +kernel

theorem test_maintenanceActs_meets : ([(
  let s : State := sect 0 [] []
  let t : T64 := T
  let v : BitVec 32 := 0x80000002#32
  let x := s.tauAt t
  let i := bits v.toNat 0 2
  [decide (s.tau.on = true),
    decide (x.rd Reg.GEN_BOOT_STATE = 3),
    decide (v.toNat.testBit 31 = true),
    decide (x.tokHeld 0 i = false)]),
  (
  let s : State := sect 2 [secTok] []
  let t : T64 := T
  let v : BitVec 32 := 0x80000002#32
  let x := s.tauAt t
  let i := bits v.toNat 0 2
  [decide (s.tau.on = true),
    decide (x.rd Reg.GEN_BOOT_STATE = 3),
    decide (v.toNat.testBit 31 = true),
    decide (x.tokHeld 0 i = true),
    decide (x.secState i ≠ 0)]),
  (
  let s : State := sect 0 [secTok] []
  let t : T64 := T
  let v : BitVec 32 := 0x80000002#32
  let x := s.tauAt t
  let i := bits v.toNat 0 2
  let per := x.rd Reg.MNT_DRAIN_PER
  [decide (s.tau.on = true),
    decide (x.rd Reg.GEN_BOOT_STATE = 3),
    decide (v.toNat.testBit 31 = true),
    decide (x.tokHeld 0 i = true),
    decide (x.secState i = 0),
    decide (per = 0)]),
  (
  let s : State := sect 0 [secTok] []
  let t : T64 := T
  let v : BitVec 32 := 0x80000002#32
  let x := s.tauAt t
  let i := bits v.toNat 0 2
  [decide (s.tau.on = true),
    decide (x.rd Reg.GEN_BOOT_STATE = 3),
    decide (v.toNat.testBit 31 = true),
    decide (x.tokHeld 0 i = true),
    decide (x.secState i < 2 ∨ (x.secState i = 3 ∧ (x.bist i).passed = false))]),
  (
  let s : State := sect 2 [secTok] []
  let t : T64 := T
  let v : BitVec 32 := 0x80000002#32
  let x := s.tauAt t
  let i := bits v.toNat 0 2
  [decide (s.tau.on = true),
    decide (x.rd Reg.GEN_BOOT_STATE = 3),
    decide (v.toNat.testBit 31 = true),
    decide (x.tokHeld 0 i = true),
    decide (x.secState i = 2 ∨ (x.secState i = 3 ∧ (x.bist i).passed = true)),
    decide (x.rd Reg.BIST_REPAIR_STAT_UNREP 0 i = 0),
    decide (x.rd Reg.BIST_STATE 0 i ≠ 1)]),
  (
  let s : State := booted 0
  let t : T64 := T
  let v : BitVec 32 := 1#32
  let x := s.tauAt t
  [decide (s.tau.on = true),
    decide (x.rd Reg.GEN_BOOT_STATE = 3),
    decide (v.toNat.testBit 0 = true)]),
  (
  let s : State := sect 0 [] []
  let t : T64 := T
  let v : BitVec 32 := 1#32
  let x := s.tauAt t
  [decide (s.tau.on = true),
    decide (x.rd Reg.GEN_BOOT_STATE = 3),
    decide (v.toNat.testBit 0 = true),
    decide (x.tokHeld 4 0 = false)]),
  (
  let s : State := sect 0 [fwTok] []
  let t : T64 := T
  let v : BitVec 32 := 1#32
  let x := s.tauAt t
  [decide (s.tau.on = true),
    decide (x.rd Reg.GEN_BOOT_STATE = 3),
    decide (v.toNat.testBit 0 = true),
    decide (x.tokHeld 4 0 = true),
    decide (x.rd Reg.MNT_FW_STATE_STATE = 0)])] : List (List Bool)).all (·.all id) = true := by decide +kernel

theorem test_maintenanceActs_meets_2 : ([(
  let s : State := sect 0 [fwTok] [(Reg.MNT_FW_STATE_STATE, 1)]
  let t : T64 := T
  let v : BitVec 32 := 1#32
  let x := s.tauAt t
  [decide (s.tau.on = true),
    decide (x.rd Reg.GEN_BOOT_STATE = 3),
    decide (v.toNat.testBit 0 = true),
    decide (x.tokHeld 4 0 = true),
    decide (x.rd Reg.MNT_FW_STATE_STATE = 1)]),
  (
  let s : State := sect 0 [fwTok] [(Reg.MNT_FW_STATE_STATE, 1), (Reg.MNT_FW_SWITCH_PER, 0x14005)]
  let t : T64 := T
  let v : BitVec 32 := 1#32
  let p : Nat := 0x14005
  let x := s.tauAt t
  [decide (s.tau.on = true),
    decide (x.rd Reg.GEN_BOOT_STATE = 3),
    decide (v.toNat.testBit 0 = true),
    decide (x.tokHeld 4 0 = true),
    decide (x.rd Reg.MNT_FW_STATE_STATE = 1),
    decide (namedPeriod x.per (x.rd Reg.MNT_FW_SWITCH_PER) = some p)]),
  (
  let s : State := trial 3
  let t : T64 := T
  let v : BitVec 32 := 1#32
  let p : Nat := 3
  let x := s.tauAt t
  [decide (s.tau.on = true),
    decide (x.rd Reg.GEN_BOOT_STATE = 3),
    decide (v.toNat.testBit 0 = true),
    decide (x.mnt.trial = some p),
    decide (x.mnt.switch = none)]),
  (
  let s : State := sect 0 [] []
  let t : T64 := T
  let x := s.tauAt t
  [decide (s.tau.on = true),
    decide (x.rd Reg.GEN_BOOT_STATE = 3),
    decide (x.mnt.trial = none)]),
  (
  let s : State := sect 0 [] []
  let t : T64 := T
  let x := s.tauAt t
  [decide (s.tau.on = true),
    decide (x.secState 0 ≠ 1),
    decide (x.secState 1 ≠ 1),
    decide (x.secState 2 ≠ 1),
    decide (x.secState 3 ≠ 1)]),
  (
  let s : State := bootedWith 0 [(Reg.MNT_SEC_STATE, 1)]
  let t : T64 := T
  let v : BitVec 32 := 0x80000002#32
  let x := s.tauAt t
  let i := bits v.toNat 0 2
  [decide (s.tau.on = true),
    decide (x.secState 0 = 1),
    decide (x.scb.ctxs = []),
    decide (x.tree.q.getD 0 [] = []),
    decide (x.secBusy 0 = false),
    decide ((∀ i : Fin 4, i ≠ 0 → (x.setSec 0 2 4).secState i.val ≠ 1))]),
  (
  let s : State := sect 0 [] []
  let t : T64 := TT
  let sec : Fin 4 := 2
  let x := s.tauAt t
  [decide (s.tau.on = true),
    decide (x.secState sec.val < 2),
    decide (x.mnt.kicks.getD sec.val 0 + x.rd Reg.MNT_GUARD_TMO ≤ x.per),
    decide (x.mnt.trial = none)]),
  (
  let t : T64 := T
  let sec : Fin 4 := 2
  let s : State := (sect 0 [] []).onTau fun x => { x with mnt := { x.mnt with kicks := List.replicate 5 (2 ^ 50) } }
  let x := s.tauAt t
  [decide (s.tau.on = true),
    decide (x.per < x.mnt.kicks.getD sec.val 0 + x.rd Reg.MNT_GUARD_TMO)])] : List (List Bool)).all (·.all id) = true := by decide +kernel

theorem test_maintenanceActs_meets_3 : ([(
  let s : State := sect 0 [] []
  let t : T64 := T
  let x := s.tauAt t
  [decide (s.tau.on = true),
    decide (x.mnt.trial = none)]),
  (
  let s : State := State.reset
  [decide (s.tau.on = true)]),
  (
  let s : State := trial 3
  let t : T64 := TT
  let p : Nat := 3
  let x := s.tauAt t
  [decide (s.tau.on = true),
    decide (x.mnt.trial = some p),
    decide (x.mnt.switch = none),
    decide (p + x.rd Reg.MNT_FW_TRIAL ≤ x.per)])] : List (List Bool)).all (·.all id) = true := by decide +kernel

theorem test_selfTestsRun_meets : ([(
  let s : State := sect 2 [] []
  let t : T64 := T
  let sec : Fin 4 := 2
  let v : BitVec 32 := 1#32
  let x := s.tauAt t
  [decide (s.tau.on = true),
    decide (x.rd Reg.GEN_BOOT_STATE = 3),
    decide (v.toNat.testBit 0 = true),
    decide (v.toNat.testBit 3 = false),
    decide (x.tokHeld 0 sec.val = false)]),
  (
  let s : State := sect 0 [secTok] []
  let t : T64 := T
  let sec : Fin 4 := 2
  let v : BitVec 32 := 1#32
  let x := s.tauAt t
  [decide (s.tau.on = true),
    decide (x.rd Reg.GEN_BOOT_STATE = 3),
    decide (v.toNat.testBit 0 = true),
    decide (v.toNat.testBit 3 = false),
    decide (x.tokHeld 0 sec.val = true),
    decide (x.secState sec.val < 2)]),
  (
  let s : State := sect 2 [secTok] []
  let t : T64 := T
  let sec : Fin 4 := 2
  let v : BitVec 32 := 1#32
  let x := s.tauAt t
  [decide (s.tau.on = true),
    decide (x.rd Reg.GEN_BOOT_STATE = 3),
    decide (v.toNat.testBit 0 = true),
    decide (v.toNat.testBit 3 = false),
    decide (x.tokHeld 0 sec.val = true),
    decide (2 ≤ x.secState sec.val),
    decide (x.lc ≠ 0),
    decide (bits v.toNat 1 2 = 0),
    decide (x.rd Reg.BIST_STATE 0 sec ≠ 1)]),
  (
  let s : State := bistOf 1 (mem1 false)
  let t : T64 := T
  let sec : Fin 4 := 2
  let v : BitVec 32 := 8#32
  let x := s.tauAt t
  [decide (s.tau.on = true),
    decide (x.rd Reg.GEN_BOOT_STATE = 3),
    decide (v.toNat.testBit 0 = false),
    decide (v.toNat.testBit 3 = true),
    decide (x.rd Reg.BIST_STATE 0 sec = 1)]),
  (
  let s : State := sect 2 [secTok] []
  let t : T64 := T
  let sec : Fin 4 := 2
  let v : BitVec 32 := 8#32
  let x := s.tauAt t
  [decide (s.tau.on = true),
    decide (x.rd Reg.GEN_BOOT_STATE = 3),
    decide (v.toNat.testBit 0 = false),
    decide (x.rd Reg.BIST_STATE 0 sec ≠ 1)]),
  (
  let s : State := sect 0 [secTok] []
  let t : T64 := T
  let sec : Fin 4 := 2
  let v : BitVec 32 := 1#32
  let x := s.tauAt t
  [decide (s.tau.on = true),
    decide (x.rd Reg.GEN_BOOT_STATE = 3),
    decide (v.toNat.testBit 0 = true),
    decide (x.tokHeld 0 sec.val = true),
    decide (x.secState sec.val < 2)]),
  (
  let s : State := bistOf 3 { BistSt.reset with log := [(4, 1, 2)] }
  let t : T64 := T
  let sec : Fin 4 := 2
  let v : BitVec 32 := 1#32
  let x := s.tauAt t
  let b := x.bist sec.val
  let insts := (List.range 96).filter fun i => b.log.any (·.1 == i)
  let pr := b.log.foldl coverBit (b.rows, b.cols, true)
  [decide (s.tau.on = true),
    decide (x.rd Reg.GEN_BOOT_STATE = 3),
    decide (v.toNat.testBit 0 = true),
    decide (x.tokHeld 0 sec.val = true),
    decide (2 ≤ x.secState sec.val),
    decide (x.lc ≠ 0),
    decide (x.rd Reg.BIST_STATE 0 sec = 3),
    decide (pr.2.2 = true),
    decide (insts ≠ [])]),
  (
  let s : State := bistOf 3 { BistSt.reset with log := (List.range 7).map fun i => (4, i, i) }
  let t : T64 := T
  let sec : Fin 4 := 2
  let v : BitVec 32 := 1#32
  let x := s.tauAt t
  let b := x.bist sec.val
  let pr := b.log.foldl coverBit (b.rows, b.cols, true)
  [decide (s.tau.on = true),
    decide (x.rd Reg.GEN_BOOT_STATE = 3),
    decide (v.toNat.testBit 0 = true),
    decide (x.tokHeld 0 sec.val = true),
    decide (2 ≤ x.secState sec.val),
    decide (x.lc ≠ 0),
    decide (x.rd Reg.BIST_STATE 0 sec = 3),
    decide (pr.2.2 = false)])] : List (List Bool)).all (·.all id) = true := by decide +kernel

theorem test_selfTestsRun_meets_2 : ([(
  let s : State := bistOf 3 BistSt.reset
  let t : T64 := T
  let sec : Fin 4 := 2
  let v : BitVec 32 := 1#32
  let rows : List (Nat × Nat) := []
  let cols : List (Nat × Nat) := []
  let x := s.tauAt t
  let b := x.bist sec.val
  [decide (s.tau.on = true),
    decide (x.rd Reg.GEN_BOOT_STATE = 3),
    decide (v.toNat.testBit 0 = true),
    decide (x.tokHeld 0 sec.val = true),
    decide (2 ≤ x.secState sec.val),
    decide (x.lc ≠ 0),
    decide (x.rd Reg.BIST_STATE 0 sec = 3),
    decide (b.log = []),
    decide (rows = b.rows),
    decide (cols = b.cols)]),
  (
  let s : State := sect 2 [secTok] []
  let t : T64 := T
  let sec : Fin 4 := 2
  let x := s.tauAt t
  [decide (s.tau.on = true),
    decide (x.rd Reg.BIST_STATE 0 sec ≠ 1)]),
  (
  let t : T64 := T
  let sec : Fin 4 := 2
  let s : State := (bistOf 1 (mem1 false)).onTau fun x => x.wr Reg.BIST_DUTY 0 0 2
  let x := s.tauAt t
  let b := x.bist sec.val
  let recent := b.recent.filter fun p => decide (x.per < p + 16)
  [decide (s.tau.on = true),
    decide (x.rd Reg.BIST_DUTY 0 sec ≤ recent.length)]),
  (
  let s : State := bistOf 1 { mem1 false with left := [(false, 95), (false, 3)] }
  let t : T64 := T
  let sec : Fin 4 := 2
  let rest : List (Bool × Nat) := [(false, 3)]
  let n : Nat := 95
  let x := s.tauAt t
  let b := x.bist sec.val
  let recent := b.recent.filter fun p => decide (x.per < p + 16)
  [decide (s.tau.on = true),
    decide (x.rd Reg.BIST_STATE 0 sec = 1),
    decide (recent.length < x.rd Reg.BIST_DUTY 0 sec),
    decide (b.left = (false, n) :: rest),
    decide (b.abort = false),
    decide (rest ≠ [])]),
  (
  let s : State := bistOf 1 (mem1 false)
  let t : T64 := T
  let sec : Fin 4 := 2
  let rest : List (Bool × Nat) := []
  let n : Nat := 95
  let x := s.tauAt t
  let b := x.bist sec.val
  let recent := b.recent.filter fun p => decide (x.per < p + 16)
  [decide (s.tau.on = true),
    decide (x.rd Reg.BIST_STATE 0 sec = 1),
    decide (recent.length < x.rd Reg.BIST_DUTY 0 sec),
    decide (b.left = (false, n) :: rest),
    decide (b.abort = false),
    decide (rest = [])]),
  (
  let s : State := bistOf 1 (mem1 true)
  let t : T64 := T
  let sec : Fin 4 := 2
  let rest : List (Bool × Nat) := []
  let n : Nat := 95
  let x := s.tauAt t
  let b := x.bist sec.val
  let recent := b.recent.filter fun p => decide (x.per < p + 16)
  [decide (s.tau.on = true),
    decide (x.rd Reg.BIST_STATE 0 sec = 1),
    decide (recent.length < x.rd Reg.BIST_DUTY 0 sec),
    decide (b.left = (false, n) :: rest),
    decide (b.abort = true)])] : List (List Bool)).all (·.all id) = true := by decide +kernel

theorem test_faultTokensHold_meets : ([(
  let s : State := faulty
  let t : T64 := T
  let sec : Fin 4 := 2
  let x := s.tauAt t
  [decide (s.tau.on = true),
    decide (x.secState sec.val < 2)]),
  (
  let s : State := faulty
  let t : T64 := T
  let v : BitVec 32 := 0x80000000#32
  let sec : Fin 4 := 2
  let k : Token := ⟨6, 0, 2, 3⟩
  let x := s.tauAt t
  let fault (k : Token) : Bool := k.owner == 3 && k.cls == 0 && k.target == sec.val
  [decide (s.tau.on = true),
    decide (x.rd Reg.GEN_BOOT_STATE = 3),
    decide (v.toNat.testBit 31 = true),
    decide (bits v.toNat 0 3 = 0),
    decide (x.rd Reg.MNT_TOK_TARGET = sec.val),
    decide (x.mnt.tokens.find? fault = some k),
    decide ((∀ j ∈ x.mnt.tokens, fault j = true ∨ tokClash (j.cls, j.target) (0, sec.val) = false))]),
  (
  let s : State := faulty
  let t : T64 := T
  let v : BitVec 32 := 0xC0000006#32
  let id : Nat := 6
  let k : Token := ⟨6, 0, 2, 3⟩
  let x := s.tauAt t
  [decide (s.tau.on = true),
    decide (x.rd Reg.GEN_BOOT_STATE = 3),
    decide (v.toNat.testBit 31 = true),
    decide (v.toNat.testBit 30 = true),
    decide (bits v.toNat 0 8 = id),
    decide (x.mnt.tokens.find? (·.id == id) = some k),
    decide (k.owner = 3)])] : List (List Bool)).all (·.all id) = true := by decide +kernel

/-- The form of a container up to its signature block, of one of some types and with a payload of whole words. -/
def containerForm (type : Nat) (types : List Nat) (head : List Byte) : Bool :=
  let n := fieldAt head 8 4
  n % 8 == 0 && decide (1 ≤ n) && decide (n ≤ 4096) && head.length == 32 + n && fieldAt head 4 1 == type &&
    head.take 4 == [0x5A, 0x43, 0x4E, 0x31] && fieldAt head 5 1 == 1 && allZero ((head.drop 6).take 2) && allZero ((head.drop 24).take 8) &&
    types.contains type

/-- A container of that form reads as its parts, with a signature block of version 1 that is otherwise zero. -/
theorem read_container (type : Nat) (types : List Nat) (head : List Byte) (form : containerForm type types head = true) :
    Image.read types (head ++ (leBytes 2 1 ++ zeros 7422)) =
      some { type := type, ver := fieldAt head 12 4, payload := head.drop 32, covered := head, sig := leBytes 2 1 ++ zeros 7422 } := by
  simp only [containerForm, Bool.and_eq_true, beq_iff_eq, decide_eq_true_eq] at form
  obtain ⟨⟨⟨⟨⟨⟨⟨⟨⟨hp, h1⟩, h2⟩, hl⟩, ht⟩, hm⟩, hv⟩, hz⟩, hr⟩, hc⟩ := form
  have fld : ∀ (o w : Nat) (tail : List Byte), o + w ≤ head.length → fieldAt (head ++ tail) o w = fieldAt head o w := by
    intro o w tail h
    simp [fieldAt, List.drop_append_of_le_length (show o ≤ head.length by omega),
      List.take_append_of_le_length (show w ≤ (head.drop o).length by simp; omega)]
  have cut : ∀ (o w : Nat) (tail : List Byte), o + w ≤ head.length → ((head ++ tail).drop o).take w = (head.drop o).take w := by
    intro o w tail h
    simp [List.drop_append_of_le_length (show o ≤ head.length by omega),
      List.take_append_of_le_length (show w ≤ (head.drop o).length by simp; omega)]
  have full : 32 + ceilDiv (fieldAt head 8 4) 8 * 8 = head.length := by simp only [ceilDiv]; omega
  have sig : ∀ n o w : Nat, 2 ≤ o → allZero (((leBytes 2 1 ++ zeros n).drop o).take w) = true := by
    intro n o w h
    have : ((leBytes 2 1 ++ zeros n : List Byte).drop o) = zeros (n - (o - 2)) := by
      rw [List.drop_append, List.drop_eq_nil_of_le (by simp [leBytes]; omega)]
      simp [leBytes, zeros, List.drop_replicate]
    rw [this]
    simp [zeros, allZero, List.take_replicate]
  have ver : ∀ n : Nat, fieldAt (leBytes 2 1 ++ zeros n) 0 2 = 1 ∧ fieldAt (leBytes 2 1 ++ zeros (n + 2)) 3 1 = 0 := by
    intro n
    constructor <;> simp [fieldAt, leBytes, zeros, leNat, List.replicate_succ]
  have t4 : (head ++ (leBytes 2 1 ++ zeros 7422)).take 4 = head.take 4 := by
    rw [List.take_append_of_le_length (by omega)]
  have n4 : ∀ n : Nat, (leBytes 2 1 ++ zeros n : List Byte).length = n + 2 := by intro n; simp [leBytes, zeros]
  unfold Image.read
  simp only [fld 8 4 _ (by omega), fld 4 1 _ (by omega), fld 5 1 _ (by omega), fld 12 4 _ (by omega), full, cut 6 2 _ (by omega),
    cut 24 8 _ (by omega), t4, hm, hv, hz, hr, ht, hc, List.drop_left, List.take_left, sig 7422 197 3 (by decide), sig 7422 7419 5 (by decide),
    (ver 7422).1, (ver 7420).2, sigBlkLen, List.length_append, n4]
  rw [cut 32 _ _ (by omega)]
  have h3 : head.length + (7422 + 2) = head.length + 7424 := rfl
  simp [h1, hl, allZero]
  first
    | omega
    | exact ⟨by omega, List.take_of_length_le (by simp; omega)⟩

/-- A container up to its signature block. -/
def containerHead (type : Nat) (p : List Byte) : List Byte :=
  [0x5A, 0x43, 0x4E, 0x31] ++ leBytes 1 type ++ leBytes 1 1 ++ zeros 2 ++ leBytes 4 p.length ++ leBytes 4 7 ++ zeros 16 ++ p

/-- `DiesAttach`, a microcode image that is taken. -/
theorem test_diesAttach_image_meets : ∃ (s : State) (v : BitVec 32) (mem : List Byte) (i : Image), s.tau.on = true ∧ v.toNat.testBit 0 = true ∧
    Image.read [2] mem = some i ∧ (s.tau.advance T).isTray = false ∧ fieldAt i.payload 4 4 ≠ 0 ∧ fieldAt i.payload 4 4 ≤ 262144 ∧
    i.payload.length = 64 + fieldAt i.payload 4 4 ∧ fieldAt i.payload 1 1 = 0 ∧ allZero ((i.payload.drop 8).take 8) = true := by
  refine ⟨booted 1, 1#32, _, _, by decide +kernel, by decide +kernel,
    read_container 2 [2] (containerHead 2 ucode) (by decide +kernel), ?_⟩
  decide +kernel

/-- `ProxiedAccessAndImages`, an image of a grant. -/
theorem test_grantImage_meets : ∃ (s : State) (v : BitVec 32) (mem : List Byte) (i : Image), s.tau.on = true ∧ v.toNat.testBit 0 = true ∧
    Image.read [8, 9, 10] mem = some i ∧ i.type = 8 := by
  refine ⟨booted 1, 1#32, _, _, by decide +kernel, by decide +kernel,
    read_container 8 [8, 9, 10] (containerHead 8 (zeros 64)) (by decide +kernel), ?_⟩
  decide +kernel

/-- `InputsAndSuppliesAct`: a command that is no input's event, at a TAU without its island and a die in its power-on reset. -/
theorem test_inputsAndSuppliesAct_meets :
    let off : State := (State.reset.onTau fun x => { x with islPg := false, links := 0 }).onTdu fun d =>
      { d with time := { d.time with por := false } }
    (Instr.todSet T .host 1#32).onInput = false ∧ off.tau.islPg = false ∧ off.tdu.time.por = false ∧
      exec (.todSet T .host 1#32) off = .next off := by
  exact ⟨by decide +kernel, rfl, rfl, rfl⟩

/-- `StepKeepsLinksFed` and `StepKeepsQueueWf`: links up and a command that waits. -/
theorem test_stepKeeps_meets : (linked.tau.on = true ∧ linked.tau.links < 2 ^ 32 ∧ linked.linksFed) ∧ linked.tau.links = 5 ∧
    ({ linked with pending := [.coldReset, .linkUp T (.tau 31)] } : State).queueWf ∧ step linked = .next linked := by
  have h : linked.tau.on = true := by decide +kernel
  refine ⟨⟨h, by decide +kernel, fun o => ?_, by decide +kernel⟩, by decide +kernel, ?_, rfl⟩
  · exact absurd h (by simp [o])
  · intro c hc
    rcases List.mem_cons.mp hc with rfl | hc
    · decide +kernel
    · rw [List.mem_singleton.mp hc]
      decide +kernel

/-- `RecordHeaderRoundTrips`: a header with every field at its greatest. -/
def fullHdr : Hdr :=
  { ver := 1, cls := 7, sev := 7, ho := true, gap := true, late := true, order := true, sat := true, len := 0, consist := 2 ^ 16 - 1
    rank := 2 ^ 24 - 1, epochLo := 2 ^ 8 - 1, job := 2 ^ 16 - 1, eb := 2 ^ 16 - 1, sigT := 2 ^ 8 - 1, sigL := 2 ^ 8 - 1, t := 2 ^ 64 - 1
    rsv := false }

theorem test_recordHeaderRoundTrips_meets : fullHdr.cls < 8 ∧ fullHdr.sev < 8 ∧ fullHdr.consist < 2 ^ 16 ∧ fullHdr.rank < 2 ^ 24 ∧
    fullHdr.epochLo < 2 ^ 8 ∧ fullHdr.job < 2 ^ 16 ∧ fullHdr.eb < 2 ^ 16 ∧ fullHdr.sigT < 2 ^ 8 ∧ fullHdr.sigL < 2 ^ 8 ∧ fullHdr.t < 2 ^ 64 ∧
    recLen (zeros 8).length < 2 ^ 16 ∧ Hdr.parse (mkRecord fullHdr (zeros 8)) = { fullHdr with len := 40 } := by decide +kernel

/-- `SealedEnvelopeOpens`: a key and a header with every field at its greatest. -/
theorem test_sealedEnvelopeOpens_meets : key32.length = 32 ∧ 2 ^ 32 - 1 < 2 ^ 32 ∧ 2 ^ 64 - 1 < 2 ^ 64 ∧ 255 < 2 ^ 8 ∧ 65535 < 2 ^ 16 := by
  decide +kernel

/-- `WriteActsByAccessCode`: for each access code a register that has it, holding its greatest value or none. -/
theorem test_writeActsByAccessCode_meets :
    let r := [Reg.GEN_BOOT_LEN, Reg.GEN_PRI_PARENT, Reg.GEN_INTR_STAT, Reg.PG_LOCK 0x10, Reg.GEN_INTR_EN].foldl
      (fun (r : RegFile) f => r.put f 0 0 (2 ^ f.width - 1)) State.reset.tau.regs
    ([(Reg.GEN_BOOT_LEN, Access.rw), (Reg.GEN_PRI_PARENT, .rws), (Reg.GEN_INTR_STAT, .w1c), (Reg.PG_LOCK 0x10, .set), (Reg.GEN_INTR_EN, .msk),
        (Reg.GEN_BOOT_STATE, .ro), (Reg.GEN_BOOT_GO, .wo)] : List (Fld × Access)).all
      (fun p => decide (r.get p.1 0 0 < 2 ^ p.1.width) && decide (p.1.acc = p.2)) = true ∧ Reg.GEN_INTR_EN.width = 16 := by decide +kernel

/-- `WriteLeavesOtherFields`: another register, another instance, another section's copy. -/
theorem test_writeLeavesOtherFields_meets : Reg.GEN_BOOT_LEN.tag ≠ Reg.GEN_INTR_EN.tag ∧ (0 : Nat) % 1024 ≠ 1023 % 1024 ∧
    Reg.PG_LOCK 0x10 = Reg.PG_LOCK 0x10 ∧ Reg.CIP_SEAL_CNT.wide = false ∧ (0 : Nat) % 4 ≠ 3 % 4 := by decide +kernel

/-- `ShadowViewWrites`: the last address of each normal view, and a word of RWS fields in each shadow view, on the TIME and TEMIT pages. -/
theorem test_shadowViewWrites_meets : (0x7FFFFC < 0x800000 ∧ 0x1FFFC < 0x20000) ∧
    (0x80104C % 4 = 0 ∧ tauAddr 0x80104C = some (1, 0, 0x4C, true) ∧ wordFields 1 0x4C ≠ [] ∧ (∀ fi ∈ wordFields 1 0x4C, fi.1.acc = .rws) ∧
      State.reset.tau.regs.latched .host (0x80104C % 0x800000) = none) ∧
    (0x22078 % 4 = 0 ∧ dieAddr 0x22078 = some (0x22, 0x78, true) ∧ wordFields 0x22 0x78 ≠ [] ∧ (∀ fi ∈ wordFields 0x22 0x78, fi.1.acc = .rws) ∧
      State.reset.tdu.regs.latched .host (0x22078 % 0x20000) = none) := by decide +kernel

/-- `FieldsReadTheirResetValues`: a word of each block in each of its views, the first and the last of their pages. -/
theorem test_fieldsReadTheirResetValues_meets : tauAddr 0x1000 = some (1, 0, 0, false) ∧ tauAddr 0x801FFC = some (1, 0, 0xFFC, true) ∧
    dieAddr 0 = some (0x20, 0, false) ∧ dieAddr 0x29FFC = some (0x29, 0xFFC, true) := by decide +kernel

/-- `MaskedWritesKeepOtherBits`: the highest bit of a register of that access code. -/
theorem test_maskedWritesKeepOtherBits_meets : Reg.GEN_INTR_EN.acc = .msk ∧ Reg.GEN_INTR_EN.lsb = 0 ∧ Reg.GEN_INTR_EN.width = 16 ∧
    15 < Reg.GEN_INTR_EN.width ∧ State.reset.tau.regs.get Reg.GEN_INTR_EN 0 0 < 2 ^ 16 := by decide +kernel

/-! ## Commands that cannot reach the block -/

theorem test_wf_record_too_long : ∀ r : List Byte, r.length = 4097 → (Instr.attachRequestRx T none r).wf = false := by
  intro r h
  show decide (r.length ≤ 4096) = false
  rw [h]
  rfl

theorem test_wf_grid : (Instr.timeWordTx 0x1001#64).wf = false := by decide +kernel
theorem test_wf_pps : (Instr.ppsOutEdge 1#64).wf = false := by decide +kernel
theorem test_wf_time_word : (Instr.timeWordRx T 0 (zeros 15)).wf = false := by decide +kernel
theorem test_wf_counters : (Instr.tduPeriodBoundary 0x40000#64 ⟨[], List.replicate 3 ⟨3, 0, false, false⟩⟩ []).wf = false := by decide +kernel
theorem test_wf_period : (Instr.trainDigestRx T 5#16 7#16 (2 ^ 46) 0#64).wf = false := by decide +kernel
theorem test_wf_ptp : (Instr.ptpSyncRx T 0 ⟨256, false, 0, 0, 0, 0, false⟩).wf = false := by decide +kernel
theorem test_wf_nanoseconds : (Instr.ptpFollowUpRx T 0 ⟨0, false, 0, 0, 1000000000, 0, false⟩).wf = false := by decide +kernel
theorem test_wf_announce : (Instr.ptpAnnounceRx T 0 { ann true with domain := 256 }).wf = false := by decide +kernel
theorem test_wf_tag : (Instr.tapFlit T 0 0 (some { g1 with coll := 2 ^ 16 }) []).wf = false := by decide +kernel
theorem test_wf_access : (Instr.registerWrite T .tau .host 0x1000 3 0 ⟨[], [], []⟩).wf = false := by decide +kernel
theorem test_wf_address : (Instr.lowWordRead T .tau .host (2 ^ 24) 4 ⟨[], []⟩).wf = false := by decide +kernel
theorem test_wf_flow : (Instr.flowEvent T false (fl 8 0 0)).wf = false := by decide +kernel

/-- The JOB_START that `startBody` holds. -/
def startNotice : Notice := ⟨1, 5, 4, 1, 0, 90000, false, false, startBody⟩

theorem pair_eq {α β : Type} (p : α × β) (b : β) (h : p.2 = b) : p = (p.1, b) := by
  cases p; cases h; rfl

/-- The TAU after the key of the notice is opened. -/
def keyOpened : Tau × Option Nat := (startable.tau.advance T).openJobKey startNotice.job ((startNotice.body.drop 24).take 40)

theorem start_fits : ∀ h : Fin 4, ((keyOpened.1.pick 4).2.jobStartAt h.val 77 (Nat.max 0 ((startable.tau.advance T).per + 1)) startNotice).2 = 0 := by
  decide +kernel

/-- `NoticesAreTaken`, a JOB_START that is taken, whatever section is picked as home (assumption 3). -/
theorem start_taken : ((startable.tau.advance T).jobStart startNotice).2 = 0 := by
  have e : keyOpened = (keyOpened.1, some 77) := pair_eq _ _ (by decide +kernel)
  have f := start_fits ⟨(keyOpened.1.pick 4).1, Nat.mod_lt _ (by decide)⟩
  unfold Tau.jobStart
  simp only []
  rw [if_neg (by decide +kernel), if_neg (by decide +kernel), if_neg (by decide +kernel), if_neg (by decide +kernel)]
  rw [show (startable.tau.advance T).openJobKey startNotice.job ((startNotice.body.drop 24).take 40) = (keyOpened.1, some 77) from e]
  exact f

/-- The TAU at that instant; it has nothing to copy to a standby. -/
theorem start_at : (let x := startable.tauAt T; if x.roleSet && x.role == 3 && !x.isStandby then x.emitOut (.noticeCopy (nt 1 5 4 1 0 startBody)) else x) =
    startable.tau.advance T := by decide +kernel

theorem test_noticesAreTaken_start_meets :
    let x := let x := startable.tauAt T
      if x.roleSet && x.role == 3 && !x.isStandby then x.emitOut (.noticeCopy (nt 1 5 4 1 0 startBody)) else x
    let n := startNotice
    startable.tau.on = true ∧ noticeFragOk (nt 1 5 4 1 0 startBody) = true ∧ x.ntc.gather = [] ∧ x.inOrder n = true ∧
      kindJobOk n.kind n.job = true ∧ (x.lastNid n.job).1 ≤ n.epoch ∧ (n.epoch = (x.lastNid n.job).1 → (x.lastNid n.job).2 < n.nseq) ∧
      n.kind = 1 ∧ ∃ z, x.jobStart n = (z, 0) := by
  rw [start_at]
  refine ⟨?_, ?_, ?_, ?_, ?_, ?_, ?_, ?_, _, pair_eq _ _ start_taken⟩ <;> decide +kernel

/-! ## The scored example of chapter 8 -/

/-- The model of the scored example of chapter 8. -/
def exampleModel : Model :=
  { mod1 with
    nout := 1, nfeat := 4, lscale := -8, wmax := 8, types := [0, 0, 1, 3], bias := [-512], trees := [0, 5, 10]
    nodes := [0x10000002C0800000, 0x8000000000000000, 0x00040006C2AA0000, 0x8000000000000180, 0x8000000000000400, 0x300C000C00000000,
      0x0008001080000000, 0x80000000FFFFFF80, 0x8000000000000040, 0x8000000000000280, 0x1000001680000000, 0x80000000FFFFFF00,
      0x8000000000000080]
    sets := [0xF000], cal := [(0, 0, [(-1024, 0), (0, 100), (1024, 900), (2048, 990)])] }

/-- Raw score, visits and final score of a subject. -/
def scored (feats : List (Nat × Bool)) : Int × Nat × Int :=
  let (r, n) := exampleModel.raw feats
  (r.headD 0, n, exampleModel.final 0 (r.headD 0))

/-- The four subjects of the scored example. -/
theorem test_scored_example :
    scored [(0x40C00000, false), (0x42B00000, false), (3, false), (12, false)] = (1280, 8, 922) ∧
    scored [(0x40800000, false), (0x428E0000, false), (0, false), (13, false)] = (-320, 7, 68) ∧
    scored [(0, true), (0, true), (0, false), (15, false)] = (64, 8, 150) ∧
    scored [(0x80000000, false), (0x7F800000, false), (0, false), (600, false)] = (-896, 6, 12) := by decide +kernel

end Sys2Proof.Tests
end

section
/-! ## Where a command acts -/

namespace Sys2Proof.Machine

/-- Every command answers a next state with the queue as it was, in which at least one block is as it was. -/
theorem exec_frame (c : Instr) (s : State) :
    ∃ s', exec c s = .next s' ∧ s'.pending = s.pending ∧ (s'.tau = s.tau ∨ s'.tdu = s.tdu) := by
  cases h : c.onInput with
  | false =>
    obtain ⟨s', e, a⟩ := exec_acts c s h
    obtain ⟨hq, hb, -⟩ := a.frame
    exact ⟨s', e, hq, hb⟩
  | true =>
    obtain ⟨s', e, ⟨f, rfl⟩ | ⟨f, rfl⟩⟩ := exec_onInput c s h
    · exact ⟨_, e, State.onTau_pending f s, .inr (State.onTau_tdu f s)⟩
    · exact ⟨_, e, State.onTdu_pending f s, .inl (State.onTdu_tau f s)⟩

end Sys2Proof.Machine

open Sys2Proof Sys2Proof.Machine

/-- Settles O2, from the frame of a command. -/
theorem everyCommandAnswersNext : Obligations.EveryCommandAnswersNext := by
  intro c s
  obtain ⟨s', e, hq, -⟩ := exec_frame c s
  exact ⟨s', e, hq⟩

/-- Settles O3, from the frame of a command: its answer is the only one. -/
theorem blocksActApart : Obligations.BlocksActApart := by
  intro c s s' h
  obtain ⟨s₁, e, -, hb⟩ := exec_frame c s
  cases h.symm.trans e
  exact hb

/-- Settles O9: the three fields read off the quotients and remainders that define the grid. -/
theorem gridIsFieldsOfT64 : Obligations.GridIsFieldsOfT64 := by
  intro t
  have period : (t >>> 18).toNat = T64.period t := by simp [T64.period, Nat.shiftRight_eq_div_pow]
  have path : (t.extractLsb' 14 4).toNat = T64.path t := by simp [T64.path, Nat.shiftRight_eq_div_pow]
  have tick : (t.extractLsb' 0 14).toNat = t.toNat % 2 ^ 14 := by simp
  refine ⟨period.symm, path.symm, ?_⟩
  rw [tick, T64.period, T64.path]
  omega

end

section
/-! ## A write of one field (R12, R438) -/

namespace Sys2Proof.Machine

/-! ### Bits -/

@[simp] theorem bits_mod_two_pow (v lo w : Nat) : bits v lo w % 2 ^ w = bits v lo w := Nat.mod_mod _ _

theorem bits_lt (v lo w : Nat) : bits v lo w < 2 ^ w := Nat.mod_lt _ (Nat.two_pow_pos w)

theorem testBit_bits (v lo w n : Nat) : (bits v lo w).testBit n = (decide (n < w) && v.testBit (n + lo)) := by
  rw [bits, Nat.testBit_mod_two_pow, Nat.testBit_div_two_pow, Nat.add_comm]

theorem testBit_nat_land (a b n : Nat) : (Nat.land a b).testBit n = (a.testBit n && b.testBit n) := Nat.testBit_and a b n

theorem testBit_nat_lor (a b n : Nat) : (Nat.lor a b).testBit n = (a.testBit n || b.testBit n) := Nat.testBit_or a b n

theorem sub_land_div_two (a b : Nat) : (a - Nat.land a b) / 2 = a / 2 - Nat.land (a / 2) (b / 2) := by
  have le : Nat.land a b ≤ a := Nat.and_le_left
  have low : Nat.land a b % 2 = 1 ↔ a % 2 = 1 ∧ b % 2 = 1 := Nat.and_mod_two_eq_one
  have high : Nat.land a b / 2 = Nat.land (a / 2) (b / 2) := Nat.and_div_two
  omega

/-- Taking away the bits that two numbers share leaves the bits of the first that the second lacks. -/
theorem testBit_sub_land (a b n : Nat) : (a - Nat.land a b).testBit n = (a.testBit n && !b.testBit n) := by
  induction n generalizing a b with
  | zero =>
    have le : Nat.land a b ≤ a := Nat.and_le_left
    have low : Nat.land a b % 2 = 1 ↔ a % 2 = 1 ∧ b % 2 = 1 := Nat.and_mod_two_eq_one
    simp only [Nat.testBit_zero, ← decide_not, ← Bool.decide_and]
    exact decide_eq_decide.mpr (by omega)
  | succ n ih => rw [Nat.testBit_succ, Nat.testBit_succ, Nat.testBit_succ, sub_land_div_two, ih]

/-! ### One equation for each access code -/

section
variable {fi : Fld × Nat} (r : RegFile) (v s : Nat)

theorem RegFile.writeField_rw (h : fi.1.acc = .rw) :
    r.writeField v s false fi = r.put fi.1 fi.2 s (bits v fi.1.lsb fi.1.width) := by
  simp [RegFile.writeField, h]

theorem RegFile.writeField_rws (h : fi.1.acc = .rws) (safe : Bool) :
    r.writeField v s safe fi = r.putShadow fi.1 fi.2 s (bits v fi.1.lsb fi.1.width) := by
  simp [RegFile.writeField, h]

theorem RegFile.writeField_w1c (h : fi.1.acc = .w1c) (safe : Bool) :
    r.writeField v s safe fi = r.put fi.1 fi.2 s
      (r.get fi.1 fi.2 s - Nat.land (r.get fi.1 fi.2 s) (bits v fi.1.lsb fi.1.width)) := by
  simp [RegFile.writeField, h]

theorem RegFile.writeField_set (h : fi.1.acc = .set) (safe : Bool) :
    r.writeField v s safe fi = r.put fi.1 fi.2 s (Nat.lor (r.get fi.1 fi.2 s) (bits v fi.1.lsb fi.1.width)) := by
  simp [RegFile.writeField, h]

theorem RegFile.writeField_msk (h : fi.1.acc = .msk) (safe : Bool) :
    r.writeField v s safe fi = r.put fi.1 fi.2 s
      (Nat.lor (r.get fi.1 fi.2 s - Nat.land (r.get fi.1 fi.2 s) (bits v 16 16))
        (Nat.land (bits v fi.1.lsb fi.1.width) (bits v 16 16))) := by
  simp [RegFile.writeField, h]

theorem RegFile.writeField_ro (h : fi.1.acc = .ro) (safe : Bool) : r.writeField v s safe fi = r := by
  simp [RegFile.writeField, h]

/-- All that a write of a field can do: give it a value, give its shadow one, or nothing. -/
theorem RegFile.writeField_cases (safe : Bool) :
    (∃ a, r.writeField v s safe fi = r.put fi.1 fi.2 s a) ∨ (∃ a, r.writeField v s safe fi = r.putShadow fi.1 fi.2 s a) ∨
      r.writeField v s safe fi = r := by
  cases h : fi.1.acc with
  | rw =>
    cases safe with
    | false => exact .inl ⟨_, r.writeField_rw v s h⟩
    | true => exact .inr (.inl ⟨bits v fi.1.lsb fi.1.width, by simp [RegFile.writeField, h]⟩)
  | rws => exact .inr (.inl ⟨_, r.writeField_rws v s h safe⟩)
  | w1c => exact .inl ⟨_, r.writeField_w1c v s h safe⟩
  | set => exact .inl ⟨_, r.writeField_set v s h safe⟩
  | msk => exact .inl ⟨_, r.writeField_msk v s h safe⟩
  | wo => exact .inr (.inr (RegFile.writeField_wo h v s safe r))
  | ro => exact .inr (.inr (r.writeField_ro v s h safe))

end

/-! ### What a write leaves alone -/

/-- Fields held once for each section never share a key in different sections. -/
theorem Fld.key_ne_of_section {f g : Fld} (hf : f.wide = false) (hg : g.wide = false) {s u : Nat} (h : s % 4 ≠ u % 4) (i j : Nat) :
    f.key i s ≠ g.key j u := by
  simp only [Fld.key, hf, hg, Bool.false_eq_true, if_false]
  omega

theorem RegFile.get_put_of_key {f g : Fld} {i j s u : Nat} (h : g.key j u ≠ f.key i s) (r : RegFile) (a : Nat) :
    (r.put f i s a).get g j u = r.get g j u := by
  simp only [RegFile.get, RegFile.put, Store.find_put_of_ne h]

theorem RegFile.getShadow_putShadow_of_key {f g : Fld} {i j s u : Nat} (h : g.key j u ≠ f.key i s) (r : RegFile) (a : Nat) :
    (r.putShadow f i s a).getShadow g j u = r.getShadow g j u := by
  simp only [RegFile.getShadow, RegFile.putShadow, Store.find_put_of_ne h]

/-- A write of a field leaves the values and the shadows under every other key alone. -/
theorem RegFile.writeField_of_key {f g : Fld} {i j s u : Nat} (h : g.key j u ≠ f.key i s) (r : RegFile) (v : Nat) (safe : Bool) :
    (r.writeField v s safe (f, i)).get g j u = r.get g j u ∧
      (r.writeField v s safe (f, i)).getShadow g j u = r.getShadow g j u := by
  obtain ⟨a, e⟩ | ⟨a, e⟩ | e := r.writeField_cases (fi := (f, i)) v s safe <;> rw [e]
  · exact ⟨r.get_put_of_key h a, rfl⟩
  · exact ⟨rfl, r.getShadow_putShadow_of_key h a⟩
  · exact ⟨rfl, rfl⟩

end Sys2Proof.Machine

open Sys2Proof Sys2Proof.Machine

/-- Settles O13, code by code. The premise on the old value keeps what W1C and SET make of it within the field's width. -/
theorem writeActsByAccessCode : Obligations.WriteActsByAccessCode := by
  intro r f i s v hold r' old
  refine ⟨fun h => ?rw, fun h => ?rws, fun h n => ?w1c, fun h n => ?set, fun h hw n hn => ?msk, fun h => ?keep⟩
  case rw => simp [r', r.writeField_rw (fi := (f, i)) v s h]
  case rws => simp [r', old, r.writeField_rws (fi := (f, i)) v s h]
  case w1c =>
    have fits : old - Nat.land old (bits v f.lsb f.width) < 2 ^ f.width := Nat.lt_of_le_of_lt (Nat.sub_le ..) hold
    rw [show r' = _ from r.writeField_w1c (fi := (f, i)) v s h false, RegFile.get_put, Nat.mod_eq_of_lt fits, testBit_sub_land]
  case set =>
    have fits : Nat.lor old (bits v f.lsb f.width) < 2 ^ f.width := Nat.or_lt_two_pow hold (bits_lt ..)
    rw [show r' = _ from r.writeField_set (fi := (f, i)) v s h false, RegFile.get_put, Nat.mod_eq_of_lt fits, testBit_nat_lor]
  case msk =>
    have enable : (bits v 16 16).testBit n = v.testBit (n + 16) := by
      rw [testBit_bits, decide_eq_true (by omega), Bool.true_and]
    rw [show r' = _ from r.writeField_msk (fi := (f, i)) v s h false, RegFile.get_put, Nat.testBit_mod_two_pow,
      testBit_nat_lor, testBit_sub_land, testBit_nat_land, enable]
    cases v.testBit (n + 16) <;> simp [hn, old]
  case keep =>
    rcases h with h | h
    · exact r.writeField_ro (fi := (f, i)) v s h false
    · exact RegFile.writeField_wo (fi := (f, i)) h v s false r

/-- Settles O14: each of the three differences keeps the keys of the two fields apart. -/
theorem writeLeavesOtherFields : Obligations.WriteLeavesOtherFields := by
  intro r f g i j s u v h
  have key : g.key j u ≠ f.key i s := by
    rcases h with h | h | ⟨hf, hg, h⟩
    · exact Fld.key_ne_of_tag h.symm j u i s
    · exact Fld.key_ne_of_index h.symm g f u s
    · exact Fld.key_ne_of_section hg hf h.symm j i
  exact r.writeField_of_key key v false

end

section
/-! ## A write that lowers TDU_INTR (R474, R487) -/

namespace Sys2Proof.Machine

/-- Cause 0 of the die host's interrupt is raised and enabled, so TDU_INTR is high. -/
def dieInterruptHigh : State :=
  { State.reset with tdu := (State.reset.tdu.wr Reg.TGEN_INTR_STAT 1).wr Reg.TGEN_INTR_EN 1 }

end Sys2Proof.Machine

open Sys2Proof Sys2Proof.Machine

/-- Refutes O18, in its clause about TGEN.INTR_STAT: where the write clears the last cause that holds TDU_INTR high, the pin falls, and
its edge is put out beside the change of the register. -/
theorem not_registerWritesAct : ¬ Obligations.RegisterWritesAct := by
  rintro ⟨-, hdie⟩
  obtain ⟨-, hclear, -⟩ := hdie dieInterruptHigh 0 .host 0 4 1 ⟨[], [], []⟩ (by decide +kernel)
  have ran : exec (.registerWrite 0 .tdu .host 0x64 4 1 ⟨[], [], []⟩) dieInterruptHigh =
    .next (dieInterruptHigh.onDie 0 fun d => d.regWrite .host 0x64 4 1) := rfl
  have edge : (dieInterruptHigh.onDie 0 fun d => d.regWrite .host 0x64 4 1).tdu.out = [.pin 64 false 0] := by decide +kernel
  rw [Host.Outcome.next.inj (ran.symm.trans hclear)] at edge
  exact absurd edge (by decide +kernel)

end

section
/-! ## A drained section that still holds a host vector (R265, R413) -/

namespace Sys2Proof.Machine

/-- Where every draining section holds a vector of the host, none goes OUT. -/
theorem Tau.sectionsOut_of_host_vectors {x : Tau} (h : ∀ s < 4, x.secState s = 1 → (x.tree.hv.getD s []).isEmpty = false) :
    x.sectionsOut = x := by
  have stays : ∀ l : List Nat, (∀ s ∈ l, s < 4) → l.foldl (fun y s =>
      let left := y.scb.ctxs.any (·.home == s) || !(y.tree.q.getD s []).isEmpty || !(y.tree.hv.getD s []).isEmpty || y.secBusy s
      if y.secState s = 1 ∧ !left then y.setSec s 2 4 else y) x = x := by
    intro l
    induction l with
    | nil => intro _; rfl
    | cons s l ih =>
      intro hl
      rw [List.foldl_cons, if_neg]
      · exact ih fun k hk => hl k (List.mem_cons_of_mem _ hk)
      · rintro ⟨hs, hn⟩
        rw [h s (hl s (List.mem_cons_self ..)) hs] at hn
        simp at hn
  exact stays (List.range 4) fun _ => List.mem_range.mp

/-- SECTION_DRAIN_COMPLETE changes nothing while every draining section holds a vector of the host. -/
theorem exec_sectionDrainComplete_of_host_vectors {s : State} {t : T64} (hon : s.tau.on = true)
    (h : ∀ k < 4, (s.tauAt t).secState k = 1 → ((s.tauAt t).tree.hv.getD k []).isEmpty = false) :
    exec (.sectionDrainComplete t) s = .next (s.withTau (s.tauAt t)) := by
  change Host.Outcome.next (s.onMain t Tau.sectionsOut) = _
  rw [State.onMain_of_on hon]
  change Host.Outcome.next (s.withTau (s.tauAt t).sectionsOut) = _
  rw [Tau.sectionsOut_of_host_vectors h]

/-- Section 0 drains and holds one vector that the host submitted; nothing else of it is left. -/
def drainingWithHostVector : State :=
  { State.reset with tau := { State.reset.tau.wr Reg.MNT_SEC_STATE 1 with
      tree := { TreeSt.reset with hv := [[⟨0, 0, 0, []⟩], [], [], []] } } }

end Sys2Proof.Machine

open Sys2Proof Sys2Proof.Machine

/-- Refutes O58, in its clause about the end of a drain: the premises leave out the vectors of the host that the section holds, and
while it holds one it stays DRAINING. -/
theorem not_maintenanceActs : ¬ Obligations.MaintenanceActs := by
  intro h
  have on : drainingWithHostVector.tau.on = true := by decide +kernel
  obtain ⟨-, -, hout, -⟩ := h drainingWithHostVector 0 .host 0 0 [] 0 on
  have leaves := hout (by decide +kernel) (by decide +kernel) (by decide +kernel) (by decide +kernel) (by decide +kernel)
  have stays := exec_sectionDrainComplete_of_host_vectors (t := 0) on (by decide +kernel)
  have state : (drainingWithHostVector.withTau (drainingWithHostVector.tauAt 0)).tau.secState 0 = 1 := by decide +kernel
  rw [Host.Outcome.next.inj (stays.symm.trans leaves)] at state
  exact absurd state (by decide +kernel)

end

section
/-! ## What a command comes to, by its effect at its instant -/

namespace Sys2Proof.Machine

@[simp] theorem State.tduAt_clocked (s : State) (t : T64) : (s.tduAt t).clocked = s.tdu.clocked := Tdu.advance_clocked t s.tdu

theorem Tdu.por_of_clocked {d : Tdu} (h : d.clocked = true) : d.time.por = true := by
  simp only [Tdu.clocked, Tdu.live, Bool.and_eq_true] at h
  obtain ⟨⟨⟨⟨por, -⟩, -⟩, -⟩, -⟩ := h
  exact por

theorem Tdu.not_unclocked {d : Tdu} (h : d.clocked = true) : ¬ (!d.clocked) = true := by simp [h]

/-- A command that acts on the die leaves what its effect makes of the die at its instant. -/
theorem exec_of_onDie {c : Instr} {s : State} {t : T64} {f : Tdu → Tdu} {e : Tdu} (hc : exec c s = .next (s.onDie t f))
    (hp : s.tdu.time.por = true) (he : f (s.tduAt t) = e) : exec c s = .next (s.withTdu e) := by
  rw [hc, State.onDie_of_por hp]
  subst he
  rfl

/-- The same for a command that acts while the die's clock runs alone. -/
theorem exec_of_clocked {c : Instr} {s : State} {t : T64} {f : Tdu → Tdu} {e : Tdu}
    (hc : exec c s = .next (s.onDie t fun d => if d.clocked then f d else d)) (h : s.tdu.clocked = true)
    (he : f (s.tduAt t) = e) : exec c s = .next (s.withTdu e) := by
  refine exec_of_onDie hc (Tdu.por_of_clocked h) ?_
  rw [if_pos ((State.tduAt_clocked s t).trans h), he]

/-- A command that acts on the island leaves what its effect makes of the TAU at its instant. -/
theorem exec_of_onIsland {c : Instr} {s : State} {t : T64} {f : Tau → Tau} {y : Tau} (hc : exec c s = .next (s.onIsland t f))
    (hi : s.tau.islPg = true) (hy : f (s.tauAt t) = y) : exec c s = .next (s.withTau y) := by
  rw [hc, State.onIsland_of_fed hi]
  subst hy
  rfl

end Sys2Proof.Machine

end

section
/-! ## Interrupt windows (R99, R101, R487) -/

namespace Sys2Proof.Machine

@[simp] theorem Tau.interrupt_zero (x : Tau) : x.interrupt 0 = x := if_pos rfl

@[simp] theorem Tdu.interrupt_zero (d : Tdu) : d.interrupt 0 = d := if_pos rfl

theorem Tau.interrupt_of_allowance {x : Tau} {mask : Nat} (hm : mask ≠ 0) (h : x.intrUsed < x.rd Reg.TTB_HOST_INTR_CAP) :
    x.interrupt mask = { x with intrUsed := x.intrUsed + 1, out := .intr mask :: x.out } := by
  rw [Tau.interrupt, if_neg hm, if_pos h]

/-- One interrupt delivered to the die host, charged to the second's allowance. -/
def Tdu.deliver (d : Tdu) (mask : Nat) : Tdu :=
  { d with emit := { d.emit with intrUsed := d.emit.intrUsed + 1 }, out := .intr mask :: d.out }

theorem Tdu.interrupt_of_allowance {d : Tdu} {mask : Nat} (hm : mask ≠ 0) (h : d.emit.intrUsed < d.rd Reg.TEMIT_INTR_CAP) :
    d.interrupt mask = d.deliver mask := by
  rw [Tdu.interrupt, if_neg hm, if_pos h]
  rfl

theorem Tdu.drive_of_intrLine {d d0 : Tdu} (h : d.intrLine = d0.intrLine) : d.drive d0 = d := if_pos h

theorem Tdu.drive_of_rise {d d0 : Tdu} (h0 : d0.intrLine = false) (h : d.intrLine = true) :
    d.drive d0 = d.emitOut (.pin 64 true d.now) := by
  rw [Tdu.drive, if_neg (by simp [h0, h]), h]

/-- A TAU with its allowances whole and nothing pending. -/
def Tau.freshSecond (x : Tau) : Tau :=
  ({ x with intrUsed := 0, agr := { x.agr with failUsed := 0 } }).wr Reg.TTB_HOST_INTR_PEND 0

theorem Tau.freshSecond_pend (x : Tau) : x.freshSecond.rd Reg.TTB_HOST_INTR_PEND = 0 := Tau.rd_wr ..

theorem Tau.intrWindow_eq (x : Tau) : x.intrWindow = x.freshSecond.interrupt (x.rd Reg.TTB_HOST_INTR_PEND) := rfl

theorem Tau.intrWindow_of_none {x : Tau} (h : x.rd Reg.TTB_HOST_INTR_PEND = 0) : x.intrWindow = x.freshSecond := by
  rw [Tau.intrWindow_eq, h, Tau.interrupt_zero]

theorem Tau.intrWindow_of_pending {x : Tau} (h : x.rd Reg.TTB_HOST_INTR_PEND ≠ 0) (hc : 0 < x.rd Reg.TTB_HOST_INTR_CAP) :
    x.intrWindow =
      { x.freshSecond with intrUsed := 1, out := .intr (x.rd Reg.TTB_HOST_INTR_PEND) :: x.out } := by
  have room : x.freshSecond.intrUsed < x.freshSecond.rd Reg.TTB_HOST_INTR_CAP := by
    rwa [Tau.freshSecond, Tau.rd_wr_of_tag (by decide)]
  rw [Tau.intrWindow_eq, Tau.interrupt_of_allowance h room]
  rfl

/-- A die with its allowance whole and nothing pending. -/
def Tdu.freshSecond (d : Tdu) : Tdu := ({ d with emit := { d.emit with intrUsed := 0 } }).wr Reg.TEMIT_INTR_PEND 0

theorem Tdu.freshSecond_pend (d : Tdu) : d.freshSecond.rd Reg.TEMIT_INTR_PEND = 0 := Tdu.rd_wr ..

theorem Tdu.freshSecond_rd {f : Fld} (h : f.tag ≠ Reg.TEMIT_INTR_PEND.tag) (d : Tdu) : d.freshSecond.rd f = d.rd f :=
  Tdu.rd_wr_of_tag h ..

/-- With nothing pending TDU_INTR shows every enabled cause that is raised (R487). -/
theorem Tdu.freshSecond_intrLine (d : Tdu) :
    d.freshSecond.intrLine = (d.time.por && Nat.land (d.rd Reg.TGEN_INTR_STAT) (d.rd Reg.TGEN_INTR_EN) != 0) := by
  rw [Tdu.intrLine, Tdu.freshSecond_pend, Tdu.freshSecond_rd (by decide), Tdu.freshSecond_rd (by decide)]
  exact congrArg (fun n => d.time.por && _ != n) (Nat.and_zero _)

/-- With nothing pending, a new second begins with the allowance whole, and that is all. -/
theorem Tdu.intrWindow_of_none {d : Tdu} (h : d.rd Reg.TEMIT_INTR_PEND = 0) : d.intrWindow = d.freshSecond := by
  have line : d.freshSecond.intrLine = d.intrLine := by
    rw [Tdu.freshSecond_intrLine, Tdu.intrLine, h]
    exact (congrArg (fun n => d.time.por && _ != n) (Nat.and_zero _)).symm
  change (d.freshSecond.interrupt (d.rd Reg.TEMIT_INTR_PEND)).drive d = _
  rw [h, Tdu.interrupt_zero, Tdu.drive_of_intrLine line]

/-- As nothing is held back any more, TDU_INTR does not fall. -/
theorem Tdu.freshSecond_intrLine_of_high {d : Tdu} (h : d.intrLine = true) : d.freshSecond.intrLine = true := by
  simp only [Tdu.intrLine, Bool.and_eq_true, bne_iff_ne] at h
  obtain ⟨por, shows⟩ := h
  simp only [Tdu.freshSecond_intrLine, Bool.and_eq_true, bne_iff_ne]
  refine ⟨por, fun none => shows ?_⟩
  rw [none]
  exact (Nat.zero_and _).symm

/-- What waited is delivered as a new second begins, and TDU_INTR stands or rises. -/
theorem Tdu.intrWindow_of_pending {d : Tdu} (h : d.rd Reg.TEMIT_INTR_PEND ≠ 0) (hc : 0 < d.rd Reg.TEMIT_INTR_CAP) :
    let e := d.freshSecond.deliver (d.rd Reg.TEMIT_INTR_PEND)
    d.intrWindow = e ∨ d.intrWindow = e.emitOut (.pin 64 true d.now) := by
  intro e
  have window : d.intrWindow = e.drive d := by
    change (d.freshSecond.interrupt (d.rd Reg.TEMIT_INTR_PEND)).drive d = _
    rw [Tdu.interrupt_of_allowance h]
    rwa [Tdu.freshSecond_rd (by decide)]
  rw [window]
  cases before : d.intrLine <;> cases after : d.freshSecond.intrLine
  case false.false => exact .inl (Tdu.drive_of_intrLine (after.trans before.symm))
  case false.true => exact .inr (Tdu.drive_of_rise before after)
  case true.false => exact absurd (Tdu.freshSecond_intrLine_of_high before) (by simp [after])
  case true.true => exact .inl (Tdu.drive_of_intrLine (after.trans before.symm))

theorem secondAt_iff (t : T64) : secondAt t = true ↔ t.toNat % 4000000000 = 0 := by simp [secondAt]

end Sys2Proof.Machine

open Sys2Proof Sys2Proof.Machine

/-- Settles O38: with nothing pending an interrupt of no cause does nothing; else the whole allowance delivers what waited, and TDU_INTR
can only rise. -/
theorem interruptWindowsOpen : Obligations.InterruptWindowsOpen := by
  intro s t x d
  refine ⟨fun hi hn => ?_, fun hp hn => ?_, fun ht hi => ⟨fun hz => ?_, fun hz hc => ?_⟩,
    fun ht hp => ⟨fun hz => ?_, fun hz hc => ?_⟩⟩
  · rw [exec_of_onIsland (c := .tauIntrWindow t) rfl hi (if_neg (mt (secondAt_iff t).mp hn))]
  · exact exec_of_onDie rfl hp (if_neg (mt (secondAt_iff t).mp hn))
  · have window := exec_of_onIsland (c := .tauIntrWindow t) rfl hi (if_pos ((secondAt_iff t).mpr ht))
    rw [window, Tau.intrWindow_of_none hz]
    rfl
  · have window := exec_of_onIsland (c := .tauIntrWindow t) rfl hi (if_pos ((secondAt_iff t).mpr ht))
    rw [Tau.intrWindow_of_pending hz hc] at window
    exact ⟨_, window, x.freshSecond_pend, rfl, rfl⟩
  · exact exec_of_onDie rfl hp ((if_pos ((secondAt_iff t).mpr ht)).trans (Tdu.intrWindow_of_none hz))
  · refine ⟨_, exec_of_onDie rfl hp (if_pos ((secondAt_iff t).mpr ht)), ?_⟩
    obtain window | window := Tdu.intrWindow_of_pending hz hc <;> rw [window]
    · exact ⟨d.freshSecond_pend, rfl, .inl rfl⟩
    · exact ⟨d.freshSecond_pend, rfl, .inr rfl⟩

end

section
/-! ## Markers and phases (R90 to R92, R122, R283, R491, R492) -/

namespace Sys2Proof.Machine

section
variable {d : Tdu} {code step coll slot : Nat}

/-! ### The step sideband -/

theorem Tdu.tapMarker_of_undefined (h : 5 ≤ code) : d.tapMarker code step coll = d := by
  rw [Tdu.tapMarker, if_neg (by omega), if_neg (by omega)]

section
variable (hclk : d.clocked = true)
include hclk

theorem Tdu.marker_of_undefined (h : 5 ≤ code) : (d.marker code step coll slot).1 = d.bump Reg.TEMIT_MARK_ORDER_CNT := by
  rw [Tdu.marker, if_neg (Tdu.not_unclocked hclk), if_pos h]

variable (hcode : code < 5)
include hcode

theorem Tdu.marker_of_reacquire (htt : d.tt = 3) :
    (d.marker code step coll slot).1 =
      ({ d with time := { d.time with lostEvt := d.time.lostEvt + 1 } }).bump Reg.TEMIT_MARK_GAP_CNT := by
  rw [Tdu.marker, if_neg (Tdu.not_unclocked hclk), if_neg (Nat.not_le.mpr hcode), if_pos htt]

variable (htt : d.tt ≠ 3)
include htt

theorem Tdu.marker_of_full (hq : 64 ≤ d.cap.markQ.length) :
    (d.marker code step coll slot).1 = d.bump Reg.TEMIT_MARK_DROP_CNT := by
  rw [Tdu.marker, if_neg (Tdu.not_unclocked hclk), if_neg (Nat.not_le.mpr hcode), if_neg htt, if_pos hq]

/-- A marker that is kept, `m` as stamped and judged. -/
theorem Tdu.marker_of_room (hq : d.cap.markQ.length < 64) :
    let m0 : Marker := ⟨code, step, coll, slot, d.now, false, d.ho, d.errBound⟩
    let m : Marker := { m0 with order := !d.cap.inOrder m0 }
    let e1 := d.bump Reg.TEMIT_MARK_CNT
    let e2 := if m.order then e1.bump Reg.TEMIT_MARK_ORDER_CNT else e1
    let e3 := ({ e2 with cap := { e2.cap.orderAfter m with marks := e2.cap.marks ++ [m] } }).markHist m
    (d.marker code step coll slot).1 = if code = 4 then e3.token m else e3 := by
  rw [Tdu.marker, if_neg (Tdu.not_unclocked hclk), if_neg (Nat.not_le.mpr hcode), if_neg htt, if_neg (Nat.not_le.mpr hq)]

end

/-! ### The phase sideband -/

section
variable (hclk : d.clocked = true)
include hclk

theorem Tdu.phase_of_undefined (h : 5 ≤ code) : d.phase code coll = d.bump Reg.TCAP_PH_ORDER_CNT := by
  rw [Tdu.phase, if_neg (Tdu.not_unclocked hclk), if_pos h]

variable (hcode : code < 5)
include hcode

theorem Tdu.phase_of_reacquire (htt : d.tt = 3) :
    d.phase code coll = ({ d with time := { d.time with lostEvt := d.time.lostEvt + 1 } }).bump Reg.TCAP_PH_GAP_CNT := by
  rw [Tdu.phase, if_neg (Tdu.not_unclocked hclk), if_neg (Nat.not_le.mpr hcode), if_pos htt]

variable (htt : d.tt ≠ 3)
include htt

theorem Tdu.phase_of_full (hq : 32 ≤ d.cap.phaseQ.length) : d.phase code coll = d.bump Reg.TCAP_PH_DROP_CNT := by
  rw [Tdu.phase, if_neg (Tdu.not_unclocked hclk), if_neg (Nat.not_le.mpr hcode), if_neg htt, if_pos hq]

/-- A phase that is kept: the codes above its own are expected next, and after END a START (assumption 56). -/
theorem Tdu.phase_of_room (hq : d.cap.phaseQ.length < 32) :
    let nxt := countAt d.cap.phaseNext coll
    let ok := if nxt = 0 then code == 0 else decide (nxt ≤ code)
    let m : Phase := ⟨code, coll, d.now, !ok, d.ho, d.errBound⟩
    let e1 := d.bump Reg.TCAP_PH_CNT
    let e2 := if ok then e1 else e1.bump Reg.TCAP_PH_ORDER_CNT
    d.phase code coll = ({ e2 with cap := { e2.cap with
      phases := e2.cap.phases ++ [m]
      phaseNext := Store.put coll (if code = 4 then 0 else code + 1) 0 e2.cap.phaseNext } }).phaseHist m := by
  rw [Tdu.phase, if_neg (Tdu.not_unclocked hclk), if_neg (Nat.not_le.mpr hcode), if_neg htt, if_neg (Nat.not_le.mpr hq)]

end

end

end Sys2Proof.Machine

open Sys2Proof Sys2Proof.Machine

/-- Settles O33: the cases of each sideband in turn, undefined code, re-acquisition, full queue and room. -/
theorem sidebandsAreStamped : Obligations.SidebandsAreStamped := by
  constructor
  · intro s t code step coll slot hclk d m0 m e1 e2 e3
    have clk : d.clocked = true := (State.tduAt_clocked s t).trans hclk
    have acts {e : Tdu} (he : (d.marker code.val step.toNat coll.toNat slot.toNat).1 = e) :
        exec (.markerPresent t code step coll slot) s = .next (s.withTdu (e.tapMarker code.val step.toNat coll.toNat)) :=
      exec_of_clocked rfl hclk (congrArg (·.tapMarker code.val step.toNat coll.toNat) he)
    refine ⟨fun hcode htt hq => ?_, fun hcode => ?_, fun hcode htt => ?_, fun hcode htt hq => ?_⟩
    · exact acts (Tdu.marker_of_room clk hcode htt hq)
    · rw [acts (Tdu.marker_of_undefined clk hcode), Tdu.tapMarker_of_undefined hcode]
    · exact acts (Tdu.marker_of_reacquire clk hcode htt)
    · exact acts (Tdu.marker_of_full clk hcode htt hq)
  · intro s t code coll hclk d nxt ok m e1 e2
    have clk : d.clocked = true := (State.tduAt_clocked s t).trans hclk
    have acts {e : Tdu} (he : d.phase code.val coll.toNat = e) : exec (.phasePresent t code coll) s = .next (s.withTdu e) :=
      exec_of_onDie rfl (Tdu.por_of_clocked hclk) he
    refine ⟨fun hcode htt hq => ?_, fun hcode => ?_, fun hcode htt => ?_, fun hcode htt hq => ?_⟩
    · rw [acts (Tdu.phase_of_room clk hcode htt hq)]
    · exact acts (Tdu.phase_of_undefined clk hcode)
    · exact acts (Tdu.phase_of_reacquire clk hcode htt)
    · exact acts (Tdu.phase_of_full clk hcode htt hq)

end

section
/-! ## Screening slices (R98, R295 to R300) -/

namespace Sys2Proof.Machine

section
variable {d : Tdu} {v : Slice} {k : Pack} {i : Nat} {rest : List Nat}

/-! ### Requests -/

theorem Tdu.nextSlice_of_regs {e : Tdu} (h : e.regs = d.regs) : e.nextSlice k = d.nextSlice k := by
  simp only [Tdu.nextSlice, Tdu.rd, h]

/-- With one run due its pack asks for a slice; a free value is used up all the same. -/
theorem Tdu.sliceRequest_of_due (hclk : d.clocked = true) (hen : d.rd Reg.TSCR_EN = 1) (hs : d.scr.slice = none)
    (hw : d.scr.waits = none) (hdue : d.dueRuns = [i]) :
    d.sliceRequest = Tdu.requestFor { d with free := d.free + 1, scr := { d.scr with waits := none } } i := by
  have may : d.mayRequest = true := by simp [Tdu.mayRequest, hclk, hen, hs, hdue]
  simp [Tdu.sliceRequest, may, hw, hdue, Tdu.pick, Nat.mod_one]

theorem Tdu.sliceRequest_of_wait (hw : d.scr.waits = some (d.per, i)) : d.sliceRequest = d := by
  simp [Tdu.sliceRequest, hw]

section
variable {m len : Nat} {l : List Nat} (hk : d.scr.packs.getD i none = some k) (hn : d.nextSlice k = some (m, l, len))
include hk hn

theorem Tdu.requestFor_of_unstaged {e : Tdu} (hst : d.stage i (k.blobs l) = (e, false)) : d.requestFor i = e := by
  simp only [Tdu.requestFor, hk, hn, hst]

theorem Tdu.requestFor_of_credit {e : Tdu} (hst : d.stage i (k.blobs l) = (e, true)) (hc : len ≤ e.rd Reg.TEMIT_SCR_CREDIT) :
    d.requestFor i = (((e.setSlice ⟨i, m, l, len, e.per, 0, 0, 0, [], [], 0⟩).wr Reg.TSCR_STATE 1).emitOut (.screen 0 [1, len])) := by
  simp only [Tdu.requestFor, hk, hn, hst, if_neg (Nat.not_lt.mpr hc), Tdu.setSlice]

theorem Tdu.requestFor_of_no_credit {e : Tdu} (hst : d.stage i (k.blobs l) = (e, true)) (hc : e.rd Reg.TEMIT_SCR_CREDIT < len) :
    d.requestFor i = e.bump Reg.TEMIT_SCR_REFUSED_CNT := by
  simp only [Tdu.requestFor, hk, hn, hst, if_pos hc]

end

/-! ### Grant and withdrawal -/

section
variable (hs : d.scr.slice = some v)
include hs

theorem Tdu.sliceGrant_of_requested (hst : d.rd Reg.TSCR_STATE = 1) :
    d.sliceGrant = (((((d.wr Reg.TEMIT_SCR_CREDIT (d.rd Reg.TEMIT_SCR_CREDIT - v.len)).bump Reg.TSCR_SLICE_CNT).setSlice
      { v with start := d.now }).wr Reg.TSCR_STATE 2).marginReq (d.scr.packs.getD v.slot none) v.margin) := by
  simp only [Tdu.sliceGrant, hs, hst, ne_eq, not_true_eq_false, if_false]
  rfl

theorem Tdu.sliceTimeout_of_overdue (hst : d.rd Reg.TSCR_STATE = 1) (hover : v.reqAt + d.rd Reg.TSCR_REQ_TMO ≤ d.per)
    (hk : d.scr.packs.getD v.slot none = some k) :
    d.sliceTimeout = ((((({ d with scr := { d.scr with slice := none } }).wr Reg.TSCR_STATE 0).bump
      Reg.TSCR_WITHDRAW_CNT).emitOut (.screen 0 [0, 0])).install v.slot k) := by
  simp only [Tdu.sliceTimeout, Tdu.withdraw, hs, hst, hover, and_self, if_true, ne_eq, not_true_eq_false, if_false,
    Tdu.emitOut_scr, Tdu.bump_scr, Tdu.wr_scr, hk]

/-! ### The margin point -/

theorem Tdu.marginAck_of_waiting (hst : d.rd Reg.TSCR_STATE = 2) (hk : d.scr.packs.getD v.slot none = some k)
    (hin : d.now - v.start ≤ d.rd Reg.TSCR_MG_SETTLE) : d.marginAck = (d.movePast v).startPattern v k := by
  simp only [Tdu.marginAck, hs, hst, if_pos hin, hk]

theorem Tdu.marginAck_of_restoring (hst : d.rd Reg.TSCR_STATE = 4) : d.marginAck = d.endSlice v := by
  simp only [Tdu.marginAck, hs, hst]

theorem Tdu.marginRefused_of_waiting (hst : d.rd Reg.TSCR_STATE = 2) :
    d.marginRefused = ((d.movePast v).bump Reg.TSCR_MG_NAK_CNT).restore v v.todo.length := by
  simp only [Tdu.marginRefused, hs, if_pos hst]

theorem Tdu.settleTimeout_of_late (hlate : v.start + d.rd Reg.TSCR_MG_SETTLE ≤ d.now) : d.settleTimeout = d.marginRefused := by
  simp only [Tdu.settleTimeout, hs, if_pos hlate]

/-! ### Patterns -/

theorem Tdu.abortPattern_of_slice (cnt : Fld) :
    d.abortPattern cnt = ((d.emitOut (.screen 3 [])).bump cnt).restore v v.todo.length := by
  simp only [Tdu.abortPattern, hs]

variable (hst : d.rd Reg.TSCR_STATE = 3)
include hst

theorem Tdu.patternWord_of_running (hk : d.scr.packs.getD v.slot none = some k) (w : Nat) :
    d.patternWord w = d.setSlice { v with acc := Nat.xor v.acc (gfSum k.h v.n [w]), n := v.n + 1 } := by
  simp only [Tdu.patternWord, hs, hst, hk, ne_eq, not_true_eq_false, if_false]

theorem Tdu.patternDone_of_running {q : Pat} (hk : d.scr.packs.getD v.slot none = some k) (hstop : k.stop = none)
    (htodo : v.todo = i :: rest) (hq : k.pats[i]? = some q) :
    let dig := Nat.xor v.n v.acc
    d.patternDone =
      if v.n = q.words ∧ dig = q.expect then
        (d.bump Reg.TSCR_PASS_CNT).startPattern { v with todo := rest, ran := i :: v.ran } k
      else
        (d.bump Reg.TSCR_FAIL_CNT).startPattern { v with
          todo := rest, ran := i :: v.ran, failed := v.failed ++ [(i, dig, v.n)] } k := by
  by_cases right : v.n = q.words ∧ Nat.xor v.n v.acc = q.expect
  · have pass : (v.n == q.words && Nat.xor v.n v.acc == q.expect) = true := by simpa using right
    simp only [Tdu.patternDone, hs, hst, hk, htodo, hq, hstop, pass, if_pos right, ne_eq, not_true_eq_false, if_false, if_true,
      Bool.false_eq_true]
  · have fail : (v.n == q.words && Nat.xor v.n v.acc == q.expect) = false := by simpa using right
    simp only [Tdu.patternDone, hs, hst, hk, htodo, hq, hstop, fail, if_neg right, ne_eq, not_true_eq_false, if_false,
      Bool.false_eq_true]

theorem Tdu.sliceRevoke_of_running : d.sliceRevoke = d.abortPattern Reg.TSCR_REVOKE_CNT := by
  simp only [Tdu.sliceRevoke, hs, hst]

theorem Tdu.sliceOverrun_of_end (hend : v.start + v.len ≤ d.now + d.rd Reg.TSCR_MG_SETTLE) :
    d.sliceOverrun = d.abortPattern Reg.TSCR_OVERRUN_CNT := by
  simp only [Tdu.sliceOverrun, hs, if_pos (And.intro hst hend)]

end

end

end Sys2Proof.Machine

open Sys2Proof Sys2Proof.Machine

/-- Settles O39, engine step by engine step. -/
theorem screeningRuns : Obligations.ScreeningRuns := by
  constructor
  · intro s t k v e i m len l hclk d
    have clk : d.clocked = true := (State.tduAt_clocked s t).trans hclk
    have por := Tdu.por_of_clocked hclk
    refine ⟨fun hen hs hw hdue hk hn => ?_, fun hs hw => exec_of_onDie rfl por (Tdu.sliceRequest_of_wait hw),
      fun hs hst => ⟨?_, fun hover hk => ?_⟩, fun hs hst htodo hk => ⟨fun hin => ?_, ?_, fun hlate => ?_⟩, fun hs hst => ?_⟩
    · intro f
      have next : f.nextSlice k = some (m, l, len) := (Tdu.nextSlice_of_regs rfl).trans hn
      have asks : exec (.sliceRequest t) s = .next (s.withTdu (f.requestFor i)) :=
        exec_of_onDie rfl por (Tdu.sliceRequest_of_due clk hen hs hw hdue)
      refine ⟨fun hst => ?_, fun hst hc => ?_, fun hst hc => ?_⟩
      · rw [asks, Tdu.requestFor_of_unstaged (d := f) hk next hst]
      · rw [asks, Tdu.requestFor_of_credit (d := f) hk next hst hc]; rfl
      · rw [asks, Tdu.requestFor_of_no_credit (d := f) hk next hst hc]
    · exact exec_of_clocked rfl hclk (Tdu.sliceGrant_of_requested hs hst)
    · exact exec_of_clocked rfl hclk (Tdu.sliceTimeout_of_overdue hs hst hover hk)
    · exact exec_of_clocked rfl hclk (Tdu.marginAck_of_waiting hs hst hk hin)
    · exact exec_of_clocked rfl hclk (Tdu.marginRefused_of_waiting hs hst)
    · exact exec_of_clocked rfl hclk ((Tdu.settleTimeout_of_late hs hlate).trans (Tdu.marginRefused_of_waiting hs hst))
    · exact exec_of_clocked rfl hclk (Tdu.marginAck_of_restoring hs hst)
  · intro s t w k v i rest q hclk d dig hs hst hk hq hstop
    refine ⟨?_, fun htodo hn hdig => ?_, fun htodo hbad => ?_, ?_, fun hend => ?_⟩
    · exact exec_of_clocked rfl hclk (Tdu.patternWord_of_running hs hst hk _)
    · exact exec_of_clocked rfl hclk ((Tdu.patternDone_of_running hs hst hk hstop htodo hq).trans (if_pos ⟨hn, hdig⟩))
    · exact exec_of_clocked rfl hclk ((Tdu.patternDone_of_running hs hst hk hstop htodo hq).trans (if_neg hbad))
    · exact exec_of_clocked rfl hclk ((Tdu.sliceRevoke_of_running hs hst).trans (Tdu.abortPattern_of_slice hs _))
    · exact exec_of_clocked rfl hclk ((Tdu.sliceOverrun_of_end hs hst hend).trans (Tdu.abortPattern_of_slice hs _))

end

section
/-! ## A path that begins after one in which coaches left (R75, R76) -/

namespace Sys2Proof.Machine

/-- The die runs with FT valid and nothing queued, and a run of paced bytes of the path that ends is still on record. -/
def pacedDie : State :=
  State.reset.onTdu fun d =>
    let d := (d.wr Reg.TGEN_BOOT_STATE 2).wr Reg.TTIME_TT_STATE_STATE 1
    { d with emit := { d.emit with paced := 1 } }

end Sys2Proof.Machine

open Sys2Proof Sys2Proof.Machine

/-- Refutes O43, in its clause about a path that begins with nothing queued: the clause keeps the run of paced bytes of the path before,
and the model begins every path with none. Pacing is within a path (R75). -/
theorem not_diePathsAndPeriodsRun : ¬ Obligations.DiePathsAndPeriodsRun := by
  rintro ⟨hpath, -⟩
  obtain ⟨-, hbegin⟩ := hpath pacedDie 0 (by decide +kernel)
  have keeps := hbegin (by decide +kernel) (by decide +kernel) (by decide +kernel) (by decide +kernel) (by decide +kernel)
    (by decide +kernel) (by decide +kernel) (by decide +kernel) (by decide +kernel) (by decide +kernel) (by decide +kernel)
  have begins : exec (.tduPathBoundary 0) pacedDie = .next (pacedDie.onDie 0 Tdu.pathBoundary) := rfl
  have paced : (pacedDie.onDie 0 Tdu.pathBoundary).tdu.emit.paced = 0 := by decide +kernel
  rw [Host.Outcome.next.inj (begins.symm.trans keeps)] at paced
  exact absurd paced (by decide +kernel)

end

section
/-! ## A trace that is due to stop as an event comes (R355, R356) -/

namespace Sys2Proof.Machine

/-- The die traces in POST, and POST has been lowered to what follows the trigger already (R356): nothing has been coded yet. -/
def lateStop : State :=
  State.reset.onTdu fun d => ((d.wr Reg.TGEN_BOOT_STATE 2).wr Reg.TTRC_STATE 3).wr Reg.TTRC_POST 0

/-- A branch to address 4 after one instruction. -/
def branchEvent : FlowEvent := { kind := 0, nret := 1, addr := 4, priv := false, sec := false }

end Sys2Proof.Machine

open Sys2Proof Sys2Proof.Machine

/-- Refutes O36, in its clause about a flow event that is traced: where POST has been lowered to what the trace has written since its
trigger, the event finds the trace due to stop. The model writes the STOP before it codes the event, whose SYNC then starts the count of
bytes since the last SYNC anew; the clause has the STOP written after, and counted. -/
theorem not_tracesRunAndTrigger : ¬ Obligations.TracesRunAndTrigger := by
  rintro ⟨hflow, -⟩
  obtain ⟨htraced, -⟩ := hflow lateStop 0 branchEvent (by decide +kernel) (by decide +kernel)
  have after := htraced (by decide +kernel) (by decide +kernel)
  have ran : exec (.flowEvent 0 false branchEvent) lateStop = .next (lateStop.onDie 0 fun d => d.flowEvent false branchEvent) := rfl
  have since : (lateStop.onDie 0 fun d => d.flowEvent false branchEvent).tdu.trc.sinceSync = 0 := by decide +kernel
  rw [Host.Outcome.next.inj (ran.symm.trans after)] at since
  exact absurd since (by decide +kernel)

end

section
/-! ## Core cycles, overflow samples and the programmable counters (R105 to R114, R357) -/

namespace Sys2Proof.Machine

/-! ### Entries and indices -/

theorem modifyAt_eq_modify {α : Type} (f : α → α) (i : Nat) (l : List α) : modifyAt f i l = l.modify i f := by
  induction l generalizing i with
  | nil => cases i <;> rfl
  | cons a l ih =>
    cases i with
    | zero => rfl
    | succ i => exact congrArg (a :: ·) (ih i)

@[simp] theorem length_modifyAt {α : Type} (f : α → α) (i : Nat) (l : List α) : (modifyAt f i l).length = l.length := by
  rw [modifyAt_eq_modify, List.length_modify]

theorem getD_modifyAt_of_ne {α : Type} {i j : Nat} (h : i ≠ j) (f : α → α) (l : List α) (a : α) :
    (modifyAt f i l).getD j a = l.getD j a := by
  simp [modifyAt_eq_modify, h]

theorem getD_modifyAt_self {α : Type} {i : Nat} {l : List α} (h : i < l.length) (f : α → α) (a : α) :
    (modifyAt f i l).getD i a = f (l.getD i a) := by
  simp [modifyAt_eq_modify, h]

theorem forIdx_succ {α : Type} (n : Nat) (f : Nat → α → α) (a : α) : forIdx (n + 1) f a = f n (forIdx n f a) := by
  simp [forIdx, List.range_succ]

/-- Where no index acts, a pass over the indices changes nothing. -/
theorem forIdx_of_fixed {α : Type} {n : Nat} {f : Nat → α → α} {a : α} (h : ∀ i < n, f i a = a) : forIdx n f a = a := by
  induction n with
  | zero => rfl
  | succ n ih => rw [forIdx_succ, ih fun i hi => h i (by omega), h n (by omega)]

/-- Where one index alone acts, a pass over the indices is what it does. -/
theorem forIdx_of_one {α : Type} {n k : Nat} {f : Nat → α → α} {a : α} (hk : k < n) (hbelow : ∀ i < k, f i a = a)
    (habove : ∀ i < n, k < i → f i (f k a) = f k a) : forIdx n f a = f k a := by
  induction n with
  | zero => omega
  | succ n ih =>
    rw [forIdx_succ]
    obtain rfl | hkn : k = n ∨ k < n := by omega
    · rw [forIdx_of_fixed hbelow]
    · rw [ih hkn fun i hi => habove i (by omega), habove n (by omega) hkn]

/-! ### One counter (R109, R112) -/

/-- The values of the counters and their increments, and nothing else of the die, may differ. -/
def Tdu.CountedTo (d e : Tdu) : Prop := ∃ cnt inc, e = { d with cap := { d.cap with cnt := cnt, inc := inc } }

theorem Tdu.CountedTo.trans {d e g : Tdu} (h : d.CountedTo e) (h' : e.CountedTo g) : d.CountedTo g := by
  obtain ⟨_, _, rfl⟩ := h
  obtain ⟨cnt, inc, rfl⟩ := h'
  exact ⟨cnt, inc, rfl⟩

theorem Tdu.countedTo_count (d : Tdu) (i n : Nat) : d.CountedTo (d.count i n) := d.count_eq i n

theorem Tdu.CountedTo.regs {d e : Tdu} (h : d.CountedTo e) : e.regs = d.regs := by
  obtain ⟨_, _, rfl⟩ := h
  rfl

theorem Tdu.CountedTo.rd {d e : Tdu} (h : d.CountedTo e) (f : Fld) (i : Nat) : e.rd f i = d.rd f i := by
  rw [Tdu.rd, h.regs, Tdu.rd]

theorem Tdu.CountedTo.ctrEnabled {d e : Tdu} (h : d.CountedTo e) (i : Nat) : e.ctrEnabled i = d.ctrEnabled i := by
  obtain ⟨_, _, rfl⟩ := h
  rfl

theorem Tdu.CountedTo.written {d e : Tdu} (h : d.CountedTo e) : e.cap.written = d.cap.written := by
  obtain ⟨_, _, rfl⟩ := h
  rfl

theorem Tdu.count_cnt_of_ne {i j : Nat} (h : i ≠ j) (d : Tdu) (n : Nat) :
    (d.count i n).cap.cnt.getD j 0 = d.cap.cnt.getD j 0 := by
  unfold Tdu.count
  split
  · rfl
  · exact getD_modifyAt_of_ne h ..

@[simp] theorem Tdu.count_cnt_length (d : Tdu) (i n : Nat) : (d.count i n).cap.cnt.length = d.cap.cnt.length := by
  unfold Tdu.count
  split
  · rfl
  · exact length_modifyAt ..

/-- A counter that samples and passes 2^48 − 1 reloads what was last written to it, and goes on from there (R112). -/
theorem Tdu.count_cnt_of_overflow {d : Tdu} {k : Nat} (hen : d.ctrEnabled (16 + k) = true) (hk : 16 + k < d.cap.cnt.length)
    (hsmp : d.rd Reg.TPMU_CFG_OVF_SMP k = 1) (hover : 2 ^ 48 ≤ d.cap.cnt.getD (16 + k) 0 + 1) :
    (d.count (16 + k) 1).cap.cnt.getD (16 + k) 0 =
      (d.cap.written.getD k 0 + (d.cap.cnt.getD (16 + k) 0 + 1 - 2 ^ 48)) % 2 ^ 48 := by
  have counts : ¬ (decide (1 = 0) || !d.ctrEnabled (16 + k)) = true := by simp [hen]
  have samples : 16 ≤ 16 + k ∧ d.rd Reg.TPMU_CFG_OVF_SMP (16 + k - 16) = 1 := by simpa using hsmp
  rw [Tdu.count, if_neg counts]
  dsimp only
  rw [getD_modifyAt_self hk, if_neg (Nat.not_lt.mpr hover), if_pos samples, Nat.add_sub_cancel_left]

/-! ### The fixed counters of a core cycle (R107) -/

/-- The fixed counters take the increments of a core cycle. -/
def Tdu.countFixed (d : Tdu) (c : CoreCycle) : Tdu :=
  forEach (fixedIncs (d.rd Reg.TCAP_STRETCH_STATE_ACTIVE == 1) c) (fun p e => e.count p.1 p.2) d

theorem fixedIncs_lt {stretched : Bool} {c : CoreCycle} {p : Nat × Nat} (h : p ∈ fixedIncs stretched c) : p.1 < 16 := by
  have all : ((fixedIncs stretched c).map (·.1)).all (· < 16) = true := rfl
  simpa using List.all_eq_true.mp all _ (List.mem_map_of_mem h)

/-- Increments of fixed counters change nothing but counts, and no programmable counter. -/
theorem Tdu.forEach_count_of_fixed {l : List (Nat × Nat)} (h : ∀ p ∈ l, p.1 < 16) (d : Tdu) :
    let e := forEach l (fun p e => e.count p.1 p.2) d
    d.CountedTo e ∧ e.cap.cnt.length = d.cap.cnt.length ∧
      ∀ k, e.cap.cnt.getD (16 + k) 0 = d.cap.cnt.getD (16 + k) 0 := by
  induction l generalizing d with
  | nil => exact ⟨⟨_, _, rfl⟩, rfl, fun _ => rfl⟩
  | cons p l ih =>
    obtain ⟨counted, len, kept⟩ := ih (fun q hq => h q (List.mem_cons_of_mem _ hq)) (d.count p.1 p.2)
    have hp : p.1 < 16 := h p (List.mem_cons_self ..)
    exact ⟨(d.countedTo_count p.1 p.2).trans counted, len.trans (d.count_cnt_length ..),
      fun k => (kept k).trans (Tdu.count_cnt_of_ne (by omega) ..)⟩

theorem Tdu.countFixed_eq (d : Tdu) (c : CoreCycle) :
    d.CountedTo (d.countFixed c) ∧ (d.countFixed c).cap.cnt.length = d.cap.cnt.length ∧
      ∀ k, (d.countFixed c).cap.cnt.getD (16 + k) 0 = d.cap.cnt.getD (16 + k) 0 :=
  Tdu.forEach_count_of_fixed (fun _ => fixedIncs_lt) d

/-! ### What a programmable counter counts (R108) -/

/-- The count of samples is a register of its own. -/
theorem Tdu.rd_bump_smpCnt {g : Fld} (h : g.tag ≠ Reg.TPMU_SMP_CNT.tag) (d : Tdu) (i : Nat) :
    (d.bump Reg.TPMU_SMP_CNT).rd g i = d.rd g i :=
  Tdu.rd_wr_of_tag h ..

theorem Tdu.prgHit_of_regs {d e : Tdu} (h : e.regs = d.regs) (k : Nat) (was now : BitVec 256) :
    e.prgHit k was now = d.prgHit k was now := by
  simp only [Tdu.prgHit, Tdu.ctrEnabled, Tdu.rd, h]

theorem Tdu.ctrEnabled_of_prgHit {d : Tdu} {k : Nat} {was now : BitVec 256} (h : d.prgHit k was now = true) :
    d.ctrEnabled (16 + k) = true := by
  simp only [Tdu.prgHit, Bool.and_eq_true] at h
  obtain ⟨⟨en, -⟩, -⟩ := h
  exact en

/-! ### Overflow samples (R112 to R114, R357) -/

theorem Tdu.traceTrigger_of_other_source {d : Tdu} {src : Nat} (h : d.rd Reg.TTRC_TRIG_SRC ≠ src) (arg : Nat) :
    d.traceTrigger src arg = d := by
  simp [Tdu.traceTrigger, h]

/-- An event line that no trace trigger names rises. -/
theorem Tdu.lineRise_of_unnamed {d : Tdu} (h : d.rd Reg.TTRC_TRIG_SRC ≠ 3) (line : Nat) :
    d.lineRise line = { d with cap := { d.cap with evtNow := d.cap.evtNow ||| BitVec.ofNat 256 (2 ^ line) } } :=
  Tdu.traceTrigger_of_other_source (by exact h) line

theorem Tdu.por_of_live {d : Tdu} (h : d.live = true) : d.time.por = true := by
  simp only [Tdu.live, Bool.and_eq_true] at h
  obtain ⟨⟨⟨por, -⟩, -⟩, -⟩ := h
  exact por

theorem Tdu.admits_open (d : Tdu) : d.admits false false = true := rfl

/-- The sample of an overflow in code that the authorisation admits, stamped now. -/
def Tdu.openSample (d : Tdu) (k : Nat) (seen : TraceCycle) (next : List TraceCycle) : Sample :=
  ⟨k, d.now, seen.pc % 2 ^ 64, next.foldl (fun n c => n + min c.ret 2) 0, false, d.ho, d.errBound⟩

/-- A sample stays in the buffer while the unscheduled queue has no room for it (R115). -/
theorem Tdu.drainSamples_of_no_room {d : Tdu} (h : d.unschedRoom 48 = false) (n : Nat) : d.drainSamples n = d := by
  cases n with
  | zero => rfl
  | succ n => cases hs : d.cap.samples <;> simp [Tdu.drainSamples, hs, h]

@[simp] theorem Tdu.tt_bump_smpCnt (d : Tdu) : (d.bump Reg.TPMU_SMP_CNT).tt = d.tt := Tdu.rd_bump_smpCnt (by decide) d 0

@[simp] theorem Tdu.clocked_bump_smpCnt (d : Tdu) : (d.bump Reg.TPMU_SMP_CNT).clocked = d.clocked := by
  rw [Tdu.clocked, Tdu.live, Tdu.rd_bump_smpCnt (by decide)]
  rfl

@[simp] theorem Tdu.ho_bump_smpCnt (d : Tdu) : (d.bump Reg.TPMU_SMP_CNT).ho = d.ho := by
  rw [Tdu.ho, Tdu.tt_bump_smpCnt, Tdu.rd_bump_smpCnt (by decide), Tdu.ho]

@[simp] theorem Tdu.errBound_bump_smpCnt (d : Tdu) : (d.bump Reg.TPMU_SMP_CNT).errBound = d.errBound := by
  simp only [Tdu.errBound, Tdu.tt_bump_smpCnt, Tdu.rd_bump_smpCnt (g := Reg.TTIME_HO_PPB) (by decide)]
  rfl

/-- The die with one sample counted, which alone waits. -/
def Tdu.keepSample (d : Tdu) (m : Sample) : Tdu :=
  let o := d.bump Reg.TPMU_SMP_CNT
  { o with cap := { o.cap with samples := [m] } }

theorem Tdu.rd_keepSample {g : Fld} (h : g.tag ≠ Reg.TPMU_SMP_CNT.tag) (d : Tdu) (m : Sample) (i : Nat) :
    (d.keepSample m).rd g i = d.rd g i :=
  Tdu.rd_bump_smpCnt h d i

theorem Tdu.prgHit_keepSample (d : Tdu) (m : Sample) (k : Nat) (was now : BitVec 256) :
    (d.keepSample m).prgHit k was now = d.prgHit k was now := by
  have kept {g : Fld} (h : g.tag ≠ Reg.TPMU_SMP_CNT.tag) (i : Nat) := d.rd_keepSample h m i
  simp only [Tdu.prgHit, Tdu.ctrEnabled]
  iterate 8 rw [kept (by decide)]

/-- An overflow of counter `k` in the cycle `tp` is captured and waits: it is stamped, of admitted code, with no earlier sample and no
room in the queue. `seen` is what the trace port showed last of the code that ran (R113). -/
structure Tdu.KeepsSample (d : Tdu) (k : Nat) (tp : TraceCycle) (next : List TraceCycle) (seen : TraceCycle) : Prop where
  quiet : d.rd Reg.TPMU_CFG_OVF_INTR k = 0
  clocked : d.clocked = true
  stamps : d.tt ≠ 3
  empty : d.cap.samples = []
  noRoom : d.unschedRoom 48 = false
  seen_eq : ((tp :: next).filter (fun c => c.ret != 0)).getLast?.getD d.cap.lastRet = seen
  priv : seen.priv = false
  sec : seen.sec = false

section
variable {d e : Tdu} {k : Nat} {tp : TraceCycle} {next : List TraceCycle} {seen : TraceCycle}

theorem Tdu.CountedTo.keepsSample (h : d.CountedTo e) (hs : d.KeepsSample k tp next seen) : e.KeepsSample k tp next seen := by
  obtain ⟨_, _, rfl⟩ := h
  exact ⟨hs.quiet, hs.clocked, hs.stamps, hs.empty, hs.noRoom, hs.seen_eq, hs.priv, hs.sec⟩

theorem Tdu.CountedTo.openSample (h : d.CountedTo e) : e.openSample k seen next = d.openSample k seen next := by
  obtain ⟨_, _, rfl⟩ := h
  rfl

theorem Tdu.overflow_of_keepsSample (h : d.KeepsSample k tp next seen) :
    d.overflow k tp next = d.keepSample (d.openSample k seen next) := by
  have quiet : ¬ (d.bump Reg.TPMU_SMP_CNT).rd Reg.TPMU_CFG_OVF_INTR k = 1 := by
    rw [Tdu.rd_bump_smpCnt (by decide), h.quiet]
    decide
  have stamps : ¬ (decide (d.tt = 3) || !d.clocked) = true := by simp [h.stamps, h.clocked]
  unfold Tdu.overflow
  simp only [if_neg quiet, Tdu.tt_bump_smpCnt, Tdu.clocked_bump_smpCnt, Tdu.ho_bump_smpCnt, Tdu.errBound_bump_smpCnt, Tdu.bump_cap,
    h.empty, h.seen_eq, h.priv, h.sec, Tdu.admits_open, if_neg stamps]
  refine (if_neg (by decide)).trans ((Tdu.drainSamples_of_no_room ?_ _).trans rfl)
  exact h.noRoom

theorem Tdu.prgCount_of_lt (h : d.cap.cnt.getD (16 + k) 0 + 1 < 2 ^ 48) : d.prgCount k tp next = d.count (16 + k) 1 := by
  have stays : ¬ (d.rd Reg.TPMU_CFG_OVF_SMP k == 1 && decide (2 ^ 48 ≤ d.cap.cnt.getD (16 + k) 0 + 1)) = true := by
    rw [decide_eq_false (Nat.not_le.mpr h), Bool.and_false]
    exact Bool.false_ne_true
  rw [Tdu.prgCount, if_neg stays]

/-- A counter that samples passes 2^48 − 1, and no trace trigger names it. -/
theorem Tdu.prgCount_of_keepsSample (h : d.KeepsSample k tp next seen) (hsmp : d.rd Reg.TPMU_CFG_OVF_SMP k = 1)
    (hover : 2 ^ 48 ≤ d.cap.cnt.getD (16 + k) 0 + 1) (htrig : d.rd Reg.TTRC_TRIG_SRC ≠ 5) :
    d.prgCount k tp next = (d.count (16 + k) 1).keepSample (d.openSample k seen next) := by
  have passes : (d.rd Reg.TPMU_CFG_OVF_SMP k == 1 && decide (2 ^ 48 ≤ d.cap.cnt.getD (16 + k) 0 + 1)) = true := by
    rw [hsmp, decide_eq_true hover]
    rfl
  have counted := d.countedTo_count (16 + k) 1
  have unnamed : ((d.count (16 + k) 1).keepSample (d.openSample k seen next)).rd Reg.TTRC_TRIG_SRC ≠ 5 := by
    rwa [Tdu.rd_keepSample (by decide), counted.rd]
  rw [Tdu.prgCount, if_pos passes, Tdu.overflow_of_keepsSample (counted.keepsSample h), counted.openSample]
  exact Tdu.traceTrigger_of_other_source unnamed k

end

/-! ### One core cycle -/

/-- The event lines that a core cycle shows. -/
def Tdu.linesIn (d : Tdu) (c : CoreCycle) : BitVec 256 := d.cap.evtNow &&& ~~~c.low

/-- What a core cycle leaves for the next: the lines it showed, and what the trace port and the expander showed last. -/
def Tdu.endCycle (e : Tdu) (lines : BitVec 256) (c : CoreCycle) : Tdu :=
  { e with cap := { e.cap with
      evtWas := lines
      evtNow := lines
      lastRet := if c.tp.ret = 0 then e.cap.lastRet else c.tp
      expBlk := if c.expStall then c.expBlk.toNat else e.cap.expBlk } }

section
variable {d e : Tdu} {c : CoreCycle} {next : List TraceCycle}

theorem Tdu.coreCycle_eq (d : Tdu) (c : CoreCycle) (next : List TraceCycle) :
    d.coreCycle c next = (forIdx 64 (fun j e => if e.prgHit j d.cap.evtWas (d.linesIn c) then e.prgCount j c.tp next else e)
      (d.countFixed c)).endCycle (d.linesIn c) c := rfl

theorem Tdu.prgHit_countFixed (d : Tdu) (c : CoreCycle) (j : Nat) (was now : BitVec 256) :
    (d.countFixed c).prgHit j was now = d.prgHit j was now :=
  Tdu.prgHit_of_regs (d.countFixed_eq c).1.regs j was now

/-- A core cycle in which no programmable counter counts. -/
theorem Tdu.coreCycle_of_no_hit (h : ∀ j : Fin 64, d.prgHit j.val d.cap.evtWas (d.linesIn c) = false) :
    d.coreCycle c next = (d.countFixed c).endCycle (d.linesIn c) c := by
  rw [Tdu.coreCycle_eq, forIdx_of_fixed]
  intro j hj
  rw [Tdu.prgHit_countFixed, h ⟨j, hj⟩, if_neg Bool.false_ne_true]

/-- A core cycle in which one programmable counter counts, and does not change what counts. -/
theorem Tdu.coreCycle_of_one_hit {k : Fin 64} (hk : d.prgHit k.val d.cap.evtWas (d.linesIn c) = true)
    (hne : ∀ j : Fin 64, j ≠ k → d.prgHit j.val d.cap.evtWas (d.linesIn c) = false)
    (he : (d.countFixed c).prgCount k.val c.tp next = e) (hits : ∀ j was now, e.prgHit j was now = d.prgHit j was now) :
    d.coreCycle c next = e.endCycle (d.linesIn c) c := by
  have acts : (if (d.countFixed c).prgHit k.val d.cap.evtWas (d.linesIn c) then (d.countFixed c).prgCount k.val c.tp next
      else d.countFixed c) = e := by rw [Tdu.prgHit_countFixed, hk, if_pos rfl, he]
  rw [Tdu.coreCycle_eq, forIdx_of_one k.isLt, acts]
  · intro j hj
    rw [Tdu.prgHit_countFixed, hne ⟨j, by omega⟩ (Fin.ne_of_lt hj), if_neg Bool.false_ne_true]
  · intro j hj hkj
    rw [acts, hits, hne ⟨j, hj⟩ (Fin.ne_of_gt hkj), if_neg Bool.false_ne_true]

/-- A core cycle in which one programmable counter counts, and does not overflow. -/
theorem Tdu.coreCycle_of_count {k : Fin 64} (hk : d.prgHit k.val d.cap.evtWas (d.linesIn c) = true)
    (hne : ∀ j : Fin 64, j ≠ k → d.prgHit j.val d.cap.evtWas (d.linesIn c) = false)
    (hv : d.cap.cnt.getD (16 + k.val) 0 + 1 < 2 ^ 48) :
    d.coreCycle c next = ((d.countFixed c).count (16 + k.val) 1).endCycle (d.linesIn c) c := by
  obtain ⟨counted, -, kept⟩ := d.countFixed_eq c
  have counts : (d.countFixed c).prgCount k.val c.tp next = (d.countFixed c).count (16 + k.val) 1 :=
    Tdu.prgCount_of_lt (by rwa [kept])
  exact Tdu.coreCycle_of_one_hit hk hne counts
    fun j was now => Tdu.prgHit_of_regs (counted.trans (Tdu.countedTo_count ..)).regs j was now

/-- A core cycle in which one programmable counter counts and overflows into a sample, and no trace trigger names it. -/
theorem Tdu.coreCycle_of_sample {k : Fin 64} {seen : TraceCycle} (hk : d.prgHit k.val d.cap.evtWas (d.linesIn c) = true)
    (hne : ∀ j : Fin 64, j ≠ k → d.prgHit j.val d.cap.evtWas (d.linesIn c) = false)
    (hv : 2 ^ 48 ≤ d.cap.cnt.getD (16 + k.val) 0 + 1) (hsmp : d.rd Reg.TPMU_CFG_OVF_SMP k.val = 1)
    (hs : d.KeepsSample k.val c.tp next seen) (htrig : d.rd Reg.TTRC_TRIG_SRC ≠ 5) :
    d.coreCycle c next =
      (((d.countFixed c).count (16 + k.val) 1).keepSample (d.openSample k.val seen next)).endCycle (d.linesIn c) c := by
  obtain ⟨counted, -, kept⟩ := d.countFixed_eq c
  have counts := Tdu.prgCount_of_keepsSample (counted.keepsSample hs) (by rwa [counted.rd]) (by rwa [kept]) (by rwa [counted.rd])
  rw [counted.openSample] at counts
  refine Tdu.coreCycle_of_one_hit hk hne counts fun j was now => ?_
  rw [Tdu.prgHit_keepSample, Tdu.prgHit_of_regs (counted.trans (Tdu.countedTo_count ..)).regs]

/-- The fixed counters of the cycle do not touch what an overflow reloads. -/
theorem Tdu.countFixed_count_of_overflow {k : Nat} (hen : d.ctrEnabled (16 + k) = true) (hk : 16 + k < d.cap.cnt.length)
    (hsmp : d.rd Reg.TPMU_CFG_OVF_SMP k = 1) (hv : 2 ^ 48 ≤ d.cap.cnt.getD (16 + k) 0 + 1) :
    ((d.countFixed c).count (16 + k) 1).cap.cnt.getD (16 + k) 0 =
      (d.cap.written.getD k 0 + (d.cap.cnt.getD (16 + k) 0 + 1 - 2 ^ 48)) % 2 ^ 48 := by
  obtain ⟨counted, len, kept⟩ := d.countFixed_eq c
  rw [Tdu.count_cnt_of_overflow (by rwa [counted.ctrEnabled]) (by rwa [len]) (by rwa [counted.rd]) (by rwa [kept]), kept,
    counted.written]

theorem Tdu.core_of_one (h : d.live = true) (c : CoreCycle) (after : List TraceCycle) :
    d.core ⟨[(1, c)], after⟩ = d.coreCycle c (after.take 3) := by
  rw [Tdu.core, if_pos h]
  rfl

end

/-! ### A write of PRG_HI (R110) -/

theorem dieAddr_prgHi (k : Fin 64) : dieAddr (dieFieldAddr Reg.TPMU_PRG_HI k) = some (0x23, 0x204 + 8 * k.val, false) := by
  revert k
  decide +kernel

theorem wordFields_prgHi (k : Fin 64) : wordFields 0x23 (0x204 + 8 * k.val) = [(Reg.TPMU_PRG_HI, k.val)] := by
  revert k
  decide +kernel

/-- A word of which nothing but PRG_HI stands, which its own command writes, is not written otherwise. -/
theorem RegFile.writeWord_prgHi {keep : Fld → Bool} (h : keep Reg.TPMU_PRG_HI = true) (k : Fin 64) (s v : Nat) (r : RegFile) :
    r.writeWord 0x23 s (0x204 + 8 * k.val) v keep = r := by
  simp [RegFile.writeWord, wordFields_prgHi, h]

theorem instAt_prgHi (k : Fin 64) :
    Reg.TPMU_PRG_LO.instAt (0x204 + 8 * k.val) = none ∧ Reg.TPMU_PRG_HI.instAt (0x204 + 8 * k.val) = some k.val := by
  revert k
  decide +kernel

theorem Tdu.command_prgHi (d : Tdu) (k : Fin 64) (v : Nat) : d.command 0x23 (0x204 + 8 * k.val) v false = d.prgHi k v := by
  obtain ⟨notLo, hi⟩ := instAt_prgHi k
  have notErr : ¬ (0x204 + 8 * k.val = 0xC ∧ v.testBit 15 = true) := by omega
  unfold Tdu.command
  simp only [if_neg notErr]
  simp [show Reg.TGEN_UPD_STROBE_MASK.page = 0x20 from rfl, show Reg.TPMU_PRG_LO.page = 0x23 from rfl,
    show Reg.TPMU_PRG_HI.page = 0x23 from rfl, notLo, hi]

/-- A write of PRG_HI on an unlocked page, through any port: the counter, and nothing else. -/
theorem Tdu.write_prgHi {d : Tdu} (h : d.reachable = true) (hl : d.rd (Reg.PG_LOCK 0x23) = 0) (k : Fin 64) (port : Port) (v : Nat) :
    d.writeField Reg.TPMU_PRG_HI k port v = d.prgHi k v := by
  have aligned : dieFieldAddr Reg.TPMU_PRG_HI k % 4 = 0 := by
    revert k
    decide +kernel
  have unlocked : (d.rd (Reg.PG_LOCK 0x23) == 1) = false := by rw [hl]; rfl
  unfold Tdu.writeField Tdu.regWrite
  simp only [h, aligned, dieAddr_prgHi, wordWritable, wordFields_prgHi, unlocked]
  simp [show hostBarred Reg.TPMU_PRG_HI = false from rfl, show Reg.TPMU_PRG_HI.acc = .rw from rfl, RegFile.writeWord_prgHi,
    Tdu.command_prgHi]

end Sys2Proof.Machine

open Sys2Proof Sys2Proof.Machine

/-- Settles O35, the core cycle by what its programmable counters count, then an event line, then a write of PRG_HI. -/
theorem countersOverflowAndAreWritten : Obligations.CountersOverflowAndAreWritten := by
  refine ⟨?cycle, ?line, ?write⟩
  case cycle =>
    intro s t c after k hlive d lines f ends hit v seen
    have live : d.live = true := (Tdu.advance_live t s.tdu).trans hlive
    have runs {e : Tdu} (he : d.coreCycle c (after.take 3) = e) :
        exec (.counterOverflow t ⟨[(1, c)], after⟩) s = .next (s.withTdu e) :=
      exec_of_onDie rfl (Tdu.por_of_live hlive) ((Tdu.core_of_one live c after).trans he)
    refine ⟨fun h => runs (Tdu.coreCycle_of_no_hit h), fun hk hne hv => runs (Tdu.coreCycle_of_count hk hne hv),
      fun hk hne hv hsmp hintr hclk htt hs hpriv hsec hroom htrig => ⟨?_, fun hlen => ?_⟩⟩
    · have keeps : d.KeepsSample k c.tp (after.take 3) seen := ⟨hintr, hclk, htt, hs, hroom, rfl, hpriv, hsec⟩
      exact runs (Tdu.coreCycle_of_sample hk hne hv hsmp keeps htrig)
    · exact Tdu.countFixed_count_of_overflow (c := c) (Tdu.ctrEnabled_of_prgHit hk) hlen hsmp hv
  case line =>
    intro s t line act d hpor htrig
    exact exec_of_onDie rfl hpor (Tdu.lineRise_of_unnamed htrig line)
  case write =>
    intro s t port k v act d n hpor hr hl
    exact exec_of_onDie rfl hpor (Tdu.write_prgHi hr hl k port v.toNat)

end

section
/-! ## Records: trailer and header (R146 to R148) -/

namespace Sys2Proof.Machine

/-! ### Fields laid out one after the other -/

theorem fieldAt_leBytes {w n : Nat} (h : n < 256 ^ w) (c : List Byte) : fieldAt (leBytes w n ++ c) 0 w = n :=
  fieldAt_mid [] c w n 0 rfl h

/-- A field past another is read of what follows that one. -/
theorem fieldAt_past {o v : Nat} (h : v ≤ o) (n : Nat) (c : List Byte) (w : Nat) :
    fieldAt (leBytes v n ++ c) o w = fieldAt c (o - v) w := by
  have past : (leBytes v n).drop o = [] := List.drop_of_length_le (by simpa using h)
  simp [fieldAt, List.drop_append, past]

/-! ### The trailer -/

theorem crcOk_withCrc (body : List Byte) : crcOk (withCrc body) = true := by
  have start : (withCrc body).length - 4 = body.length := by simp [withCrc]
  have trailer : fieldAt (withCrc body) body.length 4 = crc32c body := by
    simpa [withCrc] using fieldAt_mid body [] 4 (crc32c body) body.length rfl (crc32c_lt body)
  have before : (withCrc body).take body.length = body := List.take_left
  simp only [crcOk, start, trailer, before]
  simp [withCrc]

/-! ### The header -/

/-- Byte 1 of a header: SEV and the five flags. -/
def Hdr.flags (h : Hdr) : Nat :=
  h.sev % 8 + 8 * bit h.ho + 16 * bit h.gap + 32 * bit h.late + 64 * bit h.order + 128 * bit h.sat

/-- The 24 bytes of a header whose record is `len` bytes long, and what follows them. -/
def Hdr.layout (h : Hdr) (len : Nat) (rest : List Byte) : List Byte :=
  leBytes 1 (1 + 16 * h.cls) ++ (leBytes 1 h.flags ++ (leBytes 2 len ++ (leBytes 2 h.consist ++ (leBytes 3 h.rank ++
    (leBytes 1 h.epochLo ++ (leBytes 2 h.job ++ (leBytes 2 (if h.ho then h.eb else 0) ++ (leBytes 1 h.sigT ++
      (leBytes 1 h.sigL ++ (leBytes 8 h.t ++ rest))))))))))

/-- A record begins with its header; body, padding and trailer follow. -/
theorem mkRecord_eq_layout (h : Hdr) (body : List Byte) : ∃ rest, mkRecord h body = h.layout (recLen body.length) rest := by
  obtain ⟨z, hz⟩ := padLen_eq (recLen body.length - 4) (h.layout (recLen body.length) body)
  refine ⟨body ++ z ++ leBytes 4 (crc32c (h.layout (recLen body.length) body ++ z)), ?_⟩
  have laid : mkRecord h body = withCrc (padLen (recLen body.length - 4) (h.layout (recLen body.length) body)) := by
    simp only [mkRecord, Hdr.layout, Hdr.flags, List.append_assoc]
  rw [laid, hz, withCrc]
  simp only [Hdr.layout, List.append_assoc]

theorem bit_le_one (b : Bool) : bit b ≤ 1 := by cases b <;> decide

theorem testBit_of_digit {n i : Nat} {b : Bool} (h : n / 2 ^ i % 2 = bit b) : n.testBit i = b := by
  rw [Nat.testBit_eq_decide_div_mod_eq, h]
  cases b <;> rfl

/-- SEV and the flags are the digits of byte 1, and fill it. -/
theorem Hdr.flags_digits (h : Hdr) : h.flags < 256 ∧ bits h.flags 0 3 = h.sev % 8 ∧ h.flags.testBit 3 = h.ho ∧
    h.flags.testBit 4 = h.gap ∧ h.flags.testBit 5 = h.late ∧ h.flags.testBit 6 = h.order ∧ h.flags.testBit 7 = h.sat := by
  have ho := bit_le_one h.ho
  have gap := bit_le_one h.gap
  have late := bit_le_one h.late
  have order := bit_le_one h.order
  have sat := bit_le_one h.sat
  refine ⟨?_, ?_, testBit_of_digit ?_, testBit_of_digit ?_, testBit_of_digit ?_, testBit_of_digit ?_, testBit_of_digit ?_⟩ <;>
    simp only [bits, Hdr.flags] <;> omega

/-- VER is 1, CLASS its own digit, and the reserved bit clear in byte 0. -/
theorem versionByte_digits {cls : Nat} (h : cls < 8) :
    bits (1 + 16 * cls) 0 4 = 1 ∧ bits (1 + 16 * cls) 4 3 = cls ∧ (1 + 16 * cls).testBit 7 = false := by
  refine ⟨?_, ?_, Nat.testBit_lt_two_pow (by omega)⟩ <;> simp only [bits] <;> omega

/-- The fields of a header fit their widths. -/
structure Hdr.Fits (h : Hdr) : Prop where
  cls : h.cls < 8
  sev : h.sev < 8
  consist : h.consist < 2 ^ 16
  rank : h.rank < 2 ^ 24
  epochLo : h.epochLo < 2 ^ 8
  job : h.job < 2 ^ 16
  eb : h.eb < 2 ^ 16
  sigT : h.sigT < 2 ^ 8
  sigL : h.sigL < 2 ^ 8
  t : h.t < 2 ^ 64

theorem Hdr.parse_layout {h : Hdr} (fits : h.Fits) {len : Nat} (hlen : len < 2 ^ 16) (rest : List Byte) :
    Hdr.parse (h.layout len rest) = { h with ver := 1, len := len, eb := if h.ho then h.eb else 0, rsv := false } := by
  have version : 1 + 16 * h.cls < 256 ^ 1 := by have := fits.cls; omega
  have bound : (if h.ho then h.eb else 0) < 256 ^ 2 := by
    split
    · exact fits.eb
    · decide
  obtain ⟨ver, cls, rsv⟩ := versionByte_digits fits.cls
  obtain ⟨flags, sev, ho, gap, late, order, sat⟩ := h.flags_digits
  simp only [Hdr.parse, Hdr.layout, fieldAt_past, Nat.reduceLeDiff, Nat.reduceSub, fieldAt_leBytes version,
    fieldAt_leBytes (w := 1) flags, fieldAt_leBytes (w := 2) hlen, fieldAt_leBytes (w := 2) fits.consist,
    fieldAt_leBytes (w := 3) fits.rank, fieldAt_leBytes (w := 1) fits.epochLo, fieldAt_leBytes (w := 2) fits.job,
    fieldAt_leBytes bound, fieldAt_leBytes (w := 1) fits.sigT, fieldAt_leBytes (w := 1) fits.sigL, fieldAt_leBytes (w := 8) fits.t,
    ver, cls, rsv, sev, ho, gap, late, order, sat, Nat.mod_eq_of_lt fits.sev]

end Sys2Proof.Machine

open Sys2Proof Sys2Proof.Machine

/-- Settles O10: the trailer reads the CRC-32C of the bytes before it, as a CRC-32C fits four bytes. -/
theorem trailerChecks : Obligations.TrailerChecks := crcOk_withCrc

/-- Settles O11: the record begins with the header laid out, of which every field is read at its place. -/
theorem recordHeaderRoundTrips : Obligations.RecordHeaderRoundTrips := by
  intro h body hcls hsev hconsist hrank hepoch hjob heb hsigT hsigL ht hlen
  obtain ⟨rest, laid⟩ := mkRecord_eq_layout h body
  rw [laid]
  exact Hdr.parse_layout ⟨hcls, hsev, hconsist, hrank, hepoch, hjob, heb, hsigT, hsigL, ht⟩ hlen rest

end

section
/-! ## Records from below, and long-haul frames (R174, R176, R201, R307, R310, R378) -/

namespace Sys2Proof.Machine

/-- A command that acts on the sections leaves what its effect makes of the TAU at its instant. -/
theorem exec_of_onMain {c : Instr} {s : State} {t : T64} {f : Tau → Tau} {y : Tau} (hc : exec c s = .next (s.onMain t f))
    (hon : s.tau.on = true) (hy : f (s.tauAt t) = y) : exec c s = .next (s.withTau y) := by
  rw [hc, State.onMain_of_on hon]
  subst hy
  rfl

section
variable {x z : Tau} {from_ : Sender} {r : List Byte} {a : Arrival} {c k sec : Nat} {yellow : Bool}

/-! ### Arrival and metering -/

/-- The TAU once a record of `n` bytes has left the buffer of the link that it came over (R307). -/
def Tau.bufferFreed (x : Tau) (from_ : Sender) (n : Nat) : Tau :=
  match from_ with
  | .link l => x.vcReturn l n
  | _ => x

theorem Tau.receive_of_lost (h : (x.bufferFreed from_ r.length).lostAt from_ = true) (port : Option Nat) :
    x.receive port from_ r = x.bufferFreed from_ r.length := if_pos h

theorem Tau.receive_of_coach (hbit : (fieldAt r 0 1).testBit 7 = false)
    (h : (x.bufferFreed from_ r.length).lostAt from_ = false) (port : Option Nat) :
    x.receive port from_ r = (x.bufferFreed from_ r.length).coachIn from_ r := by
  change (if (x.bufferFreed from_ r.length).lostAt from_ then x.bufferFreed from_ r.length
    else if (fieldAt r 0 1).testBit 7 then (x.bufferFreed from_ r.length).controlIn port from_ r
    else (x.bufferFreed from_ r.length).coachIn from_ r) = _
  rw [h, hbit, if_neg Bool.false_ne_true, if_neg Bool.false_ne_true]

theorem Tau.kid_isSome_of_whence (h : (x.whence from_).kid = some c) : (x.kid c).isSome = true := by
  cases from_ with
  | link l =>
    obtain ⟨⟨-, kid⟩, rfl⟩ : (x.isTray = true ∧ (x.kid (l.val % 16)).isSome = true) ∧ l.val % 16 = c := by
      simpa [Tau.whence] using h
    exact kid
  | child d s =>
    obtain ⟨kid, rfl⟩ : (x.kid d.val).isSome = true ∧ d.val = c := by simpa [Tau.whence] using h
    exact kid
  | parent => exact absurd h (by simp [Tau.whence])
  | other via => exact absurd h (by simp [Tau.whence])

section
variable {len : Nat} (hkid : (x.kid c).isSome = true) (hm : x.meterIn c len = (z, k)) (f : Tau → Bool → Tau)
include hkid hm

theorem Tau.metered_of_red (hk : k = 2) : x.metered c len f = z := by
  subst hk
  rw [Tau.metered, if_neg (by simpa [Option.isSome_iff_ne_none] using hkid), hm]
  rfl

theorem Tau.metered_of_passed (hk : k < 2) : x.metered c len f = f z (k == 1) := by
  obtain rfl | rfl : k = 0 ∨ k = 1 := by omega
  all_goals
    rw [Tau.metered, if_neg (by simpa [Option.isSome_iff_ne_none] using hkid), hm]
    rfl

end

/-! ### The checks -/

theorem pos_of_branches {p : Prop} [Decidable p] {m n : Nat} (hm : 0 < m) (hn : 0 < n) : 0 < if p then m else n := by
  split
  · exact hm
  · exact hn

/-- A record from no attached child fails a check: its length, its trailer, or else its identity (R174). -/
theorem Tau.coachFault_none_pos (x : Tau) (r : List Byte) : 0 < x.coachFault none r :=
  pos_of_branches Nat.one_pos (pos_of_branches Nat.two_pos (Nat.succ_pos 2))

theorem Tau.checked_of_fault (h : 0 < x.coachFault a.kid r) : x.checked a yellow r = x.damaged a (x.coachFault a.kid r) := by
  obtain ⟨n, hn⟩ := Nat.exists_eq_succ_of_ne_zero (Nat.ne_of_gt h)
  simp only [Tau.checked, hn]

section
variable (hkid : a.kid = some c) (h0 : x.coachFault (some c) r = 0)
include hkid h0

theorem Tau.checked_of_stale (hst : x.stale (Hdr.parse r) = true) :
    x.checked a yellow r = x.bump Reg.SCB_STALE_CNT (s := a.sec) := by
  simp only [Tau.checked, hkid, h0, hst, if_true]

theorem Tau.checked_of_sound (hst : x.stale (Hdr.parse r) = false) : x.checked a yellow r = x.accepted a.sec c yellow r := by
  simp only [Tau.checked, hkid, h0, hst, Bool.false_eq_true, if_false]

end

/-! ### Where each class goes (R149, R176) -/

theorem Tau.accepted_of_arrival
    (h : (Hdr.parse (x.federate c r)).cls = 0 ∨ (Hdr.parse (x.federate c r)).cls = 1 ∨ (Hdr.parse (x.federate c r)).cls = 6) :
    x.accepted sec c yellow r = x.arrival c sec (x.federate c r) := by
  rcases h with h | h | h <;> simp only [Tau.accepted, h]

theorem Tau.accepted_of_event (h : (Hdr.parse (x.federate c r)).cls = 2 ∨ (Hdr.parse (x.federate c r)).cls = 3) :
    x.accepted sec c yellow r = x.eventIn sec yellow (x.federate c r) := by
  rcases h with h | h <;> simp only [Tau.accepted, h]

theorem Tau.accepted_of_detail (h : (Hdr.parse (x.federate c r)).cls = 4) :
    x.accepted sec c yellow r = x.detailIn sec c yellow (x.federate c r) := by
  simp only [Tau.accepted, h]

theorem Tau.accepted_of_digest (h : (Hdr.parse (x.federate c r)).cls = 5) :
    x.accepted sec c yellow r = x.digestIn sec c yellow (x.federate c r) := by
  simp only [Tau.accepted, h]

theorem Tau.accepted_of_bulk (h : 6 < (Hdr.parse (x.federate c r)).cls) :
    x.accepted sec c yellow r = x.bulkIn c (x.federate c r) := by
  obtain ⟨n, hn⟩ := Nat.exists_eq_add_of_le' h
  simp only [Tau.accepted, hn]

theorem Tau.detailIn_of_answer (h4 : fieldAt r 40 1 ≠ 4) (h5 : fieldAt r 40 1 ≠ 5) :
    x.detailIn sec c yellow r = (x.answerRx sec c yellow (fieldAt r 40 1) r).backupCheck := by
  unfold Tau.detailIn
  split
  · contradiction
  · contradiction
  · rfl

theorem Tau.detailIn_of_end (h : fieldAt r 40 1 = 4) : x.detailIn sec c yellow r = (x.endRx sec c r).backupCheck := by
  simp only [Tau.detailIn, h]

theorem Tau.detailIn_of_probe (h : fieldAt r 40 1 = 5) (ht : x.isTray = true) :
    x.detailIn sec c yellow r = x.probeAnswer c (fieldAt r 24 4) (fieldAt r 65 1 % 2)
      [fieldAt r 44 4, fieldAt r 48 4, fieldAt r 52 4, fieldAt r 56 4] := by
  simp only [Tau.detailIn, h, ht, if_true]

theorem Tau.digestIn_of_screenSum (h : fieldAt r 32 1 = 2) (ht : x.isTray = true) :
    x.digestIn sec c yellow r =
      ((x.screenSum r).runProgress c (fieldAt r 34 2) (fieldAt r 36 1) (fieldAt r 64 32)).sendAgain c := by
  simp only [Tau.digestIn, h, ht, if_true]

theorem Tau.digestIn_of_screenFail (h : fieldAt r 32 1 = 3) : x.digestIn sec c yellow r = x.screenFail sec yellow r := by
  simp only [Tau.digestIn, h]

theorem Tau.digestIn_of_tally (h : 3 < fieldAt r 32 1) : x.digestIn sec c yellow r = x.tallyRx r := by
  obtain ⟨n, hn⟩ := Nat.exists_eq_add_of_le' h
  simp only [Tau.digestIn, hn]

/-! ### From the meter to the checks -/

theorem Tau.coachIn_of_unattached (h : (x.whence from_).kid = none) :
    x.coachIn from_ r = x.damaged (x.whence from_) (x.coachFault none r) := by
  have damaged := Tau.checked_of_fault (x := x) (a := x.whence from_) (r := r) (yellow := false)
    (by rw [h]; exact x.coachFault_none_pos r)
  simpa only [Tau.coachIn, h] using damaged

section
variable (h : (x.whence from_).kid = some c) (hm : x.meterIn c (fieldAt r 2 2) = (z, k))
include h hm

theorem Tau.coachIn_of_red (hk : k = 2) : x.coachIn from_ r = z := by
  simpa only [Tau.coachIn, h] using Tau.metered_of_red (Tau.kid_isSome_of_whence h) hm _ hk

theorem Tau.coachIn_of_passed (hk : k < 2) : x.coachIn from_ r = z.checked (x.whence from_) (k == 1) r := by
  simpa only [Tau.coachIn, h] using
    Tau.metered_of_passed (Tau.kid_isSome_of_whence h) hm (fun y yellow => y.checked (x.whence from_) yellow r) hk

end

/-! ### Frames (R377, R378) -/

section
variable {y : Tau} {p : List Byte} {port dup : Nat}

theorem Tau.frameIn_of_dead (h : x.dead (x.lhEngine port) = true) : x.frameIn port from_ r dup = x := if_pos h

theorem Tau.frameIn_of_opened (h : x.dead (x.lhEngine port) = false) (ho : x.openLh (x.lhEngine port) dup r = (y, some p)) :
    x.frameIn port from_ r dup =
      (forEach (frameRecords 512 p) (fun q z => z.receive (some port) from_ q) y).cipherGuard := by
  simp only [Tau.frameIn, h, ho, Bool.false_eq_true, if_false]

theorem Tau.frameIn_of_unopened (h : x.dead (x.lhEngine port) = false) (ho : x.openLh (x.lhEngine port) dup r = (y, none)) :
    x.frameIn port from_ r dup = y.cipherGuard := by
  simp only [Tau.frameIn, h, ho, Bool.false_eq_true, if_false]

end

end

end Sys2Proof.Machine
open Sys2Proof Sys2Proof.Machine

/-- Settles O46: a record from a child by what its meter, the checks and its class make of it, then one that no parser or no child
owns, then frames. -/
theorem recordsAreReceived : Obligations.RecordsAreReceived := by
  refine ⟨?child, ?unowned, ?frame⟩
  case child =>
    intro s t from_ r c k z on x a q yellow hbit hlost hkid hm
    have runs {i : Instr} {y : Tau} (hi : exec i s = .next (s.onMain t fun x => x.receive none from_ r))
        (hy : x.coachIn from_ r = y) : exec i s = .next (s.withTau y) :=
      exec_of_onMain hi on ((Tau.receive_of_coach hbit hlost none).trans hy)
    have passed (hk : k < 2) : x.coachIn from_ r = z.checked a yellow r := Tau.coachIn_of_passed hkid hm hk
    refine ⟨fun hk => runs rfl (Tau.coachIn_of_red hkid hm hk), fun hk hf => runs rfl ?_, fun hk h0 hst => runs rfl ?_,
      fun hk h0 hst => ?_⟩
    · rw [passed hk, Tau.checked_of_fault (by rwa [hkid]), hkid]
    · rw [passed hk, Tau.checked_of_stale hkid h0 hst]
    · have sound : x.coachIn from_ r = z.accepted a.sec c yellow r := (passed hk).trans (Tau.checked_of_sound hkid h0 hst)
      have detail (h : (Hdr.parse q).cls = 4) := sound.trans (Tau.accepted_of_detail h)
      have digest (h : (Hdr.parse q).cls = 5) := sound.trans (Tau.accepted_of_digest h)
      refine ⟨fun h => ?arrival, fun h => ?event, fun h h4 h5 => ?answer, fun h h4 => ?fin, fun h h5 ht => ?probe,
        fun h h2 ht => ?screenSum, fun h h3 => ?screenFail, fun h h4 => ?tally, fun h => ?bulk⟩
      case arrival => exact runs rfl (sound.trans (Tau.accepted_of_arrival h))
      case event => exact runs rfl (sound.trans (Tau.accepted_of_event h))
      case answer => exact runs rfl ((detail h).trans (Tau.detailIn_of_answer h4 h5))
      case fin => exact runs rfl ((detail h).trans (Tau.detailIn_of_end h4))
      case probe => exact runs rfl ((detail h).trans (Tau.detailIn_of_probe h5 ht))
      case screenSum => exact runs rfl ((digest h).trans (Tau.digestIn_of_screenSum h2 ht))
      case screenFail => exact runs rfl ((digest h).trans (Tau.digestIn_of_screenFail h3))
      case tally => exact runs rfl ((digest h).trans (Tau.digestIn_of_tally h4))
      case bulk => exact runs rfl (sound.trans (Tau.accepted_of_bulk h))
  case unowned =>
    intro s t from_ r on x hbit
    refine ⟨fun hlost => ?_, fun hlost hkid => ?_⟩
    · exact exec_of_onMain rfl on (Tau.receive_of_lost hlost none)
    · exact exec_of_onMain rfl on ((Tau.receive_of_coach hbit hlost none).trans (Tau.coachIn_of_unattached hkid))
  case frame =>
    intro s t port from_ e dup on x o taken
    refine ⟨fun hlive => exec_of_onMain rfl on ?_, fun hdead => exec_of_onMain rfl on (Tau.frameIn_of_dead hdead)⟩
    obtain ⟨y, _ | p, opened⟩ : ∃ y p, x.openLh (x.lhEngine port.val) dup e = (y, p) := ⟨_, _, rfl⟩
    · rw [Tau.frameIn_of_unopened hlive opened]
      simp only [taken, o, opened]
    · rw [Tau.frameIn_of_opened hlive opened]
      simp only [taken, o, opened]

end

section
/-! ## Exceptions (R210) -/

namespace Sys2Proof.Machine

/-! ### The copies of a FREEZE leave the supplies alone (R345) -/

section
variable (x : Tau) (g : Nat)

@[simp] theorem Tau.wr_on (f : Fld) (v i s : Nat) : (x.wr f v i s).on = x.on := rfl

@[simp] theorem Tau.bump_on (f : Fld) (i s : Nat) : (x.bump f i s).on = x.on := rfl

@[simp] theorem Tau.setRing_on (f : Ring → Ring) : (x.setRing g f).on = x.on := rfl

@[simp] theorem Tau.putCopy_on (z : Freeze) (o : Nat) (b : List Byte) : (x.putCopy z o b).on = x.on := rfl

@[simp] theorem Tau.setFrz_on (sec isl : Fld) (v : Nat) : (x.setFrz g sec isl v).on = x.on := by
  unfold Tau.setFrz
  split <;> rfl

@[simp] theorem Tau.interrupt_on (mask : Nat) : (x.interrupt mask).on = x.on := by
  unfold Tau.interrupt
  split
  · rfl
  · split <;> rfl

@[simp] theorem Tau.raise_on (c : Nat) : (x.raise c).on = x.on := by
  simp only [Tau.raise]
  split
  · exact Tau.interrupt_on _ _
  · rfl

@[simp] theorem Tau.hbmCharge_on (c n : Nat) : (x.hbmCharge g c n).1.on = x.on := by
  unfold Tau.hbmCharge
  split <;> rfl

@[simp] theorem Tau.freezeEnd_on : (x.freezeEnd g).on = x.on := by simp [Tau.freezeEnd]

@[simp] theorem Tau.freezeDone_on (code nrec : Nat) : (x.freezeDone g code nrec).on = x.on := by
  simp [Tau.freezeDone, Tau.frzCode]

end

@[simp] theorem Tau.copyRecs_on (x : Tau) (g upTo n : Nat) : (x.copyRecs g upTo n).on = x.on := by
  induction n generalizing x with
  | zero => rfl
  | succ n ih =>
    unfold Tau.copyRecs
    split
    next z r _ _ =>
      split
      · rfl
      · have charged : (if z.dest = 0 then x.hbmCharge g 2 r.bytes.length else (x, true)).1.on = x.on := by
          split
          · exact x.hbmCharge_on g 2 r.bytes.length
          · rfl
        split
        next y refused => simpa [refused, Tau.partialHead] using charged
        next y granted => simpa [granted, ih] using charged
    next => rfl

/-- The copies of a FREEZE proceed with the supplies as they stand. -/
@[simp] theorem Tau.freezeStep_on (x : Tau) : x.freezeStep.on = x.on := by
  unfold Tau.freezeStep forIdx
  refine List.foldlRecOn (motive := fun y : Tau => y.on = x.on) (List.range 4) _ rfl fun y same g _ => ?_
  dsimp only
  split
  · split
    · exact same
    · exact (y.copyRecs_on _ _ _).trans same
  · exact same

@[simp] theorem State.tauAt_on (s : State) (t : T64) : (s.tauAt t).on = s.tau.on := by simp [State.tauAt]

/-! ### The end of an exception that asks for no adoption -/

section
variable {x : Tau} {s : Nat} {e : Exc}

theorem Tau.closeExc_of_plain (plain : e.kind ≠ 1) (accept : Bool) :
    x.closeExc s e accept =
      { x with scb := { x.scb with exc := modifyAt (fun l => l.filter (·.id != e.id)) s x.scb.exc } } := if_pos plain

theorem Tau.excAck_of_found {v : Nat} (found : (x.scb.exc.getD s []).find? (·.id == bits v 0 6) = some e) :
    x.excAck s v = x.closeExc s e (v.testBit 8) := by
  rw [Tau.excAck, found]

/-- The exceptions of a section whose deadline has passed, in the order of its queue. -/
def Tau.overdueExcs (x : Tau) (s : Nat) : List Exc :=
  (x.scb.exc.getD s []).filter fun e => decide (e.posted + x.rd Reg.SCB_EXC_DEADLINE 0 s ≤ x.per)

theorem Tau.excDeadline_of_none (inTime : x.overdueExcs s = []) : x.excDeadline s = x :=
  congrArg (fun l => forEach l (fun (e : Exc) (y : Tau) => y.stuckExc s e) x) inTime

theorem Tau.excDeadline_of_one (one : x.overdueExcs s = [e]) : x.excDeadline s = x.stuckExc s e :=
  congrArg (fun l => forEach l (fun (e : Exc) (y : Tau) => y.stuckExc s e) x) one

/-- The TAU once an exception has been counted and recorded as stuck. -/
def Tau.stuckNoted (x : Tau) (s : Nat) (e : Exc) : Tau :=
  (x.bump Reg.SCB_STUCK_CNT 0 s).record s 0 6 0x0303
    (leBytes 1 e.kind ++ leBytes 1 e.id ++ zeros 2 ++ leBytes 2 e.job ++ leBytes 2 e.consist ++ leBytes 4 e.info)

/-- The periods, this one first, of the last 16 at which an exception of a section became stuck. -/
def Tau.stuckNear (x : Tau) (s : Nat) : List Nat := x.per :: (x.scb.stuck.getD s []).filter fun p => decide (x.per < p + 16)

/-- Short of the section's limit, a stuck exception is noted and leaves its queue, and the section goes on. -/
theorem Tau.stuckExc_of_within {y : Tau} (noted : x.stuckNoted s e = y) (plain : e.kind ≠ 1)
    (within : (y.stuckNear s).length < y.rd Reg.SCB_STUCK_LIMIT 0 s) :
    x.stuckExc s e = { y with scb := { y.scb with
      exc := modifyAt (fun l => l.filter (·.id != e.id)) s y.scb.exc
      stuck := modifyAt (fun _ => y.stuckNear s) s y.scb.stuck } } := by
  subst noted
  unfold Tau.stuckExc
  dsimp only
  rw [Tau.closeExc_of_plain plain]
  exact if_neg (Nat.not_le.mpr within)

end

end Sys2Proof.Machine

open Sys2Proof Sys2Proof.Machine

/-- Settles O25: an acknowledgement by the exception that it names, a deadline by the exceptions that it has passed for. -/
theorem exceptionsEnd : Obligations.ExceptionsEnd := by
  unfold Obligations.ExceptionsEnd
  intro s t port sec v e on x due body y near
  have fed : x.on = true := (State.tauAt_on s t).trans on
  refine ⟨fun booted found plain => ?acknowledged, fun due => ?inTime, fun one plain within => ?stuck⟩
  case acknowledged =>
    refine exec_of_onIsland (c := .excAck t port sec v) rfl (Tau.islPg_of_on on) ?_
    exact (Tau.write_excAck fed booted sec port v.toNat _).trans
      ((Tau.excAck_of_found found).trans (Tau.closeExc_of_plain plain _))
  case inTime => exact exec_of_onMain rfl on (Tau.excDeadline_of_none due)
  case stuck =>
    exact exec_of_onMain rfl on ((Tau.excDeadline_of_one one).trans (Tau.stuckExc_of_within rfl plain within))

end

section
/-! ## Contexts and the digests of two ROOTs (R23, R177, R179 to R181, R198, R200, R201) -/

namespace Sys2Proof.Machine

/-! ### The one context of a TAU -/

section
variable {x : Tau} {k : Ctx} (one : x.scb.ctxs = [k])
include one

theorem Tau.admitDue_of_due (opened : k.st = 1) (due : k.admitAt ≤ x.now) (home : x.dead k.home = false) :
    x.admitDue = x.admitCtx k := by
  simp [Tau.admitDue, one, opened, due, home]

theorem Tau.admitDue_of_waits (waits : x.now < k.admitAt ∨ x.dead k.home = true) : x.admitDue = x := by
  rcases waits with early | dead
  · simp [Tau.admitDue, one, Nat.not_le.mpr early]
  · simp [Tau.admitDue, one, dead]

theorem Tau.admitDue_of_admitted (admitted : k.st ≠ 1) : x.admitDue = x := by simp [Tau.admitDue, one, admitted]

theorem Tau.closeDue_admitDue_of_collecting (collects : k.st = 2) : x.admitDue.closeDue true = x.closeDue true := by
  rw [Tau.admitDue_of_admitted one (by omega)]

theorem Tau.closeDue_of_due (collects : k.st = 2) (due : k.close ≤ x.now) : x.closeDue true = x.closeCtx k false := by
  simp [Tau.closeDue, one, collects, due]

theorem Tau.closeDue_of_early (early : x.now < k.close) : x.closeDue true = x := by
  simp [Tau.closeDue, one, Nat.not_le.mpr early]

theorem Tau.closeDue_of_not_collecting (closed : k.st ≠ 2) : x.closeDue true = x := by simp [Tau.closeDue, one, closed]

theorem Tau.ctx_of_one : x.ctx k.job k.consist k.period = some k := by simp [Tau.ctx, one]

/-- A context that has closed is built as it stands. -/
theorem Tau.buildComplete_of_closed (closed : k.st = 3) (reach : Bool) :
    x.buildComplete k.job k.consist k.period reach = x.buildCtx k reach := by
  have asIs : x.admitDue.closeDue true = x := by
    rw [Tau.admitDue_of_admitted one (by omega), Tau.closeDue_of_not_collecting one (by omega)]
  simp only [Tau.buildComplete, asIs, Tau.ctx_of_one one, closed, if_true]

end

theorem Tau.buildComplete_of_none {x : Tau} (empty : x.scb.ctxs = []) (j c p : Nat) (reach : Bool) :
    x.buildComplete j c p reach = x := by
  have admitted : x.admitDue = x := by simp [Tau.admitDue, empty]
  have closed : x.closeDue true = x := by simp [Tau.closeDue, empty]
  simp [Tau.buildComplete, admitted, closed, Tau.ctx, empty]

/-! ### The two digests of a train -/

section
variable {x : Tau} {j c p own got : Nat}

theorem Tau.rootDigest_of_first (empty : x.scb.digs = []) :
    x.rootDigest j c p none (some got) = { x with scb := { x.scb with digs := [⟨j, c, p, none, some got⟩] } } := by
  simp [Tau.rootDigest, empty]

theorem Tau.rootDigest_of_pair (one : x.scb.digs = [⟨j, c, p, some own, none⟩]) {y : Tau}
    (paired : { x with scb := { x.scb with digs := [] } } = y) :
    x.rootDigest j c p none (some got) = if own = got then y else
      (y.recordTau 0 6 0x0304 (leBytes 8 p ++ leBytes 8 own ++ leBytes 8 got)).bump Reg.GEN_ROOT_DIVERGE_CNT := by
  subst paired
  simp [Tau.rootDigest, one]

/-- What the digest of the active ROOT is to a standby: a sign that it lives (R236). -/
def Tau.signOfRoot (x : Tau) : Tau := if x.isStandby then { x with srv := { x.srv with acked := true } } else x

theorem Tau.signOfRoot_of_standby (standby : x.isStandby = true) :
    x.signOfRoot = { x with srv := { x.srv with acked := true } } := if_pos standby

/-- A standby takes the first digest of a train as a sign, and keeps it for its own. -/
theorem Tau.firstDigest_of_standby (standby : x.isStandby = true) (empty : x.scb.digs = []) :
    x.signOfRoot.rootDigest j c p none (some got) =
      { x with srv := { x.srv with acked := true }, scb := { x.scb with digs := [⟨j, c, p, none, some got⟩] } } := by
  rw [Tau.signOfRoot_of_standby standby]
  exact Tau.rootDigest_of_first empty

theorem Tau.signOfRoot_of_active (active : x.isStandby = false) : x.signOfRoot = x :=
  if_neg (Bool.eq_false_iff.mp active)

theorem exec_trainDigestRx_of_elsewhere {s : State} {t : T64} {job consist : BitVec 16} {dig : BitVec 64} (on : s.tau.on = true)
    (elsewhere : (s.tauAt t).roleSet = false ∨ (s.tauAt t).role ≠ 3) :
    exec (.trainDigestRx t job consist p dig) s = .next (s.withTau (s.tauAt t)) := by
  refine exec_of_onMain rfl on (if_neg ?_)
  rcases elsewhere with unset | other
  · simp [unset]
  · simp [other]

/-- At a ROOT a digest is taken as a sign and paired. -/
theorem exec_trainDigestRx_of_root {s : State} {t : T64} {job consist : BitVec 16} {dig : BitVec 64} {y : Tau} (on : s.tau.on = true)
    (set : x.roleSet = true) (root : x.role = 3)
    (paired : x.signOfRoot.rootDigest job.toNat consist.toNat p none (some dig.toNat) = y) (instant : s.tauAt t = x) :
    exec (.trainDigestRx t job consist p dig) s = .next (s.withTau y) := by
  subst instant
  exact exec_of_onMain rfl on ((if_pos (by simp [set, root])).trans paired)

/-- At the active ROOT a digest is paired alone. -/
theorem exec_trainDigestRx_of_active {s : State} {t : T64} {job consist : BitVec 16} {dig : BitVec 64} {y : Tau} (on : s.tau.on = true)
    (set : x.roleSet = true) (root : x.role = 3) (active : x.isStandby = false)
    (paired : x.rootDigest job.toNat consist.toNat p none (some dig.toNat) = y) (instant : s.tauAt t = x) :
    exec (.trainDigestRx t job consist p dig) s = .next (s.withTau y) :=
  exec_trainDigestRx_of_root on set root (by rwa [Tau.signOfRoot_of_active active]) instant

end

end Sys2Proof.Machine

open Sys2Proof Sys2Proof.Machine

/-- Settles O52: the one context by its state and its instants, then the digest by the role and by what the pair still lacks. -/
theorem contextsRun : Obligations.ContextsRun := by
  unfold Obligations.ContextsRun
  intro s t job consist p dig reach k own on x d
  refine ⟨fun one opened => ⟨fun due home => ?admitted, fun waits => ?notAdmitted⟩,
    fun one collects => ⟨fun due => ?closed, fun early => ?notClosed⟩, fun one closed hj hc hp => ?built, fun empty => ?noContext,
    fun other => ?noRoot, fun set root standby empty => ?standby, fun set root active => ⟨fun empty => ?first, fun one => ?pair⟩⟩
  case admitted => exact exec_of_onMain rfl on (Tau.admitDue_of_due one opened due home)
  case notAdmitted => exact exec_of_onMain rfl on (Tau.admitDue_of_waits one waits)
  case closed =>
    exact exec_of_onMain rfl on ((Tau.closeDue_admitDue_of_collecting one collects).trans (Tau.closeDue_of_due one collects due))
  case notClosed =>
    exact exec_of_onMain rfl on ((Tau.closeDue_admitDue_of_collecting one collects).trans (Tau.closeDue_of_early one early))
  case built =>
    have built := Tau.buildComplete_of_closed one closed reach
    rw [hj, hc, hp] at built
    exact exec_of_onMain rfl on built
  case noContext => exact exec_of_onMain rfl on (Tau.buildComplete_of_none empty _ _ _ _)
  case noRoot => exact exec_trainDigestRx_of_elsewhere on other
  case standby => exact exec_trainDigestRx_of_root on set root (Tau.firstDigest_of_standby standby empty) rfl
  case first => exact exec_trainDigestRx_of_active on set root active (Tau.rootDigest_of_first empty) rfl
  case pair =>
    have compared := Tau.rootDigest_of_pair (got := dig.toNat) one rfl
    exact ⟨fun same => exec_trainDigestRx_of_active on set root active (compared.trans (if_pos same)) rfl,
      fun differ => exec_trainDigestRx_of_active on set root active (compared.trans (if_neg differ)) rfl⟩

end

section
/-! ## Surveys and probes at the die (R32, R220, R224, R239, R307, R460) -/

namespace Sys2Proof.Machine

@[simp] theorem State.tduAt_live (s : State) (t : T64) : (s.tduAt t).live = s.tdu.live := Tdu.advance_live t s.tdu

theorem Tdu.reachable_of_live {d : Tdu} (live : d.live = true) : d.reachable = true := by
  simp only [Tdu.live, Bool.and_eq_true] at live
  obtain ⟨⟨⟨por, vdd⟩, gate⟩, -⟩ := live
  simp only [Tdu.reachable, por, vdd, gate, Bool.and_self]

/-- A command that acts on the die leaves, while the microcode runs, what its effect makes of the die at its instant. -/
theorem exec_of_live {c : Instr} {s : State} {t : T64} {f : Tdu → Tdu} {e : Tdu} (hc : exec c s = .next (s.onDie t f))
    (live : s.tdu.live = true) (he : f (s.tduAt t) = e) : exec c s = .next (s.withTdu e) :=
  exec_of_onDie hc (Tdu.por_of_live live) he

/-! ### A record that leaves past the queues -/

section
variable {d : Tdu} {l : Nat} {r : List Byte}

theorem Tdu.sendPast_of_credit (up : (d.lnk l).up = true) (first : d.ctl.outq = []) (credit : vcUnits r ≤ (d.lnk l).credit) :
    d.sendPast (some l) r = (d.setLnk l fun k => { k with credit := k.credit - vcUnits r }).emitOut (.vct l r) := by
  simp [Tdu.sendPast, up, first, Nat.not_lt.mpr credit]

theorem Tdu.sendPast_of_wait (waits : (d.lnk l).up = false ∨ (d.lnk l).credit < vcUnits r) :
    d.sendPast (some l) r = { d with ctl := { d.ctl with outq := d.ctl.outq ++ [(some l, r)] } } := by
  rcases waits with down | short
  · simp [Tdu.sendPast, down]
  · simp [Tdu.sendPast, short]

end

/-- The die once it owes its pace the bytes of an answer that leaves past the queues (R239). -/
def Tdu.owing (d : Tdu) (n : Nat) : Tdu := { d with srv := { d.srv with owed := d.srv.owed + n } }

section
variable {d : Tdu} {r : List Byte} (live : d.live = true)
include live

/-- A sound control record is acted on where the microcode runs. -/
theorem Tdu.ctlIn_of_live {ok : Bool} (sound : ok = true) (f : Tdu → Tdu) : d.ctlIn ok f = f d := by
  simp [Tdu.ctlIn, Tdu.reachable_of_live live, sound, live]

/-! ### A survey's descriptor -/

section
variable {v : Survey} (ok : surveyRecOk r = true) (parsed : Survey.parse (r.drop 8) = v)
include ok parsed

theorem Tdu.surveyIn_of_period {i : Nat} (period : v.kind = 0) (free : firstIdx Option.isNone d.srv.slots = some i) :
    d.surveyIn r = d.takeSlot i ⟨v, [d.judgePeriod v], true⟩ := by
  rw [Tdu.surveyIn, Tdu.ctlIn_of_live live ok]
  simp [parsed, period, free]

theorem Tdu.surveyIn_of_standing {i : Nat} (standing : v.kind = 1) (free : firstIdx Option.isNone d.srv.slots = some i) :
    d.surveyIn r = d.takeSlot i ⟨v, [], false⟩ := by
  rw [Tdu.surveyIn, Tdu.ctlIn_of_live live ok]
  simp [parsed, standing, free]

theorem Tdu.surveyIn_of_full (survey : v.kind < 2) (full : firstIdx Option.isNone d.srv.slots = none) :
    d.surveyIn r = (d.bump Reg.TGEN_SRV_BUSY_CNT).answerAtOnce (d.shortAnswer v 3) := by
  rw [Tdu.surveyIn, Tdu.ctlIn_of_live live ok]
  simp [parsed, survey, Nat.ne_of_lt survey, full]

end

/-! ### A cancel -/

/-- The slot of a survey, freed where a cancel names its identity. -/
def DieSurvey.unlessNamed (r : List Byte) : Option DieSurvey → Option DieSurvey
  | some u => if u.s.is (fieldAt r 4 4) (fieldAt r 8 3) (fieldAt r 11 1) then none else some u
  | none => none

theorem Tdu.surveyCancel_of_sound (ok : ctlOk 0xBD r = true) (length : r.length = 24) :
    d.surveyCancel r = { d with srv := { d.srv with slots := d.srv.slots.map (DieSurvey.unlessNamed r) } } := by
  rw [Tdu.surveyCancel, Tdu.ctlIn_of_live live (by simp [ok, length])]
  rfl

/-! ### A probe -/

section
variable {link : Nat} {a : List Byte} (ok : ctlOk 0xB4 r = true) (length : r.length = 32)
  (own : fieldAt r 16 3 = d.rd Reg.TGEN_RANK) (ranked : d.rd Reg.TGEN_RANK ≠ 0xFFFFFF) (timed : d.timed = true)
  (answer : d.probeAnswer r link = a)
include ok length own ranked timed answer

theorem Tdu.probe_of_own_rank :
    d.probe link r = ((d.owing a.length).sendPast (some link) a).bump Reg.TGEN_SRV_ANS_CNT := by
  subst answer
  rw [Tdu.probe, Tdu.ctlIn_of_live live (by simp [ok, length, own])]
  simp only [timed, beq_eq_false_iff_ne.mpr ranked, Bool.not_true, Bool.or_false, Bool.false_eq_true, if_false]
  rfl

theorem Tdu.probe_of_credit (up : (d.lnk link).up = true) (first : d.ctl.outq = []) (credit : vcUnits a ≤ (d.lnk link).credit) :
    d.probe link r = (((d.owing a.length).setLnk link fun k => { k with credit := k.credit - vcUnits a }).emitOut
      (.vct link a)).bump Reg.TGEN_SRV_ANS_CNT := by
  rw [Tdu.probe_of_own_rank live ok length own ranked timed answer, Tdu.sendPast_of_credit (d := d.owing a.length) up first credit]

theorem Tdu.probe_of_wait (waits : (d.lnk link).up = false ∨ (d.lnk link).credit < vcUnits a) :
    d.probe link r =
      ({ d.owing a.length with ctl := { d.ctl with outq := d.ctl.outq ++ [(some link, a)] } }).bump Reg.TGEN_SRV_ANS_CNT := by
  rw [Tdu.probe_of_own_rank live ok length own ranked timed answer, Tdu.sendPast_of_wait (d := d.owing a.length) waits]
  rfl

end

end

end Sys2Proof.Machine

open Sys2Proof Sys2Proof.Machine

/-- Settles O41: the record is acted on as the microcode runs; then the survey by its kind and the free slot, the cancel slot by slot, the
probe by what its link lets leave. -/
theorem dieAnswersSurveys : Obligations.DieAnswersSurveys := by
  unfold Obligations.DieAnswersSurveys
  intro s t r link i on d v a drop
  have live : d.live = true := (State.tduAt_live s t).trans on
  refine ⟨fun ok period free => ?period, fun ok standing free => ?standing, fun ok survey full => ?full,
    fun ok length => ?cancel, fun ok length own ranked timed => ⟨fun up first credit => ?sent, fun waits => ?waits⟩⟩
  case period => exact exec_of_live rfl on (Tdu.surveyIn_of_period live ok rfl period free)
  case standing => exact exec_of_live rfl on (Tdu.surveyIn_of_standing live ok rfl standing free)
  case full => exact exec_of_live rfl on (Tdu.surveyIn_of_full live ok rfl survey full)
  case cancel =>
    have named : drop = DieSurvey.unlessNamed r := by funext o; cases o <;> rfl
    rw [named]
    exact exec_of_live rfl on (Tdu.surveyCancel_of_sound live ok length)
  case sent => exact exec_of_live rfl on (Tdu.probe_of_credit live ok length own ranked timed rfl up first credit)
  case waits => exact exec_of_live rfl on (Tdu.probe_of_wait live ok length own ranked timed rfl waits)

end

section
/-! ## Surveys at a TAU (R216, R217, R219, R222 to R224, R243) -/

namespace Sys2Proof.Machine

theorem State.tauAt_on_of_on {s : State} {t : T64} (on : s.tau.on = true) : (s.tauAt t).on = true := (State.tauAt_on s t).trans on

/-! ### What ends a survey leaves the other slots alone -/

section
variable (x : Tau)

@[simp] theorem Tau.interrupt_srv (mask : Nat) : (x.interrupt mask).srv = x.srv := by
  unfold Tau.interrupt
  split
  · rfl
  · split <;> rfl

@[simp] theorem Tau.raise_srv (c : Nat) : (x.raise c).srv = x.srv := by
  simp only [Tau.raise]
  split
  · exact Tau.interrupt_srv _ _
  · rfl

@[simp] theorem Tau.ringPut_srv (r : List Byte) : (x.ringPut r).1.srv = x.srv := by
  simp only [Tau.ringPut]
  split
  · rfl
  · split <;> rfl

@[simp] theorem Tau.sendUpTo_srv (dst : Option Nat) (q : Nat) (yellow : Bool) (r : List Byte) :
    (x.sendUpTo dst q yellow r).1.srv = x.srv := by
  simp only [Tau.sendUpTo]
  split
  · rfl
  · split <;> rfl

@[simp] theorem Tau.toParent_srv (yellow : Bool) (r : List Byte) : (x.toParent yellow r).srv = x.srv := by
  unfold Tau.toParent
  split
  · exact x.sendUpTo_srv none _ yellow r
  · rfl

/-- The end of a survey frees its slot, and nothing more of what the surveys hold changes. -/
theorem Tau.endSurvey_srv (i : Nat) (v : TauSurvey) : (x.endSurvey i v).srv = (x.setSurvey i none).srv := by
  simp only [Tau.endSurvey]
  split
  · simp
  · split
    · rfl
    · simp

end

/-! ### A slot that is free, and one with nothing pending -/

theorem getD_none_of_all_none {α : Type} {l : List (Option α)} (h : ∀ o ∈ l, o = none) (i : Nat) : l.getD i none = none := by
  rw [List.getD_eq_getElem?_getD]
  cases e : l[i]? with
  | none => rfl
  | some o => exact h o (List.mem_of_getElem? e)

@[simp] theorem bitList_zero : bitList 0 = [] := by simp [bitList]

section
variable {x : Tau} {i : Nat}

/-- A cancelled survey that waits for no child ends at once. -/
theorem Tau.cancelSurvey_of_settled {u : TauSurvey} (held : x.srv.slots.getD i none = some u) (settled : u.pend = 0) :
    x.cancelSurvey i = x.endSurvey i { u with eflags := Nat.lor u.eflags 1, st := 2 } := by
  simp only [Tau.cancelSurvey, held, settled, bitList_zero, forEach, List.foldl_nil, Tau.settleSurvey, if_true]

theorem Tau.surveyExpire_of_free (free : x.srv.slots.getD i none = none) : x.surveyExpire i = x := by
  simp only [Tau.surveyExpire, free]

theorem Tau.surveyExpire_of_settled {u : TauSurvey} (held : x.srv.slots.getD i none = some u) (settled : u.pend = 0)
    (due : u.s.deadline ≤ x.per) : x.surveyExpire i = x.endSurvey i { u with st := 2, pend := 0 } := by
  simp only [Tau.surveyExpire, held, if_neg (Nat.not_lt.mpr due), settled, bitList_zero, forEach, List.foldl_nil]

end

/-! ### Deadlines and cancels over the slots -/

section
variable {x : Tau}

section
variable (none_held : ∀ o ∈ x.srv.slots, o = none)
include none_held

theorem Tau.surveyDeadlines_of_none : x.surveyDeadlines = x :=
  forIdx_of_fixed fun i _ => Tau.surveyExpire_of_free (getD_none_of_all_none none_held i)

theorem Tau.cancelRx_of_none {r : List Byte} (ok : ctlOk 0xBD r = true) (length : r.length = 24) : x.cancelRx r = x := by
  have unnamed : (List.range 64).find? (fun _ => false) = none := List.find?_eq_none.mpr fun _ _ => Bool.false_ne_true
  simp only [Tau.cancelRx, getD_none_of_all_none none_held]
  simp [ok, length, unnamed]

end

section
variable {u : TauSurvey} {n : Nat} (one : x.srv.slots = some u :: List.replicate n none)
include one

/-- The one survey that is held comes to its deadline with nothing pending. -/
theorem Tau.surveyDeadlines_of_one (settled : u.pend = 0) (due : u.s.deadline ≤ x.per) :
    x.surveyDeadlines = x.endSurvey 0 { u with st := 2, pend := 0 } := by
  have ended : x.surveyExpire 0 = x.endSurvey 0 { u with st := 2, pend := 0 } :=
    Tau.surveyExpire_of_settled (by simp [one]) settled due
  have emptied : ∀ o ∈ (x.surveyExpire 0).srv.slots, o = none := by
    rw [ended, Tau.endSurvey_srv]
    simp [Tau.setSurvey, one, modifyAt]
  rw [← ended]
  exact forIdx_of_one (by omega) (fun i h => by omega)
    fun i _ _ => Tau.surveyExpire_of_free (getD_none_of_all_none emptied i)

theorem Tau.cancelRx_of_first {r : List Byte} (ok : ctlOk 0xBD r = true) (length : r.length = 24)
    (sid : u.s.sid = fieldAt r 4 4) (base : u.s.base = fieldAt r 8 3) (level : u.s.level = fieldAt r 11 1) :
    x.cancelRx r = x.cancelSurvey 0 := by
  simp [Tau.cancelRx, ok, length, one, sid, base, level, List.range_succ_eq_map]

end

end

/-! ### Issue and admission -/

section
variable {x : Tau}

/-- An issue shows what the checks answered (R243). -/
theorem Tau.surveyIssue_of_issued {b : List Byte} {z : Tau} {code i sid : Nat}
    (descriptor : ((List.range 48).flatMap fun j => leBytes 4 (x.rd Reg.SRV_DESC j)) = b)
    (issued : x.issueSurvey (Survey.parse b) (surveyRsv b) none = (z, code, i, sid)) :
    x.surveyIssue = (((z.wr Reg.SRV_ISSUE_STAT_CODE code).wr Reg.SRV_ISSUE_STAT_SLOT i).wr Reg.SRV_ISSUE_STAT_VALID 1).wr
      Reg.SRV_ISSUE_SID sid := by
  subst descriptor
  simp only [Tau.surveyIssue, issued]

/-- A refused admission leaves the role alone. -/
theorem Tau.admitRefused_isStandby (code : Nat) : (x.admitRefused code).isStandby = x.isStandby := by
  have counted (y : Tau) {f : Fld}
      (h : ∀ g ∈ [Reg.GEN_ROLE_CFG_SET, Reg.GEN_ROLE_CFG_ROLE, Reg.GEN_ROLE_CFG_STANDBY], g.tag ≠ f.tag) :
      (y.bump f).isStandby = y.isStandby := by
    simp only [List.mem_cons, List.not_mem_nil, or_false, forall_eq_or_imp, forall_eq] at h
    obtain ⟨set, role, standby⟩ := h
    simp only [Tau.isStandby, Tau.roleSet, Tau.role, Tau.bump, Tau.rd_wr_of_tag set, Tau.rd_wr_of_tag role, Tau.rd_wr_of_tag standby]
  simp only [Tau.admitRefused]
  split
  · rw [counted _ (by decide), counted _ (by decide)]
  · exact counted _ (by decide)

/-- The slot's worth of a survey that was refused: every rank in its scope is BUSY (R217, R222). -/
def Survey.refusedFor (q : Survey) (ranks : Nat) : TauSurvey :=
  { s := q, here := false, st := 2, pend := 0, nMatch := 0, nNo := 0, nRet := 0, nTmo := 0, nBusy := ranks, nExcl := 0, nUnj := 0
    eflags := 0, stored := 0, pair := none, asked := [] }

section
variable {r : List Byte}

theorem Tau.surveyRx_of_damaged (damaged : surveyRecOk r = false) : x.surveyRx r = x.bump Reg.GEN_CTL_DMG_CNT := by
  simp [Tau.surveyRx, damaged]

variable {q : Survey} (ok : surveyRecOk r = true) (parsed : Survey.parse (r.drop 8) = q)
include ok parsed

theorem Tau.surveyRx_of_admitted (admitted : x.surveyCode q false (surveyRsv (r.drop 8)) = Code.done) :
    x.surveyRx r = (x.startSurvey q false none).1 := by
  simp [Tau.surveyRx, ok, parsed, admitted]

theorem Tau.surveyRx_of_refused {code : Nat} (judged : x.surveyCode q false (surveyRsv (r.drop 8)) = code)
    (refused : code ≠ Code.done) (active : x.isStandby = false) :
    x.surveyRx r = (x.admitRefused code).toParent false
      ((x.admitRefused code).endCoach (q.refusedFor ((x.admitRefused code).ownScope q))) := by
  simp [Tau.surveyRx, ok, parsed, judged, refused, Tau.admitRefused_isStandby, active, Survey.refusedFor]

end

end

/-- A command that writes a register of the TAU leaves what the write makes of the TAU at its instant. -/
theorem exec_of_tauWrite {c : Instr} {s : State} {t : T64} {f : Fld} {i sec : Nat} {port : Port} {v : BitVec 32} {m : Reads} {y : Tau}
    (hc : exec c s = .next (s.tauWrite t f i sec port v m)) (on : s.tau.on = true)
    (written : (s.tauAt t).writeField f i sec port v.toNat m = y) : exec c s = .next (s.withTau y) :=
  exec_of_onIsland hc (Tau.islPg_of_on on) written

end Sys2Proof.Machine

open Sys2Proof Sys2Proof.Machine

/-- Settles O50: the two commands by what their registers do, a descriptor by the checks, a cancel and the deadlines by the slots that
are held. -/
theorem surveysRun : Obligations.SurveysRun := by
  unfold Obligations.SurveysRun
  intro s t port v r i sid code z u on x b q y busy
  have fed : x.on = true := State.tauAt_on_of_on on
  refine ⟨fun booted go issued => ?issued, fun booted go held settled => ?cancelled, fun ok admitted => ?admitted,
    fun ok refused active => ?refused, fun damaged => ?damaged, fun ok length empty => ?nothingToCancel,
    fun ok length one sid base level => ?named, fun empty => ?nothingDue, fun one settled due => ?due⟩
  case issued =>
    refine exec_of_tauWrite rfl on ((Tau.write_surveyIssue fed booted port v.toNat _).trans ?_)
    exact (if_pos go).trans (Tau.surveyIssue_of_issued rfl issued)
  case cancelled =>
    refine exec_of_tauWrite rfl on ((Tau.write_surveyCancel fed booted port v.toNat _).trans ?_)
    exact (if_pos go).trans (Tau.cancelSurvey_of_settled held settled)
  case admitted => exact exec_of_onMain rfl on (Tau.surveyRx_of_admitted ok rfl admitted)
  case refused => exact exec_of_onMain rfl on (Tau.surveyRx_of_refused ok rfl rfl refused active)
  case damaged => exact exec_of_onMain rfl on (Tau.surveyRx_of_damaged damaged)
  case nothingToCancel => exact exec_of_onMain rfl on (Tau.cancelRx_of_none empty ok length)
  case named => exact exec_of_onMain rfl on (Tau.cancelRx_of_first one ok length sid base level)
  case nothingDue => exact exec_of_onMain rfl on (Tau.surveyDeadlines_of_none empty)
  case due => exact exec_of_onMain rfl on (Tau.surveyDeadlines_of_one one settled due)

end

section
/-! ## Liveness, probes, and the waits of straggler, backup and drift units (R226, R231, R233, R235, R236, R239, R240, R459 to R461) -/

namespace Sys2Proof.Machine

/-! ### The parent's acknowledgement, and its probe -/

section
variable {x : Tau} {r : List Byte}

section
variable (ok : ctlOk 0xB3 r = true) (length : r.length = 32)
include ok length

/-- The current parent's acknowledgement is noted with the bound that it carries. -/
theorem Tau.pulseAckRx_of_parent (sender : x.parent = some (fieldAt r 4 3)) (port : Option Nat) :
    x.pulseAckRx port r =
      { x with
        srv := { x.srv with acked := true, lastAck := fieldAt r 8 8 }
        time := { x.time with parentEb := fieldAt r 20 2, parentHo := (fieldAt r 22 1).testBit 0, parentPort := port } } := by
  simp [Tau.pulseAckRx, ok, length, sender]

theorem Tau.pulseAckRx_of_other (sender : x.parent ≠ some (fieldAt r 4 3)) (port : Option Nat) :
    x.pulseAckRx port r = x.bump Reg.GEN_CTL_DMG_CNT := by
  simp [Tau.pulseAckRx, ok, length, Ne.symm sender]

end

/-- The island's answer to a probe, with the rails up (R461). -/
def Tau.islandAnswer (x : Tau) (r : List Byte) : List Byte :=
  let k := x.islandSays
  let sectionsIn := 16 + (List.range 4).foldl (fun n s => n + bit (x.secState s == 0) * 2 ^ s) 0
  withCrc (leBytes 1 0xB5 ++ zeros 3 ++ (r.drop 4).take 12 ++ leBytes 3 k.base ++ leBytes 1 sectionsIn ++
    leBytes 4 (k.sent % 2 ^ 32) ++ leBytes 1 (x.rd Reg.SRV_PARENT_STATE) ++ leBytes 1 (x.rd Reg.TIME_TIME_STATE_STATE) ++ zeros 2 ++
    leBytes 8 k.last ++ leBytes 4 (k.drop % 2 ^ 32) ++ leBytes 8 x.srv.lastAck ++ leBytes 2 (ebUnits x.errBound) ++ zeros 18)

theorem Tau.childProbe_of_other_base (other : fieldAt r 16 3 ≠ x.islandSays.base) :
    x.childProbe r = x.bump Reg.GEN_CTL_DMG_CNT := by
  simp [Tau.childProbe, other]

theorem Tau.childProbe_of_own_base (ok : ctlOk 0xB4 r = true) (length : r.length = 32) (rails : x.main = true)
    (own : fieldAt r 16 3 = x.islandSays.base) :
    x.childProbe r = x.bypassTo x.islandSays.parent (x.islandAnswer r) := by
  simp only [Tau.childProbe, ok, length, own, rails, bne_self_eq_false, beq_self_eq_true, Bool.and_self, Bool.not_true, Bool.or_self,
    Bool.false_eq_true, if_false, if_true, Tau.islandAnswer]

end

/-! ### The class of a probe, and the next probe -/

section
variable {x : Tau} {c : Nat}

section
variable {upA upB dataA dataB : Bool}

theorem Tau.classify_of_none (unprobed : x.srv.probes.find? (·.child == c) = none) : x.classify c upA upB dataA dataB = x := by
  simp only [Tau.classify, unprobed]

/-- The TAU once the one probe of child `c` has its class. -/
def Tau.classed (x : Tau) (c cls : Nat) : Tau :=
  (({ x with srv := { x.srv with probes := [] } }).wr Reg.SRV_LV_CLASS cls c).wr Reg.SRV_LV_PROBE_PEND 0 c

/-- Two periods after the one probe in flight, its child is classed and its verdict posted (R240). -/
theorem Tau.classify_of_one {p : Probe} {y : Tau} {cls : Nat} (one : x.srv.probes = [p]) (child : p.child = c) (due : p.q + 2 ≤ x.per)
    (judged : x.probeClass p upA upB dataA dataB = cls) (classed : x.classed c cls = y) :
    x.classify c upA upB dataA dataB = y.postVerdict y.pulseHome 6 (y.lvVerdict c (y.rd Reg.SRV_LV_STATE c) cls) := by
  subst judged classed
  simp [Tau.classify, one, child, Nat.not_lt.mpr due, Tau.classed]

end

theorem Tau.reprobe_of_due {q : Nat} (probed : x.srv.lastProbe.getD c none = some q) (contested : x.rd Reg.SRV_LV_STATE c = 3)
    (due : q + x.rd Reg.SRV_LV_REPROBE 0 x.pulseHome ≤ x.per) : x.reprobe c = x.startProbe c := by
  simp only [Tau.reprobe, probed]
  exact if_pos ⟨contested, due⟩

theorem Tau.reprobe_of_uncontested (uncontested : x.rd Reg.SRV_LV_STATE c ≠ 3) : x.reprobe c = x := by
  unfold Tau.reprobe
  split
  · exact if_neg fun h => uncontested h.1
  · rfl

end

/-! ### Straggler windows -/

section
variable {x : Tau} {u : Nat}

theorem Tau.stTimeout_of_overlong {w : StWin} (opened : (x.srv.st.getD u StUnit.reset).win = some w)
    (due : w.from_ + x.rd Reg.SRV_ST_MAXWIN u ≤ x.per) :
    x.stTimeout u = (x.setSt u fun t => { t with win := none }).bump Reg.SRV_ST_SKIP_CNT u := by
  simp only [Tau.stTimeout, opened, due, if_true]

theorem Tau.stTimeout_of_closed (closed : (x.srv.st.getD u StUnit.reset).win = none) : x.stTimeout u = x := by
  simp only [Tau.stTimeout, closed]

end

/-! ### Backup pairs -/

section
variable {x : Tau} {i : Nat} {b : BkPair} (pair : x.srv.bk.getD i ⟨false, [], []⟩ = b)
include pair

theorem Tau.backupWait_of_none (idle : b.wait = []) : x.backupWait i = x := by
  simp only [Tau.backupWait, pair, idle, List.foldl_nil]

/-- With its wait run out, a window that the first copy alone has answered is settled with that copy's stamp. -/
theorem Tau.judgeBackup_of_first_alone {lo hi p : Nat} (answered : b.answer 0 lo hi = some p) (silent : b.answer 1 lo hi = none)
    (step : Nat) :
    x.judgeBackup i step lo hi true =
      ((x.postBackup i step 0 2 0 p).setBk i fun b => { b with ans := b.ans.filter fun a => decide (hi < a.2.1) }, true) := by
  simp only [Tau.judgeBackup, pair, answered, silent, if_true]

/-- The one window that a pair waits for is judged, and once settled waits no more. -/
theorem Tau.backupWait_of_one {step lo hi from_ : Nat} {y : Tau} (one : b.wait = [(step, lo, hi, from_)])
    (due : from_ + x.rd Reg.SRV_ST_MAXWIN (x.rd Reg.SRV_BK_CTRL_UNIT i) ≤ x.per)
    (settled : x.judgeBackup i step lo hi true = (y, true)) :
    x.backupWait i = y.setBk i fun b => { b with wait := b.wait.filter (· != (step, lo, hi, from_)) } := by
  simp only [Tau.backupWait, pair, one, List.foldl_cons, List.foldl_nil, decide_eq_true due, settled, if_true]

end

end Sys2Proof.Machine

open Sys2Proof Sys2Proof.Machine

/-- Settles O51: an acknowledgement by its sender, a probe by the base that it names, its class and the next one by what is in flight;
then each wait by what is open and how long it has been. -/
theorem livenessAndWaitsEnd : Obligations.LivenessAndWaitsEnd := by
  unfold Obligations.LivenessAndWaitsEnd
  refine ⟨?liveness, ?waits⟩
  case liveness =>
    intro s t port r c upA upB dataA dataB p q on x srv time cls k insv answer
    have rails : x.main = true := Tau.main_of_on (State.tauAt_on_of_on on)
    refine ⟨fun ok length => ⟨fun sender => ?noted, fun sender => ?notParent⟩,
      fun ok length => ⟨fun own => ?answered, fun other => ?notOwn⟩, fun unprobed => ?unprobed, fun one child due => ?classed,
      fun probed contested due => ?again, fun uncontested => ?uncontested⟩
    case noted => exact exec_of_onMain rfl on (Tau.pulseAckRx_of_parent ok length sender _)
    case notParent => exact exec_of_onMain rfl on (Tau.pulseAckRx_of_other ok length sender _)
    case answered => exact exec_of_onIsland rfl (Tau.islPg_of_on on) (Tau.childProbe_of_own_base ok length rails own)
    case notOwn => exact exec_of_onIsland rfl (Tau.islPg_of_on on) (Tau.childProbe_of_other_base other)
    case unprobed => exact exec_of_onMain rfl on (Tau.classify_of_none unprobed)
    case classed =>
      have classed := Tau.classify_of_one (upA := upA) (upB := upB) (dataA := dataA) (dataB := dataB) one child due rfl rfl
      exact exec_of_onMain rfl on classed
    case again => exact exec_of_onMain rfl on (Tau.reprobe_of_due probed contested due)
    case uncontested => exact exec_of_onMain rfl on (Tau.reprobe_of_uncontested uncontested)
  case waits =>
    intro s t port v u k w step lo hi from_ p b on x
    refine ⟨fun opened due => ?overlong, fun closed => ?closed, fun pair idle => ?idle,
      fun pair one answered silent due => ?late, fun booted go => ?capture⟩
    case overlong => exact exec_of_onMain rfl on (Tau.stTimeout_of_overlong opened due)
    case closed => exact exec_of_onMain rfl on (Tau.stTimeout_of_closed closed)
    case idle => exact exec_of_onMain rfl on (Tau.backupWait_of_none pair idle)
    case late =>
      exact exec_of_onMain rfl on (Tau.backupWait_of_one pair one due (Tau.judgeBackup_of_first_alone pair answered silent step))
    case capture =>
      have fed : x.on = true := State.tauAt_on_of_on on
      exact exec_of_tauWrite rfl on ((Tau.write_driftCapture fed booted k port v.toNat _).trans (if_pos go))

end

section
/-! ## The last vector of a binding that has ended (R273) -/

namespace Sys2Proof.Machine

/-- A map slot whose binding scores no more is free, but for one of a job in TEARDOWN or HELD. -/
theorem Tau.treeFree_frees_slot {x : Tau} {i : Nat} {b : Bind} (bound : x.tree.binds.getD i none = some b) (done : x.bindDone i b = true)
    (runs : ∀ j, x.job b.job = some j → j.st < 3) : x.treeFree.tree.binds.getD i none = none := by
  simp only [Tau.treeFree, List.getD_eq_getElem?_getD, List.getElem?_map]
  cases inRange : (List.range 16)[i]? with
  | none => rfl
  | some k =>
    obtain ⟨-, rfl⟩ := List.getElem?_eq_some_iff.mp inRange
    rw [List.getD_eq_getElem?_getD] at bound
    cases named : x.job b.job with
    | none => simp [bound, done, named]
    | some j => simp [bound, done, named, runs j named]

/-- A section in service frees what scores no more as soon as it has scored a vector. -/
theorem exec_vectorScored_of_inService {s : State} {t : T64} {sec : Fin 4} (on : s.tau.on = true)
    (serves : (s.tauAt t).inService sec = true) :
    exec (.vectorScored t sec) s = .next (s.withTau ((s.tauAt t).scoreVector sec).treeFree) :=
  exec_of_onMain rfl on (if_pos serves)

/-- Where no record waits, a command leaves the tree engine as its effect does. -/
theorem State.withTau_tree_of_no_records {y : Tau} (norec : y.recq = []) (s : State) : (s.withTau y).tau.tree = y.tree := by
  simp only [State.withTau, Tau.flushRecords_of_none norec, Tau.inputsOf]

/-- A model of one tree, whose root is a leaf of 7. -/
def oneLeaf : Model :=
  { id := 3, digest := [], nout := 1, nfeat := 1, lscale := 0, wmax := 1, types := [2], bias := [0], trees := [0], nodes := [2 ^ 63 + 7]
    sets := [], cal := [], name := 0 }

/-- A per-rank map with an output that takes no action and fills no field. -/
def quietMap : FMap :=
  { id := 4, model := 3, consist := 7, perRank := true, roles := 1, digest := [], ents := [], until_ := none
    outs := [{ thr := 100, act := 0, sev := 0, template := 0, subj := 0, fill := 255, count := 255, holdoff := 0 }] }

/-- The map's binding to an active job, disabled at the boundary of period 1. -/
def endedBind : Bind := { job := 5, map := 4, ens := 0, from_ := 0, until_ := some 1 }

/-- The vector of a coach of period 0 under that binding. -/
def lastVec : Vec :=
  { slot := 0, ens := 0, job := 5, consist := 7, period := 0, child := some 0, rank := 0, present := 1, expected := 1
    feats := [(9, false)], subj := [0], deadline := 290000, cut := false }

/-- The active job that the map is bound to. -/
def boundJob : TauJob :=
  { handle := 5, st := 2, epochs := [(0, 3)], keys := [(0, 7)], tt := 1, streams := [(7, 0)], maps := [4], ranges := [(0, 64)], effect := 0
    slots := [], quota := 100, rel := false }

/-- Period 1 runs, and section 0 holds the last vector of the binding that ended at its boundary. -/
def lastVectorQueued : State :=
  { State.reset with tau := { State.reset.tau with
      ft := 280000
      jobs := [boundJob]
      lib := { Library.reset with models := some oneLeaf :: List.replicate 7 none, maps := [quietMap] }
      tree := { TreeSt.reset with binds := some endedBind :: List.replicate 15 none, q := [[lastVec], [], [], []] } } }

/-- Once that vector is scored, the slot of its binding is free. -/
theorem scored_lastVectorQueued_frees_slot {s : State} (ran : exec (.vectorScored 280000 0) lastVectorQueued = .next s) :
    s.tau.tree.binds.getD 0 none = none := by
  rw [exec_vectorScored_of_inService (by decide +kernel) (by decide +kernel)] at ran
  rw [← Host.Outcome.next.inj ran, State.withTau_tree_of_no_records (by decide +kernel)]
  refine Tau.treeFree_frees_slot (b := endedBind) (by decide +kernel) (by decide +kernel) fun j named => ?_
  have active : ((lastVectorQueued.tauAt 280000).scoreVector 0).job endedBind.job = some boundJob := by decide +kernel
  cases active.symm.trans named
  decide

end Sys2Proof.Machine

open Sys2Proof Sys2Proof.Machine

/-- Refutes O53, in its clause about a scored vector: it leaves the map slots as they were, but once the last vector of a binding that
has ended is scored, the slot is free (R273). -/
theorem not_vectorsAreScored : ¬ Obligations.VectorsAreScored := by
  intro h
  obtain ⟨scored, -⟩ := h lastVectorQueued 280000 .host 0 0 [] lastVec [] oneLeaf quietMap endedBind ⟨0, 0, 0, []⟩ [] 0 0 0 0
    (by decide +kernel)
  have bound := scored (by decide +kernel) (by decide +kernel) (by decide +kernel) (by decide +kernel) (by decide +kernel)
  exact absurd (scored_lastVectorQueued_frees_slot bound) (by decide +kernel)

end

section
/-! ## Tap units and tallies of the agreement engine (R287, R288, R292 to R294, R302) -/

namespace Sys2Proof.Machine

/-! ### The control register -/

section
variable {x : Tau} {k : Nat}

theorem Tau.armTap_of_busy (busy : (x.agr.tap.getD k TapUnit.reset).st = 1 ∨ (x.agr.tap.getD k TapUnit.reset).st = 2) :
    x.armTap k = (x.wr Reg.AGR_T_STAT_CODE Code.busy k).bump Reg.GEN_ACC_ERR_CNT := if_pos busy

section
variable (idle : (x.agr.tap.getD k TapUnit.reset).st = 0)
include idle

theorem Tau.tap_not_busy_of_idle : ¬((x.agr.tap.getD k TapUnit.reset).st = 1 ∨ (x.agr.tap.getD k TapUnit.reset).st = 2) := by
  omega

/-- Without a period to come or a key of the job there is nothing to arm (R471, R280). -/
theorem Tau.armTap_of_unfit
    (unfit : namedPeriod x.per (x.rd Reg.AGR_T_DEADLINE k) = none ∨ x.tapKey (x.rd Reg.AGR_T_JOB k) = none) :
    x.armTap k = (x.wr Reg.AGR_T_STAT_CODE Code.fit k).bump Reg.GEN_ACC_ERR_CNT := by
  unfold Tau.armTap
  rw [if_neg (Tau.tap_not_busy_of_idle idle)]
  rcases unfit with past | keyless
  · simp only [past]
  · split
    · rfl
    · rw [if_pos (by simp [keyless])]

/-- A unit that is not armed takes what its registers name (R287, R288). -/
theorem Tau.armTap_of_fit {p j : Nat} (ends : namedPeriod x.per (x.rd Reg.AGR_T_DEADLINE k) = some p)
    (keyed : x.tapKey (x.rd Reg.AGR_T_JOB k) = some j) :
    x.armTap k = (x.wr Reg.AGR_T_STAT_CODE Code.done k).setTap k fun _ =>
      { st := 1, status := 0, point := x.rd Reg.AGR_T_POINT_POINT k, port := x.rd Reg.AGR_T_POINT_PORT k
        job := x.rd Reg.AGR_T_JOB k, epoch := (x.epochAt (x.rd Reg.AGR_T_JOB k) x.per).getD 0
        m := ⟨x.rd Reg.AGR_T_MATCH_COLL k, x.rd Reg.AGR_T_MATCH_INST k, x.rd Reg.AGR_T_CHUNK_LO k,
          x.rd Reg.AGR_T_CHUNK_COUNT k, x.rd Reg.AGR_T_SRC k, x.rd Reg.AGR_T_DST k, x.rd Reg.AGR_T_POINT_RESULT_ONLY k == 1⟩
        deadline := p, acc := 0, n := 0, flits := 0, seen := x.per } := by
  have code_only {f : Fld} (h : f.tag ≠ Reg.AGR_T_STAT_CODE.tag) (i : Nat) :
      (x.wr Reg.AGR_T_STAT_CODE Code.done k).rd f i = x.rd f i := Tau.rd_wr_of_tag h ..
  unfold Tau.armTap
  rw [if_neg (Tau.tap_not_busy_of_idle idle)]
  simp only [ends, keyed, Option.isNone_some, Bool.false_eq_true, if_false, code_only (f := Reg.AGR_T_POINT_POINT) (by decide),
    code_only (f := Reg.AGR_T_POINT_PORT) (by decide)]
  rfl

end

end

/-- DISARM stands in the word of GO. -/
theorem Tau.write_tapUnitDisarm {x : Tau} (on : x.on = true) (booted : x.rd Reg.GEN_BOOT_STATE = 3) (k : Fin 8) (port : Port)
    (v : Nat) (m : Reads) (stays : v.testBit 0 = false) (disarm : v.testBit 1 = true) :
    x.writeField Reg.AGR_T_CTRL_DISARM k 0 port v m = x.closeTap k 4 := by
  have written : x.writeField Reg.AGR_T_CTRL_DISARM k 0 port v m = _ := Tau.write_tapUnitControl on booted k port v m
  simpa only [stays, disarm, Bool.false_eq_true, if_false, if_true] using written

theorem Tau.write_tapUnitArm {x : Tau} (on : x.on = true) (booted : x.rd Reg.GEN_BOOT_STATE = 3) (k : Fin 8) (port : Port)
    (v : Nat) (m : Reads) (go : v.testBit 0 = true) (stays : v.testBit 1 = false) :
    x.writeField Reg.AGR_T_CTRL_GO k 0 port v m = x.armTap k := by
  have written := Tau.write_tapUnitControl on booted k port v m
  simpa only [go, stays, Bool.false_eq_true, if_false, if_true] using written

/-! ### Flits -/

section
variable {x : Tau} {k : Nat} {u : TapUnit} {g : FlitTag} {payload : List Byte} (unit : x.agr.tap.getD k TapUnit.reset = u)
  (busy : u.st = 1 ∨ u.st = 2)
include unit busy

theorem Tau.tapFlit_of_torn (hashed : g.tap = true) (torn : payload.length % 8 ≠ 0) :
    x.tapFlit k (some g) payload = x.bump Reg.AGR_T_TAGERR k := by
  subst unit
  simp only [Tau.tapFlit]
  rw [if_neg (by omega), if_pos (by simp [hashed, torn])]

section
variable (whole : payload.length % 8 = 0) (coll : g.coll = u.m.coll)
include whole coll

/-- A flit of the INST that follows closes a unit (R288). -/
theorem Tau.tapFlit_of_next_instance (next : g.inst = (u.m.inst + 1) % 256) :
    x.tapFlit k (some g) payload = x.closeTap k 1 := by
  subst unit
  simp only [Tau.tapFlit]
  rw [if_neg (by omega), if_neg (by simp [whole]), if_neg (by simp [coll]), if_pos next]

/-- A flit with words in the range of a unit adds the digests of those words (R287, R288). -/
theorem Tau.tapFlit_of_hit {y : Tau} {j : Nat} {ts : List (Nat × Nat)} (inst : g.inst = u.m.inst) (hits : u.m.hits g = true)
    (seen : (x.setTap k fun u => { u with seen := x.per }) = y) (keyed : y.tapKey u.job = some j)
    (terms : ((tagTerms g (tapPoint j g.coll) payload).filter fun t => u.m.inRange t.1) = ts) (inRange : ts ≠ []) :
    x.tapFlit k (some g) payload = y.setTap k fun u =>
      { u with
        st := 2
        acc := ts.foldl (fun a t => Nat.xor a t.2) u.acc
        n := u.n + ts.length
        flits := u.flits + 1 } := by
  subst unit seen terms
  simp only [Tau.tapFlit]
  rw [if_neg (by omega), if_neg (by simp [whole]), if_neg (by simp [coll]), if_neg (by omega), if_neg (by rw [hits]; decide)]
  simp only [keyed]
  rw [if_neg (by simpa using inRange)]

end

end

/-! ### Silence and the deadline -/

section
variable {x : Tau} {k : Nat}

theorem Tau.tapIdle_of_silent (opened : (x.agr.tap.getD k TapUnit.reset).st = 2)
    (silent : (x.agr.tap.getD k TapUnit.reset).seen + x.rd Reg.AGR_TAP_IDLE ≤ x.per) : x.tapIdle k = x.closeTap k 2 :=
  if_pos ⟨opened, silent⟩

theorem Tau.tapIdle_of_not_open (other : (x.agr.tap.getD k TapUnit.reset).st ≠ 2) : x.tapIdle k = x :=
  if_neg fun h => other h.1

theorem Tau.tapDeadline_of_due (due : (x.agr.tap.getD k TapUnit.reset).deadline ≤ x.per) :
    x.tapDeadline k = x.closeTap k (if (x.agr.tap.getD k TapUnit.reset).st = 1 then 3 else 7) := if_pos due

end

/-! ### Tallies (R301) -/

@[simp] theorem Tau.sendUpTo_lib (x : Tau) (dst : Option Nat) (q : Nat) (yellow : Bool) (r : List Byte) :
    (x.sendUpTo dst q yellow r).1.lib = x.lib := by
  simp only [Tau.sendUpTo]
  split
  · rfl
  · split <;> rfl

@[simp] theorem Tau.toParent_lib (x : Tau) (yellow : Bool) (r : List Byte) : (x.toParent yellow r).lib = x.lib := by
  unfold Tau.toParent
  split
  · exact x.sendUpTo_lib none _ yellow r
  · rfl

/-- A pass over a list keeps what each of its steps keeps. -/
theorem forEach_keeps {α β γ : Type} {f : β → α → α} {p : α → γ} (keeps : ∀ b a, p (f b a) = p a) (l : List β) (a : α) :
    p (forEach l f a) = p a := by
  induction l generalizing a with
  | nil => rfl
  | cons b l ih => exact (ih (f b a)).trans (keeps b a)

/-- An entry of a TALLY record (R301). -/
def tallyEntry : Nat × Nat × Nat → List Byte
  | (i, a, b) => leBytes 2 i ++ leBytes 3 a ++ leBytes 3 b

/-- One group of changed entries of a pack goes up in a TALLY record, and is counted (R291, R301). -/
def Tau.sendTally (q : TauPack) (g : List (Nat × Nat × Nat)) (x : Tau) : Tau :=
  (x.toParent false (mkRecord (x.ownHdr 5 2 0xFFFF 0xFFFF (x.per * 2 ^ 18))
    (digestBody 0 0 0 4 0 q.id (q.ver % 256) 0 g.length x.per ++ g.flatMap tallyEntry))).bump Reg.AGR_TALLY_SENT_CNT

@[simp] theorem Tau.sendTally_lib (q : TauPack) (g : List (Nat × Nat × Nat)) (x : Tau) : (Tau.sendTally q g x).lib = x.lib :=
  Tau.toParent_lib ..

/-- The tally of pack slot `i` as it stands is the one last sent. -/
def Tau.markSent (x : Tau) (i : Nat) : Tau :=
  { x with lib := { x.lib with packs := modifyAt (Option.map fun p => { p with sent := p.tally }) i x.lib.packs } }

/-- What the boundary of the tallies does for pack slot `i`. -/
def Tau.sendPack (x : Tau) (i : Nat) : Tau :=
  match x.lib.packs.getD i none with
  | none => x
  | some p => forEach (groups120 p.changes.length p.changes) (Tau.sendTally p) (x.markSent i)

theorem Tau.tallySend_eq (x : Tau) :
    x.tallySend = if x.rd Reg.AGR_FAIL_TOP = 1 ∨ x.parent = none ∨ x.per % 2 ^ x.rd Reg.AGR_TALLY_DIV ≠ 0 then x
      else forIdx 4 (fun i y => y.sendPack i) x := rfl

section
variable {x : Tau} {i : Nat}

theorem Tau.sendPack_of_free (free : x.lib.packs.getD i none = none) : x.sendPack i = x := by
  simp only [Tau.sendPack, free]

theorem Tau.sendPack_of_held {q : TauPack} (held : x.lib.packs.getD i none = some q) :
    x.sendPack i = forEach (groups120 q.changes.length q.changes) (Tau.sendTally q) (x.markSent i) := by
  simp only [Tau.sendPack, held]

theorem Tau.tallySend_of_orphan (orphan : x.parent = none) : x.tallySend = x := by
  rw [Tau.tallySend_eq, if_pos (.inr (.inl orphan))]

/-- With one pack held, the changes of its tally go up, and are then those last sent. -/
theorem Tau.tallySend_of_one {q : TauPack} (below : x.rd Reg.AGR_FAIL_TOP = 0) (parent : x.parent ≠ none)
    (due : x.per % 2 ^ x.rd Reg.AGR_TALLY_DIV = 0) (one : x.lib.packs = [some q, none, none, none]) :
    x.tallySend = forEach (groups120 q.changes.length q.changes) (Tau.sendTally q) (x.markSent 0) := by
  have first : x.sendPack 0 = forEach (groups120 q.changes.length q.changes) (Tau.sendTally q) (x.markSent 0) :=
    Tau.sendPack_of_held (by simp [one])
  have packs : (x.sendPack 0).lib.packs = [some { q with sent := q.tally }, none, none, none] := by
    rw [first, forEach_keeps (p := Tau.lib) (Tau.sendTally_lib q)]
    simp only [Tau.markSent, one, modifyAt, Option.map_some]
  rw [Tau.tallySend_eq, if_neg (by simp [below, parent, due]), ← first]
  refine forIdx_of_one (by omega) (fun j h => by omega) fun j hj h0 => Tau.sendPack_of_free ?_
  obtain rfl | rfl | rfl : j = 1 ∨ j = 2 ∨ j = 3 := by omega
  all_goals simp [packs]

end

end Sys2Proof.Machine

open Sys2Proof Sys2Proof.Machine

/-- Settles O54: a write of the control register by its two bits and the unit's state, a flit by what the unit names, the timeouts by
their instants, and the tallies by the packs that are held. -/
theorem tapUnitsRun : Obligations.TapUnitsRun := by
  unfold Obligations.TapUnitsRun
  intro s t port v k g payload p j q on x u m job ts y start
  have fed : x.on = true := State.tauAt_on_of_on on
  have runs {c : Instr} {f : Tau → Tau} {z : Tau} (hc : exec c s = .next (s.onMain t f)) (hz : f x = z) :
      exec c s = .next (s.withTau z) := exec_of_onMain hc on hz
  have writes {c : Instr} {f : Fld} {z : Tau} (hc : exec c s = .next (s.tauWrite t f k 0 port v ⟨[], [], []⟩))
      (hz : x.writeField f k 0 port v.toNat ⟨[], [], []⟩ = z) : exec c s = .next (s.withTau z) := exec_of_tauWrite hc on hz
  clear_value x
  refine ⟨fun booted => ?written, ?untagged, fun armed whole coll inst hits keyed inRange => ?hit,
    fun busy whole coll next => ?next, fun busy hashed torn => ?torn, fun opened silent => ?silent, fun other => ?notOpen,
    fun due => ?deadline, fun orphan => ?orphan, fun below parent due one => ?tallies⟩
  case written =>
    have arms (go : v.toNat.testBit 0 = true) (stays : v.toNat.testBit 1 = false) :
        x.writeField Reg.AGR_T_CTRL_GO k 0 port v.toNat ⟨[], [], []⟩ = x.armTap k :=
      Tau.write_tapUnitArm fed booted k port v.toNat _ go stays
    refine ⟨fun go stays idle ends keyed => ?armed, fun go stays busy => ?busy, fun go stays idle unfit => ?unfit,
      fun stays disarm => ?disarmed⟩
    case armed => exact writes rfl ((arms go stays).trans (Tau.armTap_of_fit idle ends keyed))
    case busy => exact writes rfl ((arms go stays).trans (Tau.armTap_of_busy busy))
    case unfit => exact writes rfl ((arms go stays).trans (Tau.armTap_of_unfit idle unfit))
    case disarmed => exact writes rfl (Tau.write_tapUnitDisarm fed booted k port v.toNat _ stays disarm)
  case untagged => exact runs rfl rfl
  case hit => exact runs rfl (Tau.tapFlit_of_hit rfl (.inl armed) whole coll inst hits rfl keyed rfl inRange)
  case next => exact runs rfl (Tau.tapFlit_of_next_instance rfl busy whole coll next)
  case torn => exact runs rfl (Tau.tapFlit_of_torn rfl busy hashed torn)
  case silent => exact runs rfl (Tau.tapIdle_of_silent opened silent)
  case notOpen => exact runs rfl (Tau.tapIdle_of_not_open other)
  case deadline => exact runs rfl (Tau.tapDeadline_of_due due)
  case orphan => exact runs rfl (Tau.tallySend_of_orphan orphan)
  case tallies =>
    intro y send
    have marked : x.markSent 0 = y := by simp only [Tau.markSent, one, modifyAt, Option.map_some, y]
    exact runs rfl ((Tau.tallySend_of_one below parent due one).trans (by rw [marked]; rfl))

end

section
/-! ## Link taps, result slots, the chunk store and filters of the die (R275, R276, R282, R283, R286 to R290) -/

namespace Sys2Proof.Machine

/-! ### One flit and one result slot, or one filter -/

@[simp] theorem Tdu.setFilter_tap (d : Tdu) (i : Nat) (f : Filter → Filter) :
    (d.setFilter i f).tap = { d.tap with filt := modifyAt f i d.tap.filt } := rfl

/-- A result slot with the digests of a flit's words added (R279, R285). -/
def ResSlot.addTerms (ts : List (Nat × Nat)) (v : ResSlot) : ResSlot :=
  { v with
    acc := ts.foldl (fun a t => Nat.xor a t.2) v.acc
    n := v.n + ts.length
    chunks := ts.foldl (fun l t => Store.put t.1 (Nat.xor (countAt l t.1) t.2) 0 l) v.chunks }

/-- A filter, open, with the digests of those of a flit's words that are in its range added (R288). -/
def Filter.addTerms (ts : List (Nat × Nat)) (f : Filter) : Filter :=
  { f with
    st := 2
    acc := ts.foldl (fun a t => Nat.xor a t.2) f.acc
    n := f.n + ts.length
    flits := f.flits + 1 }

section
variable {d : Tdu} {i link dir : Nat} {g : FlitTag} {payload : List Byte}

/-- A flit of the INST that a slot has open, on a tapped link, adds to it (R277, R283). -/
theorem Tdu.resFlit_of_open_instance {v : ResSlot} {k : TapKey} {tx : Bool} (opened : v.st = 1) (inst : g.inst = v.inst)
    (result : g.result = true) (hashed : g.tap = true) (own : g.own = true) (keyed : d.tapKey v.job = some k) :
    d.resFlit i v tx true g payload = d.setRes i (ResSlot.addTerms (tagTerms g (tapPoint k.j g.coll) payload)) := by
  simp only [Tdu.resFlit, opened, inst, result, hashed, own, keyed, ne_eq, not_true_eq_false, if_false, Bool.not_true, Bool.and_false,
    Bool.or_self, Bool.false_eq_true]
  rfl

theorem Tdu.filterFlit_of_idle {hash : Bool} (idle : (d.tap.filt.getD i Filter.reset).st = 0) :
    d.filterFlit i link dir hash g payload = d := by
  unfold Tdu.filterFlit
  exact if_pos (.inl (by omega))

/-- A flit that an armed filter names, with words in its range, opens it (R287, R288). -/
theorem Tdu.filterFlit_of_hit {f : Filter} {k : TapKey} {ts : List (Nat × Nat)} (held : d.tap.filt.getD i Filter.reset = f)
    (armed : f.st = 1) (onLink : f.link = link) (inDir : f.dir = dir) (hits : f.m.hits g = true) (keyed : d.tapKey f.job = some k)
    (terms : ((tagTerms g (tapPoint k.j g.coll) payload).filter fun t => f.m.inRange t.1) = ts) (inRange : ts ≠ []) :
    d.filterFlit i link dir true g payload = d.setFilter i (Filter.addTerms ts) := by
  subst terms
  simp only [Tdu.filterFlit, held]
  rw [if_neg (by simp [armed, onLink, inDir, hits])]
  simp only [keyed]
  rw [if_neg (by simpa using inRange)]
  rfl

end

/-! ### One flit and all the taps -/

/-- The die with a flit counted by its link and direction (R276). -/
def Tdu.flitCounted (d : Tdu) (link dir : Nat) : Tdu :=
  { d with tap := { d.tap with flits := modifyAt (· + 1) (2 * link + dir) d.tap.flits } }

/-- Some result slot, or some filter that is armed or open, watches a collective. -/
def Tdu.watches (d : Tdu) (coll : Nat) : Bool :=
  d.tap.res.any (fun s => match s with | some s => s.coll == coll | none => false) ||
    d.tap.filt.any (fun f => (f.st == 1 || f.st == 2) && f.m.coll == coll)

/-- A result flit of a collective that nothing watches is counted (R282). -/
def Tdu.noteUnwatched (d : Tdu) (g : FlitTag) : Tdu :=
  if g.result && !d.watches g.coll then d.bump Reg.TTAP_UNWATCHED_CNT else d

/-- A flit meets what stands in result slot `i`. -/
def Tdu.meetSlot (dir : Nat) (hash : Bool) (g : FlitTag) (payload : List Byte) (i : Nat) (d : Tdu) : Tdu :=
  match d.tap.res.getD i none with
  | some v => if v.coll = g.coll then d.resFlit i v (dir == 0) hash g payload else d
  | none => d

/-- A flit meets every result slot, then every filter. -/
def Tdu.meetTaps (d : Tdu) (link dir : Nat) (hash : Bool) (g : FlitTag) (payload : List Byte) : Tdu :=
  forIdx 2 (fun i d => d.filterFlit i link dir hash g payload) (forIdx 4 (Tdu.meetSlot dir hash g payload) d)

section
variable {d : Tdu} {link dir : Nat} {g : FlitTag} {payload : List Byte}

section
variable (live : d.live = true)
include live

theorem Tdu.flit_of_untagged : d.flit link dir none payload = d.flitCounted link dir := by
  simp only [Tdu.flit, live, Bool.not_true, Bool.false_eq_true, if_false, Tdu.flitCounted]

theorem Tdu.flit_of_whole (whole : payload.length % 8 = 0) :
    d.flit link dir (some g) payload =
      ((d.flitCounted link dir).noteUnwatched g).meetTaps link dir ((d.rd Reg.TTAP_LINK_EN).testBit link) g payload := by
  simp only [Tdu.flit, live, whole, bne_self_eq_false, Bool.and_false, Bool.not_false, Bool.and_true, Bool.not_true,
    Bool.false_eq_true, if_false]
  rfl

/-- A flit to be hashed that is not whole words is counted, and no longer to be hashed (R275). -/
theorem Tdu.flit_of_torn (hashed : g.tap = true) (torn : payload.length % 8 ≠ 0) :
    let e := (d.flitCounted link dir).bump Reg.TTAP_TAG_ERR_CNT
    d.flit link dir (some g) payload =
      (e.noteUnwatched { g with tap := false }).meetTaps link dir ((e.rd Reg.TTAP_LINK_EN).testBit link) { g with tap := false }
        payload := by
  simp only [Tdu.flit, live, hashed, bne_iff_ne.mpr torn, Bool.and_self, Bool.not_true, Bool.and_false, Bool.false_eq_true, if_false,
    if_true]
  rfl

end

/-! ### Which taps act -/

theorem Tdu.noteUnwatched_of_watched (watched : d.watches g.coll = true) : d.noteUnwatched g = d := by
  simp [Tdu.noteUnwatched, watched]

@[simp] theorem Tdu.noteUnwatched_tap (d : Tdu) (g : FlitTag) : (d.noteUnwatched g).tap = d.tap := by
  unfold Tdu.noteUnwatched
  split <;> rfl

/-- What holds of every entry of a list, and of what stands for one that is not there, holds wherever the list is read. -/
theorem getD_of_forall_mem {α : Type} {p : α → Prop} {l : List α} {a : α} (ha : p a) (h : ∀ b ∈ l, p b) (i : Nat) :
    p (l.getD i a) := by
  rw [List.getD_eq_getElem?_getD]
  cases e : l[i]? with
  | none => exact ha
  | some b => exact h b (List.mem_of_getElem? e)

theorem Tdu.noteUnwatched_of_idle (empty : d.tap.res = [none, none, none, none]) (idle : ∀ f ∈ d.tap.filt, f.st = 0) :
    d.noteUnwatched g = if g.result then d.bump Reg.TTAP_UNWATCHED_CNT else d := by
  have unwatched : d.watches g.coll = false := by
    simp only [Tdu.watches, empty, Bool.or_eq_false_iff, List.any_eq_false]
    exact ⟨by simp, fun f hf => by simp [idle f hf]⟩
  simp only [Tdu.noteUnwatched, unwatched, Bool.not_false, Bool.and_true]

section
variable {hash : Bool}

theorem Tdu.meetSlot_of_free {i : Nat} (free : d.tap.res.getD i none = none) : d.meetSlot dir hash g payload i = d := by
  simp only [Tdu.meetSlot, free]

theorem Tdu.meetSlots_of_none (empty : d.tap.res = [none, none, none, none]) :
    forIdx 4 (Tdu.meetSlot dir hash g payload) d = d :=
  forIdx_of_fixed fun i _ => Tdu.meetSlot_of_free (getD_none_of_all_none (by simp [empty]) i)

theorem Tdu.meetFilters_of_idle (idle : ∀ f ∈ d.tap.filt, f.st = 0) :
    forIdx 2 (fun i d => d.filterFlit i link dir hash g payload) d = d :=
  forIdx_of_fixed fun i _ => Tdu.filterFlit_of_idle (getD_of_forall_mem (p := fun f : Filter => f.st = 0) rfl idle i)

/-- Where no slot and no filter is in use, a flit meets nothing. -/
theorem Tdu.meetTaps_of_idle (empty : d.tap.res = [none, none, none, none]) (idle : ∀ f ∈ d.tap.filt, f.st = 0) :
    d.meetTaps link dir hash g payload = d := by
  rw [Tdu.meetTaps, Tdu.meetSlots_of_none empty, Tdu.meetFilters_of_idle idle]

end

/-- Where one filter alone is in use, a flit that it names opens it. -/
theorem Tdu.meetTaps_of_filter {f : Filter} {k : TapKey} {ts : List (Nat × Nat)} (empty : d.tap.res = [none, none, none, none])
    (one : d.tap.filt = [f, Filter.reset]) (armed : f.st = 1) (onLink : f.link = link) (inDir : f.dir = dir)
    (hits : f.m.hits g = true) (keyed : d.tapKey f.job = some k)
    (terms : ((tagTerms g (tapPoint k.j g.coll) payload).filter fun t => f.m.inRange t.1) = ts) (inRange : ts ≠ []) :
    d.meetTaps link dir true g payload = d.setFilter 0 (Filter.addTerms ts) := by
  have first : d.filterFlit 0 link dir true g payload = d.setFilter 0 (Filter.addTerms ts) :=
    Tdu.filterFlit_of_hit (by simp [one]) armed onLink inDir hits keyed terms inRange
  rw [Tdu.meetTaps, Tdu.meetSlots_of_none empty, ← first]
  refine forIdx_of_one (by omega) (fun i h => by omega) fun i hi h0 => Tdu.filterFlit_of_idle ?_
  obtain rfl : i = 1 := by omega
  simp [first, one, modifyAt, Filter.reset]

/-- Where one result slot alone is in use, a flit of the INST that it has open adds to it. -/
theorem Tdu.meetTaps_of_slot {v : ResSlot} {k : TapKey} (one : d.tap.res = [some v, none, none, none]) (coll : v.coll = g.coll)
    (opened : v.st = 1) (inst : g.inst = v.inst) (result : g.result = true) (hashed : g.tap = true) (own : g.own = true)
    (keyed : d.tapKey v.job = some k) (idle : ∀ f ∈ d.tap.filt, f.st = 0) :
    d.meetTaps link dir true g payload = d.setRes 0 (ResSlot.addTerms (tagTerms g (tapPoint k.j g.coll) payload)) := by
  have first : d.meetSlot dir true g payload 0 = d.setRes 0 (ResSlot.addTerms (tagTerms g (tapPoint k.j g.coll) payload)) := by
    simp only [Tdu.meetSlot, one, List.getD_cons_zero, coll, if_true]
    exact Tdu.resFlit_of_open_instance opened inst result hashed own keyed
  have slots : forIdx 4 (Tdu.meetSlot dir true g payload) d = d.meetSlot dir true g payload 0 := by
    refine forIdx_of_one (by omega) (fun i h => by omega) fun i hi h0 => Tdu.meetSlot_of_free ?_
    obtain rfl | rfl | rfl : i = 1 ∨ i = 2 ∨ i = 3 := by omega
    all_goals simp [first, one, Tdu.setRes, modifyAt]
  rw [Tdu.meetTaps, slots, first, Tdu.meetFilters_of_idle (by exact idle)]

/-! ### From the flit to the taps -/

section
variable (live : d.live = true)
include live

theorem Tdu.flit_torn_of_idle (hashed : g.tap = true) (torn : payload.length % 8 ≠ 0) (empty : d.tap.res = [none, none, none, none])
    (idle : ∀ f ∈ d.tap.filt, f.st = 0) :
    let e := (d.flitCounted link dir).bump Reg.TTAP_TAG_ERR_CNT
    d.flit link dir (some g) payload = if g.result then e.bump Reg.TTAP_UNWATCHED_CNT else e := by
  intro e
  have noted : e.noteUnwatched { g with tap := false } = if g.result then e.bump Reg.TTAP_UNWATCHED_CNT else e :=
    Tdu.noteUnwatched_of_idle empty idle
  rw [Tdu.flit_of_torn live hashed torn, Tdu.meetTaps_of_idle ((congrArg TapSt.res (e.noteUnwatched_tap _)).trans empty)
    (by rw [Tdu.noteUnwatched_tap]; exact idle)]
  exact noted

section
variable (whole : payload.length % 8 = 0) (tapped : (d.rd Reg.TTAP_LINK_EN).testBit link = true)
include whole tapped

theorem Tdu.flit_of_filter {f : Filter} {k : TapKey} {ts : List (Nat × Nat)} (empty : d.tap.res = [none, none, none, none])
    (one : d.tap.filt = [f, Filter.reset]) (armed : f.st = 1) (onLink : f.link = link) (inDir : f.dir = dir)
    (hits : f.m.hits g = true) (keyed : d.tapKey f.job = some k)
    (terms : ((tagTerms g (tapPoint k.j g.coll) payload).filter fun t => f.m.inRange t.1) = ts) (inRange : ts ≠ []) :
    d.flit link dir (some g) payload = (d.flitCounted link dir).setFilter 0 (Filter.addTerms ts) := by
  have coll : g.coll = f.m.coll := by
    simp only [TapMatch.hits, Bool.and_eq_true, beq_iff_eq] at hits
    obtain ⟨⟨⟨⟨⟨-, coll⟩, -⟩, -⟩, -⟩, -⟩ := hits
    exact coll
  have watched : (d.flitCounted link dir).watches g.coll = true := by
    simp [Tdu.watches, Tdu.flitCounted, one, armed, coll]
  rw [Tdu.flit_of_whole live whole, tapped, Tdu.noteUnwatched_of_watched watched]
  exact Tdu.meetTaps_of_filter (d := d.flitCounted link dir) empty one armed onLink inDir hits keyed terms inRange

theorem Tdu.flit_of_slot {v : ResSlot} {k : TapKey} (one : d.tap.res = [some v, none, none, none]) (coll : v.coll = g.coll)
    (opened : v.st = 1) (inst : g.inst = v.inst) (result : g.result = true) (hashed : g.tap = true) (own : g.own = true)
    (keyed : d.tapKey v.job = some k) (idle : ∀ f ∈ d.tap.filt, f.st = 0) :
    d.flit link dir (some g) payload =
      (d.flitCounted link dir).setRes 0 (ResSlot.addTerms (tagTerms g (tapPoint k.j g.coll) payload)) := by
  have watched : (d.flitCounted link dir).watches g.coll = true := by
    simp [Tdu.watches, Tdu.flitCounted, one, coll]
  rw [Tdu.flit_of_whole live whole, tapped, Tdu.noteUnwatched_of_watched watched]
  exact Tdu.meetTaps_of_slot (d := d.flitCounted link dir) one coll opened inst result hashed own keyed idle

end

end

end

/-! ### Chunk fetches, arms and deadlines (R286, R288 to R290) -/

section
variable {d : Tdu} {r : List Byte} {v : Survey}

section
variable (live : d.live = true)
include live

section
variable (ok : surveyRecOk r = true) (parsed : Survey.parse (r.drop 8) = v)
include ok parsed

/-- A fetch is answered from the store, and takes no slot. -/
theorem Tdu.surveyIn_of_fetch (fetch : v.kind = 2) : d.surveyIn r = (d.chunkFetch v).2.answerAtOnce (d.chunkFetch v).1 := by
  rw [Tdu.surveyIn, Tdu.ctlIn_of_live live ok]
  simp only [parsed, fetch, if_true]

section
variable (arm : v.kind = 3)
include arm

theorem Tdu.surveyIn_arm_of_full (full : firstIdx Option.isNone d.srv.slots = none) :
    d.surveyIn r = (d.bump Reg.TGEN_SRV_BUSY_CNT).answerAtOnce (d.armBusy v) := by
  rw [Tdu.surveyIn, Tdu.ctlIn_of_live live ok]
  simp [parsed, arm, full]

section
variable {i : Nat} (free : firstIdx Option.isNone d.srv.slots = some i)
include free

theorem Tdu.surveyIn_arm_of_busy {e : Filter} (held : d.tap.filt.getD (fieldAt v.par 6 1 % 2) Filter.reset = e)
    (busy : e.st = 1 ∨ e.st = 2) :
    d.surveyIn r = (d.bump Reg.TGEN_SRV_BUSY_CNT).takeSlot i ⟨v, [d.armBusy v], true⟩ := by
  subst held
  have refused : d.armFilter v = none := if_pos busy
  rw [Tdu.surveyIn, Tdu.ctlIn_of_live live ok]
  simp [parsed, arm, free, refused]

theorem Tdu.surveyIn_arm_of_idle {e : Filter} (held : d.tap.filt.getD (fieldAt v.par 6 1 % 2) Filter.reset = e)
    (idle : ¬(e.st = 1 ∨ e.st = 2)) :
    d.surveyIn r = (d.setFilter (fieldAt v.par 6 1 % 2) fun _ => v.filter).takeSlot i ⟨v, [], false⟩ := by
  subst held
  have taken : d.armFilter v = some (d.setFilter (fieldAt v.par 6 1 % 2) fun _ => v.filter) := if_neg idle
  rw [Tdu.surveyIn, Tdu.ctlIn_of_live live ok]
  simp [parsed, arm, free, taken]

end

end

end

theorem Tdu.surveyIn_of_damaged (damaged : surveyRecOk r = false) : d.surveyIn r = d.bump Reg.TGEN_CTL_DMG_CNT := by
  simp only [Tdu.surveyIn, Tdu.ctlIn, Tdu.reachable_of_live live, damaged, Bool.not_true, Bool.not_false, Bool.false_eq_true, if_false,
    if_true, Tdu.ctlDrop]

theorem Tdu.chunkThaw_of_due {p : Nat} (frozen : d.tap.store.frozen = some p) (due : p + d.rd Reg.TTAP_CH_HOLD ≤ d.per) :
    d.chunkThaw = { d with tap := { d.tap with store := { d.tap.store with frozen := none } } } := by
  simp only [Tdu.chunkThaw, frozen, live, due, decide_true, Bool.and_self, if_true]

/-- At its deadline a filter closes: NEVER_SEEN while still armed, DEADLINE with what it has so far otherwise (R288). -/
theorem Tdu.filterDeadline_of_due {i : Nat} {f : Filter} (held : d.tap.filt.getD i Filter.reset = f) (due : f.deadline ≤ d.per) :
    d.filterDeadline i = d.closeFilter i (if f.st = 1 then 3 else 7) := by
  subst held
  simp only [Tdu.filterDeadline, live, due, decide_true, Bool.and_self, if_true]

end

theorem Tdu.closeFilter_of_idle {i : Nat} (idle : (d.tap.filt.getD i Filter.reset).st = 0) (status : Nat) :
    d.closeFilter i status = d := if_neg (by omega)

end

end Sys2Proof.Machine

open Sys2Proof Sys2Proof.Machine

/-- Settles O40: a flit by what it bears and by the one tap in use that it meets; then a fetch and an arm by the record, the store and
the filters by their instants. -/
theorem dieTapsAnswer : Obligations.DieTapsAnswer := by
  unfold Obligations.DieTapsAnswer
  refine ⟨?flits, ?records⟩
  case flits =>
    intro s t link dir payload g v f k on d e ts add
    have live : d.live = true := (State.tduAt_live s t).trans on
    have runs {tag : Option FlitTag} {z : Tdu} (hz : d.flit link dir tag payload = z) :
        exec (.tapFlit t link dir tag payload) s = .next (s.withTdu z) := exec_of_live rfl on hz
    clear_value d
    refine ⟨?untagged, fun hashed torn empty idle => ?torn,
      fun whole tapped empty one armed onLink inDir hits keyed => ?filter,
      fun hashed whole result own tapped one coll opened inst keyed idle => ?slot⟩
    case untagged => exact runs (Tdu.flit_of_untagged live)
    case torn => exact runs (Tdu.flit_torn_of_idle live hashed torn empty idle)
    case filter =>
      intro fs inRange
      exact runs (Tdu.flit_of_filter live whole tapped empty one armed onLink inDir hits keyed rfl inRange)
    case slot =>
      exact runs (Tdu.flit_of_slot live whole tapped one coll opened inst.symm result hashed own keyed idle)
  case records =>
    intro s t r f i p on d v c a g
    have live : d.live = true := (State.tduAt_live s t).trans on
    have runs {c : Instr} {f : Tdu → Tdu} {z : Tdu} (hc : exec c s = .next (s.onDie t f)) (hz : f d = z) :
        exec c s = .next (s.withTdu z) := exec_of_live hc on hz
    clear_value d
    refine ⟨fun ok fetch => ?fetch, fun ok arm free => ⟨fun unarmed closed => ?armed, fun busy => ?busy⟩, fun ok arm full => ?full,
      fun damaged => ?damaged, fun frozen due => ?thawed, fun due => ⟨fun armed => ?expired, fun opened => ?late, fun idle => ?idle⟩⟩
    case fetch => exact runs rfl (Tdu.surveyIn_of_fetch live ok rfl fetch)
    case armed => exact runs rfl (Tdu.surveyIn_arm_of_idle live ok rfl arm free rfl (not_or.mpr ⟨unarmed, closed⟩))
    case busy => exact runs rfl (Tdu.surveyIn_arm_of_busy live ok rfl arm free rfl busy)
    case full => exact runs rfl (Tdu.surveyIn_arm_of_full live ok rfl arm full)
    case damaged => exact runs rfl (Tdu.surveyIn_of_damaged live damaged)
    case thawed => exact runs rfl (Tdu.chunkThaw_of_due live frozen due)
    case expired => exact runs rfl ((Tdu.filterDeadline_of_due live rfl due).trans (by rw [if_pos armed]))
    case late => exact runs rfl ((Tdu.filterDeadline_of_due live rfl due).trans (by rw [if_neg (by rw [opened]; decide)]))
    case idle => exact runs rfl ((Tdu.filterDeadline_of_due live rfl due).trans (Tdu.closeFilter_of_idle idle _))

end

section
/-! ## Core cycles leave the die as it runs (R105 to R115, R348 to R357) -/

namespace Sys2Proof.Machine

theorem forIdx_keeps {α γ : Type} {n : Nat} {f : Nat → α → α} {p : α → γ} (keeps : ∀ i a, p (f i a) = p a) (a : α) :
    p (forIdx n f a) = p a :=
  forEach_keeps keeps (List.range n) a

/-! ### Registers -/

section
variable {f g : Fld} (d : Tdu)

@[simp] theorem Tdu.wr_live (h : f.tag ≠ Reg.TGEN_BOOT_STATE.tag) (v i : Nat) : (d.wr f v i).live = d.live := by
  rw [Tdu.live, Tdu.rd_wr_of_tag h.symm]
  rfl

@[simp] theorem Tdu.bump_live (h : f.tag ≠ Reg.TGEN_BOOT_STATE.tag) (i : Nat) : (d.bump f i).live = d.live := d.wr_live h _ i

@[simp] theorem Tdu.bumpBy_live (h : f.tag ≠ Reg.TGEN_BOOT_STATE.tag) (n i : Nat) : (d.bumpBy f n i).live = d.live := by
  unfold Tdu.bumpBy
  split
  · rfl
  · exact d.wr_live h _ i

@[simp] theorem Tdu.wr64_live (hf : f.tag ≠ Reg.TGEN_BOOT_STATE.tag) (hg : g.tag ≠ Reg.TGEN_BOOT_STATE.tag) (v i : Nat) :
    (d.wr64 f g v i).live = d.live := by
  rw [Tdu.wr64, Tdu.wr_live _ hg, Tdu.wr_live _ hf]

end

theorem Tdu.CountedTo.live {d e : Tdu} (h : d.CountedTo e) : e.live = d.live := by
  obtain ⟨_, _, rfl⟩ := h
  rfl

@[simp] theorem Tdu.count_live (d : Tdu) (i n : Nat) : (d.count i n).live = d.live := (d.countedTo_count i n).live

section
variable (d : Tdu)

@[simp] theorem Tdu.with_emit_live (e : EmitSt) : ({ d with emit := e } : Tdu).live = d.live := rfl

@[simp] theorem Tdu.with_cap_live (c : CaptureSt) : ({ d with cap := c } : Tdu).live = d.live := rfl

@[simp] theorem Tdu.with_trc_live (s : TraceSt) : ({ d with trc := s } : Tdu).live = d.live := rfl

end

/-! ### Interrupts -/

@[simp] theorem Tdu.interrupt_live (d : Tdu) (mask : Nat) : (d.interrupt mask).live = d.live := by
  unfold Tdu.interrupt
  split
  · rfl
  · split
    · rfl
    · rw [Tdu.bump_live _ (by decide), Tdu.wr_live _ (by decide)]

@[simp] theorem Tdu.drive_live (d d0 : Tdu) : (d.drive d0).live = d.live := by
  unfold Tdu.drive
  split <;> rfl

@[simp] theorem Tdu.raise_live (d : Tdu) (c : Nat) : (d.raise c).live = d.live := by
  have raised (v : Nat) : (d.wr Reg.TGEN_INTR_STAT v).live = d.live := d.wr_live (by decide) v 0
  rw [Tdu.raise, Tdu.drive_live]
  split
  · rw [Tdu.interrupt_live, raised]
  · exact raised _

/-! ### The trace -/

@[simp] theorem Tdu.setTrc_live (d : Tdu) (s : TraceSt) : (d.setTrc s).live = d.live := by
  rw [Tdu.setTrc, Tdu.wr64_live _ (by decide) (by decide), Tdu.wr_live _ (by decide), Tdu.with_trc_live]

/-- A packet is kept, lost, or takes the place of older ones: each sets the state of the trace and counts. -/
@[simp] theorem Tdu.putPkt_live (p : TPkt) (d : Tdu) : (d.putPkt p).live = d.live := by
  simp (disch := decide) only [Tdu.putPkt, apply_ite Tdu.live, Tdu.bump_live, Tdu.bumpBy_live, Tdu.setTrc_live, ite_self]

@[simp] theorem Tdu.forEach_putPkt_live (l : List TPkt) (d : Tdu) : (forEach l Tdu.putPkt d).live = d.live :=
  forEach_keeps (p := Tdu.live) Tdu.putPkt_live l d

@[simp] theorem Tdu.recover_live (d : Tdu) : d.recover.live = d.live := by
  unfold Tdu.recover
  split
  · simp only [apply_ite Tdu.live, Tdu.forEach_putPkt_live, Tdu.setTrc_live, ite_self]
  · rfl

@[simp] theorem Tdu.checkPost_live (d : Tdu) : d.checkPost.live = d.live := by
  unfold Tdu.checkPost
  split
  · rw [Tdu.wr_live _ (by decide), Tdu.putPkt_live]
  · rfl

@[simp] theorem Tdu.fireTrace_live (d : Tdu) : d.fireTrace.live = d.live := by
  unfold Tdu.fireTrace
  split
  · simp (disch := decide) only [Tdu.checkPost_live, Tdu.wr_live, Tdu.wr64_live, Tdu.with_trc_live, Tdu.putPkt_live,
      Tdu.forEach_putPkt_live, Tdu.setTrc_live, Tdu.recover_live]
  · exact d.bump_live (by decide) 0
  · exact d.bump_live (by decide) 0
  · rfl

@[simp] theorem Tdu.traceTrigger_live (d : Tdu) (src arg : Nat) : (d.traceTrigger src arg).live = d.live := by
  unfold Tdu.traceTrigger
  split
  · exact d.fireTrace_live
  · rfl

/-! ### The emission queues -/

@[simp] theorem Tdu.send_live (d : Tdu) (r : List Byte) : (d.send r).live = d.live := by
  unfold Tdu.send
  split <;> rfl

@[simp] theorem Tdu.serveUnsched_live (n : Nat) (d : Tdu) : (d.serveUnsched n).live = d.live := by
  induction n generalizing d with
  | zero => rfl
  | succ n ih =>
    unfold Tdu.serveUnsched
    split
    · simp only [apply_ite Tdu.live, ih, Tdu.send_live, Tdu.with_emit_live, ite_self]
    · rfl

@[simp] theorem Tdu.serveSched_live (n : Nat) (d : Tdu) : (d.serveSched n).live = d.live := by
  induction n generalizing d with
  | zero => rfl
  | succ n ih =>
    unfold Tdu.serveSched
    split
    · simp only [apply_ite Tdu.live, ih, Tdu.send_live, Tdu.with_emit_live, ite_self]
    · rfl

/-- What serves the record that its link cut off (R32). -/
def Tdu.serveResend (d : Tdu) : Tdu :=
  match d.emit.resend with
  | some r => if d.fitsNow r.length then { d with emit := { d.emit with resend := none } }.send r else d
  | none => d

/-- What serves the gap record behind it (R76). -/
def Tdu.serveGap (d : Tdu) : Tdu :=
  match d.emit.resend, d.emit.gap with
  | none, r :: rest => if d.fitsNow r.length then { d with emit := { d.emit with gap := rest } }.send r else d
  | _, _ => d

theorem Tdu.serveFirst_fst (d : Tdu) : d.serveFirst.1 = d.serveResend.serveGap := rfl

@[simp] theorem Tdu.serveFirst_live (d : Tdu) : d.serveFirst.1.live = d.live := by
  have resent : d.serveResend.live = d.live := by
    unfold Tdu.serveResend
    split
    · simp only [apply_ite Tdu.live, Tdu.send_live, Tdu.with_emit_live, ite_self]
    · rfl
  rw [Tdu.serveFirst_fst, ← resent]
  unfold Tdu.serveGap
  split
  · simp only [apply_ite Tdu.live, Tdu.send_live, Tdu.with_emit_live, ite_self]
  · rfl

@[simp] theorem Tdu.serveAll_live (d : Tdu) : d.serveAll.live = d.live := by
  have first := d.serveFirst_live
  unfold Tdu.serveAll
  split
  · rfl
  · split
    next e served => rwa [served] at first
    next e served =>
      rw [served] at first
      rw [Tdu.serveUnsched_live, Tdu.serveSched_live, first]

@[simp] theorem Tdu.queueUnsched_live (d : Tdu) (r : List Byte) : (d.queueUnsched r).live = d.live := by
  simp (disch := decide) only [Tdu.queueUnsched, apply_ite Tdu.live, Tdu.serveAll_live, Tdu.with_emit_live, Tdu.bump_live, ite_self]

@[simp] theorem Tdu.drainSamples_live (n : Nat) (d : Tdu) : (d.drainSamples n).live = d.live := by
  induction n generalizing d with
  | zero => rfl
  | succ n ih =>
    unfold Tdu.drainSamples
    split
    · rfl
    · simp only [apply_ite Tdu.live, ih, Tdu.queueUnsched_live, Tdu.with_cap_live, ite_self]

/-! ### The cycles -/

/-- An overflow counts, may raise its cause, and drops its sample or keeps it. -/
@[simp] theorem Tdu.overflow_live (d : Tdu) (k : Nat) (tp : TraceCycle) (next : List TraceCycle) :
    (d.overflow k tp next).live = d.live := by
  simp (disch := decide) only [Tdu.overflow, apply_ite Tdu.live, Tdu.bump_live, Tdu.raise_live, Tdu.drainSamples_live,
    Tdu.with_cap_live, ite_self]

@[simp] theorem Tdu.prgCount_live (d : Tdu) (k : Nat) (tp : TraceCycle) (next : List TraceCycle) :
    (d.prgCount k tp next).live = d.live := by
  simp only [Tdu.prgCount, apply_ite Tdu.live, Tdu.traceTrigger_live, Tdu.overflow_live, Tdu.count_live, ite_self]

@[simp] theorem Tdu.countFixed_live (d : Tdu) (c : CoreCycle) : (d.countFixed c).live = d.live := (d.countFixed_eq c).1.live

@[simp] theorem Tdu.endCycle_live (d : Tdu) (lines : BitVec 256) (c : CoreCycle) : (d.endCycle lines c).live = d.live := rfl

@[simp] theorem Tdu.coreCycle_live (d : Tdu) (c : CoreCycle) (next : List TraceCycle) : (d.coreCycle c next).live = d.live := by
  rw [Tdu.coreCycle_eq, Tdu.endCycle_live, forIdx_keeps (p := Tdu.live), Tdu.countFixed_live]
  intro j e
  rw [apply_ite Tdu.live, Tdu.prgCount_live, ite_self]

@[simp] theorem Tdu.coreCycles_live (after : List TraceCycle) (l : List CoreCycle) (d : Tdu) :
    (Tdu.coreCycles after l d).live = d.live := by
  induction l generalizing d with
  | nil => rfl
  | cons c l ih => rw [Tdu.coreCycles, ih, Tdu.coreCycle_live]

/-- Whatever the core does, the die that ran before its cycles runs after them. -/
@[simp] theorem Tdu.core_live (act : CoreAct) (d : Tdu) : (d.core act).live = d.live := by
  rw [Tdu.core, apply_ite Tdu.live, Tdu.coreCycles_live, ite_self]

end Sys2Proof.Machine

end

section
/-! ## Records that the die takes from its TRAY TAU (R280, R452, R455, R465 to R468) -/

namespace Sys2Proof.Machine

/-! ### Batches, keys and grants -/

/-- A record of a notice that more records are to complete, the next of its handle, with none held (R470). -/
theorem Tdu.underNid_of_next_part {d e : Tdu} {r : List Byte} {kind job epoch nseq effect : Nat} {act : Tdu → Nat × Tdu}
    (next : d.nidStand kind job epoch nseq = .next) (held : d.ctl.held = []) (acts : act d = (0, e)) :
    d.underNid r kind job epoch nseq effect false act = e := by
  have kept : ({ d with ctl := { d.ctl with held := d.ctl.held.filter (·.2 != r) } } : Tdu) = d := by
    rw [held, List.filter_nil, ← held]
  unfold Tdu.underNid
  dsimp only
  rw [kept, next]
  simp [Tdu.takeRecord, acts]

section
variable {d : Tdu} {r : List Byte} (live : d.live = true)
include live

section
variable (ok : ctlOk 0xB7 r = true) (length : r.length = 40 + 8 * fieldAt r 2 2) (nonempty : 1 ≤ fieldAt r 2 2)
  (fits : fieldAt r 2 2 ≤ 507)
include ok length nonempty fits

/-- A read answers with what its address reads (R466). -/
theorem Tdu.batchIn_of_read {addr v : Nat} {e : Tdu} (read : (fieldAt r 1 1).testBit 1 = true)
    (last : ((batchWrites r).getLast?.map (·.1)).getD 0 = addr) (reads : d.readWord .tau addr = (v, e)) :
    d.batchIn r = e.sendCtl (readResponse 0 addr v) := by
  rw [Tdu.batchIn, Tdu.ctlIn_of_live live (by simp [ok, length, nonempty, fits])]
  simp only [read, if_true, last, reads]

/-- A batch of no notice that passes its checks acts at once, and is answered (R466). -/
theorem Tdu.batchIn_of_write {addr : Nat} {e : Tdu} (write : (fieldAt r 1 1).testBit 1 = false) (noNotice : fieldAt r 20 4 = 0)
    (atOnce : fieldAt r 8 8 = 0) (last : ((batchWrites r).getLast?.map (·.1)).getD 0 = addr) (checked : d.batchCheck r = (0, e)) :
    d.batchIn r = (e.applyBatch r).sendCtl (readResponse 0 addr 0) := by
  rw [Tdu.batchIn, Tdu.ctlIn_of_live live (by simp [ok, length, nonempty, fits])]
  simp only [write, Bool.false_eq_true, if_false, last, noNotice, if_true, checked, atOnce, Tdu.atEffect]

end

/-- The key of a job that the die does not know starts it, and its notice awaits the batch that follows (R468, R470). -/
theorem Tdu.keyIn_of_unknown_job {job : Nat} {ret : List (Nat × Nat)} (ok : ctlOk 0xB9 r = true) (length : r.length = 40)
    (named : fieldAt r 4 2 = job) (next : d.nidStand 1 job (fieldAt r 8 4) (fieldAt r 12 4) = .next) (held : d.ctl.held = [])
    (unknown : d.job job = none) (room : d.keyJobs.length < 4) (atOnce : fieldAt r 24 8 = 0) :
    d.keyIn r ret =
      ({ d with jobs := ⟨job, [(0, fieldAt r 8 4)], d.per, none, ret⟩ :: d.jobs }).applyKey r := by
  subst named
  rw [Tdu.keyIn, Tdu.ctlIn_of_live live (by simp [ok, length])]
  simp only [unknown, Option.isSome_none, Bool.false_eq_true, if_false]
  refine Tdu.underNid_of_next_part next held ?_
  simp only [unknown, decide_eq_false (Nat.not_le.mpr room), Bool.and_false, Bool.false_eq_true, if_false, atOnce, Tdu.atEffect,
    if_true, Nat.zero_max]

section
variable (ok : ctlOk 0xB6 r = true) (length : r.length = 16)
include ok length

theorem Tdu.traceGrant_of_add (add : (fieldAt r 1 1).testBit 0 = false) :
    d.traceGrant r = d.bumpBy Reg.TTRC_GRANT (fieldAt r 4 4) := by
  rw [Tdu.traceGrant, Tdu.ctlIn_of_live live (by simp [ok, length])]
  simp only [add, Bool.false_eq_true, if_false]

theorem Tdu.traceGrant_of_set (set : (fieldAt r 1 1).testBit 0 = true) :
    d.traceGrant r = d.wr Reg.TTRC_GRANT (fieldAt r 4 4) := by
  rw [Tdu.traceGrant, Tdu.ctlIn_of_live live (by simp [ok, length])]
  simp only [set, if_true]

end

end

/-! ### Fragments of an image (R467) -/

section
variable (g : Gather)

/-- The payload of a collection up to a fragment, with that fragment. -/
def Gather.join (sofar : Option (List Byte)) (i : Nat) : Option (List Byte) :=
  match sofar, g.frags.find? (·.1 == i) with
  | some b, some f => some (b ++ f.2)
  | _, _ => none

theorem Gather.payload_eq : g.payload = (List.range g.nfrag).foldl g.join (some []) := rfl

theorem Gather.foldl_join_none (l : List Nat) : l.foldl g.join none = none := by
  induction l with
  | nil => rfl
  | cons i l ih => exact ih

variable {g}

/-- A collection that lacks a fragment has no payload yet. -/
theorem Gather.payload_of_missing {i : Nat} (named : i < g.nfrag) (missing : g.frags.find? (·.1 == i) = none) : g.payload = none := by
  obtain ⟨before, after, split⟩ := List.append_of_mem (List.mem_range.mpr named)
  have stops (sofar : Option (List Byte)) : g.join sofar i = none := by
    unfold Gather.join
    rw [missing]
    cases sofar <;> rfl
  rw [Gather.payload_eq, split, List.foldl_append, List.foldl_cons, stops, Gather.foldl_join_none]

variable {p : List Byte}

theorem Gather.payload_of_single (one : g.nfrag = 1) (held : g.frags = [(0, p)]) : g.payload = some p := by
  simp [Gather.payload_eq, one, Gather.join, held]

/-- One fragment of several is not all of them. -/
theorem Gather.payload_of_first {j : Nat} (several : 1 < g.nfrag) (held : g.frags = [(j, p)]) : g.payload = none := by
  refine Gather.payload_of_missing (i := if j = 0 then 1 else 0) (by split <;> omega) ?_
  rw [held]
  split
  next first => simp [first]
  next other => simp [other]

end

/-- The collection that a fragment begins. -/
def Gather.begun (r : List Byte) : Gather :=
  { Gather.of r with frags := [(fieldAt r 4 2, (r.drop 32).take (fieldAt r 2 2))] }

theorem fragOk_index_lt {r : List Byte} (ok : fragOk r = true) : fieldAt r 4 2 < fieldAt r 6 2 := by
  simp only [fragOk, Bool.and_eq_true, decide_eq_true_eq] at ok
  obtain ⟨⟨⟨⟨-, index⟩, -⟩, -⟩, -⟩ := ok
  exact index

/-! ### Microcode (R452, R455) -/

/-- A die that gathers its microcode, of which it holds `l`. -/
def Tdu.loading (d : Tdu) (l : List Gather) : Tdu :=
  let e := d.wr Reg.TGEN_BOOT_STATE 1
  { e with ctl := { e.ctl with gather := l } }

/-- A die whose microcode starts (R455). -/
def Tdu.started (d : Tdu) (ver : Nat) : Tdu :=
  ((d.wr Reg.TGEN_BOOT_STATE 2).wr Reg.TGEN_UCODE_VER ver).wr Reg.TTIME_TT_STATE_STATE 0

section
variable {d : Tdu} {r : List Byte}

section
variable (power : d.reachable = true) (ok : fragOk r = true) (ucode : fieldAt r 1 1 = 2) (rom : d.rd Reg.TGEN_BOOT_STATE = 0)
  (nothing : d.ctl.gather = [])
include power ok ucode rom nothing

/-- A die in ROM that gathers nothing begins a collection with the fragment, and judges it where it is whole (R467). -/
theorem Tdu.fragmentIn_of_first :
    d.fragmentIn r = (Gather.begun r).payload.elim (d.loading [Gather.begun r]) (d.loading []).microcodeIn := by
  have awake : (d.time.por && d.time.vdd && !d.time.gated) = true := power
  simp only [Tdu.fragmentIn, awake, ok, ucode, rom, Tdu.wr_ctl, nothing, List.find?_nil, Option.getD_none, List.filter_nil,
    List.contains_cons, beq_self_eq_true, Nat.reduceBNe, bne_self_eq_false, Bool.not_true, Bool.true_or, Bool.or_self,
    Bool.false_eq_true, if_false, if_true]
  split
  next unfinished => rw [show (Gather.begun r).payload = none from unfinished]; rfl
  next p whole => rw [show (Gather.begun r).payload = some p from whole]; rfl

/-- One fragment of several begins a collection. -/
theorem Tdu.fragmentIn_of_several (several : 1 < fieldAt r 6 2) : d.fragmentIn r = d.loading [Gather.begun r] := by
  rw [Tdu.fragmentIn_of_first power ok ucode rom nothing, Gather.payload_of_first several rfl, Option.elim_none]

/-- A fragment that is the whole of its image is judged at once. -/
theorem Tdu.fragmentIn_of_single (single : fieldAt r 6 2 = 1) :
    d.fragmentIn r = (d.loading []).microcodeIn ((r.drop 32).take (fieldAt r 2 2)) := by
  have first : fieldAt r 4 2 = 0 := by
    have := fragOk_index_lt ok
    omega
  rw [Tdu.fragmentIn_of_first power ok ucode rom nothing, Gather.payload_of_single single (by rw [Gather.begun, first]),
    Option.elim_some]

end

theorem Tdu.microcodeIn_of_good {p : List Byte} (type : fieldAt p 0 1 = 0x20) (length : fieldAt p 4 4 + 64 = p.length)
    (digest : sha384 (p.drop 64) = (p.drop 16).take 48) : d.microcodeIn p = d.started (fieldAt p 2 2) := by
  simp only [Tdu.microcodeIn, type, length, digest, ne_eq, not_true_eq_false, or_self, if_false, Tdu.started]

end

theorem leNat_lt (b : List Byte) : leNat b < 256 ^ b.length := by
  induction b with
  | nil => exact Nat.one_pos
  | cons a b ih =>
    have := a.isLt
    simp only [leNat, List.length_cons, Nat.pow_succ]
    omega

theorem fieldAt_lt (b : List Byte) (o w : Nat) : fieldAt b o w < 256 ^ w :=
  Nat.lt_of_lt_of_le (leNat_lt _) (Nat.pow_le_pow_right (by decide) (List.length_take_le _ _))

section
variable (d : Tdu) (l : List Gather) (ver : Nat)

theorem Tdu.started_boot : (d.started ver).rd Reg.TGEN_BOOT_STATE = 2 := by
  rw [Tdu.started, Tdu.rd_wr_of_tag (by decide), Tdu.rd_wr_of_tag (by decide), Tdu.rd_wr]
  rfl

theorem Tdu.started_version : (d.started ver).rd Reg.TGEN_UCODE_VER = ver % 2 ^ 16 := by
  rw [Tdu.started, Tdu.rd_wr_of_tag (by decide), Tdu.rd_wr]
  rfl

theorem Tdu.started_time : (d.started ver).rd Reg.TTIME_TT_STATE_STATE = 0 := by
  rw [Tdu.started, Tdu.rd_wr, Nat.zero_mod]

theorem Tdu.loading_boot : (d.loading l).rd Reg.TGEN_BOOT_STATE = 1 := Tdu.rd_wr d ..

/-- Every field keeps its value but those that show the microcode and the state of the time. -/
theorem Tdu.started_loading_rd {g : Fld} (boot : g.tag ≠ Reg.TGEN_BOOT_STATE.tag) (version : g.tag ≠ Reg.TGEN_UCODE_VER.tag)
    (time : g.tag ≠ Reg.TTIME_TT_STATE_STATE.tag) (i : Nat) : ((d.loading l).started ver).rd g i = d.rd g i := by
  rw [Tdu.started, Tdu.rd_wr_of_tag time, Tdu.rd_wr_of_tag version, Tdu.rd_wr_of_tag boot]
  exact Tdu.rd_wr_of_tag boot ..

end

/-- No page but TGEN and TTIME shows the microcode or the state of the time. -/
theorem engine_pages_show_no_boot : ∀ p ∈ [0x22, 0x23, 0x24, 0x25, 0x26, 0x27, 0x28, 0x29], ∀ g ∈ Reg.ofPage p,
    g.tag ≠ Reg.TGEN_BOOT_STATE.tag ∧ g.tag ≠ Reg.TGEN_UCODE_VER.tag ∧ g.tag ≠ Reg.TTIME_TT_STATE_STATE.tag := by
  decide +kernel

end Sys2Proof.Machine

open Sys2Proof Sys2Proof.Machine

/-- Settles O26: each record by its form, the batch after the core cycles, which leave the die as it runs; then a fragment of microcode
by whether it is the whole image. -/
theorem dieTakesItsRecords : Obligations.DieTakesItsRecords := by
  unfold Obligations.DieTakesItsRecords
  refine ⟨?records, ?microcode⟩
  case records =>
    intro s t r act ret e v on d b keys addr job
    have live : d.live = true := (State.tduAt_live s t).trans on
    have cycled : b.live = true := (Tdu.core_live act d).trans live
    have runs {c : Instr} {f : Tdu → Tdu} {z : Tdu} (hc : exec c s = .next (s.onDie t f)) (hz : f d = z) :
        exec c s = .next (s.withTdu z) := exec_of_live hc on hz
    have batches {z : Tdu} (hz : b.batchIn r = z) : exec (.tduWriteBatchRx t r act) s = .next (s.withTdu z) := runs rfl hz
    clear_value b d
    refine ⟨fun ok length nonempty fits => ⟨fun read reads => ?read, fun write noNotice atOnce checked => ?written⟩,
      fun ok length next held unknown room atOnce => ?key, fun ok length => ⟨fun add => ?added, fun set => ?set⟩⟩
    case read => exact batches (Tdu.batchIn_of_read cycled ok length nonempty fits read rfl reads)
    case written => exact batches (Tdu.batchIn_of_write cycled ok length nonempty fits write noNotice atOnce rfl checked)
    case key => exact runs rfl (Tdu.keyIn_of_unknown_job live ok length rfl next held unknown room atOnce)
    case added => exact runs rfl (Tdu.traceGrant_of_add live ok length add)
    case set => exact runs rfl (Tdu.traceGrant_of_set live ok length set)
  case microcode =>
    intro s t r power d p ok ucode rom nothing
    have reached : d.reachable = true := (Tdu.advance_reachable t s.tdu).trans power
    have runs {z : Tdu} (hz : d.fragmentIn r = z) : exec (.tduImageFragmentRx t r) s = .next (s.withTdu z) :=
      exec_of_onDie rfl (Tdu.por_of_reachable power) hz
    clear_value d
    refine ⟨fun single type length digest => ?starts, fun several => ?waits⟩
    case starts =>
      have good : (d.loading []).microcodeIn p = (d.loading []).started (fieldAt p 2 2) := Tdu.microcodeIn_of_good type length digest
      have version : fieldAt p 2 2 % 2 ^ 16 = fieldAt p 2 2 := Nat.mod_eq_of_lt (fieldAt_lt p 2 2)
      refine ⟨_, runs ((Tdu.fragmentIn_of_single reached ok ucode rom nothing single).trans good), Tdu.started_boot ..,
        (Tdu.started_version ..).trans version, Tdu.started_time .., rfl, fun q hq g hg i => ?_⟩
      obtain ⟨boot, ver, time⟩ := engine_pages_show_no_boot q hq g hg
      exact Tdu.started_loading_rd d [] (fieldAt p 2 2) boot ver time i
    case waits =>
      exact ⟨_, runs (Tdu.fragmentIn_of_several reached ok ucode rom nothing several), Tdu.loading_boot .., rfl⟩

end

section
/-! ## Dies before their attachment, and the proxied access (R307, R381, R453 to R456, R466, R473) -/

namespace Sys2Proof.Machine

/-! ### HELLO at the die (R453) -/

/-- With link A trained alone, one HELLO leaves, on that link. -/
theorem Tdu.sendHello_of_linkA {d : Tdu} (reached : d.reachable = true) (clock : d.time.clock = true) (waits : d.rd Reg.TGEN_BOOT_STATE ≠ 2)
    (linkA : (d.lnk 0).up = true) (linkB : (d.lnk 1).up = false) :
    d.sendHello = (d.bump Reg.TGEN_HELLO_CNT).emitOut (.vct 0 (d.hello 0)) := by
  have trained : (List.range 2).filter (fun l => (d.lnk l).up) = [0] := by simp [List.range_succ, linkA, linkB]
  rw [Tdu.sendHello, if_neg (by simp [reached, clock, waits]), trained]
  rfl

/-! ### What a record that goes down leaves alone -/

section
variable (x : Tau) (c : Nat)

@[simp] theorem Tau.vcNow_jobs : (x.vcNow c).jobs = x.jobs := by
  unfold Tau.vcNow
  split
  · simp only [Tau.vcCount, Tau.bumpBy]
    split <;> rfl
  · rfl

@[simp] theorem Tau.sendDown_jobs (r : List Byte) : (x.sendDown c r).jobs = x.jobs := by
  simp only [Tau.sendDown, apply_ite Tau.jobs, Tau.bump_jobs, Tau.vcNow_jobs, ite_self]

theorem Tau.vcNow_rd {g : Fld} (stall : g.tag ≠ Reg.SHP_VC_STALL_CNT.tag) (i s : Nat) : (x.vcNow c).rd g i s = x.rd g i s := by
  unfold Tau.vcNow
  split
  · simp only [Tau.vcCount, Tau.bumpBy]
    split
    · rfl
    · exact Tau.rd_wr_of_tag stall ..
  · rfl

/-- A record that goes down counts what VC_T waited and what found the FIFO full, and changes no other register. -/
theorem Tau.sendDown_rd {g : Fld} (stall : g.tag ≠ Reg.SHP_VC_STALL_CNT.tag) (full : g.tag ≠ Reg.SHP_DN_FULL_CNT.tag) (r : List Byte)
    (i s : Nat) : (x.sendDown c r).rd g i s = x.rd g i s := by
  have counted (b : Bool) (y : Tau) : (if b then y.bump Reg.SHP_DN_FULL_CNT else y).rd g i s = y.rd g i s := by
    cases b
    · rfl
    · exact Tau.rd_wr_of_tag full ..
  exact (counted ..).trans (x.vcNow_rd c stall i s)

/-- What each record that goes down leaves alone, an image that goes down leaves alone. -/
theorem Tau.sendImage_keeps {γ : Type} {p : Tau → γ} (keeps : ∀ (y : Tau) r, p (y.sendDown c r) = p y) (itype ver job epoch nseq : Nat)
    (b : List Byte) : p (x.sendImage c itype ver job epoch nseq b) = p x :=
  forEach_keeps (f := fun r (y : Tau) => y.sendDown c r) (fun r y => keeps y r) _ x

@[simp] theorem Tau.sendImage_jobs (itype ver job epoch nseq : Nat) (b : List Byte) :
    (x.sendImage c itype ver job epoch nseq b).jobs = x.jobs :=
  x.sendImage_keeps c (fun y r => y.sendDown_jobs c r) itype ver job epoch nseq b

end

/-! ### HELLO at the TAU (R453, R455) -/

section
variable {x : Tau} {d : Nat} {r : List Byte}

@[simp] theorem Tau.dieSlot_wr (x : Tau) (f : Fld) (v i s k : Nat) : (x.wr f v i s).dieSlot k = x.dieSlot k := rfl

theorem Tau.dieSlot_setDie_of_ne {k : Nat} (other : k ≠ d) (f : DieSlot → DieSlot) : (x.setDie d f).dieSlot k = x.dieSlot k :=
  getD_modifyAt_of_ne other.symm f x.boot.dies _

/-- A die index that the TAU does not have keeps nothing. -/
theorem Tau.dieSlot_setDie_self (x : Tau) (d : Nat) (f : DieSlot → DieSlot) :
    (x.setDie d f).dieSlot d = f (x.dieSlot d) ∨ (x.setDie d f).dieSlot d = x.dieSlot d := by
  obtain held | beyond : d < x.boot.dies.length ∨ x.boot.dies.length ≤ d := Nat.lt_or_ge ..
  · exact .inl (getD_modifyAt_self held f _)
  · right
    simp [Tau.dieSlot, Tau.setDie, modifyAt_eq_modify, beyond]

/-- No die has said its identity. -/
theorem Tau.dieSlot_ids_of_unknown (unknown : x.boot.dies.all (fun k => k.ids == [none, none]) = true) (k : Nat) :
    (x.dieSlot k).ids = [none, none] :=
  getD_of_forall_mem (p := fun s : DieSlot => s.ids = [none, none]) rfl (fun s hs => by simpa using List.all_eq_true.mp unknown s hs) k

theorem getD_pair_none (i : Nat) : ([none, none] : List (Option Nat)).getD i none = none := getD_none_of_all_none (by simp) i

/-- Link A of a die tells the identity of the die. -/
def Tau.idOnLinkA (x : Tau) (d id : Nat) : Tau := x.setDie d fun s => { s with ids := modifyAt (fun _ => some id) 0 s.ids }

/-- Link B of the die that has told its identity on link A has told none yet. -/
theorem Tau.idOnLinkA_linkB (unknown : x.boot.dies.all (fun k => k.ids == [none, none]) = true) (d id : Nat) :
    ((x.idOnLinkA d id).dieSlot d).ids.getD 1 none = none := by
  obtain told | same := x.dieSlot_setDie_self d fun s => { s with ids := modifyAt (fun _ => some id) 0 s.ids }
  · rw [Tau.idOnLinkA, told, Tau.dieSlot_ids_of_unknown unknown]
    rfl
  · rw [Tau.idOnLinkA, same, Tau.dieSlot_ids_of_unknown unknown]
    rfl

/-- No link of another die has told the identity that this one tells. -/
theorem Tau.idOnLinkA_others (unknown : x.boot.dies.all (fun k => k.ids == [none, none]) = true) (d id : Nat) :
    ((List.range 32).find? fun k => k % 16 != d && ((x.idOnLinkA d id).dieSlot (k % 16)).ids.getD (k / 16) none == some id) = none := by
  refine List.find?_eq_none.mpr fun k _ told => ?_
  obtain ⟨other, same⟩ : k % 16 ≠ d ∧ ((x.idOnLinkA d id).dieSlot (k % 16)).ids.getD (k / 16) none = some id := by simpa using told
  rw [Tau.idOnLinkA, Tau.dieSlot_setDie_of_ne other, Tau.dieSlot_ids_of_unknown unknown, getD_pair_none] at same
  cases same

/-- What the TAU shows of a die once its HELLO has come on link A: its identity, its release, its lifecycle state and its links. -/
def Tau.helloNoted (x : Tau) (d : Nat) (r : List Byte) : Tau :=
  (((x.idOnLinkA d (fieldAt r 4 8)).wr Reg.GEN_TDU_STATE_REL (fieldAt r 2 1) d).wr Reg.GEN_TDU_STATE_LC (fieldAt r 3 1) d).showLinks d

/-- The HELLO of a die in ROM, the first to tell its identity, restarts the die and gets it the microcode. -/
theorem Tau.helloIn_of_rom (linkA : d < 16) (ok : ctlOk 0xB0 r = true) (length : r.length = 32) (tray : x.isTray = true)
    (unknown : x.boot.dies.all (fun k => k.ids == [none, none]) = true) (rom : fieldAt r 1 1 = 0) :
    x.helloIn d r = ((x.helloNoted d r).dieRestart d).startUcode d := by
  have die : d % 16 = d := Nat.mod_eq_of_lt linkA
  have side : d / 16 = 0 := Nat.div_eq_of_lt linkA
  have twin := Tau.idOnLinkA_linkB unknown d (fieldAt r 4 8)
  have others := Tau.idOnLinkA_others unknown d (fieldAt r 4 8)
  simp only [Tau.idOnLinkA] at twin others
  simp [-List.getD_eq_getElem?_getD, Tau.helloIn, Tau.helloNoted, Tau.idOnLinkA, ok, length, tray, die, side, twin, others, rom]

/-- What is left of a die that was not attached and that no access was for, when it restarts. -/
def Tau.dieInRom (x : Tau) (d : Nat) : Tau :=
  (x.setDie d fun s => { s with held := [], rejoin := [], counted := false, again := [] }).wr Reg.GEN_TDU_STATE_STATE 1 d

theorem Tau.dieRestart_of_unattached (away : (x.kid d).isNone = true) (idle : x.boot.acc = none) : x.dieRestart d = x.dieInRom d := by
  simp [Tau.dieRestart, Tau.dieInRom, Option.isNone_iff_eq_none.mp away, idle]

/-- A die that the microcode goes to shows LOADING, and the other fields of its TDU_STATE as they stood. -/
theorem Tau.startUcode_of_held {p : List Byte} (held : x.lib.ucode = some p) (d : Nat) : (x.startUcode d).rd Reg.GEN_TDU_STATE_STATE d = 2 ∧
    ∀ g : Fld, g.tag ≠ Reg.GEN_TDU_STATE_STATE.tag → g.tag ≠ Reg.SHP_VC_STALL_CNT.tag → g.tag ≠ Reg.SHP_DN_FULL_CNT.tag →
      ∀ i s, (x.startUcode d).rd g i s = x.rd g i s := by
  have started : x.startUcode d = (x.sendImage d 2 (x.imgVer 2 0) 0xFFFF 0 0 p).wr Reg.GEN_TDU_STATE_STATE 2 d := by
    simp only [Tau.startUcode, held]
  rw [started]
  refine ⟨Tau.rd_wr .., fun g state stall full i s => ?_⟩
  exact (Tau.rd_wr_of_tag state ..).trans
    (x.sendImage_keeps d (p := fun y : Tau => y.rd g i s) (fun y r => y.sendDown_rd d stall full r i s) _ _ _ _ _ p)

theorem Tau.helloNoted_rel (x : Tau) (d : Nat) (r : List Byte) : (x.helloNoted d r).rd Reg.GEN_TDU_STATE_REL d = fieldAt r 2 1 := by
  rw [Tau.helloNoted, Tau.showLinks, Tau.rd_wr_of_tag (by decide), Tau.rd_wr_of_tag (by decide), Tau.rd_wr]
  exact Nat.mod_eq_of_lt (fieldAt_lt r 2 1)

theorem Tau.helloNoted_lc (x : Tau) (d : Nat) (r : List Byte) : (x.helloNoted d r).rd Reg.GEN_TDU_STATE_LC d = fieldAt r 3 1 % 8 := by
  rw [Tau.helloNoted, Tau.showLinks, Tau.rd_wr_of_tag (by decide), Tau.rd_wr]
  rfl

/-- A die in ROM that says HELLO for the first time shows LOADING, its release and its lifecycle state. -/
theorem Tau.helloIn_shows {p : List Byte} (linkA : d < 16) (ok : ctlOk 0xB0 r = true) (length : r.length = 32) (tray : x.isTray = true)
    (unknown : x.boot.dies.all (fun k => k.ids == [none, none]) = true) (rom : fieldAt r 1 1 = 0) (away : (x.kid d).isNone = true)
    (idle : x.boot.acc = none) (held : x.lib.ucode = some p) :
    (x.helloIn d r).rd Reg.GEN_TDU_STATE_STATE d = 2 ∧ (x.helloIn d r).rd Reg.GEN_TDU_STATE_REL d = fieldAt r 2 1 ∧
      (x.helloIn d r).rd Reg.GEN_TDU_STATE_LC d = fieldAt r 3 1 % 8 := by
  have restarted : (x.helloNoted d r).dieRestart d = (x.helloNoted d r).dieInRom d := Tau.dieRestart_of_unattached away idle
  rw [Tau.helloIn_of_rom linkA ok length tray unknown rom, restarted]
  obtain ⟨loading, others⟩ := Tau.startUcode_of_held (x := (x.helloNoted d r).dieInRom d) held d
  refine ⟨loading, ?_, ?_⟩
  · rw [others _ (by decide) (by decide) (by decide)]
    exact (Tau.rd_wr_of_tag (by decide) ..).trans (x.helloNoted_rel d r)
  · rw [others _ (by decide) (by decide) (by decide)]
    exact (Tau.rd_wr_of_tag (by decide) ..).trans (x.helloNoted_lc d r)

end

/-- A child that is not attached has no meter (R310). -/
theorem Tau.metered_of_unattached {x : Tau} {c : Nat} (away : (x.kid c).isNone = true) (len : Nat) (f : Tau → Bool → Tau) :
    x.metered c len f = f x false := if_pos away

/-- A HELLO that arrives on link `l`: its credit goes back, and a section that has not failed takes it past the meter of its die. -/
def Tau.helloTaken (x : Tau) (l : Nat) (r : List Byte) : Tau :=
  let y := x.vcReturn l r.length
  if y.dead (y.linkHome l) then y else y.metered (l % 16) r.length fun z _ => z.helloIn l r

theorem Tau.vcReturn_dead (x : Tau) (l n k : Nat) :
    (x.vcReturn l n).dead ((x.vcReturn l n).linkHome k) = x.dead (x.linkHome k) := rfl

theorem Tau.helloTaken_of_unattached {x : Tau} {d : Nat} (linkA : d < 16) (away : (x.kid d).isNone = true)
    (alive : x.dead (x.linkHome d) = false) (r : List Byte) : x.helloTaken d r = (x.vcReturn d r.length).helloIn d r := by
  rw [← x.vcReturn_dead d r.length d] at alive
  rw [Tau.helloTaken, alive, if_neg Bool.false_ne_true, Nat.mod_eq_of_lt linkA]
  exact Tau.metered_of_unattached (x := x.vcReturn d r.length) away ..

/-- The first HELLO of a die in ROM, once taken, shows LOADING, the die's release and its lifecycle state. -/
theorem Tau.helloTaken_shows {x : Tau} {d : Nat} {r p : List Byte} (linkA : d < 16) (ok : ctlOk 0xB0 r = true) (length : r.length = 32)
    (tray : x.isTray = true) (away : (x.kid d).isNone = true) (alive : x.dead (x.linkHome d) = false)
    (unknown : x.boot.dies.all (fun k => k.ids == [none, none]) = true) (rom : fieldAt r 1 1 = 0) (held : x.lib.ucode = some p)
    (idle : x.boot.acc = none) :
    (x.helloTaken d r).rd Reg.GEN_TDU_STATE_STATE d = 2 ∧ (x.helloTaken d r).rd Reg.GEN_TDU_STATE_REL d = fieldAt r 2 1 ∧
      (x.helloTaken d r).rd Reg.GEN_TDU_STATE_LC d = fieldAt r 3 1 % 8 := by
  rw [Tau.helloTaken_of_unattached linkA away alive]
  exact Tau.helloIn_shows linkA ok length tray unknown rom away idle held

/-! ### The microcode (R452) -/

section
variable {x : Tau} {i : Image}

/-- Verification counts its outcome, and changes no other register. -/
theorem Tau.verify_rd {g : Fld} (ok : g.tag ≠ Reg.CIP_SIG_OK_CNT.tag) (fail : g.tag ≠ Reg.CIP_SIG_FAIL_CNT.tag) (slots : List Nat)
    (j s : Nat) : (x.verify slots i).1.rd g j s = x.rd g j s := by
  unfold Tau.verify
  split
  · exact Tau.rd_wr_of_tag ok ..
  · exact Tau.rd_wr_of_tag fail ..

theorem Tau.wr_isTray {f : Fld} (set : Reg.GEN_ROLE_CFG_SET.tag ≠ f.tag) (role : Reg.GEN_ROLE_CFG_ROLE.tag ≠ f.tag) (v j s : Nat) :
    (x.wr f v j s).isTray = x.isTray := by
  simp only [Tau.isTray, Tau.roleSet, Tau.role, Tau.rd_wr_of_tag set, Tau.rd_wr_of_tag role]

theorem Tau.verify_isTray (slots : List Nat) : (x.verify slots i).1.isTray = x.isTray := by
  unfold Tau.verify
  split <;> exact Tau.wr_isTray (by decide) (by decide) ..

/-- The TAU keeps an image of microcode and its version. -/
def Tau.keepUcode (x : Tau) (i : Image) : Tau :=
  { x with lib := { x.lib with
    ucode := some i.payload
    vers := (2, 0, i.ver) :: x.lib.vers.filter (·.1 != 2) } }

/-- UCODE_LOAD at a TAU that is no TRAY, of a well-formed image, by its signatures: it is kept, or refused and counted. -/
theorem Tau.ucodeLoad_of_formed {v : Nat} {b : List Byte} (go : v.testBit 0 = true) (read : Image.read [2] b = some i)
    (tray : x.isTray = false) (nonempty : fieldAt i.payload 4 4 ≠ 0) (fits : fieldAt i.payload 4 4 ≤ 262144)
    (length : i.payload.length = 64 + fieldAt i.payload 4 4) (flag : fieldAt i.payload 1 1 = 0)
    (reserved : allZero ((i.payload.drop 8).take 8) = true) :
    x.ucodeLoad v b = if (x.verify [0] i).2
      then (((x.verify [0] i).1.keepUcode i).wr Reg.GEN_UCODE_STAT_CODE Code.done).wr Reg.GEN_UCODE_STAT_VER (fieldAt i.payload 2 2)
      else ((x.verify [0] i).1.wr Reg.GEN_UCODE_STAT_CODE Code.signature).bump Reg.GEN_LOAD_REFUSED_CNT := by
  have stays := (Tau.verify_isTray (x := x) (i := i) [0]).trans tray
  cases verified : x.verify [0] i with
  | mk y good =>
    rw [verified] at stays
    cases good with
    | false => simp [Tau.ucodeLoad, go, read, verified]
    | true =>
      have elsewhere : (((y.keepUcode i).wr Reg.GEN_UCODE_STAT_CODE Code.done).wr Reg.GEN_UCODE_STAT_VER
          (fieldAt i.payload 2 2)).isTray = false :=
        ((Tau.wr_isTray (by decide) (by decide) ..).trans (Tau.wr_isTray (by decide) (by decide) ..)).trans stays
      simp only [Tau.keepUcode] at elsewhere
      simp [Tau.ucodeLoad, Tau.keepUcode, go, read, verified, nonempty, Nat.not_lt.mpr fits, length, flag, reserved, elsewhere]

end

/-! ### Attachment (R455, R456) -/

section
variable {x : Tau} {d : Nat} {tt : Timetable}

@[simp] theorem Tau.dieMeter_jobs (x : Tau) (d rate : Nat) : (x.dieMeter d rate).jobs = x.jobs := by
  unfold Tau.dieMeter
  split <;> rfl

@[simp] theorem Tau.giveConsists_jobs (x : Tau) (d : Nat) (cs : List Nat) : (x.giveConsists d cs).jobs = x.jobs := rfl

@[simp] theorem Tau.addKid_jobs (x : Tau) (c : Nat) (k : Kid) (base span : Nat) (adopted : Bool) :
    (x.addKid c k base span adopted).jobs = x.jobs := by
  simp only [Tau.addKid, Tau.lvAttach, Tau.meterFill, Tau.setKid, Tau.wr_jobs]

theorem Tau.sendConsists_jobs (d : Nat) (cs : List Consist) (x : Tau) :
    (cs.foldl (fun y c => y.sendImage d 3 (y.imgVer 3 c.id) 0xFFFF 0 0 c.payload) x).jobs = x.jobs := by
  induction cs generalizing x with
  | nil => rfl
  | cons c cs ih => exact (ih _).trans (x.sendImage_jobs d 3 _ _ _ _ c.payload)

@[simp] theorem Tau.attachDie_jobs (x : Tau) (d : Nat) (tt : Timetable) : (x.attachDie d tt).jobs = x.jobs := by
  simp only [Tau.attachDie, Tau.wr_jobs, Tau.addKid_jobs, Tau.dieMeter_jobs, Tau.sendDown_jobs, Tau.giveConsists_jobs,
    Tau.sendConsists_jobs]

/-- A die that runs, LOCKED, within the TAU's span attaches; with no job there is none for it to join. -/
theorem Tau.dieRuns_of_running (runs : x.rd Reg.GEN_TDU_STATE_STATE d = 3) (base : x.baseTt = some tt) (tray : x.isTray = true)
    (parent : x.parent.isSome = true) (timed : x.unset = false) (ranked : d < x.rd Reg.SCB_RANK_SPAN) (jobless : x.jobs = []) :
    x.dieRuns d true = x.attachDie d tt := by
  have parented : x.parent.isNone = false := by simpa using parent
  have unjoined : (x.attachDie d tt).dieJobs d = [] := by simp [Tau.dieJobs, jobless]
  simp [Tau.dieRuns, runs, base, tray, parented, timed, Nat.not_le.mpr ranked, unjoined]

end

/-! ### The proxied access (R307, R466, R473) -/

section
variable {x : Tau} {d : Nat} {r : List Byte}

/-- The access to a die is in flight, and shows BUSY. -/
def Tau.accessBegun (x : Tau) (d : Nat) (write : Bool) : Tau :=
  (({ x with boot := { x.boot with acc := some (d, x.rd Reg.GEN_TDU_ACC_ADDR, write) } }).wr Reg.GEN_TDU_ACC_STAT_CODE Code.busy).wr
    Reg.GEN_TDU_ACC_STAT_VALID 0

theorem Tau.tduAccess_of_attached {v : Nat} {y : Tau} (go : v.testBit 31 = true) (idle : x.boot.acc = none)
    (attached : x.rd Reg.GEN_TDU_STATE_STATE (bits v 0 4) = 4) (begun : x.accessBegun (bits v 0 4) (v.testBit 4) = y) :
    x.tduAccess v =
      y.sendDown (bits v 0 4) (accessBatch (v.testBit 4) (x.rd Reg.GEN_TDU_ACC_ADDR) (y.rd Reg.GEN_TDU_ACC_DATA)) := by
  subst begun
  simp [Tau.tduAccess, Tau.accessBegun, go, idle, attached]

/-- The answer of the die to the read in flight gives the word read and the result. -/
theorem Tau.tduResponse_of_read (ok : ctlOk 0xBB r = true) (length : r.length = 24) (tray : x.isTray = true)
    (reading : x.boot.acc = some (d, fieldAt r 4 4, false)) (done : fieldAt r 1 1 = 0) :
    x.tduResponse d r = (x.wr Reg.GEN_TDU_ACC_DATA (fieldAt r 8 4)).accessDone Code.done := by
  simp [Tau.tduResponse, ok, length, tray, reading, done, Code.done]

/-- The credits of a record that a die sends go back on the link on which it came (R307). -/
theorem Tau.vcFrom_of_link {l : Nat} {ls : List Nat} (tray : x.isTray = true) (links : x.dieLinks d = l :: ls) (n : Nat) :
    x.vcFrom d n = x.emitOut (.credit l (ceilDiv n 64)) := by
  simp [Tau.vcFrom, tray, links, Tau.vcReturn]

/-- A record of a child that is not attached, and whose parsers take it, is not metered. -/
theorem Tau.fromKid_of_unattached (taken : x.kidLost d = false) (away : (x.kid d).isNone = true) (len : Nat) (f : Tau → Bool → Tau) :
    x.fromKid d len f = f x false := by
  rw [Tau.fromKid, taken, if_neg Bool.false_ne_true, Tau.metered_of_unattached away]

end

/-- A read response of die `d` that arrives: its credits go back, and the die's parsers take it past its meter. -/
def Tau.responseTaken (x : Tau) (d : Nat) (r : List Byte) : Tau :=
  (x.vcFrom d r.length).fromKid d r.length fun y _ => y.tduResponse d r

theorem Tau.responseTaken_of_read {x : Tau} {d l : Nat} {ls : List Nat} {r : List Byte} (ok : ctlOk 0xBB r = true)
    (length : r.length = 24) (tray : x.isTray = true) (away : (x.kid d).isNone = true) (links : x.dieLinks d = l :: ls)
    (taken : x.kidLost d = false) (reading : x.boot.acc = some (d, fieldAt r 4 4, false)) (done : fieldAt r 1 1 = 0) :
    x.responseTaken d r =
      ((x.emitOut (.credit l (ceilDiv r.length 64))).wr Reg.GEN_TDU_ACC_DATA (fieldAt r 8 4)).accessDone Code.done := by
  rw [Tau.responseTaken, Tau.vcFrom_of_link tray links,
    Tau.fromKid_of_unattached (x := x.emitOut (.credit l (ceilDiv r.length 64))) taken away]
  exact Tau.tduResponse_of_read ok length tray reading done

/-! ### A grant (R381, R473) -/

/-- IMG_LOAD of a grant judges it, counts it where it is refused, and shows the result. -/
theorem Tau.imgLoad_of_grant {x : Tau} {v : Nat} {b : List Byte} {i : Image} (go : v.testBit 0 = true)
    (read : Image.read [8, 9, 10] b = some i) (grant : i.type = 8) :
    x.imgLoad v b = (if (x.takeGrant i).2 = Code.done then (x.takeGrant i).1
      else (x.takeGrant i).1.bump Reg.CIP_GRANT_REF_CNT).imgDone 8 (x.takeGrant i).2 := by
  simp [Tau.imgLoad, go, read, grant]

end Sys2Proof.Machine

open Sys2Proof Sys2Proof.Machine

/-- Settles O28: HELLO as it is sent and as it is taken, the microcode by its signatures, attachment; then the access, its answer and a
grant, each by what stands in its registers. -/
theorem diesAttachAndAreReached : Obligations.DiesAttachAndAreReached := by
  unfold Obligations.DiesAttachAndAreReached
  refine ⟨?attachment, ?access⟩
  case attachment =>
    intro s t port v link die mem r i tt p x d
    refine ⟨fun reached clock waits linkA linkB => ?sent, fun on ok length tray linkA away alive unknown rom held idle => ?taken,
      fun on go read tray nonempty fits length flag reserved => ?microcode,
      fun on runs base tray parent timed ranked jobless => ?attaches⟩
    case sent =>
      have awake : d.reachable = true := (Tdu.advance_reachable t s.tdu).trans reached
      exact exec_of_onDie rfl (Tdu.por_of_reachable reached) (Tdu.sendHello_of_linkA awake clock waits linkA linkB)
    case taken =>
      have taken : exec (.helloRx t link r) s = .next (s.withTau (x.helloTaken link r)) := exec_of_onMain rfl on rfl
      clear_value x
      exact ⟨_, taken, Tau.helloTaken_shows linkA ok length tray away alive unknown rom held idle⟩
    case microcode =>
      have fed : x.on = true := State.tauAt_on_of_on on
      exact exec_of_tauWrite rfl on ((Tau.write_ucodeLoad fed port v.toNat _).trans
        (Tau.ucodeLoad_of_formed go read tray nonempty fits length flag reserved))
    case attaches => exact exec_of_onMain rfl on (Tau.dieRuns_of_running runs base tray parent timed ranked jobless)
  case access =>
    intro s t port v die mem r i l ls on x n a
    have fed : x.on = true := State.tauAt_on_of_on on
    refine ⟨fun go idle attached => ?begun, fun ok length tray away links taken reading done => ?answered,
      fun go read grant => ?granted⟩
    case begun =>
      exact exec_of_tauWrite rfl on ((Tau.write_tduAccess fed port v.toNat _).trans (Tau.tduAccess_of_attached go idle attached rfl))
    case answered =>
      have answered {z : Tau} (hz : x.responseTaken die r = z) : exec (.tduReadResponseRx t die r) s = .next (s.withTau z) :=
        exec_of_onMain rfl on hz
      clear_value x
      exact answered (Tau.responseTaken_of_read ok length tray away links taken reading done)
    case granted => exact exec_of_tauWrite rfl on ((Tau.write_imgLoad fed port v.toNat _).trans (Tau.imgLoad_of_grant go read grant))

end

section
/-! ## The management ports and the long-haul frames' timer (R323 to R325, R335, R345, R378) -/

namespace Sys2Proof.Machine

/-! ### What the copies of a FREEZE change (R345) -/

/-- Registers, rings, the use of HBM, interrupts and outputs may differ, and nothing else of the TAU. -/
def Tau.CopiedTo (x y : Tau) : Prop :=
  ∃ regs rings eg used out, y = { x with regs := regs, rings := rings, eg := eg, intrUsed := used, out := out }

section
variable {x y z : Tau}

theorem Tau.CopiedTo.refl (x : Tau) : x.CopiedTo x := ⟨_, _, _, _, _, rfl⟩

theorem Tau.CopiedTo.trans (h : x.CopiedTo y) (h' : y.CopiedTo z) : x.CopiedTo z := by
  obtain ⟨_, _, _, _, _, rfl⟩ := h
  obtain ⟨regs, rings, eg, used, out, rfl⟩ := h'
  exact ⟨regs, rings, eg, used, out, rfl⟩

theorem Tau.CopiedTo.main (h : x.CopiedTo y) : y.main = x.main := by
  obtain ⟨_, _, _, _, _, rfl⟩ := h
  rfl

end

section
variable (x : Tau) (g : Nat)

theorem Tau.copiedTo_setRing (f : Ring → Ring) : x.CopiedTo (x.setRing g f) := ⟨_, _, _, _, _, rfl⟩

theorem Tau.copiedTo_putCopy (z : Freeze) (o : Nat) (b : List Byte) : x.CopiedTo (x.putCopy z o b) := ⟨_, _, _, _, _, rfl⟩

theorem Tau.copiedTo_setFrz (sec isl : Fld) (v : Nat) : x.CopiedTo (x.setFrz g sec isl v) := by
  unfold Tau.setFrz
  split <;> exact ⟨_, _, _, _, _, rfl⟩

theorem Tau.copiedTo_interrupt (mask : Nat) : x.CopiedTo (x.interrupt mask) := by
  unfold Tau.interrupt
  split
  · exact .refl x
  · split <;> exact ⟨_, _, _, _, _, rfl⟩

theorem Tau.copiedTo_raise (c : Nat) : x.CopiedTo (x.raise c) := by
  have shown : x.CopiedTo (x.wr Reg.GEN_INTR_STAT (Nat.lor (x.rd Reg.GEN_INTR_STAT) (2 ^ c))) := ⟨_, _, _, _, _, rfl⟩
  simp only [Tau.raise]
  split
  · exact shown.trans (Tau.copiedTo_interrupt _ _)
  · exact shown

theorem Tau.copiedTo_hbmCharge (c n : Nat) : x.CopiedTo (x.hbmCharge g c n).1 := by
  unfold Tau.hbmCharge
  split <;> exact ⟨_, _, _, _, _, rfl⟩

theorem Tau.copiedTo_freezeDone (code nrec : Nat) : x.CopiedTo (x.freezeDone g code nrec) := by
  have ended : x.CopiedTo (x.freezeEnd g) := (Tau.copiedTo_setRing ..).trans (Tau.copiedTo_setFrz ..)
  have coded : x.CopiedTo ((x.freezeEnd g).frzCode g code) := ended.trans (Tau.copiedTo_setFrz ..)
  exact ((coded.trans (Tau.copiedTo_setFrz ..)).trans (Tau.copiedTo_setFrz ..)).trans (Tau.copiedTo_raise _ 1)

end

theorem Tau.copiedTo_copyRecs (x : Tau) (g upTo n : Nat) : x.CopiedTo (x.copyRecs g upTo n) := by
  induction n generalizing x with
  | zero => exact .refl x
  | succ n ih =>
    unfold Tau.copyRecs
    split
    next z r _ _ =>
      split
      · exact .refl x
      · have charged : x.CopiedTo (if z.dest = 0 then x.hbmCharge g 2 r.bytes.length else (x, true)).1 := by
          split
          · exact x.copiedTo_hbmCharge g 2 r.bytes.length
          · exact .refl x
        split
        next y refused =>
          rw [refused] at charged
          exact (charged.trans (Tau.copiedTo_putCopy ..)).trans (Tau.copiedTo_freezeDone ..)
        next y granted =>
          rw [granted] at charged
          exact ((charged.trans (Tau.copiedTo_putCopy ..)).trans (Tau.copiedTo_setRing ..)).trans (ih _)
    next => exact .refl x

theorem Tau.copiedTo_freezeStep (x : Tau) : x.CopiedTo x.freezeStep := by
  unfold Tau.freezeStep forIdx
  refine List.foldlRecOn (motive := fun y : Tau => x.CopiedTo y) (List.range 4) _ (.refl x) fun y sofar g _ => ?_
  dsimp only
  split
  · split
    · exact sofar
    · exact sofar.trans (y.copiedTo_copyRecs _ _ _)
  · exact sofar

@[simp] theorem State.tauAt_main (s : State) (t : T64) : (s.tauAt t).main = s.tau.main :=
  (Tau.copiedTo_freezeStep _).main.trans (Tau.advance_main t s.tau)

/-! ### Datagrams to CMD_PORT (R324, R325) -/

section
variable {x y z : Tau} {port : Fin 2} {src sport dup : Nat} {env p : List Byte} {h : EnvHead} {m : Reads}

theorem Tau.mgmtDatagram_of_down (down : x.portUp port = false) : x.mgmtDatagram port src sport env dup m = x :=
  if_pos (by simp [down])

theorem Tau.mgmtDatagram_of_unopened (up : x.portUp port = true) (unopened : x.openMgmt dup env = (y, none)) :
    x.mgmtDatagram port src sport env dup m = y.bump Reg.MGMT_CMD_REF_CNT := by
  simp [Tau.mgmtDatagram, up, unopened]

/-- A command that opens, in a lifecycle state that takes commands and with the island free, is counted, run and answered. -/
theorem Tau.mgmtDatagram_of_opened {code : Nat} {ws : List Nat} (up : x.portUp port = true) (opened : x.openMgmt dup env = (y, some (h, p)))
    (fresh : y.lc ≠ 0) (returned : y.lc ≠ 4) (free : (y.bump Reg.MGMT_CMD_CNT).mnt.islBusy = false)
    (ran : (y.bump Reg.MGMT_CMD_CNT).runCommand (.mgmt port) h.sender p m = (z, code, ws)) :
    x.mgmtDatagram port src sport env dup m = z.reply port src sport (cmdReply p code ws) := by
  simp only [Tau.mgmtDatagram, up, opened, fresh, returned, free, ran]
  simp

end

section
variable {c z : Tau} {port : Port} {sender : Nat} {p : List Byte} {m : Reads}

theorem Tau.runCommand_of_misformed (form : commandOk p = false) : c.runCommand port sender p m = (c, Code.fit, []) := by
  simp [Tau.runCommand, form]

variable (form : commandOk p = true)
include form

theorem Tau.runCommand_of_rails_down (rails : c.main = false) (reach : railsReach (fieldAt p 8 4) (fieldAt p 2 2) = false) :
    c.runCommand port sender p m = (c.bump Reg.MGMT_CMD_RAILS_CNT, Code.busy, []) := by
  simp [Tau.runCommand, form, rails, reach]

theorem Tau.runCommand_of_write {code : Nat} (rails : c.main = true) (write : fieldAt p 0 2 = 2)
    (written : (c.record 4 2 7 0x0F01 (leBytes 4 (fieldAt p 8 4) ++ leBytes 4 (fieldAt p 16 4) ++ leBytes 4 sender ++
      leBytes 4 (fieldAt p 4 4))).regWrite port (fieldAt p 8 4) 4 (fieldAt p 16 4) m = (z, code)) :
    c.runCommand port sender p m = (z, code, []) := by
  simp only [Tau.runCommand, form, rails, write, written]
  simp

theorem Tau.runCommand_of_read {ws : List Nat} (rails : c.main = true) (read : fieldAt p 0 2 ≠ 2)
    (words : c.readWords port (fieldAt p 8 4) (fieldAt p 2 2) = (ws, z)) : c.runCommand port sender p m = (z, Code.done, ws) := by
  simp [Tau.runCommand, form, rails, read, words]

/-- A READ names one word. -/
theorem count_of_read (read : fieldAt p 0 2 = 1) : fieldAt p 2 2 = 1 := by
  simp only [commandOk, read, Bool.and_eq_true, beq_iff_eq] at form
  exact form.2

end

theorem Tau.readWords_one {c z : Tau} {port : Port} {a w : Nat} (word : c.readWord port a = (w, z)) :
    c.readWords port a 1 = ([w], z) := by
  simp [Tau.readWords, word]

/-! ### Neighbor Discovery (R323) -/

section
variable {x : Tau} {port addr src target i : Nat} {adv : Bool}

@[simp] theorem Tau.nbrHeard_fuses (x : Tau) (port addr : Nat) (confirms : Bool) : (x.nbrHeard port addr confirms).fuses = x.fuses := by
  unfold Tau.nbrHeard
  split
  · split <;> rfl
  · exact forEach_keeps (f := fun p (y : Tau) => y.emitTo port addr p) (p := Tau.fuses) (fun _ _ => rfl) _ _

/-- The address of the block that a message names, where it is one of the port's. -/
def Tau.ownNamed (x : Tau) (port target : Nat) : Option Nat := [2 * port, 2 * port + 1].find? fun i => x.ownAddr i == some target

/-- The advertisement of an address, with its flags, as it leaves a port. -/
def Tau.advertBytes (x : Tau) (port flags target : Nat) : List Byte :=
  leBytes 1 136 ++ leBytes 1 0 ++ leBytes 1 flags ++ zeros 3 ++ (leBytes 16 target).reverse ++ [2, 1] ++ (leBytes 6 (x.portMac port)).reverse

section
variable (other : x.ownNamed port target = none)
include other

theorem Tau.neighbor_of_neighbor_advertised (enabled : (x.rd Reg.MGMT_PORT_CFG_EN).testBit port = true) :
    x.neighbor port src target true = x.nbrHeard port target true := by
  simp only [Tau.ownNamed] at other
  simp [Tau.neighbor, other, enabled]

theorem Tau.neighbor_of_not_own (ignored : adv = false ∨ (x.rd Reg.MGMT_PORT_CFG_EN).testBit port = false) :
    x.neighbor port src target adv = x := by
  simp only [Tau.ownNamed] at other
  obtain rfl | disabled := ignored
  · simp [Tau.neighbor, other]
  · simp [Tau.neighbor, other, disabled]

end

section
variable (own : x.ownNamed port target = some i)
include own

theorem Tau.neighbor_of_duplicate_tentative (tentative : x.tentative i = true) (taken : adv = true ∨ src = 0) :
    x.neighbor port src target adv = x.setDad i { x.dadOf i with dup := true } := by
  simp only [Tau.ownNamed] at own
  simp [Tau.neighbor, own, tentative, taken]

theorem Tau.neighbor_of_solicited_tentative (tentative : x.tentative i = true) (addressed : src ≠ 0) :
    x.neighbor port src target false = x := by
  simp only [Tau.ownNamed] at own
  simp [Tau.neighbor, own, tentative, addressed]

theorem Tau.neighbor_of_settled (settled : x.tentative i = false) (silent : adv = true ∨ (x.dadOf i).dup = true) :
    x.neighbor port src target adv = x := by
  simp only [Tau.ownNamed] at own
  simp [Tau.neighbor, own, settled, silent]

/-- A solicitation is answered once its sender's own address is learned. -/
theorem Tau.neighbor_of_solicited (settled : x.tentative i = false) (single : (x.dadOf i).dup = false) (addressed : src ≠ 0) :
    x.neighbor port src target false = (x.nbrHeard port src false).mgmtSend port src 0 0 (x.advertBytes port 0x60 target) := by
  simp only [Tau.ownNamed] at own
  simp [Tau.neighbor, own, settled, single, addressed, Tau.advertise, Tau.advertBytes, Tau.portMac]

/-- A solicitation from the unspecified address is answered to all nodes. -/
theorem Tau.neighbor_of_solicited_unaddressed (settled : x.tentative i = false) (single : (x.dadOf i).dup = false) :
    x.neighbor port 0 target false = x.mgmtSend port (0xFF02 * 2 ^ 112 + 1) 0 0 (x.advertBytes port 0x20 target) := by
  simp only [Tau.ownNamed] at own
  simp [Tau.neighbor, own, settled, single, Tau.advertise, Tau.advertBytes]

end

end

theorem Tau.echoRequest_of_down {x : Tau} {port : Nat} (down : x.portUp port = false) (src : Nat) (r : List Byte) :
    x.echoRequest port src r = x :=
  if_pos (by simp [down])

/-! ### Frames (R378) -/

/-- The one frame that waits is sealed once its wait has run out. -/
theorem Tau.sealDue_of_one {x : Tau} {f : Frame} {port : Nat} (one : x.cip.frames = [f]) (here : f.port = port)
    (due : f.at_ + x.rd Reg.CIP_FRAME_WAIT ≤ x.now) (dup : Nat) :
    x.sealDue port dup = (x.dupAwait (x.lhEngine port) dup).sealFrame 0 f := by
  simp [Tau.sealDue, one, here, due]

/-! ### Frames that a port does not support (R323, R386) -/

/-- The TAU after a frame that `port` does not support: the upsets await the next message, and an enabled port counts it. -/
def Tau.discarded (x : Tau) (port dup : Nat) : Tau :=
  let y := x.dupAwait 4 dup
  if (y.rd Reg.MGMT_PORT_CFG_EN).testBit port then y.bump Reg.MGMT_RX_DROP_CNT else y

theorem Tau.dupAwait_rd (x : Tau) (e n : Nat) (f : Fld) (i s : Nat) : (x.dupAwait e n).rd f i s = x.rd f i s := by
  unfold Tau.dupAwait
  split <;> rfl

theorem Tau.discarded_of_enabled {x : Tau} {port : Nat} (enabled : (x.rd Reg.MGMT_PORT_CFG_EN).testBit port = true) (dup : Nat) :
    x.discarded port dup = (x.dupAwait 4 dup).bump Reg.MGMT_RX_DROP_CNT := by
  simp [Tau.discarded, Tau.dupAwait_rd, enabled]

end Sys2Proof.Machine

open Sys2Proof Sys2Proof.Machine

/-- Settles O55: a datagram by whether it opens and by its command, then pings, then Neighbor Discovery by whose address a message names
and whether it is tentative, then the port that is down and the frame. -/
theorem managementAnswers : Obligations.ManagementAnswers := by
  unfold Obligations.ManagementAnswers
  intro s t port src target sport env p r m h y z w ws code i adv lhp dup f fed x c a logged answer mac own advert
  have runs {k : Instr} {g : Tau → Tau} {u : Tau} (hc : exec k s = .next (s.onIsland t g)) (hu : g x = u) :
      exec k s = .next (s.withTau u) := exec_of_onIsland hc fed hu
  have rails : x.main = true → s.tau.on = true := fun main => by
    simp [Tau.on, fed, (State.tauAt_main s t).symm.trans main]
  have seals {u : Tau} (main : x.main = true) (hu : (x.sealDue lhp dup).cipherGuard = u) :
      exec (.frameSealTimeout t lhp dup) s = .next (s.withTau u) := exec_of_onMain rfl (rails main) hu
  clear_value x
  refine ⟨fun up unopened => ⟨?unread, ?unheard⟩, fun enabled => ?unsupported, fun up opened fresh returned free => ⟨fun form => ?misformed,
      fun form main reach => ?railsDown, fun form main read word => ?read, fun form main block words => ?block,
      fun form main write written => ?write⟩, ?ping, fun named => ⟨fun settled single => ⟨fun addressed => ?solicited, fun unaddressed => ?probed⟩,
      fun tentative taken => ?duplicate, fun tentative asked addressed => ?waiting, fun settled silent => ?silent⟩,
    fun other => ⟨fun advertised enabled => ?learned, fun ignored => ?ignored⟩, fun down => ⟨?dropped, ?unanswered⟩,
    fun main one here due => ?frame⟩
  case unread => exact runs rfl (Tau.mgmtDatagram_of_unopened up unopened)
  case unheard => exact runs rfl (Tau.mgmtDatagram_of_unopened up unopened)
  case unsupported => exact runs rfl (Tau.discarded_of_enabled enabled dup)
  case misformed =>
    exact runs rfl (Tau.mgmtDatagram_of_opened up opened fresh returned free (Tau.runCommand_of_misformed form))
  case railsDown =>
    exact runs rfl (Tau.mgmtDatagram_of_opened up opened fresh returned free (Tau.runCommand_of_rails_down form main reach))
  case read =>
    have words : c.readWords (.mgmt port) a (fieldAt p 2 2) = ([w], z) := by rw [count_of_read form read, Tau.readWords_one word]
    exact runs rfl (Tau.mgmtDatagram_of_opened up opened fresh returned free (Tau.runCommand_of_read form main (by simp [read]) words))
  case block =>
    exact runs rfl (Tau.mgmtDatagram_of_opened up opened fresh returned free (Tau.runCommand_of_read form main (by simp [block]) words))
  case write =>
    exact runs rfl (Tau.mgmtDatagram_of_opened up opened fresh returned free (Tau.runCommand_of_write form main write written))
  case ping => exact runs rfl rfl
  case solicited => exact runs rfl (Tau.neighbor_of_solicited named settled single addressed)
  case probed =>
    refine runs rfl ?_
    rw [unaddressed]
    exact Tau.neighbor_of_solicited_unaddressed named settled single
  case duplicate => exact runs rfl (Tau.neighbor_of_duplicate_tentative named tentative taken)
  case waiting =>
    subst asked
    exact runs rfl (Tau.neighbor_of_solicited_tentative named tentative addressed)
  case silent => exact runs rfl (Tau.neighbor_of_settled named settled silent)
  case learned =>
    subst advertised
    exact runs rfl (Tau.neighbor_of_neighbor_advertised other enabled)
  case ignored => exact runs rfl (Tau.neighbor_of_not_own other ignored)
  case dropped => exact runs rfl (Tau.mgmtDatagram_of_down down)
  case unanswered => exact runs rfl (Tau.echoRequest_of_down down ..)
  case frame => exact seals main (congrArg Tau.cipherGuard (Tau.sealDue_of_one one here due dup))

end

section
/-! ## A step of the machine -/

open Sys2Proof Sys2Proof.Machine

/-- Settles O1, by the two cases of the queue. -/
theorem stepRunsFrontCommand : Obligations.StepRunsFrontCommand :=
  ⟨fun _ _ => rfl, fun s empty => by rw [step, empty]⟩

/-- Settles O6, from the frame of a command: what is left of the queue was in it before. -/
theorem stepKeepsQueueWf : Obligations.StepKeepsQueueWf := by
  intro s s' wf ran
  cases queue : s.pending with
  | nil =>
    rw [step, queue] at ran
    cases ran
    exact wf
  | cons c rest =>
    rw [step, queue] at ran
    obtain ⟨s₁, next, pending, -⟩ := exec_frame c { s with pending := rest }
    cases ran.symm.trans next
    intro k waits
    rw [pending] at waits
    exact wf k (queue ▸ List.mem_cons_of_mem c waits)

/-- Settles O17, from the clause of O13 about masked writes, taken twice. -/
theorem maskedWritesKeepOtherBits : Obligations.MaskedWritesKeepOtherBits := by
  intro r f i s v w n msk low narrow hn hold one two after
  have field (u : Nat) : (bits u f.lsb f.width).testBit n = u.testBit n := by simp [testBit_bits, hn, low]
  have writes (r : RegFile) (u : Nat) (hold : r.get f i s < 2 ^ f.width) :
      ((r.writeField u s false (f, i)).get f i s).testBit n =
        if u.testBit (n + 16) then u.testBit n else (r.get f i s).testBit n := by
    obtain ⟨-, -, -, -, masked, -⟩ := writeActsByAccessCode r f i s u hold
    rw [masked msk narrow n hn, field]
  have held : one.get f i s < 2 ^ f.width := by
    rw [show one = _ from r.writeField_msk (fi := (f, i)) v s msk false, RegFile.get_put]
    exact Nat.mod_lt _ (Nat.two_pow_pos _)
  have first : (one.get f i s).testBit n = after := writes r v hold
  exact ⟨first, by rw [writes one w held, first]⟩

end

section
/-! ## Debug authorisations (R354) -/

namespace Sys2Proof.Machine

section
variable {d : Tdu} {a : DebugAuth}

theorem Tdu.startAuth_of_due (held : d.trc.auth = some a) (granted : d.rd Reg.TTRC_AUTH_STATE = 1) (timed : d.timed = true)
    (begun : a.notBefore ≤ d.now) (unexpired : d.now < a.notAfter) : d.startAuth = d.wr Reg.TTRC_AUTH_STATE 2 := by
  simp only [Tdu.startAuth, held, granted, timed, begun, unexpired, and_self, if_true]

theorem Tdu.endAuth_of_idle_trace (active : d.rd Reg.TTRC_AUTH_STATE = 2) (idle : d.tracing = false) :
    d.endAuth = d.wr Reg.TTRC_AUTH_STATE 3 := by
  have still : (d.wr Reg.TTRC_AUTH_STATE 3).tracing = false := by
    rwa [Tdu.tracing, Tdu.rd_wr_of_tag (by decide)]
  simp [Tdu.endAuth, active, still]

theorem Tdu.expireAuth_of_past (held : d.trc.auth = some a) (past : a.notAfter ≤ d.now) : d.expireAuth = d.endAuth := by
  simp only [Tdu.expireAuth, held, past, if_true]

end

end Sys2Proof.Machine

open Sys2Proof Sys2Proof.Machine

/-- Settles O37: the three events find the die running, and with no trace under way no excluded code is marked at the end. -/
theorem authorisationsStartAndEnd : Obligations.AuthorisationsStartAndEnd := by
  intro s t port v a live d
  have runs : d.live = true := (State.tduAt_live s t).trans live
  refine ⟨fun held granted timed begun unexpired => ?_, fun held past active idle => ?_, fun revoked _ active idle => ?_⟩
  · exact exec_of_live rfl live ((if_pos runs).trans (Tdu.startAuth_of_due held granted timed begun unexpired))
  · refine exec_of_live rfl live ((if_pos runs).trans ?_)
    rw [Tdu.expireAuth_of_past held past, Tdu.endAuth_of_idle_trace active idle]
  · refine exec_of_live rfl live ?_
    change d.writeField Reg.TTRC_AUTH_REVOKE 0 port v.toNat = _
    rw [Tdu.write_authRevoke (Tdu.reachable_of_live runs), if_pos revoked]
    exact Tdu.endAuth_of_idle_trace active idle

end

section
/-! ## Strobes (R435, R436) -/

namespace Sys2Proof.Machine

@[simp] theorem Tau.commitGroups_zero (x : Tau) : x.commitGroups 0 = x := by
  simp [Tau.commitGroups]

@[simp] theorem Tdu.commitGroups_zero (d : Tdu) : d.commitGroups 0 = d := by
  simp [Tdu.commitGroups]

/-- With no scheduled commit in the way no group is refused. -/
theorem Tau.strobe_of_none_scheduled {x : Tau} (free : x.scMask = 0) (m : Nat) (now : Bool) :
    x.strobe m now = (x.wr Reg.GEN_UPD_PEND (Nat.lor (x.rd Reg.GEN_UPD_PEND)
      (m - if now then Nat.land m tauImmediate else 0))).commitGroups (if now then Nat.land m tauImmediate else 0) := by
  simp [Tau.strobe, free, forEach]

theorem Tdu.strobe_of_none_scheduled {d : Tdu} (free : schedMask d.emit.sc = 0) (m : Nat) (now : Bool) :
    d.strobe m now = (d.wr Reg.TGEN_UPD_PEND (Nat.lor (d.rd Reg.TGEN_UPD_PEND)
      (m - if now then Nat.land m dieImmediate else 0))).commitGroups (if now then Nat.land m dieImmediate else 0) := by
  simp [Tdu.strobe, Tdu.frozen, free, forEach]

end Sys2Proof.Machine

open Sys2Proof Sys2Proof.Machine

/-- Settles O42: the write of UPD_STROBE is its command alone, which refuses no group, and a commit of no group changes nothing. -/
theorem strobesPendOrCommit : Obligations.StrobesPendOrCommit := by
  intro s t port v act x d m
  refine ⟨fun on free => ?_, fun por reached free => ?_⟩
  · have writes {y : Tau} (hy : x.strobe m (v.toNat.testBit 16) = y) :
        exec (.updateStrobe t .tau port v act) s = .next (s.withTau y) :=
      exec_of_onIsland rfl (Tau.islPg_of_on on) ((Tau.write_updateStrobe ((State.tauAt_on s t).trans on) ..).trans hy)
    refine ⟨fun later => writes ?_, fun now => writes ?_⟩
    · simp [Tau.strobe_of_none_scheduled free, later]
    · simp [Tau.strobe_of_none_scheduled free, now]
  · have writes {e : Tdu} (he : d.strobe m (v.toNat.testBit 16) = e) :
        exec (.updateStrobe t .tdu port v act) s = .next (s.withTdu e) :=
      exec_of_onDie rfl por ((Tdu.write_strobe reached ..).trans he)
    refine ⟨fun later => writes ?_, fun now => writes ?_⟩
    · simp [Tdu.strobe_of_none_scheduled free, later]
    · simp [Tdu.strobe_of_none_scheduled free, now]

end

section
/-! ## The shadow view (R430, R431) -/

namespace Sys2Proof.Machine

/-- A word lies in the shadow view of the TAU at the same place as in the normal view, 8 MiB above it. -/
theorem tauAddr_shadow {a : Nat} (normal : a < 0x800000) :
    tauAddr (a + 0x800000) = (tauAddr a).map fun (p, s, o, _) => (p, s, o, true) := by
  have same : (a + 0x800000) % 0x800000 = a % 0x800000 := Nat.add_mod_right ..
  simp only [tauAddr, same, if_neg (show ¬ 0x1000000 ≤ a + 0x800000 by omega), if_neg (show ¬ 0x1000000 ≤ a by omega),
    show 0x800000 ≤ a + 0x800000 by omega, decide_true]
  split
  · rfl
  · split <;> rfl

/-- A word lies in the shadow view of the TDU at the same place as in the normal view, 128 KiB above it. -/
theorem dieAddr_shadow {a : Nat} (normal : a < 0x20000) :
    dieAddr (a + 0x20000) = (dieAddr a).map fun (p, o, _) => (p, o, true) := by
  have same : (a + 0x20000) % 0x20000 = a % 0x20000 := Nat.add_mod_right ..
  simp only [dieAddr, same, show a + 0x20000 < 0x40000 by omega, show a < 0x40000 by omega, true_and,
    show 0x20000 ≤ a + 0x20000 by omega, decide_true]
  split <;> rfl

theorem Tau.regWrite_shadow {a : Nat} (normal : a < 0x800000) (x : Tau) (port : Port) (len v : Nat) (m : Reads) :
    x.regWrite port (a + 0x800000) len v m = x.regWrite port a len v m := by
  have aligned : (a + 0x800000) % 4 = a % 4 := by omega
  simp only [Tau.regWrite, aligned, tauAddr_shadow normal]
  cases tauAddr a <;> rfl

theorem Tdu.regWrite_shadow {a : Nat} (normal : a < 0x20000) (d : Tdu) (port : Port) (len v : Nat) :
    d.regWrite port (a + 0x20000) len v = d.regWrite port a len v := by
  have aligned : (a + 0x20000) % 4 = a % 4 := by omega
  simp only [Tdu.regWrite, aligned, dieAddr_shadow normal]
  cases dieAddr a <;> rfl

/-! ### What a word of RWS fields reads -/

theorem mem_ofPage_of_wordFields {p o : Nat} {fi : Fld × Nat} (h : fi ∈ wordFields p o) : fi.1 ∈ Reg.ofPage p := by
  obtain ⟨f, mem, inst⟩ := List.mem_filterMap.mp h
  obtain ⟨i, -, rfl⟩ := Option.map_eq_some_iff.mp inst
  exact mem

/-- The ids of the header fields, which every page shares (R433). -/
def headerId (n : Nat) : Bool := decide (939 ≤ n) && decide (n ≤ 964)

theorem functional_has_no_headerId (p : Nat) : ∀ f ∈ Reg.functional p, headerId f.id = false := by
  unfold Reg.functional
  split
  case h_27 => simp
  all_goals decide +kernel

theorem headers_are_not_rws (p : Nat) : ∀ f ∈ Reg.hdrFields p, f.acc ≠ .rws := by
  simp [Reg.hdrFields, Reg.PG_ID_PAGE, Reg.PG_ID_PVER, Reg.PG_ID_REV, Reg.PG_ID_BLOCK, Reg.PG_CAP_SECTION, Reg.PG_CAP_ISLAND,
    Reg.PG_CAP_SHADOWED, Reg.PG_STATUS_SAFE, Reg.PG_STATUS_LOCKED, Reg.PG_STATUS_SHADOW_DIFF, Reg.PG_STATUS_SCHED,
    Reg.PG_STATUS_SECTION_OUT, Reg.PG_ERR_CFG_PARITY, Reg.PG_ERR_RANGE, Reg.PG_ERR_FROZEN, Reg.PG_ERR_LOCK_WR, Reg.PG_ERR_HOST_WR,
    Reg.PG_ERR_CNT_CLR, Reg.PG_ERR_CNT, Reg.PG_ERR_MASK, Reg.PG_STROBE_GRP, Reg.PG_LOCK, Reg.PG_PARITY_FIRST, Reg.PG_PARITY_CNT,
    Reg.PG_PARITY_INJECT, Reg.PG_SCRATCH, Fld.one]

theorem functional_of_rws {p : Nat} {f : Fld} (mem : f ∈ Reg.ofPage p) (rws : f.acc = .rws) : f ∈ Reg.functional p :=
  (List.mem_append.mp mem).resolve_left fun header => headers_are_not_rws p f header rws

section
variable {f : Fld} (inner : headerId f.id = false)
include inner

theorem ite_of_not_header {α : Type} {n : Nat} [Decidable (f.id = n)] {a b c : α} (header : headerId n = true) (rest : b = c) :
    (if f.id = n then a else b) = c :=
  (if_neg fun e => by simp [← e, inner] at header).trans rest

theorem Tau.headerView_of_not_header (x : Tau) (s : Nat) : x.headerView s f = none := by
  unfold Tau.headerView
  iterate 12 refine ite_of_not_header inner rfl ?_
  rfl

theorem Tdu.headerView_of_not_header (d : Tdu) : d.headerView f = none := by
  unfold Tdu.headerView
  iterate 11 refine ite_of_not_header inner rfl ?_
  rfl

end

theorem rws_are_no_dieViews (p : Nat) : ∀ f ∈ Reg.functional p, f.acc = .rws →
    ((dieViewsA ++ dieViewsB ++ dieViewsC).find? fun v => v.1.id == f.id).isNone = true := by
  unfold Reg.functional
  split
  case h_27 => simp
  all_goals decide +kernel


theorem Tau.view_shadow {p : Nat} {f : Fld} (mem : f ∈ Reg.ofPage p) (rws : f.acc = .rws) (x : Tau) (sec i : Nat) :
    x.view true sec f i = x.regs.getShadow f i sec := by
  simp [Tau.view, Tau.headerView_of_not_header (functional_has_no_headerId p f (functional_of_rws mem rws)), rws]

theorem Tdu.view_shadow {p : Nat} {f : Fld} (mem : f ∈ Reg.ofPage p) (rws : f.acc = .rws) (d : Tdu) (i : Nat) :
    d.view true f i = d.regs.getShadow f i 0 := by
  have inner := functional_of_rws mem rws
  have stored : (dieViewsA ++ dieViewsB ++ dieViewsC).find? (fun v => v.1.id == f.id) = none :=
    Option.isNone_iff_eq_none.mp (rws_are_no_dieViews p f inner rws)
  simp only [Tdu.view, Tdu.headerView_of_not_header (functional_has_no_headerId p f inner), stored, rws]
  rfl

/-- A word's value is made of what its fields read. -/
theorem wordValue_congr {p o : Nat} {g h : Fld → Nat → Nat} (same : ∀ fi ∈ wordFields p o, g fi.1 fi.2 = h fi.1 fi.2) :
    wordValue p o g = wordValue p o h := by
  unfold wordValue
  exact List.foldl_ext _ _ 0 fun n fi mem => by rw [same fi mem]

/-- The windows of the recorder are no RWS fields (R363). -/
theorem winRing_of_rws {p o : Nat} (fields : wordFields p o ≠ []) (rws : ∀ fi ∈ wordFields p o, fi.1.acc = .rws) (sec : Nat) :
    winRing p sec o = none := by
  obtain ⟨fi, mem⟩ := List.exists_mem_of_ne_nil _ fields
  have ofSection : ∀ fi ∈ wordFields 0x9 Reg.REC_WIN_DATA.off, fi.1.acc ≠ .rws := by decide +kernel
  have island : ∀ fi ∈ wordFields 0xF Reg.MGMT_I_WIN_DATA.off, fi.1.acc ≠ .rws := by decide +kernel
  rw [winRing, if_neg, if_neg]
  · rintro ⟨rfl, rfl⟩
    exact island fi mem (rws fi mem)
  · rintro ⟨rfl, rfl⟩
    exact ofSection fi mem (rws fi mem)

theorem Tau.readWord_live {x : Tau} {port : Port} {a p sec o : Nat} {sh : Bool} (aligned : a % 4 = 0) (place : tauAddr a = some (p, sec, o, sh))
    (window : winRing p sec o = none) (unlatched : x.regs.latched port (a % 0x800000) = none) :
    (x.readWord port a).1 = wordValue p o (x.view sh sec) := by
  have word : a / 4 * 4 = a := by omega
  simp only [Tau.readWord, word, place, window, unlatched, Option.getD_none]
  split <;> rfl

theorem Tdu.readWord_live {d : Tdu} {port : Port} {a p o : Nat} {sh : Bool} (aligned : a % 4 = 0) (place : dieAddr a = some (p, o, sh))
    (unlatched : d.regs.latched port (a % 0x20000) = none) : (d.readWord port a).1 = wordValue p o (d.view sh) := by
  have word : a / 4 * 4 = a := by omega
  have offset : (p - 0x20) * 4096 + o = a % 0x20000 := by
    simp only [dieAddr] at place
    split at place
    · cases place
      omega
    · cases place
  simp only [Tdu.readWord, word, place, offset, unlatched, Option.getD_none]
  split <;> rfl

end Sys2Proof.Machine

open Sys2Proof Sys2Proof.Machine

/-- Settles O15: the two views name the same words, and no RWS field is a header field, a view of other state or a window. -/
theorem shadowViewWrites : Obligations.ShadowViewWrites := by
  refine ⟨fun x port a len v m normal => x.regWrite_shadow normal port len v m,
    fun d port a len v normal => d.regWrite_shadow normal port len v,
    fun x port a p sec o aligned shadow fields rws unlatched => ?_, fun d port a p o aligned shadow fields rws unlatched => ?_⟩
  · rw [Tau.readWord_live aligned shadow (winRing_of_rws fields rws sec) unlatched]
    exact wordValue_congr fun fi mem => Tau.view_shadow (mem_ofPage_of_wordFields mem) (rws fi mem) x sec fi.2
  · rw [Tdu.readWord_live aligned shadow unlatched]
    exact wordValue_congr fun fi mem => Tdu.view_shadow (mem_ofPage_of_wordFields mem) (rws fi mem) d fi.2

end

section
/-! ## A whole read of FT (R431) -/

namespace Sys2Proof.Machine

theorem tauAddr_ftLow : tauAddr 0x1044 = some (0x1, 0, 0x44, false) := by decide +kernel

theorem dieAddr_ftLow : dieAddr 0x1044 = some (0x21, 0x44, false) := by decide +kernel

theorem wordFields_ft : wordFields 0x1 0x44 = [(Reg.TIME_FT_LO, 0)] ∧ wordFields 0x1 0x48 = [(Reg.TIME_FT_HI, 0)] ∧
    wordFields 0x21 0x44 = [(Reg.TTIME_FT_LO, 0)] ∧ wordFields 0x21 0x48 = [(Reg.TTIME_FT_HI, 0)] := by decide +kernel

theorem latches_ftLow : latches 0x1 0x44 = true ∧ latches 0x21 0x44 = true := by decide +kernel

/-- A word that is one field of 32 bits reads that field. -/
theorem wordValue_of_single {p o : Nat} {f : Fld} (word : wordFields p o = [(f, 0)]) (low : f.lsb = 0) (val : Fld → Nat → Nat) :
    wordValue p o val = val f 0 % 2 ^ f.width := by
  simp [wordValue, word, low]

theorem Tau.view_ft (x : Tau) :
    x.view false 0 Reg.TIME_FT_LO 0 = x.now % 2 ^ 32 ∧ x.view false 0 Reg.TIME_FT_HI 0 = x.now / 2 ^ 32 := ⟨rfl, rfl⟩

theorem Tdu.view_ft (d : Tdu) :
    d.view false Reg.TTIME_FT_LO 0 = d.now % 2 ^ 32 ∧ d.view false Reg.TTIME_FT_HI 0 = d.now / 2 ^ 32 := ⟨rfl, rfl⟩

theorem ftHigh_fits (t : T64) : t.toNat / 2 ^ 32 % 2 ^ 32 = t.toNat / 2 ^ 32 := by
  have := t.isLt
  omega

theorem Tau.readWord_ftLow (x : Tau) (port : Port) :
    x.readWord port 0x1044 = (x.now % 2 ^ 32, { x with regs := x.regs.setLatch port 0x1048 (x.now / 2 ^ 32) }) := by
  obtain ⟨low, high, -, -⟩ := wordFields_ft
  have lo := wordValue_of_single low rfl (x.view false 0)
  have hi := wordValue_of_single high rfl (x.view false 0)
  obtain ⟨viewLo, viewHi⟩ := x.view_ft
  rw [viewLo] at lo
  rw [viewHi] at hi
  rw [show Reg.TIME_FT_LO.width = 32 from rfl, Nat.mod_mod] at lo
  rw [show Reg.TIME_FT_HI.width = 32 from rfl, show x.now / 2 ^ 32 % 2 ^ 32 = x.now / 2 ^ 32 from ftHigh_fits x.ft] at hi
  simp only [Tau.readWord, show 0x1044 / 4 * 4 = 0x1044 from rfl, tauAddr_ftLow, show winRing 0x1 0 0x44 = none from rfl,
    latches_ftLow.1, if_true, lo, hi]

theorem Tdu.readWord_ftLow (d : Tdu) (port : Port) :
    d.readWord port 0x1044 = (d.now % 2 ^ 32, { d with regs := d.regs.setLatch port 0x1048 (d.now / 2 ^ 32) }) := by
  obtain ⟨-, -, low, high⟩ := wordFields_ft
  have lo := wordValue_of_single low rfl (d.view false)
  have hi := wordValue_of_single high rfl (d.view false)
  obtain ⟨viewLo, viewHi⟩ := d.view_ft
  rw [viewLo] at lo
  rw [viewHi] at hi
  rw [show Reg.TTIME_FT_LO.width = 32 from rfl, Nat.mod_mod] at lo
  rw [show Reg.TTIME_FT_HI.width = 32 from rfl, show d.now / 2 ^ 32 % 2 ^ 32 = d.now / 2 ^ 32 from ftHigh_fits d.ft] at hi
  simp only [Tdu.readWord, show 0x1044 / 4 * 4 = 0x1044 from rfl, dieAddr_ftLow, latches_ftLow.2, if_true, lo, hi]

theorem leBytes_whole (w : Nat) : ((leBytes 4 w).drop (0x1044 % 4)).take 4 = leBytes 4 w := rfl

theorem Tau.regRead_ftLow {x : Tau} (on : x.on = true) (port : Port) : x.regRead port 0x1044 4 =
    { x with
      regs := x.regs.setLatch port 0x1048 (x.now / 2 ^ 32)
      out := .read (portIdx port) (leBytes 4 (x.now % 2 ^ 32)) :: x.out } := by
  simp only [Tau.regRead, Tau.readBytes, Tau.readWord_ftLow, leBytes_whole, Tau.islPg_of_on on, Tau.main_of_on on]
  rfl

theorem Tdu.regRead_ftLow {d : Tdu} (reached : d.reachable = true) (port : Port) : d.regRead port 0x1044 4 =
    ({ d with regs := d.regs.setLatch port 0x1048 (d.now / 2 ^ 32) } : Tdu).emitOut (.read (portIdx port) (leBytes 4 (d.now % 2 ^ 32))) := by
  simp only [Tdu.regRead, Tdu.readWord_ftLow, leBytes_whole, reached]
  rfl

end Sys2Proof.Machine

open Sys2Proof Sys2Proof.Machine

/-- Settles O19: the low word of FT is one that latches, and both words show FT as it stands. -/
theorem lowWordReadLatches : Obligations.LowWordReadLatches := by
  intro s t port act
  refine ⟨fun on => ?_, fun por reached => ?_⟩
  · exact exec_of_onIsland rfl (Tau.islPg_of_on on) (Tau.regRead_ftLow ((State.tauAt_on s t).trans on) port)
  · exact exec_of_onDie (f := fun d => (d.core act).regRead port 0x1044 4) rfl por (Tdu.regRead_ftLow reached port)

end

section
/-! ## Page headers (R433, R440) -/

namespace Sys2Proof.Machine

section
variable {p o : Nat} (plain : ∀ fi ∈ wordFields p o, fi.1.cfg = false)
include plain

/-- A word that holds no configuration is written field by field, and that is all. -/
theorem RegFile.writeWord_of_no_cfg {keep : Fld → Bool} (taken : ∀ fi ∈ wordFields p o, keep fi.1 = false) (s v : Nat) (r : RegFile) :
    r.writeWord p s o v keep =
      (wordFields p o).foldl (fun r' fi => r'.writeField v s (r.get (Reg.PG_STATUS_SAFE p) 0 s == 1) fi) r := by
  have all : (wordFields p o).filter (fun fi => !keep fi.1) = wordFields p o :=
    List.filter_eq_self.mpr fun fi mem => by simp [taken fi mem]
  have none : (wordFields p o).any (fun fi => fi.1.cfg) = false := by
    rw [List.any_eq_false]
    exact fun fi mem => by simp [plain fi mem]
  simp only [RegFile.writeWord, all, none]
  rfl

theorem not_lockable_of_no_cfg : ((wordFields p o).any fun fi => lockable fi.1) = false := by
  rw [List.any_eq_false]
  exact fun fi mem => by simp [lockable, plain fi mem]

theorem not_rws_of_no_cfg : ((wordFields p o).any fun fi => fi.1.acc == .rws) = false := by
  rw [List.any_eq_false]
  intro fi mem
  have := plain fi mem
  simp only [Fld.cfg, Bool.or_eq_false_iff] at this
  simp [this.1.2]

/-- A write through any port of a word that holds no configuration: its fields, and what it starts. -/
theorem Tau.regWrite_of_no_cfg {x : Tau} {a s : Nat} {sh : Bool} (on : x.on = true) (place : tauAddr a = some (p, s, o, sh)) (aligned : a % 4 = 0)
    (writable : wordWritable p o = true) (booted : sectionPage p = false ∨ x.rd Reg.GEN_BOOT_STATE = 3)
    (other : isHere p s o Reg.SRV_RET_KEY = false) (port : Port) (v : Nat) (m : Reads) :
    (x.regWrite port a 4 v m).1 = ({ x with regs := x.regs.writeWord p s o v (x.keeps p s (x.rd (Reg.PG_LOCK p) 0 s == 1)) } : Tau).command
      port p s o v (x.rd (Reg.PG_LOCK p) 0 s == 1) m := by
  have reached : (sectionPage p && x.rd Reg.GEN_BOOT_STATE != 3) = false := by
    rcases booted with h | h <;> simp [h]
  simp only [Tau.regWrite, Tau.islPg_of_on on, Tau.main_of_on on, place, aligned, writable, reached, other, not_lockable_of_no_cfg plain,
    not_rws_of_no_cfg plain, Bool.not_true, Bool.and_false, Bool.false_and, Bool.or_false, Bool.false_eq_true, if_false,
    ne_eq, not_true_eq_false, or_self]

/-- The same at the TDU, where the word is one that the host may write. -/
theorem Tdu.regWrite_of_no_cfg {d : Tdu} {a : Nat} {sh : Bool} (reached : d.reachable = true) (place : dieAddr a = some (p, o, sh))
    (aligned : a % 4 = 0) (writable : wordWritable p o = true) (hosted : ((wordFields p o).any fun fi => hostBarred fi.1) = false)
    (taken : ∀ fi ∈ wordFields p o, fi.1.id ≠ (Reg.PG_PARITY_INJECT p).id ∧ fi.1.id ≠ Reg.TPMU_PRG_LO.id ∧ fi.1.id ≠ Reg.TPMU_PRG_HI.id)
    (port : Port) (v : Nat) :
    let safe := d.regs.get (Reg.PG_STATUS_SAFE p) 0 0 == 1
    let e : Tdu := { d with regs := (wordFields p o).foldl (fun r fi => r.writeField v 0 safe fi) d.regs }
    d.regWrite port a 4 v = (e.driveWritten d).command p o v (d.rd (Reg.PG_LOCK p) == 1) := by
  simp only [Tdu.regWrite, reached, place, aligned, writable, hosted, not_lockable_of_no_cfg plain, not_rws_of_no_cfg plain,
    Bool.not_true, Bool.and_false, Bool.false_eq_true, if_false, ne_eq, not_true_eq_false, or_self, and_false]
  rw [RegFile.writeWord_of_no_cfg plain]
  intro fi mem
  obtain ⟨inject, low, high⟩ := taken fi mem
  simp [lockable, plain fi mem, inject, low, high]

end

/-- A register write that leaves the causes of TDU_INTR, their enables and what is held back as they were drives no pin. -/
theorem Tdu.driveWritten_of_same {e d : Tdu} (por : e.time.por = d.time.por)
    (same : ∀ g ∈ [Reg.TGEN_INTR_STAT, Reg.TGEN_INTR_EN, Reg.TEMIT_INTR_PEND], e.rd g = d.rd g) : e.driveWritten d = e := by
  have none_enabled (n m : Nat) : Nat.land n (m - Nat.land m m) = 0 := by
    change n &&& (m - (m &&& m)) = 0
    simp
  have en := same Reg.TGEN_INTR_EN (by simp)
  have line : e.intrLine = d.intrLine := by
    rw [Tdu.intrLine, Tdu.intrLine, por, en, same Reg.TGEN_INTR_STAT (by simp), same Reg.TEMIT_INTR_PEND (by simp)]
  rw [Tdu.driveWritten, en, none_enabled, Tdu.interrupt_zero, Tdu.drive_of_intrLine line]

theorem RegFile.put_of_mod {f : Fld} {v w : Nat} (h : v % 2 ^ f.width = w % 2 ^ f.width) (r : RegFile) (i s : Nat) :
    r.put f i s v = r.put f i s w := by
  rw [RegFile.put, RegFile.put, h]

/-! ### PAGE_LOCK -/

/-- The word of PG_LOCK holds nothing else. -/
theorem wordFields_lock : ∀ p ∈ [0x8, 0x10, 0x20], wordFields p 0x18 = [(Reg.PG_LOCK p, 0)] := by decide +kernel

theorem RegFile.writeField_lock (r : RegFile) (p s : Nat) (safe : Bool) :
    r.writeField 1 s safe (Reg.PG_LOCK p, 0) = r.put (Reg.PG_LOCK p) 0 s 1 := by
  have odd (n : Nat) : Nat.lor n 1 % 2 = 1 := by
    change (n ||| 1) % 2 = 1
    simp [Nat.or_mod_two_eq_one]
  have one : bits 1 (Reg.PG_LOCK p).lsb (Reg.PG_LOCK p).width = 1 := by simp [Reg.PG_LOCK, Fld.one, bits]
  rw [RegFile.writeField_set (fi := (Reg.PG_LOCK p, 0)) r 1 s rfl, one]
  exact RegFile.put_of_mod (odd _) r 0 s

/-- A write of 1 to PG_LOCK of a page's copy (R440): the lock is set, and that is all. -/
theorem Tau.write_lock {x : Tau} {p s : Nat} (on : x.on = true) (page : p ∈ [0x8, 0x10, 0x20])
    (place : tauAddr (tauFieldAddr (Reg.PG_LOCK p) 0 s) = some (p, s, 0x18, false)) (aligned : tauFieldAddr (Reg.PG_LOCK p) 0 s % 4 = 0)
    (booted : sectionPage p = false ∨ x.rd Reg.GEN_BOOT_STATE = 3) (other : isHere p s 0x18 Reg.SRV_RET_KEY = false) (port : Port) (m : Reads)
    (starts : ∀ (y : Tau) (l : Bool), y.command port p s 0x18 1 l m = y) :
    x.writeField (Reg.PG_LOCK p) 0 s port 1 m = x.wr (Reg.PG_LOCK p) 1 0 s := by
  have word := wordFields_lock p page
  have plain : ∀ fi ∈ wordFields p 0x18, fi.1.cfg = false := by simp [word, Reg.PG_LOCK, Fld.one, Fld.cfg]
  have writable : wordWritable p 0x18 = true := by simp [wordWritable, word, Reg.PG_LOCK, Fld.one]
  have taken : ∀ fi ∈ wordFields p 0x18, x.keeps p s (x.rd (Reg.PG_LOCK p) 0 s == 1) fi.1 = false := by
    simp [word, Tau.keeps, lockable, Fld.cfg, Reg.PG_LOCK, Reg.PG_PARITY_INJECT, Fld.one]
  rw [Tau.writeField, Tau.regWrite_of_no_cfg plain on place aligned writable booted other, RegFile.writeWord_of_no_cfg plain taken, starts, word]
  simp only [List.foldl_cons, List.foldl_nil, RegFile.writeField_lock]
  rfl

theorem Tau.write_genLock {x : Tau} (on : x.on = true) (port : Port) (m : Reads) :
    x.writeField (Reg.PG_LOCK 0x10) 0 0 port 1 m = x.wr (Reg.PG_LOCK 0x10) 1 :=
  Tau.write_lock on (by decide) (by decide +kernel) (by decide +kernel) (.inl rfl) (by decide +kernel) port m
    fun y l => by simp +decide [Tau.command, Tau.genCommand]

theorem Tau.write_shpLock {x : Tau} (on : x.on = true) (booted : x.rd Reg.GEN_BOOT_STATE = 3) (sec : Fin 4) (port : Port) (m : Reads) :
    x.writeField (Reg.PG_LOCK 0x8) 0 sec port 1 m = x.wr (Reg.PG_LOCK 0x8) 1 0 sec :=
  Tau.write_lock on (by decide) (by revert sec; decide +kernel) (by revert sec; decide +kernel) (.inr booted)
    (by revert sec; decide +kernel) port m fun y l => by simp [Tau.command]

theorem Tdu.write_lock {d : Tdu} (reached : d.reachable = true) (port : Port) :
    d.writeField (Reg.PG_LOCK 0x20) 0 port 1 = d.wr (Reg.PG_LOCK 0x20) 1 := by
  have word := wordFields_lock 0x20 (by decide)
  rw [Tdu.writeField, Tdu.regWrite_of_no_cfg (p := 0x20) (o := 0x18) (sh := false) (by decide +kernel) reached (by decide +kernel) (by decide +kernel)
    (by decide +kernel) (by decide +kernel) (by decide +kernel), word]
  simp only [List.foldl_cons, List.foldl_nil, RegFile.writeField_lock]
  rw [Tdu.driveWritten_of_same]
  · rfl
  · rfl
  · have other : ∀ g ∈ [Reg.TGEN_INTR_STAT, Reg.TGEN_INTR_EN, Reg.TEMIT_INTR_PEND], g.tag ≠ (Reg.PG_LOCK 0x20).tag := by decide
    exact fun g mem => Tdu.rd_wr_of_tag (other g mem) d 1 0 0

/-! ### PG_ERR_COUNT_CLEAR -/

/-- The flags of a page's PG_ERR. -/
def errFlags (p : Nat) : List Fld :=
  [Reg.PG_ERR_CFG_PARITY p, Reg.PG_ERR_RANGE p, Reg.PG_ERR_FROZEN p, Reg.PG_ERR_LOCK_WR p, Reg.PG_ERR_HOST_WR p]

theorem wordFields_err : ∀ p ∈ [0x10, 0x20],
    wordFields p 0xC = (errFlags p).map (·, 0) ++ [(Reg.PG_ERR_CNT_CLR p, 0), (Reg.PG_ERR_CNT p, 0)] := by decide +kernel

/-- The flags of a page's PG_ERR, each written as it stands. -/
def RegFile.flagsKept (r : RegFile) (fs : List Fld) : RegFile := fs.foldl (fun r f => r.put f 0 0 (r.get f 0 0)) r

theorem RegFile.get_flagsKept_of_tag {fs : List Fld} {g : Fld} (other : ∀ f ∈ fs, g.tag ≠ f.tag) (r : RegFile) (i s : Nat) :
    (r.flagsKept fs).get g i s = r.get g i s := by
  induction fs generalizing r with
  | nil => rfl
  | cons f fs ih =>
    obtain ⟨first, rest⟩ := List.forall_mem_cons.mp other
    exact (ih rest _).trans (RegFile.get_put_of_tag first ..)

theorem RegFile.get_flagsKept {fs : List Fld} (apart : fs.Pairwise fun f g => f.tag ≠ g.tag) {g : Fld} (mem : g ∈ fs) (r : RegFile) :
    (r.flagsKept fs).get g 0 0 = r.get g 0 0 % 2 ^ g.width := by
  induction fs generalizing r with
  | nil => cases mem
  | cons f fs ih =>
    obtain ⟨first, rest⟩ := List.pairwise_cons.mp apart
    change ((r.put f 0 0 (r.get f 0 0)).flagsKept fs).get g 0 0 = _
    rcases List.mem_cons.mp mem with rfl | later
    · rw [RegFile.get_flagsKept_of_tag first, RegFile.get_put]
    · rw [ih rest later, RegFile.get_put_of_tag (first g later).symm]

/-- The registers once the count of a page's PG_ERR is cleared. -/
def RegFile.errCleared (r : RegFile) (p : Nat) : RegFile := (r.flagsKept (errFlags p)).put (Reg.PG_ERR_CNT p) 0 0 0

theorem errFlags_apart : ∀ p ∈ [0x10, 0x20], (errFlags p).Pairwise (fun f g => f.tag ≠ g.tag) ∧ ∀ f ∈ errFlags p,
    f.acc = .w1c ∧ f.width = 1 ∧ bits (2 ^ 15) f.lsb f.width = 0 ∧ f.tag ≠ (Reg.PG_ERR_CNT p).tag := by decide +kernel

section
variable {p : Nat} (page : p ∈ [0x10, 0x20])
include page

/-- A write of CNT_CLR alone writes every flag as it stands. -/
theorem RegFile.writeErr (safe : Bool) (r : RegFile) :
    ((errFlags p).map (·, 0) ++ [(Reg.PG_ERR_CNT_CLR p, 0), (Reg.PG_ERR_CNT p, 0)]).foldl
      (fun r fi => r.writeField (2 ^ 15) 0 safe fi) r = r.flagsKept (errFlags p) := by
  have flags : (errFlags p).foldl (fun r f => r.writeField (2 ^ 15) 0 safe (f, 0)) r = r.flagsKept (errFlags p) := by
    refine List.foldl_ext _ _ r fun r f mem => ?_
    obtain ⟨-, untouched⟩ := errFlags_apart p page
    obtain ⟨w1c, -, clear, -⟩ := untouched f mem
    rw [RegFile.writeField_w1c (fi := (f, 0)) r (2 ^ 15) 0 w1c, clear]
    exact congrArg (fun n => r.put f 0 0 (_ - n)) (Nat.and_zero _)
  rw [List.foldl_append, List.foldl_map, flags, List.foldl_cons, List.foldl_cons, List.foldl_nil,
    RegFile.writeField_wo (fi := (Reg.PG_ERR_CNT_CLR p, 0)) rfl, RegFile.writeField_ro (fi := (Reg.PG_ERR_CNT p, 0)) _ _ _ rfl]

theorem RegFile.errCleared_flag {g : Fld} (flag : g ∈ errFlags p) (r : RegFile) : (r.errCleared p).get g 0 0 = r.get g 0 0 % 2 := by
  obtain ⟨apart, flags⟩ := errFlags_apart p page
  obtain ⟨-, narrow, -, count⟩ := flags g flag
  rw [RegFile.errCleared, RegFile.get_put_of_tag count, RegFile.get_flagsKept apart flag, narrow, Nat.pow_one]

end

theorem RegFile.errCleared_count (r : RegFile) (p : Nat) : (r.errCleared p).get (Reg.PG_ERR_CNT p) 0 0 = 0 := by
  rw [RegFile.errCleared, RegFile.get_put, Nat.zero_mod]

theorem RegFile.errCleared_other {p : Nat} {g : Fld} (flags : ∀ f ∈ errFlags p, g.tag ≠ f.tag) (count : g.tag ≠ (Reg.PG_ERR_CNT p).tag)
    (r : RegFile) (i s : Nat) : (r.errCleared p).get g i s = r.get g i s := by
  rw [RegFile.errCleared, RegFile.get_put_of_tag count, RegFile.get_flagsKept_of_tag flags]

/-- Every field of every page but those of PG_ERR of one page has a tag of its own. -/
theorem tags_apart_from_err : (∀ c ∈ tauCopies, ∀ g ∈ Reg.ofPage c.1, c.1 ≠ 0x10 ∨ g.off ≠ 0xC →
      (∀ f ∈ errFlags 0x10, g.tag ≠ f.tag) ∧ g.tag ≠ (Reg.PG_ERR_CNT 0x10).tag) ∧
    ∀ p ∈ Reg.tduPages, ∀ g ∈ Reg.ofPage p, p ≠ 0x20 ∨ g.off ≠ 0xC →
      (∀ f ∈ errFlags 0x20, g.tag ≠ f.tag) ∧ g.tag ≠ (Reg.PG_ERR_CNT 0x20).tag := by decide +kernel

theorem err_is_plain : ∀ p ∈ [0x10, 0x20], (∀ fi ∈ wordFields p 0xC, fi.1.cfg = false) ∧ wordWritable p 0xC = true := by decide +kernel

theorem Tau.write_errCountClear {x : Tau} (on : x.on = true) (port : Port) (m : Reads) :
    x.writeField (Reg.PG_ERR_CNT 0x10) 0 0 port (2 ^ 15) m = { x with regs := x.regs.errCleared 0x10 } := by
  obtain ⟨plain, writable⟩ := err_is_plain 0x10 (by decide)
  have word := wordFields_err 0x10 (by decide)
  have taken (locked : Bool) : ∀ fi ∈ wordFields 0x10 0xC, x.keeps 0x10 0 locked fi.1 = false := by
    simp [word, errFlags, Tau.keeps, lockable, Fld.cfg, Reg.PG_ERR_CFG_PARITY, Reg.PG_ERR_RANGE, Reg.PG_ERR_FROZEN, Reg.PG_ERR_LOCK_WR,
      Reg.PG_ERR_HOST_WR, Reg.PG_ERR_CNT, Reg.PG_ERR_CNT_CLR, Reg.PG_PARITY_INJECT, Fld.one]
  rw [Tau.writeField, Tau.regWrite_of_no_cfg plain on (s := 0) (sh := false) (by decide +kernel) (by decide +kernel) writable (.inl rfl)
      (by decide +kernel),
    RegFile.writeWord_of_no_cfg plain (taken _), word, RegFile.writeErr (by decide)]
  simp +decide [Tau.command, Tau.genCommand]
  rfl

theorem Tdu.write_errCountClear {d : Tdu} (reached : d.reachable = true) (port : Port) :
    d.writeField (Reg.PG_ERR_CNT 0x20) 0 port (2 ^ 15) = { d with regs := d.regs.errCleared 0x20 } := by
  obtain ⟨plain, writable⟩ := err_is_plain 0x20 (by decide)
  rw [Tdu.writeField, Tdu.regWrite_of_no_cfg plain (sh := false) reached (by decide +kernel) (by decide +kernel) writable (by decide +kernel)
    (by decide +kernel), wordFields_err 0x20 (by decide), RegFile.writeErr (by decide), Tdu.driveWritten_of_same]
  · simp +decide [Tdu.command]
    rfl
  · rfl
  · have other : ∀ g ∈ [Reg.TGEN_INTR_STAT, Reg.TGEN_INTR_EN, Reg.TEMIT_INTR_PEND], ∀ f ∈ errFlags 0x20, g.tag ≠ f.tag := by decide
    exact fun g mem => RegFile.get_flagsKept_of_tag (other g mem) d.regs 0 0

end Sys2Proof.Machine

open Sys2Proof Sys2Proof.Machine

/-- Settles O20: neither word holds configuration, so that a write is its fields; no other field shares a tag with those of PG_ERR. -/
theorem pageHeadersAct : Obligations.PageHeadersAct := by
  obtain ⟨tauApart, dieApart⟩ := tags_apart_from_err
  refine ⟨fun s t port => ⟨fun on => ?_, fun reached => ?_⟩, fun s t port => ⟨fun on => ?_, fun reached => ?_⟩⟩
  · intro x
    have up : x.on = true := (State.tauAt_on s t).trans on
    refine ⟨?_, fun sec booted => ?_⟩
    · exact exec_of_onIsland (f := fun x => x.writeField (Reg.PG_LOCK 0x10) 0 0 port 1 ⟨[], [], []⟩) rfl (Tau.islPg_of_on on)
        (Tau.write_genLock up port _)
    · exact exec_of_onIsland (f := fun x => x.writeField (Reg.PG_LOCK 0x8) 0 sec port 1 ⟨[], [], []⟩) rfl (Tau.islPg_of_on on)
        (Tau.write_shpLock up booted sec port _)
  · exact exec_of_onDie (f := fun d => d.writeField (Reg.PG_LOCK 0x20) 0 port 1) rfl (Tdu.por_of_reachable reached)
      (Tdu.write_lock ((Tdu.advance_reachable t s.tdu).trans reached) port)
  · intro x
    refine ⟨_, exec_of_onIsland (f := fun x => x.writeField (Reg.PG_ERR_CNT 0x10) 0 0 port (2 ^ 15) ⟨[], [], []⟩) rfl (Tau.islPg_of_on on)
      (Tau.write_errCountClear ((State.tauAt_on s t).trans on) port _), rfl,
      x.regs.errCleared_count 0x10, fun g flag => x.regs.errCleared_flag (by decide) flag, fun p sec copy g mem away i => ?_⟩
    obtain ⟨flags, count⟩ := tauApart (p, sec) copy g mem away
    exact x.regs.errCleared_other flags count i sec
  · intro d
    refine ⟨_, exec_of_onDie (f := fun d => d.writeField (Reg.PG_ERR_CNT 0x20) 0 port (2 ^ 15)) rfl (Tdu.por_of_reachable reached)
      (Tdu.write_errCountClear ((Tdu.advance_reachable t s.tdu).trans reached) port), rfl,
      d.regs.errCleared_count 0x20, fun g flag => d.regs.errCleared_flag (by decide) flag, fun p low high g mem away i => ?_⟩
    have page : p ∈ Reg.tduPages := by
      simp only [Reg.tduPages, List.mem_cons, List.not_mem_nil, or_false]
      omega
    obtain ⟨flags, count⟩ := dieApart p page g mem away
    exact d.regs.errCleared_other flags count i 0

end

section
/-! ## Envelopes: AES-256-GCM (R378, R382) -/

namespace Sys2Proof.Machine

/-! ### Lists of bytes -/

/-- Every number of the list is a byte. -/
def Bytes (l : List Nat) : Prop := ∀ b ∈ l, b < 256

theorem bytes_append {a b : List Nat} : Bytes (a ++ b) ↔ Bytes a ∧ Bytes b := List.forall_mem_append

theorem Bytes.sublist {a b : List Nat} (h : Bytes b) (sub : a.Sublist b) : Bytes a := fun x mem => h x (sub.subset mem)

theorem bytes_nats (b : List Byte) : Bytes (nats b) := by
  intro n mem
  obtain ⟨v, -, rfl⟩ := List.mem_map.mp mem
  exact v.isLt

theorem nats_bytesOf {l : List Nat} (bytes : Bytes l) : nats (bytesOf l) = l := by
  rw [nats, bytesOf, List.map_map]
  exact (List.map_congr_left fun b mem => Nat.mod_eq_of_lt (bytes b mem)).trans (List.map_id l)

theorem bytesOf_nats (b : List Byte) : bytesOf (nats b) = b := by
  rw [nats, bytesOf, List.map_map]
  exact (List.map_congr_left fun v _ => by simp).trans (List.map_id b)

@[simp] theorem nats_length (b : List Byte) : (nats b).length = b.length := List.length_map ..

@[simp] theorem bytesOf_length (l : List Nat) : (bytesOf l).length = l.length := List.length_map ..

@[simp] theorem xorL_length (a b : List Nat) : (xorL a b).length = min a.length b.length := List.length_zipWith ..

theorem bytes_xorL {a b : List Nat} (ha : Bytes a) (hb : Bytes b) : Bytes (xorL a b) := by
  induction a generalizing b with
  | nil => simp [xorL, Bytes]
  | cons m a ih =>
    cases b with
    | nil => simp [xorL, Bytes]
    | cons n b =>
      obtain ⟨hm, ha⟩ := List.forall_mem_cons.mp ha
      obtain ⟨hn, hb⟩ := List.forall_mem_cons.mp hb
      exact List.forall_mem_cons.mpr ⟨Nat.xor_lt_two_pow (n := 8) hm hn, ih ha hb⟩

/-- XOR with a list at least as long is its own inverse. -/
theorem xorL_xorL {a k : List Nat} (long : a.length ≤ k.length) : xorL (xorL a k) k = a := by
  induction a generalizing k with
  | nil => rfl
  | cons m a ih =>
    cases k with
    | nil => simp at long
    | cons n k =>
      have back : Nat.xor (Nat.xor m n) n = m := Nat.xor_xor_cancel_right m n
      exact congrArg₂ List.cons back (ih (Nat.le_of_succ_le_succ long))

/-! ### The last round key -/

/-- A word of the key schedule: four bytes. -/
def KeyWord (w : List Nat) : Prop := w.length = 4 ∧ Bytes w

theorem bytes_map_subByte (l : List Nat) : Bytes (l.map subByte) := by
  intro n mem
  obtain ⟨b, -, rfl⟩ := List.mem_map.mp mem
  exact Nat.mod_lt _ (by decide)

theorem aesX_lt {a : Nat} (h : a < 256) : aesX a < 256 := by
  unfold aesX
  split
  · omega
  · exact Nat.xor_lt_two_pow (n := 8) (by omega) (by decide)

theorem keyWord_xorL {a b : List Nat} (ha : KeyWord a) (hb : KeyWord b) : KeyWord (xorL a b) :=
  ⟨by rw [xorL_length, ha.1, hb.1, Nat.min_self], bytes_xorL ha.2 hb.2⟩

/-- The key schedule is extended by words of four bytes. -/
theorem aesExpand_keyWords (n : Nat) : ∀ (i rcon : Nat) (w : List (List Nat)), rcon < 256 → 8 ≤ w.length → (∀ v ∈ w, KeyWord v) →
    (aesExpand n i rcon w).length = w.length + n ∧ ∀ v ∈ aesExpand n i rcon w, KeyWord v := by
  induction n with
  | zero => exact fun i rcon w _ _ words => ⟨rfl, words⟩
  | succ n ih =>
    intro i rcon w byte long words
    have nth (j : Nat) (hj : j < 8) : KeyWord (w.getD j []) := by
      rw [List.getD_eq_getElem _ _ (by omega)]
      exact words _ (List.getElem_mem _)
    have last : KeyWord (w.headD []) := by
      have := nth 0 (by decide)
      cases w <;> exact this
    have substituted {t : List Nat} (ht : t.length = 4) : KeyWord (t.map subByte) := ⟨by simpa using ht, bytes_map_subByte t⟩
    have grown {t : List Nat} {rcon : Nat} (byte : rcon < 256) (ht : KeyWord t) :
        (aesExpand n (i + 1) rcon (xorL (w.getD 7 []) t :: w)).length = w.length + (n + 1) ∧
          ∀ v ∈ aesExpand n (i + 1) rcon (xorL (w.getD 7 []) t :: w), KeyWord v := by
      have word := keyWord_xorL (nth 7 (by decide)) ht
      obtain ⟨len, all⟩ := ih (i + 1) rcon (xorL (w.getD 7 []) t :: w) byte (by simp; omega) (List.forall_mem_cons.mpr ⟨word, words⟩)
      exact ⟨by rw [len, List.length_cons]; omega, all⟩
    simp only [aesExpand, strictList_eq]
    split
    · refine grown (aesX_lt byte) (keyWord_xorL (substituted ?_) ⟨rfl, ?_⟩)
      · rw [List.length_append, List.length_drop, List.length_take, last.1]
        rfl
      · simp [Bytes, byte]
    · split
      · exact grown byte (substituted last.1)
      · exact grown byte last

theorem keyWord_slice {key : List Nat} (len : key.length = 32) (bytes : Bytes key) {i : Nat} (hi : i < 8) :
    KeyWord ((key.drop (4 * i)).take 4) :=
  ⟨by simp [len]; omega, bytes.sublist ((List.take_sublist ..).trans (List.drop_sublist ..))⟩

/-- The last round key of a key of 32 bytes is 16 bytes. -/
theorem aesKeys_last {key : List Nat} (len : key.length = 32) (bytes : Bytes key) :
    ((aesKeys key).getD 14 []).length = 16 ∧ Bytes ((aesKeys key).getD 14 []) := by
  have words : ∀ v ∈ ((List.range 8).map fun i => (key.drop (4 * i)).take 4).reverse, KeyWord v := by
    simp only [List.mem_reverse, List.mem_map, List.mem_range, forall_exists_index, and_imp, forall_apply_eq_imp_iff₂]
    exact fun i hi => keyWord_slice len bytes hi
  obtain ⟨long, all⟩ := aesExpand_keyWords 52 8 1 _ (by decide) (by simp) words
  simp only [aesKeys, strictList_eq]
  generalize aesExpand 52 8 1 _ = w at long all
  have four : ((w.reverse.drop 56).take 4).length = 4 := by simp [long]
  have part : ∀ v ∈ (w.reverse.drop 56).take 4, KeyWord v := fun v mem =>
    all v (List.mem_reverse.mp (((List.take_sublist ..).trans (List.drop_sublist ..)).subset mem))
  have key14 : ((List.range 15).map fun r => ((w.reverse.drop (4 * r)).take 4).flatten).getD 14 [] = ((w.reverse.drop 56).take 4).flatten := by
    simp
  rw [key14]
  refine ⟨?_, fun b mem => ?_⟩
  · rw [List.length_flatten, List.map_congr_left fun v mem => (part v mem).1, List.map_const', four]
    rfl
  · obtain ⟨v, hv, hb⟩ := List.mem_flatten.mp mem
    exact (part v hv).2 b hb

/-- A block enciphered under a key of 32 bytes is 16 bytes. -/
theorem aesBlock_bytes {key : List Nat} (len : key.length = 32) (bytes : Bytes key) (b : List Nat) :
    (aesBlock (aesKeys key) b).length = 16 ∧ Bytes (aesBlock (aesKeys key) b) := by
  obtain ⟨last, lastBytes⟩ := aesKeys_last len bytes
  simp only [aesBlock, strictList_eq]
  generalize ((aesKeys key).drop 1 |>.take 13).foldl _ _ = s
  have rows : ∀ l : List Nat, Bytes (l.map subByte) → Bytes (shiftRows (l.map subByte)) := by
    intro l hl n mem
    obtain ⟨i, -, rfl⟩ := List.mem_map.mp mem
    rw [List.getD_eq_getElem?_getD]
    cases h : (l.map subByte)[(i + 4 * (i % 4)) % 16]? with
    | none => decide
    | some v => exact hl v (List.mem_of_getElem? h)
  have final : aesRound true s ((aesKeys key).getD 14 []) = xorL (shiftRows (s.map subByte)) ((aesKeys key).getD 14 []) := rfl
  rw [final]
  exact ⟨by rw [xorL_length, last]; simp [shiftRows], bytes_xorL (rows s (bytes_map_subByte s)) lastBytes⟩

/-! ### Counters -/

theorem beList_length (w n : Nat) : (beList w n).length = w := by simp [beList]

theorem bytes_beList (w n : Nat) : Bytes (beList w n) := by
  intro b mem
  simp only [beList, List.mem_reverse, List.mem_map] at mem
  obtain ⟨i, -, rfl⟩ := mem
  exact Nat.mod_lt _ (by decide)

/-! ### The stream -/

theorem take_xorL_append (a z k : List Nat) : (xorL (a ++ z) k).take a.length = xorL a k := by
  induction a generalizing k with
  | nil => rfl
  | cons m a ih =>
    cases k with
    | nil => rfl
    | cons n k => exact congrArg (Nat.xor m n :: ·) (ih k)

section
variable {key : List Nat} (len : key.length = 32) (bytes : Bytes key) (iv : List Nat)

/-- The stream from counter `c` on, over a list of bytes; `n` bounds its blocks. -/
def streamFrom (key iv : List Nat) (c n : Nat) (l : List Nat) : List Nat := (gctr (aesKeys key) iv c (blocks16 n l)).take l.length

/-- The key stream of counter `c`. -/
def keyBlock (key iv : List Nat) (c : Nat) : List Nat := aesBlock (aesKeys key) (iv ++ beList 4 c)

@[simp] theorem streamFrom_nil (c n : Nat) : streamFrom key iv c n [] = [] := by simp [streamFrom]

include len bytes

theorem streamFrom_cons (c n : Nat) {l : List Nat} (some : l ≠ []) :
    streamFrom key iv c (n + 1) l = xorL (l.take 16) (keyBlock key iv c) ++ streamFrom key iv (c + 1) n (l.drop 16) := by
  have block : (keyBlock key iv c).length = 16 := (aesBlock_bytes len bytes _).1
  have nonempty : l.isEmpty = false := by simpa using some
  simp only [streamFrom, blocks16, nonempty, Bool.false_eq_true, if_false, gctr]
  change (xorL _ (keyBlock key iv c) ++ _).take _ = _
  rcases Nat.lt_or_ge l.length 16 with short | long
  · have whole : l.take 16 = l := List.take_of_length_le (Nat.le_of_lt short)
    have rest : l.drop 16 = [] := List.drop_of_length_le (Nat.le_of_lt short)
    rw [whole, rest, List.take_append_of_le_length (by simp [block]; omega), take_xorL_append]
    simp
  · have full : (l.take 16).length = 16 := by simpa using long
    rw [full, Nat.sub_self, List.replicate_zero, List.append_nil, List.take_append, xorL_length, full, block, List.length_drop,
      List.take_of_length_le (by simp [block])]
    rfl

theorem streamFrom_length (n : Nat) : ∀ (c : Nat) (l : List Nat), l.length < n → (streamFrom key iv c n l).length = l.length := by
  induction n with
  | zero => exact fun c l h => absurd h (Nat.not_lt_zero _)
  | succ n ih =>
    intro c l h
    by_cases empty : l = []
    · simp [empty]
    have block : (keyBlock key iv c).length = 16 := (aesBlock_bytes len bytes _).1
    have some := List.length_pos_iff.mpr empty
    rw [streamFrom_cons len bytes iv c n empty, List.length_append, xorL_length, block, ih _ _ (by rw [List.length_drop]; omega),
      List.length_take, List.length_drop]
    omega

theorem streamFrom_bytes (n : Nat) : ∀ (c : Nat) {l : List Nat}, Bytes l → Bytes (streamFrom key iv c n l) := by
  induction n with
  | zero => exact fun c l _ => by simp [streamFrom, blocks16, gctr, Bytes]
  | succ n ih =>
    intro c l plain
    by_cases empty : l = []
    · simp [empty, Bytes]
    rw [streamFrom_cons len bytes iv c n empty]
    exact bytes_append.mpr ⟨bytes_xorL (plain.sublist (List.take_sublist ..)) (aesBlock_bytes len bytes _).2,
      ih _ (plain.sublist (List.drop_sublist ..))⟩

/-- The stream is its own inverse. -/
theorem streamFrom_streamFrom (n : Nat) : ∀ (c : Nat) (l : List Nat), l.length < n →
    streamFrom key iv c n (streamFrom key iv c n l) = l := by
  induction n with
  | zero => exact fun c l h => absurd h (Nat.not_lt_zero _)
  | succ n ih =>
    intro c l h
    by_cases empty : l = []
    · simp [empty]
    have block : (keyBlock key iv c).length = 16 := (aesBlock_bytes len bytes _).1
    have size := streamFrom_length len bytes iv (n + 1) c l h
    have some : streamFrom key iv c (n + 1) l ≠ [] := fun none => empty (List.length_eq_zero_iff.mp (by rw [← size, none]; rfl))
    have pos := List.length_pos_iff.mpr empty
    have split : (streamFrom key iv c (n + 1) l).take 16 = xorL (l.take 16) (keyBlock key iv c) ∧
        (streamFrom key iv c (n + 1) l).drop 16 = streamFrom key iv (c + 1) n (l.drop 16) := by
      rw [streamFrom_cons len bytes iv c n empty]
      rcases Nat.lt_or_ge l.length 16 with short | long
      · rw [List.drop_of_length_le (Nat.le_of_lt short), streamFrom_nil, List.append_nil]
        exact ⟨List.take_of_length_le (by simp), List.drop_of_length_le (by simp)⟩
      · exact ⟨List.take_left' (by simp [block, long]), List.drop_left' (by simp [block, long])⟩
    rw [streamFrom_cons len bytes iv c n some, split.1, split.2, xorL_xorL (by simp [block]), ih _ _ (by rw [List.length_drop]; omega),
      List.take_append_drop]

theorem gcmStream_length (p : List Nat) : (gcmStream key iv p).length = p.length :=
  streamFrom_length len bytes iv (p.length + 1) 2 p (Nat.lt_succ_self _)

theorem gcmStream_bytes {p : List Nat} (plain : Bytes p) : Bytes (gcmStream key iv p) := streamFrom_bytes len bytes iv (p.length + 1) 2 plain

theorem gcmStream_gcmStream (p : List Nat) : gcmStream key iv (gcmStream key iv p) = p := by
  have back := streamFrom_streamFrom len bytes iv (p.length + 1) 2 p (Nat.lt_succ_self _)
  rw [gcmStream, gcmStream_length len bytes]
  rw [streamFrom, streamFrom_length len bytes iv _ 2 p (Nat.lt_succ_self _)] at back
  exact back

/-! ### The tag -/

theorem gcmTag_length (a c : List Nat) : (gcmTag key iv a c).length = 16 := by
  rw [gcmTag, xorL_length, beList_length, (aesBlock_bytes len bytes _).1, Nat.min_self]

theorem gcmTag_bytes (a c : List Nat) : Bytes (gcmTag key iv a c) :=
  bytes_xorL (bytes_beList 16 _) (aesBlock_bytes len bytes _).2

end

/-- The header of an envelope is read as it was laid out. -/
theorem EnvHead.parse_layout {sender ctr purpose flags epoch : Nat} (hs : sender < 2 ^ 32) (hc : ctr < 2 ^ 64) (hp : purpose < 2 ^ 8)
    (hf : flags < 2 ^ 8) (he : epoch < 2 ^ 16) (rest : List Byte) :
    EnvHead.parse (leBytes 4 sender ++ leBytes 8 ctr ++ leBytes 1 purpose ++ leBytes 1 flags ++ leBytes 2 epoch ++ rest) =
      ⟨sender, ctr, purpose, flags, epoch⟩ := by
  simp only [EnvHead.parse, List.append_assoc]
  simp (disch := omega) only [fieldAt_past, Nat.reduceSub, fieldAt_leBytes]

/-- An envelope of a header of 16 bytes, a ciphertext and a tag of 16 bytes comes apart at its lengths. -/
theorem openUnder_of_layout {key ct tag : List Nat} {head : List Byte} (h : EnvHead) (size : head.length = 16)
    (cipher : Bytes ct) (ended : tag.length = 16) (tagged : Bytes tag) :
    openUnder key h (head ++ bytesOf ct ++ bytesOf tag) =
      if gcmTag key (gcmIv h.sender h.ctr) (nats head) ct = tag then some (bytesOf (gcmStream key (gcmIv h.sender h.ctr) ct)) else none := by
  have total : (head ++ bytesOf ct ++ bytesOf tag).length = 32 + ct.length := by simp [size, ended]; omega
  have first : (head ++ bytesOf ct ++ bytesOf tag).take 16 = head := by rw [List.append_assoc]; exact List.take_left' size
  have middle : ((head ++ bytesOf ct ++ bytesOf tag).drop 16).take (32 + ct.length - 32) = bytesOf ct := by
    rw [List.append_assoc, List.drop_left' size]
    exact List.take_left' (by simp)
  have last : (head ++ bytesOf ct ++ bytesOf tag).drop (32 + ct.length - 16) = bytesOf tag :=
    List.drop_left' (by simp [size]; omega)
  simp only [openUnder, total, first, middle, last, nats_bytesOf cipher, nats_bytesOf tagged]
  simp

end Sys2Proof.Machine

open Sys2Proof Sys2Proof.Machine

/-- Settles O12: the envelope comes apart at its lengths, its tag is the one computed, and the stream is its own inverse. -/
theorem sealedEnvelopeOpens : Obligations.SealedEnvelopeOpens := by
  intro key sender ctr purpose flags epoch plain len hs hc hp hf he head ct env
  have long : (nats key).length = 32 := (nats_length key).trans len
  have parsed : EnvHead.parse env = ⟨sender, ctr, purpose, flags, epoch⟩ := by
    simp only [env, List.append_assoc head]
    exact EnvHead.parse_layout hs hc hp hf he _
  refine ⟨parsed, ?_⟩
  rw [parsed, openUnder_of_layout _ (by simp [head]) (gcmStream_bytes long (bytes_nats key) _ (bytes_nats plain))
    (gcmTag_length long (bytes_nats key) _ _ _) (gcmTag_bytes long (bytes_nats key) _ _ _), if_pos rfl]
  rw [gcmStream_gcmStream long (bytes_nats key), bytesOf_nats]

end

section
/-! ## Boot (R449, R450) -/

namespace Sys2Proof.Machine

section
variable {x : Tau}

theorem Tau.bootGo_of_wait {v : Nat} (go : v.testBit 0 = true) (wait : x.rd Reg.GEN_BOOT_STATE = 0)
    (fits : x.rd Reg.GEN_BOOT_LEN ≤ 16777216) : x.bootGo v = x.wr Reg.GEN_BOOT_STATE 1 := by
  simp [Tau.bootGo, go, wait, Nat.not_lt.mpr fits]

theorem Tau.bootGo_of_running {v : Nat} (go : v.testBit 0 = true) (runs : x.rd Reg.GEN_BOOT_STATE = 3) :
    x.bootGo v = x.wr Reg.GEN_BOOT_STAT_CODE Code.busy := by
  simp [Tau.bootGo, go, runs]

section
variable (reading : x.rd Reg.GEN_BOOT_STATE = 1) {b : List Byte} {y : Tau} {code : Nat}
include reading

theorem Tau.bootRead_of_error : x.bootRead none =
    ((x.wr Reg.GEN_BOOT_STATE 0).wr Reg.GEN_BOOT_STAT_CODE Code.fit).bump Reg.GEN_BOOT_STAT_REF_CNT := by
  simp [Tau.bootRead, reading]

theorem Tau.bootRead_of_refused (checked : x.fwCheck false (b.take (x.rd Reg.GEN_BOOT_LEN)) = (y, code, none)) :
    x.bootRead (some b) = ((y.wr Reg.GEN_BOOT_STATE 0).wr Reg.GEN_BOOT_STAT_CODE code).bump Reg.GEN_BOOT_STAT_REF_CNT := by
  simp [Tau.bootRead, reading, checked]

/-- An image that passes its checks fills bank A, and the TAU runs. -/
theorem Tau.bootRead_of_good {i : Image} (checked : x.fwCheck false (b.take (x.rd Reg.GEN_BOOT_LEN)) = (y, code, some i)) :
    let z := y.fillBank 0 i
    let island := z.mnt.island.or ((fwParts i.payload).map (·.1))
    let kicks := List.replicate 4 y.per ++ y.mnt.kicks.drop 4
    x.bootRead (some b) = ((({ z with mnt := { z.mnt with island := island, kicks := kicks } } : Tau).wr Reg.GEN_BOOT_STATE 3).wr
      Reg.GEN_BOOT_STAT_CODE Code.done).raise 5 := by
  simp only [Tau.bootRead, reading, checked, ne_eq, not_true_eq_false, if_false]
  rfl

end

end

end Sys2Proof.Machine

open Sys2Proof Sys2Proof.Machine

/-- Settles O22: BOOT.GO by the state it finds, the read by its error or by what the checks of its image come to. -/
theorem bootRuns : Obligations.BootRuns := by
  intro s t port v b on x
  have up : x.on = true := (State.tauAt_on s t).trans on
  have goes {y : Tau} (hy : x.bootGo v.toNat = y) : exec (.bootGo t port v) s = .next (s.withTau y) :=
    exec_of_onIsland rfl (Tau.islPg_of_on on) ((Tau.write_bootGo up ..).trans hy)
  have reads {mem : Option (List Byte)} {y : Tau} (hy : x.bootRead mem = y) :
      exec (.bootReadComplete t mem) s = .next (s.withTau y) := exec_of_onMain rfl on hy
  refine ⟨fun go wait fits => goes (Tau.bootGo_of_wait go wait fits), fun go runs => goes (Tau.bootGo_of_running go runs),
    fun reading => reads (Tau.bootRead_of_error reading), fun reading => reads ?_⟩
  match checked : x.fwCheck false (b.take (x.rd Reg.GEN_BOOT_LEN)) with
  | (y, code, none) => exact Tau.bootRead_of_refused reading checked
  | (y, code, some i) => exact Tau.bootRead_of_good reading checked

end

section
/-! ## A record held under a NID that is not its own (R392) -/

namespace Sys2Proof.Machine

/-- A RUN_PACK of handle 0xFFFF that skips the NIDs 2 to 4 of epoch 0. -/
def skippingRunPack : List Byte :=
  withCrc (leBytes 1 0xBA ++ leBytes 1 1 ++ leBytes 2 0xFFFF ++ leBytes 4 0 ++ leBytes 4 5 ++ zeros 16)

/-- The die runs, has applied NID 1 of epoch 0, and lists the RUN_PACK among its held records under a NID of another handle. -/
def misfiledDie : State :=
  State.reset.onTdu fun d =>
    let d := d.wr Reg.TGEN_BOOT_STATE 2
    { d with ctl := { d.ctl with last := [(0xFFFF, 0, 1)], held := [((0, 0, 0), skippingRunPack)] } }

end Sys2Proof.Machine

open Sys2Proof Sys2Proof.Machine

/-- Refutes O27, in its clause about a record that skips a NID: the premise asks that no held record stands under the NID, where the die
looks for the record itself; one that is held under another NID counts as come again, so that it is taken and not held twice. -/
theorem not_dieCommandsAct : ¬ Obligations.DieCommandsAct := by
  intro h
  have clauses := h misfiledDie 0 skippingRunPack 0 (by decide +kernel)
  obtain ⟨held, -⟩ := clauses (by decide +kernel) (by decide +kernel) (by decide +kernel)
  have holds := held (by decide +kernel) (by decide +kernel) (by decide +kernel)
  have ran : exec (.tduCmdRunPack 0 skippingRunPack) misfiledDie =
    .next (misfiledDie.onDie 0 fun d => d.cmdIn 1 11 skippingRunPack (·.cmdRunPack skippingRunPack)) := rfl
  have taken : (misfiledDie.onDie 0 fun d => d.cmdIn 1 11 skippingRunPack (·.cmdRunPack skippingRunPack)).tdu.ctl.held.length = 0 := by
    decide +kernel
  rw [Host.Outcome.next.inj (ran.symm.trans holds)] at taken
  exact absurd taken (by decide +kernel)

end

section
/-! ## Tokens (R408 to R412) -/

namespace Sys2Proof.Machine

section
variable (x : Tau)

theorem Tau.rd_bump_of_tag {f g : Fld} (h : g.tag ≠ f.tag) (i s j u : Nat) : (x.bump f i s).rd g j u = x.rd g j u :=
  Tau.rd_wr_of_tag h ..

theorem Tau.tokResult_code (code id : Nat) : (x.tokResult code id).rd Reg.MNT_TOK_STAT_CODE = code % 256 := by
  rw [Tau.tokResult, Tau.rd_wr_of_tag (by decide), Tau.rd_wr_of_tag (by decide), Tau.rd_wr]
  rfl

theorem Tau.tokResult_id (code id : Nat) : (x.tokResult code id).rd Reg.MNT_TOK_STAT_ID = id % 256 := by
  rw [Tau.tokResult, Tau.rd_wr_of_tag (by decide), Tau.rd_wr]
  rfl

theorem Tau.tokRefused_code (id : Nat) : (x.tokRefused id).rd Reg.MNT_TOK_STAT_CODE = Code.fit := by
  rw [Tau.tokRefused, Tau.rd_bump_of_tag _ (by decide), Tau.tokResult_code]
  rfl

theorem Tau.tokRefused_id (id : Nat) : (x.tokRefused id).rd Reg.MNT_TOK_STAT_ID = id % 256 := by
  rw [Tau.tokRefused, Tau.rd_bump_of_tag _ (by decide), Tau.tokResult_id]

end

section
variable {x : Tau} {cls target owner v : Nat} {port : Port} {k : Token}

/-- A section that fails heads the list of tokens with one of FAULT's. -/
theorem Tau.failSection_tokens {s : Nat} (cause : Nat) (serves : x.secState s < 2) :
    ∃ id, ⟨id, 0, s, 3⟩ ∈ (x.failSection s cause).mnt.tokens := by
  rw [Tau.failSection, if_neg (by omega)]
  exact ⟨_, List.mem_cons_self ..⟩

/-- The token of FAULT that a request for its section takes over. -/
def Token.faultOf (target : Nat) (k : Token) : Bool := k.owner == 3 && k.cls == 0 && k.target == target

/-- Where no token but FAULT's own clashes with a request for a section, nothing stands against it. -/
theorem Tau.tokConflict_of_faultOf
    (clear : ∀ j ∈ x.mnt.tokens, j.faultOf target = true ∨ tokClash (j.cls, j.target) (0, target) = false) :
    x.tokConflict 0 target = none := by
  have none_clashes : (x.mnt.tokens.filter fun k => tokClash (k.cls, k.target) (0, target) &&
      !(k.owner == 3 && k.cls == 0 && (0 : Nat) == 0 && k.target == target)) = [] := by
    refine List.filter_eq_nil_iff.mpr fun j held => ?_
    rcases clear j held with fault | apart
    · simp only [Token.faultOf] at fault
      simp_all
    · simp [apart]
  simp only [Tau.tokConflict, none_clashes]
  rfl

theorem Tau.tokTake_of_faultOf {c u : Nat} (cls : c = 0) (named : u = target) (clear : x.tokConflict 0 target = none)
    (fault : x.mnt.tokens.find? (Token.faultOf target) = some k) : x.tokTake c u owner =
      ((x.setTokens ({ k with owner := owner } :: x.mnt.tokens.filter (·.id != k.id))).tokRecord 0 { k with owner := owner },
        some { k with owner := owner }) := by
  subst cls
  rw [named]
  have same : (fun k : Token => k.owner == 3 && k.cls == 0 && (0 : Nat) == 0 && k.target == target) = Token.faultOf target := by
    funext k
    simp [Token.faultOf]
  simp only [Tau.tokTake, clear, same, fault]

section
variable (go : v.testBit 31 = true) (fits : tokTarget (bits v 0 3) (x.rd Reg.MNT_TOK_TARGET) = true)
include go fits

theorem Tau.tokRequest_of_granted {y : Tau}
    (take : x.tokTake (bits v 0 3) (x.rd Reg.MNT_TOK_TARGET) (portOwner port) = (y, some k)) :
    x.tokRequest port v = y.tokResult Code.done k.id := by
  simp [Tau.tokRequest, go, fits, take]

theorem Tau.tokRequest_of_refused {y : Tau}
    (take : x.tokTake (bits v 0 3) (x.rd Reg.MNT_TOK_TARGET) (portOwner port) = (y, none)) :
    x.tokRequest port v = y.tokResult Code.busy 0 := by
  simp [Tau.tokRequest, go, fits, take]

end

theorem Tau.tokRelease_of_fault (go : v.testBit 31 = true) (allowed : v.testBit 30 = true → isMgmt port = true)
    (held : x.mnt.tokens.find? (·.id == bits v 0 8) = some k) (fault : k.owner = 3) :
    x.tokRelease port v = x.tokRefused (bits v 0 8) := by
  cases force : v.testBit 30
  · simp [Tau.tokRelease, go, held, fault, force]
  · simp [Tau.tokRelease, go, held, fault, force, allowed force]

end

end Sys2Proof.Machine

open Sys2Proof Sys2Proof.Machine

/-- Settles O60: the token of a failing section, its takeover, and what a forced release of it comes to. -/
theorem faultTokensHold : Obligations.FaultTokensHold := by
  intro s t port m v sec cause id k on x fault
  have up : x.on = true := (State.tauAt_on s t).trans on
  refine ⟨fun serves => ?_, fun booted go cls target found clear => ?_, fun booted go force named held owned => ?_⟩
  · obtain ⟨id, held⟩ := Tau.failSection_tokens cause serves
    exact ⟨_, held, by simp [fault]⟩
  · have fits : tokTarget (bits v.toNat 0 3) (x.rd Reg.MNT_TOK_TARGET) = true := by
      rw [cls, target]
      exact decide_eq_true sec.isLt
    have take := Tau.tokTake_of_faultOf (owner := portOwner port) cls target (Tau.tokConflict_of_faultOf clear) found
    exact ⟨_, exec_of_tauWrite rfl on
        ((Tau.write_tokenRequest up booted ..).trans (Tau.tokRequest_of_granted go fits take)),
      List.mem_cons_self .., Tau.tokResult_code .., Tau.tokResult_id ..⟩
  · subst named
    exact ⟨_, exec_of_tauWrite rfl on
        ((Tau.write_tokenRelease up booted ..).trans (Tau.tokRelease_of_fault go (fun _ => rfl) held owned)),
      rfl, Tau.tokRefused_code .., (Tau.tokRefused_id ..).trans (Nat.mod_eq_of_lt (bits_lt ..))⟩

end

section
/-! ## Notices and tokens by command (R394, R402, R405, R409, R490) -/

namespace Sys2Proof.Machine

section
variable {x z : Tau} {v nseq : Nat} {port : Port}

theorem Tau.forceRelease_of_port (go : v.testBit 31 = true) (barred : isMgmt port = false) :
    x.forceRelease port v = x.bump Reg.GEN_ACC_ERR_CNT := by
  simp [Tau.forceRelease, go, barred]

theorem Tau.forceRelease_of_issued (go : v.testBit 31 = true) (allowed : isMgmt port = true)
    (issued : x.issueNotice 4 (bits v 0 16) 0 (x.per + x.rd Reg.MNT_ACK_TMO) [] = (z, 0, nseq)) :
    x.forceRelease port v = (z.tokRecord 2 ⟨0, 0, bits v 0 16, 1⟩).followUps := by
  simp only [Tau.forceRelease, go, allowed, issued, Bool.not_true, Bool.false_eq_true, if_false]

end

section
variable {x : Tau} {cls target owner v : Nat} {port : Port} {k : Token}

theorem portOwner_ne_fault (port : Port) : portOwner port ≠ 3 := by
  cases port <;> simp [portOwner]

theorem Tau.freshId_lt (x : Tau) {n : Nat} (pos : 0 < n) (used : List Nat) : (x.freshId n used).1 < n := by
  have below : ∀ i ∈ (List.range (used.length + 1)).map fun j => ((x.pick n).1 + j) % n, i < n := by
    intro i mem
    obtain ⟨j, -, rfl⟩ := List.mem_map.mp mem
    exact Nat.mod_lt _ pos
  simp only [Tau.freshId]
  cases found : List.find? (fun i => !used.contains i) ((List.range (used.length + 1)).map fun j => ((x.pick n).1 + j) % n) with
  | none => exact Nat.mod_lt _ pos
  | some i => exact below i (List.mem_of_find?_eq_some found)

@[simp] theorem Tau.freshId_mnt (x : Tau) (n : Nat) (used : List Nat) : (x.freshId n used).2.mnt = x.mnt := rfl

/-- Where no token is held, a request is granted under a new id. -/
theorem Tau.tokTake_of_no_token (held : x.mnt.tokens = []) :
    x.tokTake cls target owner =
      (((x.freshId 16 []).2.setTokens [⟨(x.freshId 16 []).1, cls, target, owner⟩]).tokRecord 0
        ⟨(x.freshId 16 []).1, cls, target, owner⟩, some ⟨(x.freshId 16 []).1, cls, target, owner⟩) := by
  have clear : x.tokConflict cls target = none := by simp [Tau.tokConflict, held, isort]
  have new : x.tokId = some (x.freshId 16 []) := by
    rw [Tau.tokId, held]
    rfl
  simp only [Tau.tokTake, clear, held, List.find?_nil, new, Tau.freshId_mnt]

theorem Tau.tokConflict_of_one (held : x.mnt.tokens = [k]) (clash : tokClash (k.cls, k.target) (cls, target) = true)
    (ours : k.owner ≠ 3) : x.tokConflict cls target = some k := by
  simp [Tau.tokConflict, held, clash, ours, isort, insertBy]

/-- What a refused request leaves: the token that it clashes with is shown, and all tokens stand. -/
theorem Tau.tokTake_of_conflict (clash : x.tokConflict cls target = some k) :
    ∃ y, x.tokTake cls target owner = (y, none) ∧ y.mnt = x.mnt ∧ y.rd Reg.MNT_HOLDER_ID = k.id % 256 ∧
      y.rd Reg.MNT_HOLDER_CLASS = k.cls % 8 := by
  simp only [Tau.tokTake, clash]
  refine ⟨_, rfl, rfl, ?_, ?_⟩
  · rw [Tau.rd_bump_of_tag _ (by decide), Tau.rd_wr_of_tag (by decide), Tau.rd_wr_of_tag (by decide), Tau.rd_wr_of_tag (by decide),
      Tau.rd_wr]
    rfl
  · rw [Tau.rd_bump_of_tag _ (by decide), Tau.rd_wr_of_tag (by decide), Tau.rd_wr_of_tag (by decide), Tau.rd_wr]
    rfl

theorem Tau.rd_tokResult_of_tag {g : Fld} (code : g.tag ≠ Reg.MNT_TOK_STAT_CODE.tag) (id : g.tag ≠ Reg.MNT_TOK_STAT_ID.tag)
    (valid : g.tag ≠ Reg.MNT_TOK_STAT_VALID.tag) (c i j u : Nat) : (x.tokResult c i).rd g j u = x.rd g j u := by
  rw [Tau.tokResult, Tau.rd_wr_of_tag valid, Tau.rd_wr_of_tag id, Tau.rd_wr_of_tag code]

theorem Tau.tokRequest_of_target (go : v.testBit 31 = true) (outside : tokTarget (bits v 0 3) (x.rd Reg.MNT_TOK_TARGET) = false) :
    x.tokRequest port v = x.tokRefused 0 := by
  simp [Tau.tokRequest, go, outside]

theorem Tau.tokRelease_of_port (force : v.testBit 30 = true) (barred : isMgmt port = false) :
    x.tokRelease port v = x.bump Reg.GEN_ACC_ERR_CNT := by
  simp [Tau.tokRelease, force, barred]

/-- The only token held is released, by its owner or by force. -/
theorem Tau.tokRelease_of_one (go : v.testBit 31 = true) (held : x.mnt.tokens = [k]) (named : k.id = bits v 0 8) (real : k.owner ≠ 3)
    (may : if v.testBit 30 then isMgmt port = true else k.owner = portOwner port) :
    x.tokRelease port v =
      ((x.setTokens []).tokRecord (if v.testBit 30 then 2 else 1) k).tokResult Code.done (bits v 0 8) := by
  cases force : v.testBit 30
  · have owned : k.owner = portOwner port := by simpa [force] using may
    simp [Tau.tokRelease, force, go, held, named, owned, portOwner_ne_fault]
  · have allowed : isMgmt port = true := by simpa [force] using may
    simp [Tau.tokRelease, force, go, held, named, real, allowed]

end

end Sys2Proof.Machine

open Sys2Proof Sys2Proof.Machine

/-- Settles O49, a command at a time: each writes one word of the MNT page. -/
theorem noticesAndTokensByCommand : Obligations.NoticesAndTokensByCommand := by
  intro s t port m v mem z code nseq k on x cls id booted
  have up : x.on = true := (State.tauAt_on s t).trans on
  have requests {y : Tau} (hy : x.tokRequest port v.toNat = y) : exec (.tokenRequest t port v) s = .next (s.withTau y) :=
    exec_of_tauWrite rfl on ((Tau.write_tokenRequest up booted ..).trans hy)
  have forces {p : Port} {y : Tau} (hy : x.forceRelease p v.toNat = y) : exec (.forceRelease t p v) s = .next (s.withTau y) :=
    exec_of_tauWrite rfl on ((Tau.write_forceRelease up booted ..).trans hy)
  have frees {p : Port} {y : Tau} (hy : x.tokRelease p v.toNat = y) : exec (.tokenForceRelease t p v) s = .next (s.withTau y) :=
    exec_of_tauWrite rfl on ((Tau.write_tokenRelease up booted ..).trans hy)
  refine ⟨fun go issued => ?_, fun go => ⟨fun barred => forces (Tau.forceRelease_of_port go barred),
    fun issued => forces (Tau.forceRelease_of_issued go rfl issued), fun outside => requests (Tau.tokRequest_of_target go outside),
    fun fits free => ⟨Tau.freshId_lt x (by decide) [], requests (Tau.tokRequest_of_granted go fits (Tau.tokTake_of_no_token free))⟩,
    fun fits held clash ours => ?_, fun held named owner unforced => ?_, fun held named real force => ?_,
    fun force barred => frees (Tau.tokRelease_of_port force barred)⟩⟩
  · refine exec_of_tauWrite rfl on ((Tau.write_noticeIssue up booted ..).trans ?_)
    simp only [go, if_true, Tau.noticeIssue, issued]
  · obtain ⟨y, take, kept, shownId, shownCls⟩ := Tau.tokTake_of_conflict (owner := portOwner port) (Tau.tokConflict_of_one held clash ours)
    refine ⟨_, requests (Tau.tokRequest_of_refused go fits take), (congrArg (·.tokens) kept).trans held, Tau.tokResult_code .., ?_, ?_⟩
    · rw [Tau.rd_tokResult_of_tag (by decide) (by decide) (by decide), shownId]
    · rw [Tau.rd_tokResult_of_tag (by decide) (by decide) (by decide), shownCls]
  · have released := Tau.tokRelease_of_one go held named (owner ▸ portOwner_ne_fault port) (by rw [unforced]; exact owner)
    rw [unforced] at released
    exact exec_of_tauWrite rfl on ((Tau.write_tokenRelease up booted ..).trans released)
  · have released := Tau.tokRelease_of_one (port := .mgmt m) go held named real (by rw [force]; rfl)
    rw [force] at released
    exact frees released

end

section
/-! ## Built-in self-test (R416 to R418) -/

namespace Sys2Proof.Machine

theorem Tau.write_bistAbort {x : Tau} (h : x.on = true) (hb : x.rd Reg.GEN_BOOT_STATE = 3) (sec : Fin 4) (port : Port) (v : Nat) (m : Reads) :
    x.writeField Reg.BIST_BIST_CTRL_ABORT 0 sec port v m = x.bistCtrl sec v := by
  rw [← Tau.write_bistControl h hb sec port v m]
  rfl

/-- The slices of a section within the last sixteen periods. -/
def Tau.bistRecent (x : Tau) (s : Nat) : List Nat := (x.bist s).recent.filter fun p => decide (x.per < p + 16)

/-- A slice of a section is counted as progress and against its duty. -/
def Tau.bistSliced (x : Tau) (s : Nat) : Tau :=
  (x.bump Reg.BIST_PROGRESS 0 s).setBist s fun b => { b with recent := x.per :: x.bistRecent s }

/-- The failing bits of instance `n` that no spare covers. -/
def BistSt.uncovered (b : BistSt) (n : Nat) (bad : List (Nat × Nat)) : List (Nat × Nat × Nat) :=
  (bad.filter fun (f : Nat × Nat) => !(b.rows.contains (n, f.1)) && !(b.cols.contains (n, f.2))).map fun (f : Nat × Nat) => (n, f.1, f.2)

/-- A memory slice of instance `n` has counted and logged its failing bits. -/
def Tau.bistCounted (x : Tau) (s n : Nat) (rest : List (Bool × Nat)) (bad : List (Nat × Nat)) : Tau :=
  ((x.bistSliced s).setBist s fun b =>
    { b with left := rest, log := (b.log ++ (x.bist s).uncovered n bad).take 64 }).bumpBy
      Reg.BIST_FAIL_CNT ((x.bist s).uncovered n bad).length 0 s

/-- A run of BIST begins with its results cleared. -/
def Tau.bistBegun (x : Tau) (s : Nat) : Tau :=
  (((x.wr Reg.BIST_STATE 1 0 s).wr Reg.BIST_PROGRESS 0 0 s).wr Reg.BIST_FAIL_CNT 0 0 s).wr Reg.BIST_LBIST_PAT 0 0 s

section
variable {x : Tau} {s v : Nat}

@[simp] theorem Tau.bumpBy_bist (f : Fld) (n i t : Nat) : (x.bumpBy f n i t).bist s = x.bist s := by
  unfold Tau.bumpBy
  split <;> rfl

theorem Tau.bist_setBist (h : s < x.mnt.bist.length) (f : BistSt → BistSt) : (x.setBist s f).bist s = f (x.bist s) :=
  getD_modifyAt_self h f _

@[simp] theorem Tau.setBist_bist_length (f : BistSt → BistSt) : (x.setBist s f).mnt.bist.length = x.mnt.bist.length :=
  length_modifyAt ..

/-- A section with slices to run is one whose BIST the TAU keeps. -/
theorem Tau.bist_length_of_left {e : Bool × Nat} {rest : List (Bool × Nat)} (left : (x.bist s).left = e :: rest) :
    s < x.mnt.bist.length := by
  by_contra beyond
  have none : x.bist s = BistSt.reset := by simp [Tau.bist, Nat.le_of_not_lt beyond]
  rw [none] at left
  cases left

theorem Tau.bistCounted_left {n : Nat} {rest : List (Bool × Nat)} (h : s < x.mnt.bist.length) (bad : List (Nat × Nat)) :
    ((x.bistCounted s n rest bad).bist s).left = rest := by
  rw [Tau.bistCounted, Tau.bumpBy_bist, Tau.bist_setBist]
  simpa [Tau.bistSliced] using h

section
variable (go : v.testBit 0 = true) (fresh : v.testBit 3 = false)
include go fresh

theorem Tau.bistCtrl_of_no_token (free : x.tokHeld 0 s = false) :
    x.bistCtrl s v = (x.bump Reg.MNT_TOK_REF_CNT).bump Reg.BIST_REF_CNT 0 s := by
  simp [Tau.bistCtrl, go, fresh, free]

theorem Tau.bistCtrl_of_service (held : x.tokHeld 0 s = true) (serves : x.secState s < 2) :
    x.bistCtrl s v = x.bump Reg.BIST_REF_CNT 0 s := by
  simp [Tau.bistCtrl, go, fresh, held, serves]

theorem Tau.bistCtrl_of_memory (held : x.tokHeld 0 s = true) (out : 2 ≤ x.secState s) (lc : x.lc ≠ 0) (mode : bits v 1 2 = 0)
    (idle : x.rd Reg.BIST_STATE 0 s ≠ 1) :
    x.bistCtrl s v = (x.setBist s fun b =>
      { b with mode := 0, left := (List.range 96).map fun i => (false, i), abort := false, log := [] }).bistBegun s := by
  have start : ¬ (x.secState s < 2 ∨ x.lc = 0 ∨ (0 : Nat) = 3 ∨ x.rd Reg.BIST_STATE 0 s = 1) := by omega
  simp only [Tau.bistCtrl, go, fresh, held, start, mode, Bool.false_eq_true, Bool.not_true, false_and, if_false, if_true,
    List.append_nil, Nat.zero_ne_one]
  rfl

end

theorem Tau.bistCtrl_of_abort (stay : v.testBit 0 = false) (abort : v.testBit 3 = true) (runs : x.rd Reg.BIST_STATE 0 s = 1) :
    x.bistCtrl s v = x.setBist s fun b => { b with abort := true } := by
  simp [Tau.bistCtrl, stay, abort, runs]

theorem Tau.bistCtrl_of_idle (stay : v.testBit 0 = false) (idle : x.rd Reg.BIST_STATE 0 s ≠ 1) : x.bistCtrl s v = x := by
  simp [Tau.bistCtrl, stay, idle]

/-! ### Repair (R418) -/

/-- A repair has given failing bits their spares, with the slices `left` to run. -/
def Tau.bistSpared (x : Tau) (s : Nat) (rows cols : List (Nat × Nat)) (left : List (Bool × Nat)) : Tau :=
  ((x.setBist s fun b => { b with rows := rows, cols := cols, left := left, log := [], abort := false, mode := 0 }).wr
    Reg.BIST_REPAIR_STAT_ROWS (clipU 8 rows.length) 0 s).wr Reg.BIST_REPAIR_STAT_COLS (clipU 8 cols.length) 0 s

/-- The instances with a failing bit in the log. -/
def BistSt.failing (b : BistSt) : List Nat := (List.range 96).filter fun i => b.log.any (·.1 == i)

section
variable (go : v.testBit 0 = true) (held : x.tokHeld 0 s = true)
include go held

theorem Tau.bistRepair_of_service (serves : x.secState s < 2) : x.bistRepair s v = x.bump Reg.BIST_REF_CNT 0 s := by
  simp [Tau.bistRepair, go, held, serves]

section
variable (out : 2 ≤ x.secState s) (lc : x.lc ≠ 0) (failed : x.rd Reg.BIST_STATE 0 s = 3) {rows cols : List (Nat × Nat)}
include out lc failed

theorem Tau.bistRepair_of_failed {ok : Bool} (cover : (x.bist s).log.foldl coverBit ((x.bist s).rows, (x.bist s).cols, true) = (rows, cols, ok)) :
    x.bistRepair s v =
      let y := x.bistSpared s rows cols ((x.bist s).failing.map fun i => (false, i))
      if !ok then ((y.setBist s fun b => { b with left := [] }).wr Reg.BIST_REPAIR_STAT_UNREP 1 0 s).bistRecord s 7
      else if (x.bist s).failing.isEmpty then y
      else ((y.wr Reg.BIST_STATE 1 0 s).wr Reg.BIST_FAIL_CNT 0 0 s).wr Reg.BIST_PROGRESS 0 0 s := by
  have start : ¬ (x.secState s < 2 ∨ x.lc = 0 ∨ x.rd Reg.BIST_STATE 0 s ≠ 3) := by omega
  rw [Tau.bistRepair]
  simp only [go, held, Bool.not_true, Bool.false_eq_true, if_false]
  rw [if_neg start, cover]
  rfl

end

end

/-! ### Slices (R417) -/

theorem Tau.bistSlice_of_stopped {bad : List (Nat × Nat)} {pat : Option Nat} {last : Bool}
    (stopped : x.rd Reg.BIST_STATE 0 s ≠ 1 ∨ x.rd Reg.BIST_DUTY 0 s ≤ (x.bistRecent s).length) : x.bistSlice s bad pat last = x := by
  rw [Tau.bistSlice]
  exact if_pos stopped

/-- A memory slice: it counts, and ends the run where it is aborted or was the last. -/
theorem Tau.bistSlice_of_memory {n : Nat} {rest : List (Bool × Nat)} (runs : x.rd Reg.BIST_STATE 0 s = 1)
    (may : (x.bistRecent s).length < x.rd Reg.BIST_DUTY 0 s) (left : (x.bist s).left = (false, n) :: rest) (bad : List (Nat × Nat))
    (last : Bool) :
    x.bistSlice s bad none last =
      let y := x.bistCounted s n rest bad
      if (x.bist s).abort then y.bistEnd s 4
      else if (y.bist s).left.isEmpty then y.bistEnd s (if 0 < y.rd Reg.BIST_FAIL_CNT 0 s then 3 else 2)
      else y := by
  have go : ¬ (x.rd Reg.BIST_STATE 0 s ≠ 1 ∨ x.rd Reg.BIST_DUTY 0 s ≤ (x.bistRecent s).length) := by omega
  rw [Tau.bistSlice]
  refine (if_neg go).trans ?_
  simp only [left, Option.isSome_none, Bool.or_false, decide_eq_true_eq]
  rfl

end

end Sys2Proof.Machine

open Sys2Proof Sys2Proof.Machine

/-- Settles O59: a write of GO, ABORT or REPAIR by what stands in its way, and a slice by what the run holds. -/
theorem selfTestsRun : Obligations.SelfTestsRun := by
  intro s t port sec v bad last rest rows cols n on x b recent sliced begun fails counted insts repaired
  have up : x.on = true := (State.tauAt_on s t).trans on
  have slices {bad : List (Fin 16384 × Fin 72)} {l : Bool} {y : Tau}
      (hy : x.bistSlice sec (bad.map fun f => (f.1.val, f.2.val)) none l = y) : exec (.bistSlice t sec bad none l) s = .next (s.withTau y) :=
    exec_of_onMain rfl on hy
  refine ⟨fun booted => ?_, fun idle => slices (Tau.bistSlice_of_stopped (.inl idle)),
    fun spent => slices (Tau.bistSlice_of_stopped (.inr spent)), fun runs may left => ?_⟩
  · have starts {y : Tau} (hy : x.bistCtrl sec v.toNat = y) : exec (.bistStart t port sec v) s = .next (s.withTau y) :=
      exec_of_tauWrite rfl on ((Tau.write_bistControl up booted ..).trans hy)
    have aborts {y : Tau} (hy : x.bistCtrl sec v.toNat = y) : exec (.bistAbort t port sec v) s = .next (s.withTau y) :=
      exec_of_tauWrite rfl on ((Tau.write_bistAbort up booted ..).trans hy)
    have repairs {y : Tau} (hy : x.bistRepair sec v.toNat = y) : exec (.bistRepair t port sec v) s = .next (s.withTau y) :=
      exec_of_tauWrite rfl on ((Tau.write_bistRepair up booted ..).trans hy)
    refine ⟨fun go fresh free => starts (Tau.bistCtrl_of_no_token go fresh free),
      fun go fresh held serves => starts (Tau.bistCtrl_of_service go fresh held serves),
      fun go fresh held out lc mode idle => starts (Tau.bistCtrl_of_memory go fresh held out lc mode idle),
      fun stay abort runs => aborts (Tau.bistCtrl_of_abort stay abort runs), fun stay idle => aborts (Tau.bistCtrl_of_idle stay idle),
      fun go held serves => repairs (Tau.bistRepair_of_service go held serves),
      fun go held out lc failed => ⟨fun cover some => repairs ?_, fun cover => repairs ?_, fun clean hr hc => repairs ?_⟩⟩
    · rw [Tau.bistRepair_of_failed go held out lc failed cover]
      exact (if_neg (by simp)).trans (if_neg fun empty => some (List.isEmpty_iff.mp empty))
    · rw [Tau.bistRepair_of_failed go held out lc failed cover]
      exact if_pos rfl
    · subst hr hc
      have none : b.failing = [] := by simp [BistSt.failing, clean]
      rw [Tau.bistRepair_of_failed go held out lc failed (ok := true) (by rw [clean]; rfl), none]
      exact (if_neg (by simp)).trans (if_pos rfl)
  · have slice := Tau.bistSlice_of_memory runs may left (bad.map fun f => (f.1.val, f.2.val)) last
    have rests := Tau.bistCounted_left (n := n) (rest := rest) (Tau.bist_length_of_left left) (bad.map fun f => (f.1.val, f.2.val))
    refine ⟨fun stay more => slices (slice.trans ?_), fun stay done => slices (slice.trans ?_), fun abort => slices (slice.trans ?_)⟩
    · exact (if_neg (Bool.eq_false_iff.mp stay)).trans (if_neg (by rw [rests]; simpa using more))
    · exact (if_neg (Bool.eq_false_iff.mp stay)).trans (if_pos (by rw [rests, done]; rfl))
    · exact if_pos abort

end

section
/-! ## A snapshot on a page that runs on its reset values (R347, R433) -/

namespace Sys2Proof.Machine

/-- A booted TAU whose REC page of section 0 is SAFE. -/
def safeRecorder : State := State.reset.onTau fun x => (x.wr Reg.GEN_BOOT_STATE 3).wr (Reg.PG_STATUS_SAFE 9) 1

/-- A freeze that has copied nothing: the clause about snapshots does not look at it. -/
def idleFreeze : Freeze :=
  { dest := 0, minSev := 0, from_ := 0, firstSeq := 0, lastSeq := 0, filtered := 0, t := 0, drop := 0, evict := 0, addr := 0, window := [],
    start := 0, newest := 0, want := 0, trunc := false, nrec := 0, bytes := 0 }

end Sys2Proof.Machine

open Sys2Proof Sys2Proof.Machine

/-- Refutes O56, in its clause about snapshots: a page that is SAFE takes a write of an RW field into the field's shadow, so that SNAP_SEQ
keeps its value, and the snapshot is taken of that one and not of the one written. -/
theorem not_recordersFreeze : ¬ Obligations.RecordersFreeze := by
  intro h
  obtain ⟨-, -, -, -, -, snapshot⟩ := h safeRecorder 0 (.core 0) 0 0 5 idleFreeze idleFreeze ⟨0, 0, [], false, false⟩ false
    (by decide +kernel)
  obtain ⟨absent, -⟩ := snapshot (by decide +kernel) (by decide +kernel)
  have shown := absent (by decide +kernel)
  have ran : exec (.snapshotRead 0 (.core 0) 0 5) safeRecorder =
    .next (safeRecorder.tauWrite 0 Reg.REC_SNAP_SEQ 0 0 (.core 0) 5 ⟨[], [], []⟩) := rfl
  have kept : (safeRecorder.tauWrite 0 Reg.REC_SNAP_SEQ 0 0 (.core 0) 5 ⟨[], [], []⟩).tau.rd Reg.REC_SNAP_SEQ 0 0 = 0 := by decide +kernel
  rw [Host.Outcome.next.inj (ran.symm.trans shown)] at kept
  exact absurd kept (by decide +kernel)

end

section
/-! ## Sidings (R360, R369) -/

namespace Sys2Proof.Machine

section
variable {x : Tau} {v : Nat} {mem : List Byte}

/-- A siding that may be posted at base `base` with `size` bytes in a partition of `part` bytes (R360). -/
abbrev sidingFormOk (part base size : Nat) : Prop :=
  4096 ≤ size ∧ size ≤ 2 ^ 30 ∧ size % 4096 = 0 ∧ base % 4096 = 0 ∧ base + size ≤ part

/-- A refused post shows its code and is counted. -/
def Tau.sidingRefused (x : Tau) (code c : Nat) : Tau :=
  (x.wr Reg.REC_SD_POST_STAT_CODE code).bump Reg.CMP_POST_REF_CNT 0 (x.chanHome c)

section
variable (go : v.testBit 31 = true)
include go

theorem Tau.sidingPost_of_no_tray (tray : x.isTray = false) : x.sidingPost v mem = x.sidingRefused Code.fit (v % 16) := by
  simp [Tau.sidingPost, go, tray, Tau.sidingRefused]

section
variable (tray : x.isTray = true)
include tray

theorem Tau.sidingPost_of_form (bad : ¬ sidingFormOk (x.rd Reg.TTB_HBM_PART * 2 ^ 30) (fieldAt mem 0 8) (fieldAt mem 8 4)) :
    x.sidingPost v mem = x.sidingRefused Code.fit (v % 16) := by
  simp only [Tau.sidingPost, go, tray, Bool.not_true, Bool.false_eq_true, if_false]
  exact if_pos (by omega)

variable (good : sidingFormOk (x.rd Reg.TTB_HBM_PART * 2 ^ 30) (fieldAt mem 0 8) (fieldAt mem 8 4))
include good

theorem Tau.sidingPost_of_full (full : 16 ≤ (x.chan (v % 16)).posted.length + (x.chan (v % 16)).full.length) :
    x.sidingPost v mem = x.sidingRefused Code.busy (v % 16) := by
  simp only [Tau.sidingPost, go, tray, Bool.not_true, Bool.false_eq_true, if_false]
  exact (if_neg (by omega)).trans (if_pos full)

theorem Tau.sidingPost_of_room (room : ¬ 16 ≤ (x.chan (v % 16)).posted.length + (x.chan (v % 16)).full.length) :
    x.sidingPost v mem =
      ((((x.wr Reg.REC_SD_POST_STAT_CODE Code.done).wr Reg.REC_SD_STAT_DRY 0 (v % 16) (x.chanHome (v % 16))).setChan (v % 16) fun k =>
        { k with posted := k.posted ++ [⟨x.rd Reg.REC_SD_OFS_LO * 32 + x.rd Reg.REC_SD_OFS_HI * 2 ^ 32, fieldAt mem 0 8, fieldAt mem 8 4, 0,
          none, false⟩] }).sidingResume (v % 16)) := by
  simp only [Tau.sidingPost, go, tray, Bool.not_true, Bool.false_eq_true, if_false]
  exact (if_neg (by omega)).trans (if_neg room)

end

end

/-! ### Idle channels (R369) -/

theorem Tau.sidingFlush_of_off {c : Nat} (off : x.chanOn c = false) : x.sidingFlush c = x := by
  simp [Tau.sidingFlush, off]

/-- Where no channel of a list runs, flushing them does nothing. -/
theorem Tau.foldl_sidingFlush_of_off {l : List Nat} (off : ∀ c ∈ l, x.chanOn c = false) : l.foldl Tau.sidingFlush x = x := by
  induction l with
  | nil => rfl
  | cons c l ih =>
    rw [List.foldl_cons, Tau.sidingFlush_of_off (off c List.mem_cons_self)]
    exact ih fun d mem => off d (List.mem_cons_of_mem c mem)

theorem Tau.chanOn_of_no_tray (tray : x.isTray = false) (c : Nat) : x.chanOn c = false := by
  simp [Tau.chanOn, tray]

theorem Tau.flushAll_of_first (runs : x.chanOn 0 = true) (idle : (x.chan 0).idle + x.rd Reg.CMP_FLUSH_IDLE ≤ x.per)
    (others : ∀ c : Fin 16, c ≠ 0 → ((x.sidingClose 0).sidingGrant 0).chanOn c.val = false) :
    (List.range 16).foldl Tau.sidingFlush x = (x.sidingClose 0).sidingGrant 0 := by
  have first : x.sidingFlush 0 = (x.sidingClose 0).sidingGrant 0 := if_pos ⟨runs, idle⟩
  rw [show List.range 16 = 0 :: (List.range 15).map (· + 1) from rfl, List.foldl_cons, first]
  refine Tau.foldl_sidingFlush_of_off fun c mem => ?_
  obtain ⟨k, below, rfl⟩ := List.mem_map.mp mem
  have small := List.mem_range.mp below
  exact others ⟨k + 1, by omega⟩ (Fin.ne_of_val_ne (Nat.succ_ne_zero k))

end

end Sys2Proof.Machine
end

section
/-! ## Compression jobs (R372 to R376) -/

namespace Sys2Proof.Machine

section
variable {x : Tau} {s v i : Nat} {k : CmpCtx} {mem : List Byte}

theorem Tau.cmpPost_of_full {a b c : List Byte} (full : 16 ≤ (x.eng s).queue.length) :
    x.cmpPost s a b c = (x.wr Reg.CMP_JOB_POST_STAT_CODE Code.busy 0 s).bump Reg.CMP_POST_REF_CNT 0 s := if_pos full

theorem Tau.cmpPost_of_room {a b c : List Byte} (room : (x.eng s).queue.length < 16) :
    x.cmpPost s a b c = (((x.wr Reg.CMP_JOB_POST_STAT_CODE Code.done 0 s).setEng s fun e =>
      { e with queue := e.queue ++ [jobOf (x.rd Reg.TTB_HBM_PART * 2 ^ 30) a b c] }).cmpTake s 24) := by
  rw [Tau.cmpPost, if_neg (Nat.not_le.mpr room)]
  dsimp only
  rw [Tau.rd_wr_of_tag (by decide)]

/-! ### Buffers (R372, R373) -/

/-- The buffer that a write of BUF_POST names. -/
def Tau.postedBuf (x : Tau) (s : Nat) (mem : List Byte) : Nat × Nat × Nat × Nat :=
  bufAt (x.rd Reg.CMP_BUF_OFS_LO 0 s + 2 ^ 32 * x.rd Reg.CMP_BUF_OFS_HI 0 s) mem

/-- A context has taken one more buffer. -/
def CmpCtx.withBuf (k : CmpCtx) (q : Nat × Nat × Nat × Nat) : CmpCtx :=
  { k with
    job := { k.job with bufs := k.job.bufs ++ [q] }
    resumed := k.resumed || k.stopped
    stopped := false
    owed := k.owed + 16 + if k.ending && k.code != Code.incompressible then 4 else 0 }

theorem Tau.cmpBuffer_of_free (free : x.cctx s (v % 32) = none) : x.cmpBuffer s v mem = x.bump Reg.CMP_POST_REF_CNT 0 s := by
  simp only [Tau.cmpBuffer, free]

section
variable (held : x.cctx s (v % 32) = some k)
include held

theorem Tau.cmpBuffer_of_unfit (unfit : k.user ≠ 0 ∨ bufOk (x.rd Reg.TTB_HBM_PART * 2 ^ 30) k.job.host (x.postedBuf s mem) = false) :
    x.cmpBuffer s v mem = x.bump Reg.CMP_POST_REF_CNT 0 s := by
  simp only [Tau.cmpBuffer, held]
  refine if_pos ?_
  rcases unfit with stream | range
  · simp [stream]
  · simpa [Tau.postedBuf] using Or.inr range

variable (host : k.user = 0) (fits : bufOk (x.rd Reg.TTB_HBM_PART * 2 ^ 30) k.job.host (x.postedBuf s mem) = true)
include host fits

/-- A buffer that a host job may have joins it while the job has less than sixteen. -/
theorem Tau.cmpBuffer_of_fit :
    x.cmpBuffer s v mem =
      if 16 ≤ k.job.bufs.length then (x.wr Reg.CMP_JOB_POST_STAT_CODE Code.busy 0 s).bump Reg.CMP_POST_REF_CNT 0 s
      else (x.setCctx s (v % 32) (some (k.withBuf (x.postedBuf s mem)))).cmpPump s (v % 32) := by
  have taken : ¬ (k.user != 0 || !bufOk (x.rd Reg.TTB_HBM_PART * 2 ^ 30) k.job.host (x.postedBuf s mem)) = true := by
    rw [host, fits]
    decide
  simp only [Tau.cmpBuffer, held]
  exact if_neg taken

end

/-! ### Aborts and ends (R370, R375, R376) -/

/-- An engine without a job in a context looks for an aborted one in its queue. -/
theorem firstIdx_replicate_none (p : Option CmpCtx → Bool) (refuses : p none = false) (n : Nat) :
    firstIdx p (List.replicate n none) = none := by
  induction n with
  | zero => rfl
  | succ n ih => simp [List.replicate_succ, firstIdx, refuses, ih]

/-- A queued job that ends is left with no buffer to fill. -/
def CmpJob.aborted (j : CmpJob) : CmpJob := { j with bufs := [], op := 254 }

/-- What the quota lets the completion of an aborted queued job be charged. -/
def Tau.abortOwed (x : Tau) (s : Nat) (j : CmpJob) : Tau × CmpCtx :=
  x.cmpOwe s ({ CmpCtx.stream (0, 0) with job := j.aborted, code := Code.aborted } : CmpCtx).end

section
variable (idle : (x.eng s).ctxs = List.replicate 24 none)
include idle

theorem Tau.cmpAbort_of_empty (empty : (x.eng s).queue = []) (tag : Nat) : x.cmpAbort s tag = x := by
  rw [Tau.cmpAbort, idle, empty]
  dsimp only
  rw [firstIdx_replicate_none _ (by rfl)]
  rfl

theorem Tau.cmpAbort_of_queued {j : CmpJob} (queued : (x.eng s).queue = [j]) :
    x.cmpAbort s j.tag =
      if 0 < (x.abortOwed s j).2.owed then
        (x.abortOwed s j).1.setEng s fun e => { e with queue := modifyAt (fun _ => j.aborted) 0 e.queue }
      else ((x.abortOwed s j).1.setEng s fun e => { e with queue := e.queue.eraseIdx 0 }).cmpFinish s (x.abortOwed s j).2 := by
  have first : firstIdx (fun (k : CmpJob) => k.tag == j.tag) [j] = some 0 := by simp [firstIdx]
  rw [Tau.cmpAbort, idle, queued]
  dsimp only
  rw [firstIdx_replicate_none _ (by rfl), first]
  rfl

end

theorem Tau.cmpComplete_of_free (free : x.cctx s i = none) : x.cmpComplete s i = x := by
  simp only [Tau.cmpComplete, free]

section
variable (held : x.cctx s i = some k)
include held

theorem Tau.cmpComplete_of_unfinished (unfinished : k.owed ≠ 0 ∨ k.ending = false) : x.cmpComplete s i = x := by
  simp only [Tau.cmpComplete, held]
  exact if_pos (.inr unfinished)

theorem Tau.cmpComplete_of_finished (host : k.user = 0) (paid : k.owed = 0) (ending : k.ending = true) :
    x.cmpComplete s i =
      let y := if k.code = Code.aborted then x
        else if k.job.op = 0 then (x.encoded s k.inLen).bumpBy Reg.CMP_RAW_CNT (bit k.raw) 0 s
        else if k.job.op = 1 then x.decoded s k.done else x
      ((y.cmpFinish s k).setCctx s i none).cmpTake s 24 := by
  simp only [Tau.cmpComplete, held]
  exact if_neg (by simp [host, paid, ending])

end

end

end Sys2Proof.Machine

open Sys2Proof Sys2Proof.Machine

/-- Settles O57, a command at a time: the posts by what refuses them, an abort by the queue, an end by what the context still owes. -/
theorem compressionJobsRun : Obligations.CompressionJobsRun := by
  intro s t port sec c v m mem k j on x e ch base size part ofs formOk full gone owed q more
  have up : x.on = true := (State.tauAt_on s t).trans on
  have flushes {y : Tau} (hy : (List.range 16).foldl Tau.sidingFlush x = y) : exec (.cmpFlushIdle t) s = .next (s.withTau y) :=
    exec_of_onIsland rfl (Tau.islPg_of_on on) hy
  have ends {y : Tau} (hy : x.cmpComplete sec c = y) : exec (.cmpJobComplete t sec c) s = .next (s.withTau y) :=
    exec_of_onIsland rfl (Tau.islPg_of_on on) hy
  refine ⟨fun booted => ?_, fun free => ends (Tau.cmpComplete_of_free free),
    fun held _ unfinished => ends (Tau.cmpComplete_of_unfinished held unfinished),
    fun held host paid ending => ends (Tau.cmpComplete_of_finished held host paid ending),
    fun tray => flushes (Tau.foldl_sidingFlush_of_off fun c _ => Tau.chanOn_of_no_tray tray c),
    fun runs idle others => flushes (Tau.flushAll_of_first runs idle others)⟩
  have posts {y : Tau} (hy : x.sidingPost v.toNat mem = y) : exec (.sidingPost t port v mem) s = .next (s.withTau y) :=
    exec_of_tauWrite rfl on ((Tau.write_sidingPost up booted ..).trans hy)
  have jobs {y : Tau} (go : v.toNat.testBit 0 = true) (hy : x.cmpPost sec m.a m.b m.c = y) :
      exec (.cmpJobPost t port sec v m) s = .next (s.withTau y) :=
    exec_of_tauWrite rfl on ((Tau.write_cmpJobPost up booted ..).trans ((if_pos go).trans hy))
  have buffers {y : Tau} (go : v.toNat.testBit 31 = true) (hy : x.cmpBuffer sec v.toNat mem = y) :
      exec (.cmpBufferPost t port sec v mem) s = .next (s.withTau y) :=
    exec_of_tauWrite rfl on ((Tau.write_cmpBufferPost up booted ..).trans ((if_pos go).trans hy))
  have aborts {y : Tau} (hy : x.cmpAbort sec v.toNat = y) : exec (.cmpJobAbort t port sec v) s = .next (s.withTau y) :=
    exec_of_tauWrite rfl on ((Tau.write_cmpJobAbort up booted ..).trans hy)
  have chan : ch = v.toNat % 16 := by simp [ch, bits]
  clear_value ch
  subst chan
  refine ⟨fun go tray => posts (Tau.sidingPost_of_no_tray go tray), fun go tray bad => posts (Tau.sidingPost_of_form go tray bad),
    fun go tray good full => posts (Tau.sidingPost_of_full go tray good full),
    fun go tray good room => posts (Tau.sidingPost_of_room go tray good room), fun go full => jobs go (Tau.cmpPost_of_full full),
    fun go room => jobs go (Tau.cmpPost_of_room room),
    fun go held host fits room => buffers go ((Tau.cmpBuffer_of_fit held host fits).trans (if_neg (Nat.not_le.mpr room))),
    fun go refused => buffers go ?_,
    fun go held host fits full => buffers go ((Tau.cmpBuffer_of_fit held host fits).trans (if_pos full)), fun idle queued tag => ?_,
    fun idle empty => aborts (Tau.cmpAbort_of_empty idle empty _)⟩
  · obtain free | ⟨held, unfit⟩ := refused
    · exact Tau.cmpBuffer_of_free free
    · exact Tau.cmpBuffer_of_unfit held unfit
  · have abort := Tau.cmpAbort_of_queued idle queued
    rw [tag] at abort
    exact ⟨fun paid => aborts (abort.trans (if_neg (Nat.not_lt.mpr (Nat.le_of_eq paid)))), fun owes => aborts (abort.trans (if_pos owes))⟩

end

section
/-! ## What comes back for notices (R396 to R399, R420, R464) -/

namespace Sys2Proof.Machine

/-- A function that leaves the state as it is may be applied over any list. -/
theorem forEach_of_fixed {α β : Type} {f : β → α → α} {a : α} (fixed : ∀ b, f b a = a) (l : List β) : forEach l f a = a := by
  induction l with
  | nil => rfl
  | cons b l ih => rw [forEach, List.foldl_cons, fixed b]; exact ih

section
variable {x z : Tau} {c : Nat} {r : List Byte}

/-- A record of an attached child that its parsers and its meter let through. -/
theorem Tau.fromKid_of_passed {len k : Nat} (taken : x.kidLost c = false) (attached : (x.kid c).isSome = true)
    (metered : x.meterIn c len = (z, k)) (passed : k < 2) (f : Tau → Bool → Tau) : x.fromKid c len f = f z (k == 1) := by
  rw [Tau.fromKid, taken, if_neg Bool.false_ne_true, Tau.metered_of_passed attached metered f passed]

/-- With no status slot in use nothing follows up. -/
theorem Tau.followUps_of_no_slots (empty : x.ntc.slots = []) : x.followUps = x := by
  rw [Tau.followUps, empty]
  rfl

/-! ### Acknowledgements (R396) -/

theorem Tau.ackIn_of_damaged (damaged : ackOk r = false) : x.ackIn c r = x.bump Reg.GEN_CTL_DMG_CNT := by
  simp [Tau.ackIn, damaged]

section
variable (ok : ackOk r = true) (tray : x.isTray = false)
include ok tray

theorem Tau.ackIn_of_merge {m : AckMerge} (merge : x.ntc.merge = [m])
    (mine : (m.is (Ack.parse r).job (Ack.parse r).epoch (Ack.parse r).nseq && m.pend.testBit c) = true)
    (replay : m.a.replay = (Ack.parse r).replay) :
    x.ackIn c r = (x.setMerges (· == m) (·.take c (Ack.parse r))).finishAcks.followUps := by
  simp [Tau.ackIn, ok, tray, merge, replay, mine]

theorem Tau.ackIn_of_no_merge (merge : x.ntc.merge = []) :
    x.ackIn c r = if (Ack.parse r).replay then (x.ackUp (x.kidBase c) (x.kidSpan c) (Ack.parse r)).followUps
      else x.bump Reg.MNT_NTC_TMO_CNT := by
  simp [Tau.ackIn, ok, tray, merge]

end

/-! ### Deadlines (R397) -/

theorem Tau.ackDeadlines_of_none_due (early : ∀ m ∈ x.ntc.merge, x.per < m.dl ∨ m.pend = 0) : x.ackDeadlines = x.finishAcks := by
  have none : (x.ntc.merge.filter fun m => decide (m.dl ≤ x.per) && m.pend != 0) = [] := by
    refine List.filter_eq_nil_iff.mpr fun m mem => ?_
    rcases early m mem with later | answered
    · simp [Nat.not_le.mpr later]
    · simp [answered]
  simp only [Tau.ackDeadlines, none, forEach, List.foldl_nil]

theorem Tau.ackDeadlines_of_one_due {m : AckMerge} (merge : x.ntc.merge = [m]) (due : m.dl ≤ x.per) (silent : m.pend ≠ 0) :
    x.ackDeadlines = (x.timeOutMerge m).finishAcks := by
  have one : ([m].filter fun m => decide (m.dl ≤ x.per) && m.pend != 0) = [m] := by simp [due, silent]
  simp only [Tau.ackDeadlines, merge, one, forEach, List.foldl_cons, List.foldl_nil]

/-! ### Replays (R398, R464) -/

/-- A logged notice that a replay request of child `c` asks for: above what the child has of its handle, and in its scope. -/
def Tau.replayWanted (x : Tau) (c : Nat) (r : List Byte) (n : Notice) : Bool :=
  (match (replayEntries r).find? (·.1 == n.job) with
    | some (_, e, s) => decide (e < n.epoch) || (e == n.epoch && decide (s < n.nseq))
    | none => true) && (n.job == 0xFFFF || decide (0 < x.scopeCount n.job (x.noticeRanges n) c))

/-- How a replay request ends: the notices no longer logged are counted, and a resync goes up. -/
def Tau.replaysDone (x : Tau) (r : List Byte) : Tau :=
  let y := forEach (replayEntries r) (fun (j, e, n) (y : Tau) => if y.unlogged j e n then y.bump Reg.MNT_NTC_GAP_CNT else y) x
  (y.resync (withCrc (leBytes 1 0xA2 ++ (r.take (r.length - 4)).drop 1))).followUps

theorem Tau.replayRequestIn_of_damaged (damaged : replayOk 0xA1 r = false) : x.replayRequestIn c r = x.bump Reg.GEN_CTL_DMG_CNT := by
  simp [Tau.replayRequestIn, damaged]

section
variable (ok : replayOk 0xA1 r = true)
include ok

theorem Tau.replayRequestIn_of_ok :
    x.replayRequestIn c r = (forEach (x.ntc.log.filter (x.replayWanted c r)) (fun n y => y.replayTo c n) x).replaysDone r := by
  rw [Tau.replayRequestIn, ok]
  exact if_neg Bool.false_ne_true

theorem Tau.replayRequestIn_of_empty_log (log : x.ntc.log = []) : x.replayRequestIn c r = x.replaysDone r := by
  rw [Tau.replayRequestIn_of_ok ok, log]
  rfl

/-- A fleet notice that the child lacks is replayed to it. -/
theorem Tau.replayRequestIn_of_lacked {n : Notice} {epoch nseq : Nat} (log : x.ntc.log = [n]) (fleet : n.job = 0xFFFF)
    (entries : replayEntries r = [(0xFFFF, epoch, nseq)]) (lacks : epoch < n.epoch ∨ (epoch = n.epoch ∧ nseq < n.nseq)) :
    x.replayRequestIn c r = (x.replayTo c n).replaysDone r := by
  have wanted : x.replayWanted c r n = true := by simpa [Tau.replayWanted, entries, fleet] using lacks
  rw [Tau.replayRequestIn_of_ok ok, log, List.filter_cons_of_pos wanted, List.filter_nil, forEach, List.foldl_cons, List.foldl_nil]

end

theorem Tau.replayTo_of_refused {n : Notice} (charge : x.hbmCharge x.anySec 0 n.size = (z, false)) :
    x.replayTo c n = z.bump Reg.MNT_NTC_GAP_CNT := by
  simp only [Tau.replayTo, charge]

theorem Tau.regs_of_charged {s k n : Nat} (charge : x.hbmCharge s k n = (z, true)) : z.regs = x.regs := by
  rw [Tau.hbmCharge] at charge
  split at charge
  · cases charge
    rfl
  · cases charge

/-- Off a TRAY the fragments of a replayed notice go down, with a deadline of their own. -/
theorem Tau.replayTo_of_charged {n : Notice} (tray : x.isTray = false) (charge : x.hbmCharge x.anySec 0 n.size = (z, true)) :
    x.replayTo c n =
      let y := z.bump Reg.MNT_NTC_REPLAY_CNT
      ({ n with replay := true, dl := y.per + y.rd Reg.MNT_ACK_TMO } : Notice).frags.foldl (fun y f => y.sendDown c f) y := by
  have same : z.isTray = x.isTray := by
    rw [Tau.isTray, Tau.roleSet, Tau.role, Tau.rd, Tau.rd, Tau.regs_of_charged charge]
    rfl
  have off : (z.bump Reg.MNT_NTC_REPLAY_CNT).isTray = false := by
    rw [Tau.bump, Tau.wr_isTray (by decide) (by decide), same, tray]
  simp only [Tau.replayTo, charge, off, Bool.not_false, if_true]

/-! ### Resyncs (R398, R399) -/

theorem Tau.resyncIn_of_damaged (damaged : replayOk 0xA2 r = false) : x.resyncIn r = x.bump Reg.GEN_CTL_DMG_CNT := by
  simp [Tau.resyncIn, damaged]

theorem Tau.resyncIn_of_ok (ok : replayOk 0xA2 r = true) : x.resyncIn r = (x.resync r).followUps := by
  simp [Tau.resyncIn, ok]

theorem Tau.resync_of_no_slots (empty : x.ntc.slots = []) :
    x.resync r = if x.roleSet && decide (3 ≤ x.role) then x else x.toParent false r := by
  have kept (e : Nat × Nat × Nat) : ({ x with ntc := { x.ntc with
      slots := x.ntc.slots.map (NtcSlot.resync e.1 e.2.1 e.2.2 (fieldAt r 4 3) (fieldAt r 8 4)) } } : Tau) = x := by
    have same : x.ntc.slots.map (NtcSlot.resync e.1 e.2.1 e.2.2 (fieldAt r 4 3) (fieldAt r 8 4)) = x.ntc.slots := by
      rw [empty]
      rfl
    rw [same]
  simp only [Tau.resync]
  rw [forEach_of_fixed kept]

/-- The ROOT notes in a slot of an earlier NID of the handle the ranks that have come back. -/
theorem Tau.resync_of_one_slot {v : NtcSlot} {job epoch nseq : Nat} (role : x.roleSet = true) (root : 3 ≤ x.role)
    (slots : x.ntc.slots = [v]) (entries : replayEntries r = [(job, epoch, nseq)]) (handle : v.a.job = job)
    (earlier : v.a.epoch < epoch ∨ (v.a.epoch = epoch ∧ v.a.nseq ≤ nseq)) :
    x.resync r = { x with ntc := { x.ntc with
      slots := [{ v with back := joinRanges (v.back ++ [(fieldAt r 4 3, fieldAt r 8 4)]) }] } } := by
  have back : v.resync job epoch nseq (fieldAt r 4 3) (fieldAt r 8 4) =
      { v with back := joinRanges (v.back ++ [(fieldAt r 4 3, fieldAt r 8 4)]) } := if_pos ⟨handle, earlier⟩
  rw [← back]
  simp only [Tau.resync, entries, forEach, List.foldl_cons, List.foldl_nil, slots, List.map_cons, List.map_nil]
  exact if_pos (by rw [Bool.and_eq_true, decide_eq_true_eq]; exact ⟨role, root⟩)

/-- What has been recovered at a closed slot past its deadline, where no replay has been acknowledged. -/
theorem NtcSlot.recov_of_no_acks {v : NtcSlot} {per : Nat} (closed : v.closed = true) (past : v.dl ≤ per) (acks : v.acks = []) :
    v.recov per = Nat.min v.a.unreached (ranksShared v.back v.a.ranges) := by
  simp [NtcSlot.recov, closed, Nat.not_lt.mpr past, acks]

/-! ### Runs past their grace (R420) -/

theorem Tau.graceOver_of_one {p : PackRun} (runs : x.ntc.runs = [p]) (fresh : p.above = false) (late : p.due + p.grace ≤ x.per) :
    x.graceOver =
      let y := ((x.overdueVerdict p p.todo.length).bump Reg.MNT_TST_OVERDUE_CNT).sendDown p.die (dieCmd 2 0xFFFF 0 0 p.pack p.ver 0 0)
      (y.setRun p (some { p with above := true })).answerRun p Code.overdue := by
  have one : ([p].filter fun r => !r.above && decide (r.due + r.grace ≤ x.per)) = [p] := by simp [fresh, late]
  simp only [Tau.graceOver, runs, one, forEach, List.foldl_cons, List.foldl_nil]

end

end Sys2Proof.Machine

open Sys2Proof Sys2Proof.Machine

/-- Settles O48, a kind of record at a time: what the meter lets through of it, by what the state holds for it. -/
theorem answersToNotices : Obligations.AnswersToNotices := by
  intro s t child r z w k job epoch nseq m n v p on x o a mine gaps resynced back
  refine ⟨fun taken attached metered passed => ?_, fun soon => ?_, fun merge due silent => ?_, fun runs fresh late => ?_⟩
  · have acks {y : Tau} (hy : z.ackIn child r = y) : exec (.noticeAckRx t child r) s = .next (s.withTau y) :=
      exec_of_onMain rfl on ((Tau.fromKid_of_passed taken attached metered passed _).trans hy)
    have replays {y : Tau} (hy : z.replayRequestIn child r = y) : exec (.replayRequestRx t child r) s = .next (s.withTau y) :=
      exec_of_onMain rfl on ((Tau.fromKid_of_passed taken attached metered passed _).trans hy)
    have resyncs {y : Tau} (hy : z.resyncIn r = y) : exec (.resyncRx t child r) s = .next (s.withTau y) :=
      exec_of_onMain rfl on ((Tau.fromKid_of_passed taken attached metered passed _).trans hy)
    refine ⟨fun ok tray => ⟨fun merge own replay => acks (Tau.ackIn_of_merge ok tray merge own replay),
        fun merge first => acks ((Tau.ackIn_of_no_merge ok tray merge).trans (if_neg (Bool.eq_false_iff.mp first))),
        fun merge again => acks ((Tau.ackIn_of_no_merge ok tray merge).trans (if_pos again))⟩,
      fun ok log => replays (Tau.replayRequestIn_of_empty_log ok log), fun ok tray log fleet entries lacks => ?_,
      fun ok empty role root => resyncs ?_, fun ok empty below => resyncs ?_, fun ok role root slots entries handle earlier => ?_,
      fun damaged => acks (Tau.ackIn_of_damaged damaged), fun damaged => replays (Tau.replayRequestIn_of_damaged damaged),
      fun damaged => resyncs (Tau.resyncIn_of_damaged damaged)⟩
    · have lacked := Tau.replayRequestIn_of_lacked (c := child) ok log fleet entries lacks
      exact ⟨fun refused => replays (lacked.trans (congrArg (·.replaysDone r) (Tau.replayTo_of_refused refused))),
        fun charged => replays (lacked.trans (congrArg (·.replaysDone r) (Tau.replayTo_of_charged tray charged)))⟩
    · rw [Tau.resyncIn_of_ok ok, Tau.resync_of_no_slots empty, if_pos (by simp [role, root]), Tau.followUps_of_no_slots empty]
    · rw [Tau.resyncIn_of_ok ok, Tau.resync_of_no_slots empty, if_neg (by simp [Nat.not_le.mpr below])]
    · refine ⟨resyncs ?_, fun closed past none => NtcSlot.recov_of_no_acks (v := back) closed past none⟩
      rw [Tau.resyncIn_of_ok ok, Tau.resync_of_one_slot role root slots entries handle earlier]
  · exact exec_of_onMain rfl on (congrArg (·.followUps) (Tau.ackDeadlines_of_none_due soon))
  · exact exec_of_onMain rfl on (congrArg (·.followUps) (Tau.ackDeadlines_of_one_due merge due silent))
  · exact exec_of_onMain rfl on (Tau.graceOver_of_one runs fresh late)

end

section
/-! ## The links and the supplies of the TAU through every step (R32, R38, R477, R478) -/

namespace Sys2Proof.Machine

/-- No link of the TAU is up without the rails, and none beyond the 32. -/
def Tau.linksFed (x : Tau) : Prop := (x.on = false → x.links = 0) ∧ x.links < 2 ^ 32

theorem State.linksFed_iff (s : State) : s.linksFed ↔ s.tau.linksFed := Iff.rfl

/-- Without a link up there is nothing to feed. -/
theorem Tau.linksFed_of_links_zero {x : Tau} (h : x.links = 0) : x.linksFed := ⟨fun _ => h, by omega⟩

/-- With the rails up, any of the 32 links may be up. -/
theorem Tau.linksFed_of_on {x : Tau} (hon : x.on = true) (h : x.links < 2 ^ 32) : x.linksFed :=
  ⟨fun off => absurd (hon.symm.trans off) (by decide), h⟩

/-- Two states have the same levels on the TAU's inputs. -/
def Tau.SameLevels (x y : Tau) : Prop := y.islPg = x.islPg ∧ y.main = x.main ∧ y.links = x.links

theorem Tau.SameLevels.on {x y : Tau} (h : x.SameLevels y) : y.on = x.on := by
  obtain ⟨hi, hm, -⟩ := h
  simp [Tau.on, hi, hm]

theorem Tau.SameLevels.linksFed {x y : Tau} (h : x.SameLevels y) (fed : x.linksFed) : y.linksFed := by
  obtain ⟨off, bound⟩ := fed
  obtain ⟨-, -, hl⟩ := id h
  exact ⟨fun o => hl.trans (off (h.on.symm.trans o)), hl ▸ bound⟩

theorem Tau.inputsOf_sameLevels (x y : Tau) : x.SameLevels (x.inputsOf y) := ⟨rfl, rfl, rfl⟩

theorem Tau.advance_sameLevels (t : T64) (x : Tau) : x.SameLevels (x.advance t) :=
  ⟨x.advance_islPg t, x.advance_main t, x.advance_links t⟩

/-! ### A link's events -/

theorem Tau.vcFlush_sameLevels (n l : Nat) (x : Tau) : x.SameLevels (Tau.vcFlush n l x) := by
  induction n generalizing x with
  | zero => exact ⟨rfl, rfl, rfl⟩
  | succ n ih =>
    unfold Tau.vcFlush
    split
    · split
      · exact ih _
      · exact ⟨rfl, rfl, rfl⟩
    · exact ⟨rfl, rfl, rfl⟩

theorem Tau.vcCount_sameLevels (x : Tau) (l : Nat) : x.SameLevels (x.vcCount l) := by
  unfold Tau.vcCount Tau.bumpBy
  split <;> exact ⟨rfl, rfl, rfl⟩

/-- A link that comes up moves no supply, and no other link. -/
theorem Tau.linkUp_levels (x : Tau) (l : Nat) :
    (x.linkUp l).islPg = x.islPg ∧ (x.linkUp l).main = x.main ∧ (x.linkUp l).links = Nat.lor x.links (2 ^ l) :=
  Tau.vcFlush_sameLevels ..

/-- A link that goes down moves no supply, and no other link. -/
theorem Tau.linkDown_levels (x : Tau) (l : Nat) (cut : Bool) :
    (x.linkDown l cut).islPg = x.islPg ∧ (x.linkDown l cut).main = x.main ∧
      (x.linkDown l cut).links = x.links - Nat.land x.links (2 ^ l) := by
  obtain ⟨hi, hm, hl⟩ := x.vcCount_sameLevels l
  exact ⟨hi, hm, congrArg (fun k => k - Nat.land k (2 ^ l)) hl⟩

theorem Tau.linkUp_linksFed {x : Tau} (hon : x.on = true) (h : x.links < 2 ^ 32) (l : Fin 32) : (x.linkUp l).linksFed := by
  obtain ⟨hi, hm, hl⟩ := x.linkUp_levels l
  refine Tau.linksFed_of_on (by rwa [Tau.on, hi, hm]) ?_
  rw [hl]
  exact Nat.or_lt_two_pow h (Nat.pow_lt_pow_right (by decide) l.isLt)

theorem Tau.linkDown_linksFed {x : Tau} (hon : x.on = true) (h : x.links < 2 ^ 32) (l : Nat) (cut : Bool) :
    (x.linkDown l cut).linksFed := by
  obtain ⟨hi, hm, hl⟩ := x.linkDown_levels l cut
  refine Tau.linksFed_of_on (by rwa [Tau.on, hi, hm]) ?_
  rw [hl]
  exact Nat.lt_of_le_of_lt (Nat.sub_le ..) h

/-! ### The supplies' events -/

/-- The main rails fail under a TAU that is fed: whatever its sections and its island make of it, no link is up. -/
theorem Tau.railsLost_of_on {x : Tau} (h : x.on = true) :
    ∃ y, x.railsLost = Tau.inputsOf { x with main := false, links := 0 } y := by
  unfold Tau.railsLost
  rw [Tau.main_of_on h, Tau.islPg_of_on h]
  exact ⟨_, rfl⟩

/-- The main rails fail: the island's supply stays, and no link is left up, unless they were down before. -/
theorem Tau.railsLost_levels (x : Tau) :
    x.railsLost.islPg = x.islPg ∧ (x.railsLost.links = 0 ∨ x.railsLost = x) := by
  cases hm : x.main with
  | false => exact ⟨by simp [Tau.railsLost, hm], .inr (by simp [Tau.railsLost, hm])⟩
  | true =>
    cases hi : x.islPg with
    | false => simp [Tau.railsLost, hm, hi]
    | true =>
      obtain ⟨y, e⟩ := Tau.railsLost_of_on (x := x) (by simp [Tau.on, hm, hi])
      rw [e]
      exact ⟨hi, .inl rfl⟩

/-- A reset moves at most the rails, and with the rails up nothing at all. -/
theorem Tau.railsReset_cases (x : Tau) (pcie : Bool) :
    x.railsReset pcie = x ∨ (∃ y, x.on = true ∧ x.railsReset pcie = x.inputsOf y) ∨
      (x.main = false ∧ ∃ y, x.railsReset pcie = Tau.inputsOf { x with main := true } y) := by
  unfold Tau.railsReset
  cases pcie with
  | true =>
    cases hon : x.on with
    | false => exact .inl rfl
    | true => exact .inr (.inl ⟨_, rfl, rfl⟩)
  | false =>
    cases hm : x.main with
    | true => exact .inl rfl
    | false =>
      refine .inr (.inr ⟨rfl, ?_⟩)
      cases hi : x.islPg with
      | false => exact ⟨{ x with main := true }, by simp [Tau.inputsOf]⟩
      | true => exact ⟨_, by simp only [Bool.not_true, Bool.false_eq_true, if_false]; rfl⟩

theorem Tau.railsReset_levels (x : Tau) (pcie : Bool) :
    (x.railsReset pcie).islPg = x.islPg ∧ (x.railsReset pcie).links = x.links := by
  obtain e | ⟨y, -, e⟩ | ⟨-, y, e⟩ := x.railsReset_cases pcie <;> rw [e]
  · exact ⟨rfl, rfl⟩
  · exact ⟨rfl, rfl⟩
  · exact ⟨rfl, rfl⟩

/-- The detection of an address moves no input. -/
theorem Tau.dadStart_sameLevels (i : Nat) (x : Tau) : x.SameLevels (Tau.dadStart i x) := by
  unfold Tau.dadStart
  split <;> exact ⟨rfl, rfl, rfl⟩

theorem Tau.cold_levels (x : Tau) : x.cold.main = x.main ∧ x.cold.links = 0 :=
  ⟨forIdx_keeps (p := Tau.main) (fun i y => (y.dadStart_sameLevels i).2.1) _,
    forIdx_keeps (p := Tau.links) (fun i y => (y.dadStart_sameLevels i).2.2) _⟩

theorem Tau.railsLost_linksFed {x : Tau} (h : x.linksFed) : x.railsLost.linksFed := by
  obtain ⟨-, none | same⟩ := x.railsLost_levels
  · exact Tau.linksFed_of_links_zero none
  · rwa [same]

theorem Tau.railsReset_linksFed {x : Tau} (h : x.linksFed) (pcie : Bool) : (x.railsReset pcie).linksFed := by
  obtain e | ⟨y, -, e⟩ | ⟨hm, y, e⟩ := x.railsReset_cases pcie <;> rw [e]
  · exact h
  · exact (x.inputsOf_sameLevels y).linksFed h
  · exact Tau.linksFed_of_links_zero (h.1 (by simp [Tau.on, hm]))

/-- The instant of a supply's event, as the island counts it. -/
theorem Tau.fedAdvance_linksFed {x : Tau} (h : x.linksFed) (t : T64) : (if x.islPg then x.advance t else x).linksFed := by
  split
  · exact (x.advance_sameLevels t).linksFed h
  · exact h

/-! ### Every step -/

/-- An event on an input of the TAU keeps its links fed. -/
theorem exec_onInput_linksFed {c : Instr} (hc : c.onInput = true) {s s' : State} (h : exec c s = .next s')
    (fed : s.linksFed) : s'.linksFed := by
  have same (f : Tdu → Tdu) : (s.onTdu f).linksFed := fed
  cases c
  case linkUp t e =>
    cases e with
    | tdu l => cases hc
    | tau l =>
      cases h
      show (if s.tau.on then (s.tau.advance t).linkUp l.val else s.tau).linksFed
      split
      next hon => exact Tau.linkUp_linksFed (by simpa using hon) (by simpa using fed.2) l
      next => exact fed
  case linkDown t e cut =>
    cases e with
    | tdu l => cases hc
    | tau l =>
      cases h
      show (if s.tau.on then (s.tau.advance t).linkDown l.val cut else s.tau).linksFed
      split
      next hon => exact Tau.linkDown_linksFed (by simpa using hon) (by simpa using fed.2) l cut
      next => exact fed
  case mainRailsLoss t => cases h; exact Tau.railsLost_linksFed (Tau.fedAdvance_linksFed fed t)
  case mainReset t pcie => cases h; exact Tau.railsReset_linksFed (Tau.fedAdvance_linksFed fed t) pcie
  case coldReset => cases h; exact Tau.linksFed_of_links_zero s.tau.cold_levels.2
  case islPgFall t =>
    cases h
    show (if s.tau.islPg then { s.tau.advance t with islPg := false, links := 0 } else s.tau).linksFed
    split
    · exact Tau.linksFed_of_links_zero rfl
    · exact fed
  all_goals first
    | (cases hc; done)
    | (cases h; exact same _)

/-- Every command keeps the links fed: what is no event on an input moves no level. -/
theorem exec_linksFed {c : Instr} {s s' : State} (h : exec c s = .next s') (fed : s.linksFed) : s'.linksFed := by
  cases hc : c.onInput with
  | true => exact exec_onInput_linksFed hc h fed
  | false =>
    obtain ⟨u, e, acts⟩ := exec_acts c s hc
    cases e.symm.trans h
    obtain ⟨-, -, hi, hm, hl, -⟩ := acts.frame
    exact Tau.SameLevels.linksFed ⟨hi, hm, hl⟩ fed

end Sys2Proof.Machine

open Sys2Proof Sys2Proof.Machine

/-- Settles O5: an empty queue idles, and every command keeps the invariant. -/
theorem stepKeepsLinksFed : Obligations.StepKeepsLinksFed := by
  intro s s' fed h
  unfold step at h
  split at h
  · cases h; exact fed
  next c rest _ => exact exec_linksFed (s := { s with pending := rest }) h fed

/-- Settles O7: at reset no link is up and no command waits. -/
theorem invariantsHoldAtReset : Obligations.InvariantsHoldAtReset :=
  ⟨Tau.linksFed_of_links_zero (x := Tau.reset) rfl, fun _ h => absurd h List.not_mem_nil⟩

end

section
/-! ## An instant in IEEE 1588's terms (R41) -/

namespace Sys2Proof.Machine

/-- A whole number of quarter-ticks comes back whole out of the correction. -/
theorem divEven_mul (k d : Nat) (hd : 0 < d) : divEven (k * d : Nat) d = k := by
  have quot : (k * d : Int) / d = k := Int.mul_ediv_cancel _ (by omega)
  simp [divEven, quot, hd]

end Sys2Proof.Machine

open Sys2Proof Sys2Proof.Machine

/-- Settles O8: seconds, nanoseconds and quarter-ticks are the digits of the T64, and put together again they are in range. -/
theorem t64ToPtpLosesNothing : Obligations.T64ToPtpLosesNothing := by
  intro t
  have bound : t.toNat < 2 ^ 64 := t.isLt
  refine ⟨rfl, ?_⟩
  simp only [t64ToPtp, ptpToT64, divEven_mul _ 16384 (by decide)]
  rw [if_neg (by omega)]
  exact congrArg some (by omega)

end

section
/-! ## What moves a supply, a gate, a clock or a link (R32, R477, R478, R479, R483, R487) -/

namespace Sys2Proof.Machine

/-- What is no event on an input does nothing to a block that is not fed. -/
theorem Acts.of_off {s s' : State} (h : Acts s s') :
    (s.tau.islPg = false → s'.tau = s.tau) ∧ (s.tdu.time.por = false → s'.tdu = s.tdu) := by
  cases h with
  | island t f => exact ⟨fun off => by rw [State.onIsland_of_off off], fun _ => rfl⟩
  | main t f => exact ⟨fun off => by rw [State.onMain_of_off (by simp [Tau.on, off])], fun _ => rfl⟩
  | die t f => exact ⟨fun _ => rfl, fun off => by rw [State.onDie_of_off off]⟩

@[simp] theorem State.onDieInput_tau (t : T64) (f : Tdu → Tdu) (level : DieTime → DieTime) (s : State) :
    (s.onDieInput t f level).tau = s.tau := rfl

@[simp] theorem Tdu.drive_time (d d0 : Tdu) : (d.drive d0).time = d.time := by
  unfold Tdu.drive
  split <;> rfl

/-- A link's event at the TAU's end moves none of its supplies. -/
theorem exec_link_frame {t : T64} {l : Fin 32} {b : Bool} {s s' : State}
    (h : exec (.linkUp t (.tau l)) s = .next s' ∨ exec (.linkDown t (.tau l) b) s = .next s') :
    s'.tau.islPg = s.tau.islPg ∧ s'.tau.main = s.tau.main ∧ s'.tdu = s.tdu := by
  obtain h | h := h <;> cases h
  · cases hon : s.tau.on with
    | false => simp [State.onTau, hon]
    | true =>
      obtain ⟨hi, hm, -⟩ := (s.tau.advance t).linkUp_levels l.val
      exact ⟨by simpa [hon] using hi, by simpa [hon] using hm, rfl⟩
  · cases hon : s.tau.on with
    | false => simp [State.onTau, hon]
    | true =>
      obtain ⟨hi, hm, -⟩ := (s.tau.advance t).linkDown_levels l.val b
      exact ⟨by simpa [hon] using hi, by simpa [hon] using hm, rfl⟩

/-- The instant of a supply's event moves no level. -/
theorem Tau.fedAdvance_sameLevels (t : T64) (x : Tau) : x.SameLevels (if x.islPg then x.advance t else x) := by
  split
  · exact x.advance_sameLevels t
  · exact ⟨rfl, rfl, rfl⟩

/-- An event of the main rails leaves the island's supply, and takes the links down together or not at all. -/
theorem exec_rails_frame {t : T64} {b : Bool} {s s' : State}
    (h : exec (.mainRailsLoss t) s = .next s' ∨ exec (.mainReset t b) s = .next s') :
    s'.tau.islPg = s.tau.islPg ∧ s'.tdu = s.tdu ∧ (s'.tau.links = s.tau.links ∨ s'.tau.links = 0) := by
  obtain ⟨hi, -, hl⟩ := Tau.fedAdvance_sameLevels t s.tau
  obtain h | h := h <;> cases h
  · obtain ⟨isl, none | same⟩ := (if s.tau.islPg then s.tau.advance t else s.tau).railsLost_levels
    · exact ⟨isl.trans hi, rfl, .inr none⟩
    · exact ⟨isl.trans hi, rfl, .inl ((congrArg Tau.links same).trans hl)⟩
  · obtain ⟨isl, links⟩ := (if s.tau.islPg then s.tau.advance t else s.tau).railsReset_levels b
    exact ⟨isl.trans hi, rfl, .inl (links.trans hl)⟩

/-- An event of the island's supply leaves the main rails. -/
theorem exec_island_frame {t : T64} {s s' : State} (h : exec .coldReset s = .next s' ∨ exec (.islPgFall t) s = .next s') :
    s'.tau.main = s.tau.main ∧ s'.tdu = s.tdu := by
  obtain h | h := h
  · obtain rfl : s.onTau Tau.cold = s' := Host.Outcome.next.inj h
    exact ⟨by rw [State.onTau_tau, s.tau.cold_levels.1], State.onTau_tdu ..⟩
  · cases h
    cases hp : s.tau.islPg <;> simp [State.onTau, hp]

/-- What an event on an input of the die leaves alone, where its level moves neither `por` nor what `keeps` names. -/
theorem State.onDieInput_frame (t : T64) (f : Tdu → Tdu) (level : DieTime → DieTime) (s : State) {γ : Type} {p : DieTime → γ}
    (keeps : ∀ i, p (level i) = p i) (input : ∀ d e : Tdu, p (d.inputsOf e).time = p d.time) :
    p (s.onDieInput t f level).tdu.time = p s.tdu.time := by
  refine (keeps _).trans ?_
  split
  · exact input _ _
  · rfl

theorem exec_gate_frame {t : T64} {act : CoreAct} {s s' : State}
    (h : exec (.tduGateAssert t act) s = .next s' ∨ exec (.tduGateRelease t) s = .next s') :
    s'.tdu.time.por = s.tdu.time.por ∧ s'.tdu.time.vdd = s.tdu.time.vdd ∧ s'.tau = s.tau := by
  obtain h | h := h <;> cases h <;>
    exact ⟨State.onDieInput_frame (p := DieTime.por) _ _ _ s (fun _ => rfl) (fun _ _ => rfl),
      State.onDieInput_frame (p := DieTime.vdd) _ _ _ s (fun _ => rfl) (fun _ _ => rfl), rfl⟩

theorem exec_vdd_frame {t : T64} {s s' : State} (h : exec (.vddTduLoss t) s = .next s' ∨ exec (.vddTduReturn t) s = .next s') :
    s'.tdu.time.por = s.tdu.time.por ∧ s'.tdu.time.gated = s.tdu.time.gated ∧ s'.tau = s.tau := by
  obtain h | h := h <;> cases h <;>
    exact ⟨State.onDieInput_frame (p := DieTime.por) _ _ _ s (fun _ => rfl) (fun _ _ => rfl),
      State.onDieInput_frame (p := DieTime.gated) _ _ _ s (fun _ => rfl) (fun _ _ => rfl), rfl⟩

theorem exec_clock_frame {t : T64} {s s' : State} (h : exec (.tduRefinStop t) s = .next s' ∨ exec (.tduPllLock t) s = .next s') :
    s'.tdu.time.por = s.tdu.time.por ∧ s'.tdu.time.vdd = s.tdu.time.vdd ∧ s'.tdu.time.gated = s.tdu.time.gated ∧
      s'.tau = s.tau := by
  obtain h | h := h <;> cases h <;>
    exact ⟨State.onDieInput_frame (p := DieTime.por) _ _ _ s (fun _ => rfl) (fun _ _ => rfl),
      State.onDieInput_frame (p := DieTime.vdd) _ _ _ s (fun _ => rfl) (fun _ _ => rfl),
      State.onDieInput_frame (p := DieTime.gated) _ _ _ s (fun _ => rfl) (fun _ _ => rfl), rfl⟩

theorem exec_por_frame {lc : Fin 8} {die : BitVec 64} {s s' : State}
    (h : exec (.tduPor lc die) s = .next s' ∨ exec .tduPorNFall s = .next s') :
    s'.tdu.time.vdd = s.tdu.time.vdd ∧ s'.tdu.time.gated = s.tdu.time.gated ∧ s'.tau = s.tau := by
  obtain h | h := h <;> cases h <;> simp [State.onTdu, Tdu.powerOn]

end Sys2Proof.Machine

open Sys2Proof Sys2Proof.Machine

/-- Settles O4: a command that is no event on an input acts through one of three combinators, which keep every level and do nothing to
a block that is off; each event on an input is taken by itself. -/
theorem inputsAndSuppliesAct : Obligations.InputsAndSuppliesAct := by
  refine ⟨fun c s s' hc h => ?_, fun c s s' hc h => ?_, fun s s' t l b act lc die => ⟨exec_link_frame, exec_rails_frame,
    exec_island_frame, exec_gate_frame, exec_vdd_frame, exec_clock_frame, exec_por_frame⟩⟩ <;>
  obtain ⟨u, e, acts⟩ := exec_acts c s hc <;>
  cases e.symm.trans h
  · obtain ⟨-, -, levels⟩ := acts.frame
    exact levels
  · exact acts.of_off

end

section
/-! ## The boundaries of the TAU (R30, R322, R327) -/

namespace Sys2Proof.Machine

/-- What one index of a pass settles stays, where the indices after it leave it alone. -/
theorem forIdx_settled {α γ : Type} {n q : Nat} {f : Nat → α → α} {p : α → γ} {v : γ} (hq : q < n) (sets : ∀ a, p (f q a) = v)
    (keeps : ∀ i < n, q < i → ∀ a, p (f i a) = p a) (a : α) : p (forIdx n f a) = v := by
  induction n with
  | zero => omega
  | succ n ih =>
    rw [forIdx_succ]
    obtain h | rfl : q < n ∨ q = n := by omega
    · rw [keeps n (by omega) h, ih h fun i hi => keeps i (by omega)]
    · exact sets _

/-- Every depth that a path boundary samples fits its register. -/
theorem Tau.queues_depth_lt (x : Tau) (q : Nat) : (x.queues.getD q (0, 0)).1 < 2 ^ 32 := by
  have clip (n : Nat) : clipU 32 n < 2 ^ 32 := by unfold clipU; split <;> omega
  have all : ∀ e ∈ x.queues, e.1 < 2 ^ 32 := by
    intro e he
    simp only [Tau.queues, List.mem_append, List.mem_map, List.mem_singleton] at he
    obtain ((⟨l, -, rfl⟩ | ⟨l, -, rfl⟩) | ⟨l, -, rfl⟩) | rfl := he <;> exact clip _
  rw [List.getD_eq_getElem?_getD]
  cases h : x.queues[q]? with
  | none => decide
  | some e => exact all e (List.mem_of_getElem? h)

/-- The sample of one queue goes into its two registers. -/
def Tau.sampleQueue (l : List (Nat × Nat)) (q : Nat) (x : Tau) : Tau :=
  (x.wr Reg.SHP_QS_DEPTH_LAST (l.getD q (0, 0)).1 q).wr Reg.SHP_QS_DELAY_LAST (l.getD q (0, 0)).2 q

/-- The largest samples are kept beside the registers. -/
def Tau.withSampMax (x : Tau) (mx : List (Nat × Nat)) : Tau := { x with eg := { x.eg with sampMax := mx } }

theorem Tau.withSampMax_rd (x : Tau) (mx : List (Nat × Nat)) (f : Fld) (i s : Nat) : (x.withSampMax mx).rd f i s = x.rd f i s := rfl
theorem Tau.withSampMax_msg (x : Tau) (mx : List (Nat × Nat)) : (x.withSampMax mx).eg.msg = x.eg.msg := rfl

/-- A path boundary writes what it samples queue by queue. -/
theorem Tau.sample_eq (x : Tau) : ∃ mx, x.sample = (forIdx 21 (Tau.sampleQueue x.queues) x).withSampMax mx := ⟨_, rfl⟩

theorem Tau.sampleQueue_depth (l : List (Nat × Nat)) (q : Nat) (x : Tau) :
    (x.sampleQueue l q).rd Reg.SHP_QS_DEPTH_LAST q = (l.getD q (0, 0)).1 % 2 ^ Reg.SHP_QS_DEPTH_LAST.width := by
  rw [Tau.sampleQueue, Tau.rd_wr_of_tag (by decide), Tau.rd_wr]

theorem Tau.sampleQueue_depth_of_ne {q i : Nat} (h : q % 1024 ≠ i % 1024) (l : List (Nat × Nat)) (x : Tau) :
    (x.sampleQueue l i).rd Reg.SHP_QS_DEPTH_LAST q = x.rd Reg.SHP_QS_DEPTH_LAST q := by
  rw [Tau.sampleQueue, Tau.rd_wr_of_tag (by decide)]
  exact RegFile.get_put_of_index h _ _ _ _ _ _

theorem Tau.sampleQueue_msg (l : List (Nat × Nat)) (q : Nat) (x : Tau) : (x.sampleQueue l q).eg.msg = x.eg.msg := rfl

/-- DEPTH_LAST of a queue reads the depth that the boundary sampled. -/
theorem Tau.sample_depthLast (x : Tau) (q : Fin 21) :
    x.sample.rd Reg.SHP_QS_DEPTH_LAST q.val = (x.queues.getD q.val (0, 0)).1 := by
  obtain ⟨mx, e⟩ := x.sample_eq
  have pass : (forIdx 21 (Tau.sampleQueue x.queues) x).rd Reg.SHP_QS_DEPTH_LAST q.val = _ :=
    forIdx_settled (p := fun y : Tau => y.rd Reg.SHP_QS_DEPTH_LAST q.val) q.isLt (fun y => y.sampleQueue_depth _ _)
      (fun i hi hqi y => Tau.sampleQueue_depth_of_ne (by omega) _ y) x
  rw [e, Tau.withSampMax_rd]
  exact pass.trans (Nat.mod_eq_of_lt (x.queues_depth_lt q.val))

/-- A path boundary with no message in the making sends none. -/
theorem Tau.flushExport_of_nil {x : Tau} (h : x.eg.msg = []) (reach : Bool) : x.flushExport reach = x := by
  simp [Tau.flushExport, h]

/-- The samples leave the message in the making alone. -/
theorem Tau.sample_msg (x : Tau) : x.sample.eg.msg = x.eg.msg := by
  obtain ⟨mx, e⟩ := x.sample_eq
  rw [e, Tau.withSampMax_msg]
  exact forIdx_keeps (f := Tau.sampleQueue x.queues) (p := fun y : Tau => y.eg.msg) (fun q y => y.sampleQueue_msg _ q) x

/-- A period boundary: the island's part, then that of the sections, or without the rails the check of the island's pages. -/
theorem Tau.periodBoundary_cases (x : Tau) (upset : List (Nat × Nat × Nat)) {n i : Tau}
    (hn : x.acceptAtBoundary.programFuses.nbrTimers = n) (hi : { n with cip := { n.cip with failed := [] } } = i) :
    x.periodBoundary upset =
      if i.on then ((i.hbmBoundary.boundaryTakes upset).boundaryOpens).boundaryRenews else i.checkParity upset := by
  subst hn hi
  rfl

end Sys2Proof.Machine

open Sys2Proof Sys2Proof.Machine

/-- Settles O44: each boundary is its command's effect, on the island or on the sections. -/
theorem tauBoundaries : Obligations.TauBoundaries := by
  intro s t reach upset fed x n i
  have path (main : s.tau.main = true) {y : Tau} (h : x.sample.flushExport reach = y) :
      exec (.tauPathBoundary t reach) s = .next (s.withTau y) :=
    exec_of_onMain rfl (by simp [Tau.on, fed, main]) h
  have period {y : Tau} (h : x.periodBoundary upset = y) : exec (.tauPeriodBoundary t upset) s = .next (s.withTau y) :=
    exec_of_onIsland rfl fed h
  have takes := x.periodBoundary_cases upset (n := n) (i := i) rfl rfl
  clear_value i
  refine ⟨fun main quiet => ⟨path main (Tau.flushExport_of_nil (x.sample_msg.trans quiet) reach), x.sample_depthLast⟩,
    fun main => path main rfl, fun off => period ?_, fun on => period ?_⟩
  · rw [takes, if_neg (Bool.eq_false_iff.mp off)]
  · rw [takes, if_pos on]

end

section
/-! ## The exchanges of IEEE 1588 (R42, R43, R47, R60) -/

namespace Sys2Proof.Machine

/-! ### The messages that measure a source -/

section
variable {x : Tau} {i : Nat} {m : PtpMsg} {t : T64} (hears : x.ptpHears i m.domain m.udp = true)
  (announced : (x.source i).announced = true)
include hears announced

theorem Tau.ptpSync_of_twoStep (mode : x.rd Reg.TIME_P_CFG_MODE i = 0) (h : m.twoStep = true) :
    x.ptpSync i m t = x.setSource i fun s => { s with sync := some (m.seq, x.rxStamp i t, m.corr) } := by
  simp [Tau.ptpSync, hears, mode, announced, h]

theorem Tau.ptpSync_of_oneStep (mode : x.rd Reg.TIME_P_CFG_MODE i = 0) (h : m.twoStep = false) {t1 : Int}
    (ht : ptpToT64 m.sec m.ns m.corr = some t1) : x.ptpSync i m t = x.newSync i t1 (x.rxStamp i t) := by
  simp [Tau.ptpSync, hears, mode, announced, h, ht]

theorem Tau.ptpFollowUp_of_sync (mode : x.rd Reg.TIME_P_CFG_MODE i = 0) {t1 t2 c : Int}
    (hs : (x.source i).sync = some (m.seq, t2, c)) (ht : ptpToT64 m.sec m.ns (c + m.corr) = some t1) :
    x.ptpFollowUp i m = x.newSync i t1 t2 := by
  simp [Tau.ptpFollowUp, hears, mode, announced, hs, ht]

theorem Tau.ptpDelayResp_of_asked (mode : x.rd Reg.TIME_P_CFG_MODE i = 0) (mech : x.rd Reg.TIME_P_CFG_DELAY_MECH i = 0)
    {t1 t2 t3 t4 : Int} (hr : (x.source i).req = some (m.seq, t3)) (hs : (x.source i).t12 = some (t1, t2))
    (ht : ptpToT64 m.sec m.ns m.corr = some t4) : x.ptpDelayResp i m = x.newDelay i ((t2 - t1) + (t4 - t3)) := by
  simp [Tau.ptpDelayResp, hears, mode, announced, mech, hr, hs, ht]

theorem Tau.ptpPdelayResp_of_oneStep (mech : x.rd Reg.TIME_P_CFG_DELAY_MECH i = 1) {t1 : Int}
    (hr : (x.source i).req = some (m.seq, t1)) (h : m.twoStep = false) :
    x.ptpPdelayResp i m t = x.newDelay i (x.rxStamp i t - t1 - divEven m.corr 16384) := by
  simp [Tau.ptpPdelayResp, hears, announced, mech, hr, h]

theorem Tau.ptpPdelayResp_of_twoStep (mech : x.rd Reg.TIME_P_CFG_DELAY_MECH i = 1) {t1 t2 : Int}
    (hr : (x.source i).req = some (m.seq, t1)) (h : m.twoStep = true) (ht : ptpToT64 m.sec m.ns m.corr = some t2) :
    x.ptpPdelayResp i m t = x.setSource i fun s => { s with presp := some (m.seq, t2, x.rxStamp i t) } := by
  simp [Tau.ptpPdelayResp, hears, announced, mech, hr, h, ht]

theorem Tau.ptpPdelayRespFollowUp_of_answered (mech : x.rd Reg.TIME_P_CFG_DELAY_MECH i = 1) {t1 t2 t3 t4 : Int}
    (hr : (x.source i).req = some (m.seq, t1)) (hp : (x.source i).presp = some (m.seq, t2, t4))
    (ht : ptpToT64 m.sec m.ns m.corr = some t3) : x.ptpPdelayRespFollowUp i m = x.newDelay i ((t2 - t1) + (t4 - t3)) := by
  simp [Tau.ptpPdelayRespFollowUp, hears, announced, mech, hr, hp, ht]

end

/-! ### What a port answers -/

section
variable {x : Tau} {i : Nat} {m : PtpMsg} {t t3 : T64} (hears : x.ptpHears i m.domain m.udp = true)
include hears

theorem Tau.ptpDelayReq_of_master (open_ : (x.source i).barred = false) (master : x.ptpMaster i = true)
    (mech : x.rd Reg.TIME_P_CFG_DELAY_MECH i = 0) : x.ptpDelayReq i m t =
      x.emitOut (.ptp i 3 (x.ptpDest i false) (x.ptpStamp i m.seq (x.rxStamp i t).toNat false m.corr)) := by
  simp [Tau.ptpDelayReq, hears, open_, master, mech]

theorem Tau.ptpPdelayReq_of_oneStep (open_ : (x.source i).barred = false) (mech : x.rd Reg.TIME_P_CFG_DELAY_MECH i = 1)
    (one : x.rd Reg.TIME_PTP_CFG_TWO_STEP = 0) : x.ptpPdelayReq i m t t3 = x.emitOut (.ptp i 5 (x.ptpDest i true)
      ⟨m.domain, m.udp, m.seq, 0, 0, (x.txStamp i t3 - x.rxStamp i t) * 16384 + m.corr, false⟩) := by
  simp [Tau.ptpPdelayReq, hears, open_, mech, one]

/-- A source whose Announce lacks ptpTimescale is answered by neither mechanism (R42). -/
theorem Tau.ptpRequests_of_barred (barred : (x.source i).barred = true) :
    x.ptpDelayReq i m t = x.bump Reg.TIME_OUTLIER_CNT ∧ x.ptpPdelayReq i m t t3 = x.bump Reg.TIME_OUTLIER_CNT := by
  simp [Tau.ptpDelayReq, Tau.ptpPdelayReq, Tau.ptpDiscard, hears, barred]

end

/-! ### What a port sends -/

section
variable {x : Tau} {i : Nat} {t : T64} (hears : x.ptpHears i (x.rd Reg.TIME_PTP_CFG_DOMAIN) (x.ptpUdp i) = true)
include hears

theorem Tau.ptpSend_sync (set : x.unset = false) (master : x.ptpMaster i = true) (one : x.rd Reg.TIME_PTP_CFG_TWO_STEP = 0) :
    x.ptpSend i 0 t = (x.setSource i fun s => { s with seq := (s.seq + 1) % 65536 }).emitOut
      (.ptp i 0 (x.ptpDest i false) (x.ptpStamp i (x.source i).seq (x.txStamp i t).toNat false)) := by
  simp [Tau.ptpSend, hears, set, master, one]

theorem Tau.ptpSend_announce (set : x.unset = false) (master : x.ptpMaster i = true) :
    x.ptpSend i 1 t = (x.setSource i fun s => { s with seq := (s.seq + 1) % 65536 }).emitOut
      (.announce i (x.ptpDest i false) (x.source i).seq (x.ownAnnounce i)) := by
  simp [Tau.ptpSend, hears, set, master]

/-- The delay request of the port's mechanism, and nothing in the registers. -/
theorem Tau.ptpSend_request (announced : (x.source i).announced = true) :
    (x.ptpSend i 2 t).out = .ptp i (if x.rd Reg.TIME_P_CFG_DELAY_MECH i != 0 then 4 else 2)
        (x.ptpDest i (x.rd Reg.TIME_P_CFG_DELAY_MECH i != 0)) (x.ptpStamp i (x.source i).seq (x.txStamp i t).toNat false) :: x.out ∧
      (x.ptpSend i 2 t).regs = x.regs := by
  unfold Tau.ptpSend
  rw [hears]
  simp only [announced, if_true, Bool.not_true, Bool.false_eq_true, if_false]
  exact ⟨rfl, rfl⟩

end

end Sys2Proof.Machine

open Sys2Proof Sys2Proof.Machine

/-- Settles O29: each message is one event of a port that hears it, and the port's lemma says what it does. -/
theorem exchangesMeasure : Obligations.ExchangesMeasure := by
  refine ⟨?measure, ?port⟩
  case measure =>
    intro s t port m a b c d q fed x i hears mode announced
    refine ⟨?_, ?_, ?_, ?_, fun mech asked => ⟨?_, ?_, ?_⟩⟩
    · exact fun two => exec_of_onIsland rfl fed (Tau.ptpSync_of_twoStep hears announced mode two)
    · exact fun one ht => exec_of_onIsland rfl fed (Tau.ptpSync_of_oneStep hears announced mode one ht)
    · exact fun hs ht => exec_of_onIsland rfl fed (Tau.ptpFollowUp_of_sync hears announced mode hs ht)
    · exact fun mech hr hs ht => exec_of_onIsland rfl fed (Tau.ptpDelayResp_of_asked hears announced mode mech hr hs ht)
    · exact fun one => exec_of_onIsland rfl fed (Tau.ptpPdelayResp_of_oneStep hears announced mech asked one)
    · exact fun two ht => exec_of_onIsland rfl fed (Tau.ptpPdelayResp_of_twoStep hears announced mech asked two ht)
    · exact fun hq hp ht => exec_of_onIsland rfl fed
        (Tau.ptpPdelayRespFollowUp_of_answered hears announced mech asked (hq ▸ hp) ht)
  case port =>
    intro s t t3 port m fed x i n next
    refine ⟨?_, ?_, ?_, ?_, fun hears => ⟨?_, ?_, ?_⟩⟩
    · exact exec_of_onIsland (f := id) rfl fed rfl
    · exact fun hears open_ master mech => exec_of_onIsland rfl fed (Tau.ptpDelayReq_of_master hears open_ master mech)
    · exact fun hears barred => ⟨exec_of_onIsland rfl fed (Tau.ptpRequests_of_barred (t3 := t3) hears barred).1,
        exec_of_onIsland rfl fed (Tau.ptpRequests_of_barred hears barred).2⟩
    · exact fun hears open_ mech one => exec_of_onIsland rfl fed (Tau.ptpPdelayReq_of_oneStep hears open_ mech one)
    · exact fun set master one => exec_of_onIsland rfl fed (Tau.ptpSend_sync hears set master one)
    · exact fun set master => exec_of_onIsland rfl fed (Tau.ptpSend_announce hears set master)
    · exact fun announced => ⟨_, exec_of_onIsland rfl fed rfl, Tau.ptpSend_request hears announced⟩

end

section
/-! ## Sources qualified by Announce (R42, R43, R52) -/

namespace Sys2Proof.Machine

/-- All that a new selection can do: nothing, hold over, or follow a source. -/
theorem Tau.reselect_cases (x : Tau) :
    x.reselect = x ∨ x.reselect = x.holdOver 2 ∨ x.reselect = x.wr Reg.TIME_TIME_STATE_SRC x.selectSource := by
  unfold Tau.reselect
  split
  · split
    · exact .inr (.inl rfl)
    · exact .inr (.inr rfl)
  · exact .inl rfl

/-- A new selection leaves what the sources hold alone. -/
@[simp] theorem Tau.reselect_source (x : Tau) (i : Nat) : x.reselect.source i = x.source i := by
  obtain e | e | e := x.reselect_cases <;> rw [e] <;> rfl

/-- A new selection sets no time. -/
@[simp] theorem Tau.reselect_ft (x : Tau) : x.reselect.ft = x.ft := by
  obtain e | e | e := x.reselect_cases <;> rw [e] <;> rfl

@[simp] theorem Tau.setSource_ft (x : Tau) (i : Nat) (f : Source → Source) : (x.setSource i f).ft = x.ft := rfl

/-- A source that is set reads what it was set to. -/
theorem Tau.source_setSource {x : Tau} {i : Nat} (h : i < x.time.src.length) (f : Source → Source) :
    (x.setSource i f).source i = f (x.source i) := getD_modifyAt_self h f _

section
variable {x : Tau} {i : Nat} {a : Announce} (hears : x.ptpHears i a.domain a.udp = true)
  (mode : x.rd Reg.TIME_P_CFG_MODE i = 0)
include hears mode

theorem Tau.ptpAnnounce_of_ptpTimescale (flag : a.ptpTimescale = true) : x.ptpAnnounce i a =
    ((x.setSource i fun s => { s with announced := true, barred := false, set := a.set }).wr
      Reg.TIME_PTP_CFG_UTC_OFFSET a.utcOffset).reselect := by
  simp [Tau.ptpAnnounce, hears, mode, flag]

theorem Tau.ptpAnnounce_of_no_ptpTimescale (flag : a.ptpTimescale = false) : x.ptpAnnounce i a =
    ((x.bump Reg.TIME_OUTLIER_CNT).setSource i fun s => { s with announced := false, barred := true }).reselect := by
  simp [Tau.ptpAnnounce, Tau.ptpDiscard, hears, mode, flag]

end

/-- A source whose Announce stays away is neither announced nor measured, and FT runs on. -/
theorem Tau.ptpLost_source {x : Tau} {i : Nat} (h : i < x.time.src.length) :
    ((x.ptpLost i).source i).announced = false ∧ ((x.ptpLost i).source i).t12 = none := by
  unfold Tau.ptpLost
  rw [Tau.reselect_source, Tau.source_setSource h]
  exact ⟨rfl, rfl⟩

theorem Tau.ptpLost_ft (x : Tau) (i : Nat) : (x.ptpLost i).ft = x.ft := by
  simp [Tau.ptpLost]

end Sys2Proof.Machine

open Sys2Proof Sys2Proof.Machine

/-- Settles O30: an Announce and its timeout set the source, and what follows is a new selection, which no source notices. -/
theorem announceQualifies : Obligations.AnnounceQualifies := by
  intro s t port a fed x i
  refine ⟨fun hears mode => ⟨fun flag => ?heard, fun flag => ?barred⟩, x.ptpLost i, ?lost, fun all => ?cleared, x.ptpLost_ft i⟩
  case heard => exact exec_of_onIsland rfl fed (Tau.ptpAnnounce_of_ptpTimescale hears mode flag)
  case barred => exact exec_of_onIsland rfl fed (Tau.ptpAnnounce_of_no_ptpTimescale hears mode flag)
  case lost => exact exec_of_onIsland rfl fed rfl
  case cleared => exact Tau.ptpLost_source (by omega)

end

section
/-! ## Sensor results, retry strobes and stretches (R67, R89, R107, R119, R120, R124, R125, R139) -/

namespace Sys2Proof.Machine

/-! ### What a register leaves of the die's readiness -/

theorem Tdu.wr_clocked {f : Fld} (h : f.tag ≠ Reg.TGEN_BOOT_STATE.tag) (d : Tdu) (v i : Nat) :
    (d.wr f v i).clocked = d.clocked := by
  rw [Tdu.clocked, Tdu.wr_live _ h, Tdu.clocked]
  rfl

theorem Tdu.wr_tt {f : Fld} (h : f.tag ≠ Reg.TTIME_TT_STATE_STATE.tag) (d : Tdu) (v i : Nat) : (d.wr f v i).tt = d.tt :=
  Tdu.rd_wr_of_tag h.symm d v i 0

theorem Tdu.CountedTo.clocked {d e : Tdu} (h : d.CountedTo e) : e.clocked = d.clocked := by
  obtain ⟨_, _, rfl⟩ := h
  rfl

theorem Tdu.CountedTo.tt {d e : Tdu} (h : d.CountedTo e) : e.tt = d.tt := h.rd _ _

theorem Tdu.CountedTo.retry {d e : Tdu} (h : d.CountedTo e) : e.cap.retry = d.cap.retry := by
  obtain ⟨_, _, rfl⟩ := h
  rfl

theorem Tdu.live_of_clocked {d : Tdu} (h : d.clocked = true) : d.live = true := by
  simp only [Tdu.clocked, Bool.and_eq_true] at h
  exact h.1

/-! ### Sensor results -/

/-- The sensor channel `ch` is enabled (R119). -/
def Tdu.channelEnabled (d : Tdu) (ch : Nat) : Bool :=
  if ch < 32 then (d.rd Reg.TCAP_SH_CH_EN_LO).testBit ch else (d.rd Reg.TCAP_SH_CH_EN_HI).testBit (ch - 32)

/-- The firing that armed channel `ch` at an earlier instant (R89). -/
def Tdu.armedBefore (d : Tdu) (ch : Nat) : Option (Nat × Bool × Nat) :=
  match d.cap.armed.getD ch none with | some a => if a.1 < d.now then some a else none | none => none

/-- The result of channel `ch` is kept, with the flag and the larger bound of the firing that armed it (R89, R119, R120). -/
def Tdu.keepSensor (d : Tdu) (ch : Nat) (val : Int) (err : Bool) : Tdu :=
  let tag := d.armedBefore ch
  let old := (d.cap.sensor.getD ch none).map (·.samples) |>.getD 0
  let ho := d.ho || (tag.map (·.2.1)).getD false
  let eb := max d.errBound ((tag.map (·.2.2)).getD 0)
  { d with cap := { d.cap with
    sensor := modifyAt (fun _ => some ⟨val, d.now, tag.map (·.1), err, ho, eb, min (old + 1) 65535⟩) ch d.cap.sensor
    armed := if tag.isSome then modifyAt (fun _ => none) ch d.cap.armed else d.cap.armed } }

section
variable {d : Tdu} {ch : Nat} {val : Int} {err : Bool} (clk : d.clocked = true)
include clk

theorem Tdu.sensorResult_of_reacquire (gap : d.tt = 3) : d.sensorResult ch val err =
    ({ d with time := { d.time with lostEvt := d.time.lostEvt + 1 } }).bump Reg.TCAP_SH_DROP_CNT := by
  rw [Tdu.sensorResult, if_neg (Tdu.not_unclocked clk)]
  exact if_pos gap

theorem Tdu.sensorResult_of_disabled (good : d.tt ≠ 3) (off : d.channelEnabled ch = false) :
    d.sensorResult ch val err = d.bump Reg.TCAP_SH_DROP_CNT := by
  rw [Tdu.sensorResult, if_neg (Tdu.not_unclocked clk), if_neg good]
  exact if_pos (by rw [← Tdu.channelEnabled, off]; rfl)

theorem Tdu.sensorResult_of_value (good : d.tt ≠ 3) (on : d.channelEnabled ch = true) : d.sensorResult ch val false =
    (d.keepSensor ch val false).sampleAll 5 (fun a => bits a 0 6 == ch) val (d.keepSensor ch val false).ho := by
  rw [Tdu.sensorResult, if_neg (Tdu.not_unclocked clk), if_neg good]
  exact if_neg (by rw [← Tdu.channelEnabled, on]; decide)

/-- Where no histogram unit is enabled, none drops a sample. -/
theorem Tdu.sensorResult_of_error (good : d.tt ≠ 3) (on : d.channelEnabled ch = true)
    (none_ : ∀ u : Fin 16, d.rd Reg.THIST_H_CTRL_EN u.val = 0) : d.sensorResult ch val true = d.keepSensor ch val true := by
  rw [Tdu.sensorResult, if_neg (Tdu.not_unclocked clk), if_neg good]
  refine (if_neg (by rw [← Tdu.channelEnabled, on]; decide)).trans ?_
  refine forIdx_of_fixed (a := d.keepSensor ch val true) fun u hu => if_neg fun ⟨en, _⟩ => ?_
  exact absurd ((none_ ⟨u, hu⟩).symm.trans en) (by decide)

end

/-! ### Retry strobes -/

/-- The stamp of a retry strobe is kept for the next interval (R125). -/
def Tdu.keepRetry (d : Tdu) (l : Nat) : Tdu :=
  { d with cap := { d.cap with retry := modifyAt (fun _ => some (d.now, d.ho)) l d.cap.retry } }

section
variable {d : Tdu} {l : Nat} (live : d.live = true)
include live

theorem Tdu.retryStrobe_of_unstamped (h : d.clocked = false ∨ d.tt = 3) : d.retryStrobe l = d.count (7 + l) 1 := by
  have same := d.countedTo_count (7 + l) 1
  rw [Tdu.retryStrobe, if_neg (by simp [live])]
  exact if_pos (by simpa [same.clocked, same.tt] using h)

/-- The first strobe of an interval is stamped. -/
theorem Tdu.retryStrobe_of_first (clk : d.clocked = true) (good : d.tt ≠ 3) (first : d.cap.retry.getD l none = none) :
    d.retryStrobe l = (d.count (7 + l) 1).keepRetry l := by
  have same := d.countedTo_count (7 + l) 1
  rw [← same.retry] at first
  rw [Tdu.retryStrobe, if_neg (by simp [live])]
  refine (if_neg (by simp [same.clocked, same.tt, clk, good])).trans ?_
  rw [first]
  rfl

/-- A later one gives the interval since the one before. -/
theorem Tdu.retryStrobe_of_next (clk : d.clocked = true) (good : d.tt ≠ 3) {t0 : Nat} {f0 : Bool}
    (next : d.cap.retry.getD l none = some (t0, f0)) {k : Tdu} (hk : (d.count (7 + l) 1).keepRetry l = k) :
    d.retryStrobe l = k.sampleAll 3 (fun a => a.testBit l) ((k.now - t0 : Nat) : Int) (k.ho || f0) := by
  have same := d.countedTo_count (7 + l) 1
  rw [← same.retry] at next
  rw [Tdu.retryStrobe, if_neg (by simp [live])]
  refine (if_neg (by simp [same.clocked, same.tt, clk, good])).trans ?_
  rw [next, ← hk]
  rfl

end

/-! ### Stretches -/

/-- The start of a stretch is stamped. -/
def Tdu.startStretch (d : Tdu) : Tdu := { d with cap := { d.cap with stretchStart := some (d.stamp, d.cap.cnt.getD 1 0) } }

/-- A start at this instant joins the merged stretch, or there is none to join (R139). -/
def Tdu.stretchJoins (d : Tdu) : Bool :=
  match d.cap.stretch with
  | some m => decide (0 < d.rd Reg.TCAP_STRETCH_MERGE) && decide (d.now - m.stop.t ≤ d.rd Reg.TCAP_STRETCH_MERGE)
  | none => true

/-- The level falls and the stretch is counted, in whatever state the timebase is (R64). -/
def Tdu.endStretch (d : Tdu) : Tdu := (d.wr Reg.TCAP_STRETCH_STATE_ACTIVE 0).bump Reg.TTIME_STRETCH_CNT

theorem Tdu.endStretch_clocked (d : Tdu) : d.endStretch.clocked = d.clocked := by
  rw [Tdu.endStretch, Tdu.bump, Tdu.wr_clocked (by decide), Tdu.wr_clocked (by decide)]

theorem Tdu.endStretch_tt (d : Tdu) : d.endStretch.tt = d.tt := by
  rw [Tdu.endStretch, Tdu.bump, Tdu.wr_tt (by decide), Tdu.wr_tt (by decide)]

/-- The cycles that counter 1 counted over a stretch that began at `c0`. -/
def Tdu.stretchCycles (d : Tdu) (c0 : Nat) : Nat := (d.cap.cnt.getD 1 0 + 2 ^ 48 - c0) % 2 ^ 48

/-- A stretch has ended, and the merged stretch is `v`. -/
def Tdu.mergeStretch (d : Tdu) (v : Stretch) : Tdu := { d with cap := { d.cap with stretch := some v, stretchStart := none } }

section
variable {d : Tdu} (clk : d.clocked = true)
include clk

theorem Tdu.stretchOn_of_reacquire (gap : d.tt = 3) : d.stretchOn = (d.wr Reg.TCAP_STRETCH_STATE_ACTIVE 1).lostEdge := by
  rw [Tdu.stretchOn, if_neg (by simp [Tdu.live_of_clocked clk])]
  refine (if_neg (by rw [Tdu.wr_clocked (by decide)]; simp [clk])).trans (if_pos ?_)
  rwa [Tdu.wr_tt (by decide)]

/-- With valid time a start is stamped; a merged stretch that it does not join is queued first. -/
theorem Tdu.stretchOn_of_good (good : d.tt ≠ 3) : d.stretchOn =
    Tdu.startStretch (if d.stretchJoins then d.wr Reg.TCAP_STRETCH_STATE_ACTIVE 1
      else (d.wr Reg.TCAP_STRETCH_STATE_ACTIVE 1).flushStretch) := by
  have merge : (d.wr Reg.TCAP_STRETCH_STATE_ACTIVE 1).stretchJoins = d.stretchJoins := by
    rw [Tdu.stretchJoins, Tdu.rd_wr_of_tag (by decide)]
    rfl
  rw [Tdu.stretchOn, if_neg (by simp [Tdu.live_of_clocked clk]), ← merge]
  refine (if_neg (by rw [Tdu.wr_clocked (by decide)]; simp [clk])).trans ((if_neg ?_).trans ?_)
  · rwa [Tdu.wr_tt (by decide)]
  · rfl

theorem Tdu.stretchOff_of_reacquire (gap : d.tt = 3) : d.stretchOff =
    ({ d.endStretch with cap := { d.endStretch.cap with stretchStart := none } } : Tdu).lostEdge := by
  rw [Tdu.stretchOff, if_neg (by simp [Tdu.live_of_clocked clk])]
  refine (if_neg (Tdu.not_unclocked ?_)).trans (if_pos ?_)
  · exact d.endStretch_clocked.trans clk
  · exact d.endStretch_tt.trans gap

/-- A stretch that ends with valid time opens a merged stretch. -/
theorem Tdu.stretchOff_of_none (good : d.tt ≠ 3) {m0 : Mark} {c0 : Nat} (began : d.cap.stretchStart = some (m0, c0))
    (merged : d.cap.stretch = none) : d.stretchOff =
      d.endStretch.mergeStretch ⟨m0, d.endStretch.stamp, 1, d.stretchCycles c0⟩ := by
  rw [Tdu.stretchOff, if_neg (by simp [Tdu.live_of_clocked clk])]
  refine (if_neg (Tdu.not_unclocked (d.endStretch_clocked.trans clk))).trans ((if_neg (d.endStretch_tt.trans_ne good)).trans ?_)
  simp only [show ((d.wr Reg.TCAP_STRETCH_STATE_ACTIVE 0).bump Reg.TTIME_STRETCH_CNT).cap.stretchStart = _ from began,
    show ((d.wr Reg.TCAP_STRETCH_STATE_ACTIVE 0).bump Reg.TTIME_STRETCH_CNT).cap.stretch = _ from merged]
  rfl

/-- Or it joins the merged stretch that there is. -/
theorem Tdu.stretchOff_of_some (good : d.tt ≠ 3) {m0 : Mark} {c0 : Nat} (began : d.cap.stretchStart = some (m0, c0))
    {m : Stretch} (merged : d.cap.stretch = some m) : d.stretchOff =
      d.endStretch.mergeStretch ⟨m.first, d.endStretch.stamp, m.members + 1, m.cyc + d.stretchCycles c0⟩ := by
  rw [Tdu.stretchOff, if_neg (by simp [Tdu.live_of_clocked clk])]
  refine (if_neg (Tdu.not_unclocked (d.endStretch_clocked.trans clk))).trans ((if_neg (d.endStretch_tt.trans_ne good)).trans ?_)
  simp only [show ((d.wr Reg.TCAP_STRETCH_STATE_ACTIVE 0).bump Reg.TTIME_STRETCH_CNT).cap.stretchStart = _ from began,
    show ((d.wr Reg.TCAP_STRETCH_STATE_ACTIVE 0).bump Reg.TTIME_STRETCH_CNT).cap.stretch = _ from merged]
  rfl

end

/-- A merged stretch that no start has joined for long enough is queued, and no sooner (R139). -/
theorem Tdu.stretchExpiry_of_merged {d : Tdu} {m : Stretch} (clk : d.clocked = true) (idle : d.cap.stretchStart = none)
    (merged : d.cap.stretch = some m) (past : m.stop.t ≤ d.now) :
    d.stretchExpiry = if d.rd Reg.TCAP_STRETCH_MERGE ≤ d.now - m.stop.t then d.flushStretch else d := by
  simp [Tdu.stretchExpiry, merged, clk, idle, Nat.not_lt.mpr past]

theorem Tdu.flushStretch_of_merged {d k : Tdu} {m : Stretch} (merged : d.cap.stretch = some m)
    (hk : { d with cap := { d.cap with stretch := none } } = k) : d.flushStretch =
      k.queueUnsched (k.eventCoach 2 (min m.members 255) (2 * bit (m.first.ho || m.stop.ho)) 0
        (leBytes 8 m.stop.t ++ leBytes 8 m.cyc) 2 ⟨m.first.t, m.first.ho || m.stop.ho, max m.first.eb m.stop.eb⟩
        (decide (255 < m.members))) := by
  subst hk
  simp only [Tdu.flushStretch, merged]

end Sys2Proof.Machine

open Sys2Proof Sys2Proof.Machine

/-- Settles O34: each event of the core is one event of a die that runs, and the lemma of its case says what it does. -/
theorem dieCaptures : Obligations.DieCaptures := by
  refine ⟨?sensor, ?retry, ?stretch, ?expiry⟩
  case sensor =>
    intro s t ch val err clocked d en tag old ho eb c e
    have clk : d.clocked = true := (State.tduAt_clocked s t).trans clocked
    have por := Tdu.por_of_clocked clocked
    refine ⟨fun good on value => ?_, fun good on error none_ => ?_, fun good off => ?_, fun gap => ?_⟩
    · subst value
      exact exec_of_onDie rfl por (Tdu.sensorResult_of_value clk good on)
    · subst error
      exact exec_of_onDie rfl por (Tdu.sensorResult_of_error clk good on none_)
    · exact exec_of_onDie rfl por (Tdu.sensorResult_of_disabled clk good off)
    · exact exec_of_onDie rfl por (Tdu.sensorResult_of_reacquire clk gap)
  case retry =>
    intro s t l t0 f0 running d e k
    have live : d.live = true := (State.tduAt_live s t).trans running
    refine ⟨fun h => ?_, fun clk good first => ?_, fun clk good next => ?_⟩
    · exact exec_of_live rfl running (Tdu.retryStrobe_of_unstamped live h)
    · exact exec_of_live rfl running (Tdu.retryStrobe_of_first live clk good first)
    · exact exec_of_live rfl running (Tdu.retryStrobe_of_next live clk good next rfl)
  case stretch =>
    intro s t act m0 c0 m por d on start off cyc clk
    have joins (b : Bool) (h : d.stretchJoins = b) (good : d.tt ≠ 3) :
        exec (.stretchAssert t act) s = .next (s.withTdu (Tdu.startStretch (if b then on else on.flushStretch))) :=
      exec_of_onDie rfl por ((Tdu.stretchOn_of_good clk good).trans (by rw [h]))
    refine ⟨fun good none_ => ?_, fun good merged mergeable soon => ?_, fun good merged apart => ?_, fun gap => ?_,
      fun good began => ⟨fun none_ => ?_, fun merged => ?_⟩, fun gap => ?_⟩
    · exact joins true (by rw [Tdu.stretchJoins, none_]) good
    · exact joins true (by simp [Tdu.stretchJoins, merged, mergeable, soon]) good
    · exact joins false (by simp only [Tdu.stretchJoins, merged]; simp; omega) good
    · exact exec_of_onDie rfl por (Tdu.stretchOn_of_reacquire clk gap)
    · exact exec_of_onDie rfl por (Tdu.stretchOff_of_none clk good began none_)
    · exact exec_of_onDie rfl por (Tdu.stretchOff_of_some clk good began merged)
    · exact exec_of_onDie rfl por (Tdu.stretchOff_of_reacquire clk gap)
  case expiry =>
    intro s t m clocked d k ho idle merged
    have clk : d.clocked = true := (State.tduAt_clocked s t).trans clocked
    have runs (past : m.stop.t ≤ d.now) := Tdu.stretchExpiry_of_merged clk idle merged past
    refine ⟨fun past due => ?_, fun past early => ?_⟩
    · exact exec_of_onDie rfl (Tdu.por_of_clocked clocked)
        (((runs past).trans (if_pos due)).trans (Tdu.flushStretch_of_merged merged rfl))
    · exact exec_of_onDie rfl (Tdu.por_of_clocked clocked) ((runs past).trans (if_neg (Nat.not_le.mpr early)))

end

section
/-! ## An echo of a die whose records are metered (R57, R306, R310) -/

namespace Sys2Proof.Machine

/-- A record that its child's meter takes leaves the instant of it in the meter, whatever its colour. -/
theorem Tau.meterIn_meter (x : Tau) (c len : Nat) :
    (∃ tc tp, (x.meterIn c len).1.eg.meter = modifyAt (fun _ => ⟨tc, tp, x.now⟩) c x.eg.meter) ∧
      (x.meterIn c len).1.recq = x.recq := by
  unfold Tau.meterIn
  dsimp only
  split
  · exact ⟨⟨_, _, rfl⟩, rfl⟩
  · split <;> exact ⟨⟨_, _, rfl⟩, rfl⟩

theorem Tau.echoIn_frame (x : Tau) (l : Nat) (t : T64) : (x.echoIn l t).eg = x.eg ∧ (x.echoIn l t).recq = x.recq := by
  unfold Tau.echoIn
  split <;> exact ⟨rfl, rfl⟩

/-- The echo of an attached child is metered, even where it is answered (R310). -/
theorem Tau.metered_echo_meter {x : Tau} {c : Nat} (attached : (x.kid c).isSome = true) (len l : Nat) (t : T64) :
    (∃ tc tp, (x.metered c len fun y _ => y.echoIn l t).eg.meter = modifyAt (fun _ => ⟨tc, tp, x.now⟩) c x.eg.meter) ∧
      (x.metered c len fun y _ => y.echoIn l t).recq = x.recq := by
  have metered := x.meterIn_meter c len
  rw [Tau.metered, if_neg (by simpa using Option.isSome_iff_ne_none.mp attached)]
  split
  next e => rwa [e] at metered
  next y k _ e =>
    rw [e] at metered
    obtain ⟨eg, recq⟩ := y.echoIn_frame l t
    rwa [eg, recq]

/-- Where no record waits, a command leaves the meters as its effect does. -/
theorem State.withTau_eg_of_no_records {y : Tau} (norec : y.recq = []) (s : State) : (s.withTau y).tau.eg = y.eg := by
  simp only [State.withTau, Tau.flushRecords_of_none norec, Tau.inputsOf]

/-- Two effects with no record that leave the same state leave the same egress. -/
theorem State.eg_of_withTau_eq {s : State} {x y : Tau} {e : EgressSt} {out : List Output} {free : Nat} (hx : x.recq = [])
    (hy : y.recq = []) (h : s.withTau y = s.withTau { x with eg := e, out := out, free := free }) : y.eg = e := by
  rw [← State.withTau_eg_of_no_records hy s, h]
  exact State.withTau_eg_of_no_records (y := { x with eg := e, out := out, free := free }) hx s

/-- A TRAY's TAU with its first die attached and the link to it up. -/
def oneDie : State :=
  State.reset.onTau fun x => { x with
    links := 1
    scb := { x.scb with kids := modifyAt (fun _ => some ⟨0, none, 0, [], 0, none, none⟩) 0 x.scb.kids } }

end Sys2Proof.Machine

open Sys2Proof Sys2Proof.Machine

/-- Refutes O31, in its clause about echoes: an echo is a record of its die, and the die's meter takes it as any other (R310), so
that the meter has moved to the echo's instant when the reply is out. -/
theorem not_timeEntersAndLeaves : ¬ Obligations.TimeEntersAndLeaves := by
  rintro ⟨-, gives⟩
  obtain ⟨-, echo, -⟩ := gives oneDie 1 0 0 (by decide +kernel)
  obtain ⟨u, -, -, claimed⟩ := echo (by decide +kernel)
  have norec : (oneDie.tauAt 1).recq = [] := by decide +kernel
  obtain ⟨⟨tc, tp, metered⟩, still⟩ :=
    Tau.metered_echo_meter (x := oneDie.tauAt 1) (c := 0) (by decide +kernel) Config.echoLen 0 1
  have ran : exec (.echoRx 1 0) oneDie =
      .next (oneDie.withTau ((oneDie.tauAt 1).metered 0 Config.echoLen fun y _ => y.echoIn 0 1)) :=
    exec_of_onIsland rfl (by decide +kernel) rfl
  have egress := State.eg_of_withTau_eq norec (still.trans norec) (Host.Outcome.next.inj (ran.symm.trans claimed))
  have same := metered.symm.trans (congrArg EgressSt.meter egress)
  have moved := congrArg (fun l : List Meter => (l.getD 0 ⟨0, 0, 0⟩).t) same
  rw [getD_modifyAt_self (by decide +kernel)] at moved
  have before : ((oneDie.tauAt 1).eg.meter.getD 0 ⟨0, 0, 0⟩).t = 0 := by decide +kernel
  have now : (oneDie.tauAt 1).now = 1 := by decide +kernel
  exact absurd (now.symm.trans (moved.trans before)) (by decide)

end

section
/-! ## A finished payload at the head of the EXPORT queues (R327, R333) -/

namespace Sys2Proof.Machine

/-- A finished payload that waits in an EXPORT queue: its template is 65,536 and the number of its Data Records, here none. -/
def waitingPayload : QRec := ⟨[1], none, 0, 65536, none⟩

/-- An exporter with a grant, that has only a finished payload to send. -/
def payloadWaits : State :=
  State.reset.onTau fun x => { x.wr Reg.MGMT_EXP_CTRL_EN 1 with
    cip := { x.cip with cur := some ⟨3, 2, 64, 5, []⟩ }
    eg := { x.eg with ex := { x.eg.ex with qs := [[waitingPayload], [], [], []] }, tplSent := [65536] } }

/-- The payload leaves as it stands, and no message begins with it. -/
theorem startExport_waitingPayload : ((payloadWaits.tauAt 0).startExport false).eg.msg = [] := by decide +kernel

end Sys2Proof.Machine

open Sys2Proof Sys2Proof.Machine

/-- Refutes O45, in its clause about the exporter: what waits in the EXPORT queues as a finished payload is no record to be packed, and
leaves without joining a message. The clause does not shut it out. -/
theorem not_linksCarry : ¬ Obligations.LinksCarry := by
  rintro ⟨-, leaves⟩
  obtain ⟨-, -, -, -, exporter, -⟩ := leaves payloadWaits 0 false 0 0 0 [] ⟨3, 2, 64, 5, []⟩ waitingPayload
    { EgPort.reset 4 with credit := -128 } 0 waitingPayload [] Tau.reset (by decide +kernel)
  have claimed := exporter rfl (by decide +kernel) (by decide +kernel) (by decide +kernel) (by decide +kernel) (by decide +kernel)
    (by decide +kernel)
  have ran : exec (.egressTransmitStart 0 .exporter false) payloadWaits =
      .next (payloadWaits.withTau ((payloadWaits.tauAt 0).startExport false)) := exec_of_onMain rfl (by decide +kernel) rfl
  have egress := State.eg_of_withTau_eq (x := payloadWaits.tauAt 0) (by decide +kernel) (by decide +kernel)
    (Host.Outcome.next.inj (ran.symm.trans claimed))
  have packed : [] = (payloadWaits.tauAt 0).eg.msg ++ [(waitingPayload.tpl, waitingPayload.bytes)] :=
    startExport_waitingPayload.symm.trans (congrArg EgressSt.msg egress)
  exact absurd packed (by simp)

end

section
/-! ## Registers that an operation leaves alone -/

namespace Sys2Proof.Machine

/-- The registers of `l` read in `y` as they read in `x`. -/
structure Tau.SameReads (l : List Fld) (x y : Tau) : Prop where
  rd : ∀ g ∈ l, ∀ i s, y.rd g i s = x.rd g i s

/-- A field is none of `l`. -/
def Fld.outside (l : List Fld) (f : Fld) : Bool := l.all fun g => g.tag != f.tag

theorem Fld.tag_ne_of_outside {l : List Fld} {f g : Fld} (h : f.outside l = true) (hg : g ∈ l) : g.tag ≠ f.tag := by
  simpa using List.all_eq_true.mp h g hg

/-- What a cause of GEN.INTR writes. -/
def raiseFields : List Fld := [Reg.GEN_INTR_STAT, Reg.TTB_HOST_INTR_PEND, Reg.TTB_HOST_INTR_REF_CNT]

/-- What tells of an error of page `p`. -/
def pageFlags (p : Nat) : List Fld :=
  [Reg.PG_ERR_CFG_PARITY p, Reg.PG_ERR_RANGE p, Reg.PG_ERR_FROZEN p, Reg.PG_ERR_LOCK_WR p, Reg.PG_ERR_HOST_WR p, Reg.PG_ERR_CNT p]

/-- What an error of page `p` writes. -/
def pageErrFields (p : Nat) : List Fld := pageFlags p ++ raiseFields

namespace Tau.SameReads

section
variable {l : List Fld} {x y z : Tau}

theorem refl : x.SameReads l x := ⟨fun _ _ _ _ => rfl⟩

theorem trans (h : x.SameReads l y) (h' : y.SameReads l z) : x.SameReads l z :=
  ⟨fun g hg i s => (h'.rd g hg i s).trans (h.rd g hg i s)⟩

theorem of_regs (h : y.regs = x.regs) : x.SameReads l y := ⟨fun _ _ _ _ => by rw [Tau.rd, Tau.rd, h]⟩

theorem eg (e : EgressSt) : x.SameReads l { x with eg := e } := of_regs rfl

theorem wr {f : Fld} (h : f.outside l = true) (v i s : Nat) : x.SameReads l (x.wr f v i s) :=
  ⟨fun _ hg _ _ => Tau.rd_wr_of_tag (Fld.tag_ne_of_outside h hg) ..⟩

theorem bump {f : Fld} (h : f.outside l = true) (i s : Nat) : x.SameReads l (x.bump f i s) := wr h ..

theorem bumpBy {f : Fld} (h : f.outside l = true) (n i s : Nat) : x.SameReads l (x.bumpBy f n i s) := by
  unfold Tau.bumpBy
  split
  · exact refl
  · exact wr h ..

/-- A shadow is not read. -/
theorem both {f : Fld} (h : f.outside l = true) (v i : Nat) : x.SameReads l (x.both f v i) :=
  ⟨(wr h v i 0).rd⟩

theorem forEach {β : Type} {f : β → Tau → Tau} (h : ∀ b (y : Tau), y.SameReads l (f b y)) (bs : List β) :
    x.SameReads l (forEach bs f x) :=
  ⟨fun g hg i s => forEach_keeps (p := fun y : Tau => y.rd g i s) (fun b y => (h b y).rd g hg i s) bs x⟩

theorem forIdx {n : Nat} {f : Nat → Tau → Tau} (h : ∀ i (y : Tau), y.SameReads l (f i y)) : x.SameReads l (forIdx n f x) :=
  forEach h _

/-- An interrupt, in any registers but those that count it. -/
theorem interrupt (pend : Reg.TTB_HOST_INTR_PEND.outside l = true) (ref : Reg.TTB_HOST_INTR_REF_CNT.outside l = true) (mask : Nat) :
    x.SameReads l (x.interrupt mask) := by
  unfold Tau.interrupt
  split
  · exact refl
  · split
    · exact of_regs rfl
    · exact (wr pend ..).trans (bump ref ..)

/-- A cause of GEN.INTR, in any registers but its own and those that count its interrupt. -/
theorem raise (h : raiseFields.all (Fld.outside l) = true) (c : Nat) : x.SameReads l (x.raise c) := by
  obtain ⟨stat, pend, ref⟩ : Reg.GEN_INTR_STAT.outside l = true ∧ Reg.TTB_HOST_INTR_PEND.outside l = true ∧
      Reg.TTB_HOST_INTR_REF_CNT.outside l = true := by simpa [raiseFields] using h
  unfold Tau.raise
  dsimp only
  split
  · exact (wr stat ..).trans (interrupt pend ref _)
  · exact wr stat ..

/-- An error of a page, in any registers but those that tell of it. -/
theorem pageErr {p : Nat} (h : (pageErrFields p).all (Fld.outside l) = true) (n s : Nat) : x.SameReads l (x.pageErr p n s) := by
  rw [pageErrFields, List.all_append, Bool.and_eq_true] at h
  obtain ⟨flags, causes⟩ := h
  have counted (f : Fld) (hf : f ∈ pageFlags p) : x.SameReads l ((x.wr f 1 0 s).bump (Reg.PG_ERR_CNT p) 0 s) :=
    (wr (List.all_eq_true.mp flags f hf) ..).trans (bump (List.all_eq_true.mp flags _ (by simp [pageFlags])) ..)
  have flag : ∃ f ∈ pageFlags p, ∃ b : Bool, x.pageErr p n s =
      if b then ((x.wr f 1 0 s).bump (Reg.PG_ERR_CNT p) 0 s).raise 4 else (x.wr f 1 0 s).bump (Reg.PG_ERR_CNT p) 0 s := by
    refine ⟨match n with
      | 0 => Reg.PG_ERR_CFG_PARITY p | 1 => Reg.PG_ERR_RANGE p | 2 => Reg.PG_ERR_FROZEN p
      | 3 => Reg.PG_ERR_LOCK_WR p | _ => Reg.PG_ERR_HOST_WR p, ?_, _, rfl⟩
    split <;> simp [pageFlags]
  obtain ⟨f, hf, b, e⟩ := flag
  rw [e]
  cases b
  · exact counted f hf
  · exact (counted f hf).trans (raise causes 4)

end

end Tau.SameReads

end Sys2Proof.Machine

end

section
/-! ## The role (R19, R24, R439, R490) -/

namespace Sys2Proof.Machine

/-! ### A write of ROLE_CFG -/

/-- A write of which every field is ignored changes no register. -/
theorem RegFile.writeWord_of_kept {p o : Nat} {keep : Fld → Bool} (kept : ∀ fi ∈ wordFields p o, keep fi.1 = true) (s v : Nat)
    (r : RegFile) : r.writeWord p s o v keep = r := by
  have none_ : (wordFields p o).filter (fun fi => !keep fi.1) = [] := by
    rw [List.filter_eq_nil_iff]
    intro fi hfi
    simp [kept fi hfi]
  simp [RegFile.writeWord, none_]

/-- A write of ROLE_CFG is its command alone, whatever the fields of its word hold (R19). -/
theorem Tau.write_role {x : Tau} (on : x.on = true) (unlocked : x.rd (Reg.PG_LOCK 0x10) = 0) (port : Port) (v : Nat) (m : Reads) :
    x.writeField Reg.GEN_ROLE_CFG_ROLE 0 0 port v m = x.roleWrite v := by
  have place : tauAddr (tauFieldAddr Reg.GEN_ROLE_CFG_ROLE 0 0) = some (0x10, 0, 0x40, false) := by decide +kernel
  have aligned : tauFieldAddr Reg.GEN_ROLE_CFG_ROLE 0 0 % 4 = 0 := by decide +kernel
  have writable : wordWritable 0x10 0x40 = true := by decide +kernel
  have noShadow : (wordFields 0x10 0x40).any (fun fi => fi.1.acc == .rws) = false := by decide +kernel
  have elsewhere : isHere 0x10 0 0x40 Reg.SRV_RET_KEY = false := by decide +kernel
  have reached : (!x.islPg || (port == .host && !x.main)) = false := by simp [Tau.islPg_of_on on, Tau.main_of_on on]
  have fed : (!x.main && !islandPage 0x10) = false := by simp [Tau.main_of_on on]
  have locked : (x.rd (Reg.PG_LOCK 0x10) 0 0 == 1) = false := by simp [unlocked]
  have kept : x.regs.writeWord 0x10 0 0x40 v (x.keeps 0x10 0 false) = x.regs :=
    RegFile.writeWord_of_kept (fun fi hfi => by
      have here : fi.1.off = 0x40 := (by decide +kernel : ∀ fi ∈ wordFields 0x10 0x40, fi.1.off = 0x40) fi hfi
      simp [Tau.keeps, here]) ..
  unfold Tau.writeField Tau.regWrite
  simp only [place, aligned, writable, noShadow, elsewhere, reached, fed, locked, kept, show sectionPage 0x10 = false from rfl,
    Bool.not_true, Bool.and_false, Bool.false_and, Bool.or_false, Bool.false_eq_true, if_false, ne_eq, not_true_eq_false, or_self]
  rfl

/-- The fields of ROLE_CFG. -/
def roleFields : List Fld := [Reg.GEN_ROLE_CFG_ROLE, Reg.GEN_ROLE_CFG_SET, Reg.GEN_ROLE_CFG_STANDBY, Reg.GEN_ROLE_CFG_CODE]

theorem Tau.roleWrite_of_set {x : Tau} (set : x.roleSet = true) (v : Nat) :
    x.roleWrite v = (x.wr Reg.GEN_ROLE_CFG_CODE Code.lifecycle).bump Reg.GEN_LOAD_REFUSED_CNT := by
  simp [Tau.roleWrite, set]

theorem Tau.roleWrite_of_reserved {x : Tau} (unset : x.roleSet = false) {v : Nat} (reserved : 4 < bits v 0 3) :
    x.roleWrite v = (x.wr Reg.GEN_ROLE_CFG_CODE Code.fit).bump Reg.GEN_LOAD_REFUSED_CNT := by
  simp [Tau.roleWrite, unset, reserved]

/-- ROLE_CFG as the first write of a defined role leaves it. -/
def Tau.takeRole (x : Tau) (v : Nat) : Tau :=
  (((x.wr Reg.GEN_ROLE_CFG_ROLE (bits v 0 3)).wr Reg.GEN_ROLE_CFG_SET 1).wr Reg.GEN_ROLE_CFG_CODE Code.done).wr
    Reg.GEN_ROLE_CFG_STANDBY (bit (bits v 0 3 == 3 && v.testBit 4))

/-- What follows the role — the rate of a TRAY's DOWN port, and the stream of the base timetable — leaves it alone. -/
theorem Tau.roleWrite_of_defined {x : Tau} (unset : x.roleSet = false) {v : Nat} (defined : bits v 0 3 ≤ 4) :
    (x.takeRole v).SameReads roleFields (x.roleWrite v) := by
  unfold Tau.roleWrite
  rw [unset, if_neg (by decide), if_neg (by omega)]
  have slowed : (x.takeRole v).SameReads roleFields
      (if bits v 0 3 = 0 ∧ 32 < (x.takeRole v).rd Reg.SHP_DN_RATE then
        (((x.takeRole v).both Reg.SHP_DN_RATE 32).pageErr 0x8 1).bump Reg.SHP_CFG_REF_CNT else x.takeRole v) := by
    split
    · exact ((Tau.SameReads.both (by decide) ..).trans (.pageErr (by decide) 1 0)).trans (.bump (by decide) ..)
    · exact .refl
  exact slowed.trans (.of_regs rfl)

/-- The first write of a defined role sets it, and the standby flag of a ROOT alone (R19). -/
theorem Tau.takeRole_reads (x : Tau) (v : Nat) :
    (x.takeRole v).rd Reg.GEN_ROLE_CFG_ROLE = bits v 0 3 ∧ (x.takeRole v).rd Reg.GEN_ROLE_CFG_SET = 1 ∧
      (x.takeRole v).rd Reg.GEN_ROLE_CFG_CODE = Code.done ∧
      (x.takeRole v).rd Reg.GEN_ROLE_CFG_STANDBY = bit (bits v 0 3 == 3 && v.testBit 4) := by
  have role : bits v 0 3 % 2 ^ Reg.GEN_ROLE_CFG_ROLE.width = bits v 0 3 := bits_mod_two_pow v 0 3
  unfold Tau.takeRole
  refine ⟨?_, ?_, ?_, ?_⟩
  · rw [Tau.rd_wr_of_tag (by decide), Tau.rd_wr_of_tag (by decide), Tau.rd_wr_of_tag (by decide), Tau.rd_wr, role]
  · rw [Tau.rd_wr_of_tag (by decide), Tau.rd_wr_of_tag (by decide), Tau.rd_wr]
    rfl
  · rw [Tau.rd_wr_of_tag (by decide), Tau.rd_wr]
    rfl
  · rw [Tau.rd_wr]
    cases (bits v 0 3 == 3 && v.testBit 4) <;> rfl

/-- What reads as ROLE_CFG does is the role. -/
theorem Tau.SameReads.roles {x y : Tau} (h : x.SameReads roleFields y) :
    y.role = x.role ∧ y.roleSet = x.roleSet ∧ y.isStandby = x.isStandby := by
  have role : y.role = x.role := h.rd _ (by simp [roleFields]) 0 0
  have set : y.roleSet = x.roleSet := by
    rw [Tau.roleSet, Tau.roleSet, h.rd _ (by simp [roleFields])]
  refine ⟨role, set, ?_⟩
  rw [Tau.isStandby, Tau.isStandby, role, set, h.rd _ (by simp [roleFields])]

/-! ### Parity -/

/-- A pass over a list keeps what each step with a member of the list keeps. -/
theorem foldl_keeps_of_mem {α β γ : Type} {f : α → β → α} {p : α → γ} {l : List β} (keeps : ∀ b ∈ l, ∀ a, p (f a b) = p a) (a : α) :
    p (l.foldl f a) = p a := by
  induction l generalizing a with
  | nil => rfl
  | cons b l ih =>
    rw [List.foldl_cons, ih fun c hc => keeps c (List.mem_cons_of_mem b hc), keeps b List.mem_cons_self]

/-- The safe state spares ROLE_CFG (R439). -/
theorem RegFile.enterSafe_get {g : Fld} (hg : g ∈ roleFields) (r : RegFile) (s i j : Nat) :
    (r.enterSafe 0x10 s (spared s)).get g i j = r.get g i j := by
  have apart (f : Fld) (hf : f ∈ (Reg.ofPage 0x10).filter fun f => (f.acc == .rw || f.acc == .rws) && !spared s f) :
      g.tag ≠ f.tag := by
    obtain ⟨mem, own⟩ := List.mem_filter.mp hf
    have off : f.off ≠ 0x40 := fun off => by
      have page : f.page = 0x10 := (by decide +kernel : ∀ f ∈ Reg.ofPage 0x10, f.page = 0x10) f mem
      simp [spared, off, page] at own
    exact Fld.tag_ne_of_outside
      ((by decide +kernel : ∀ f ∈ Reg.ofPage 0x10, f.off ≠ 0x40 → f.outside roleFields = true) f mem off) hg
  unfold RegFile.enterSafe
  rw [RegFile.get_put_of_tag (Fld.tag_ne_of_outside (l := roleFields) (by decide) hg)]
  refine foldl_keeps_of_mem (p := fun r : RegFile => r.get g i j) (fun f hf r => ?_) r
  refine forIdx_keeps (p := fun r : RegFile => r.get g i j) (fun k r => ?_) r
  dsimp only
  split <;> exact RegFile.get_put_of_tag (apart f hf) ..

theorem RegFile.noteParity_get {g : Fld} (hg : g ∈ roleFields) (r : RegFile) (s : Nat) (ws : List Nat) (i j : Nat) :
    (r.noteParity 0x10 s ws).get g i j = r.get g i j := by
  unfold RegFile.noteParity
  rw [RegFile.get_put_of_tag (Fld.tag_ne_of_outside (l := roleFields) (by decide) hg)]
  split
  · rfl
  · exact RegFile.get_put_of_tag (Fld.tag_ne_of_outside (l := roleFields) (by decide) hg) ..

theorem Tau.settleRates_sameReads (x : Tau) : x.SameReads roleFields x.settleRates := by
  have counted (c : Nat) (y : Tau) : y.SameReads roleFields (y.vcNow c) :=
    ⟨fun g hg => y.vcNow_rd c (Fld.tag_ne_of_outside (l := roleFields) (by decide) hg)⟩
  have pass : x.SameReads roleFields (forIdx 16 (fun c y => y.vcNow c) x) := .forIdx counted
  unfold Tau.settleRates
  exact pass.trans (.eg _)

/-- A parity fault of GEN leaves the role alone. -/
theorem Tau.parityFault_sameReads (x : Tau) (sec : Nat) (ws : List Nat) : x.SameReads roleFields (x.parityFault 0x10 sec ws) := by
  have noted : x.SameReads roleFields ({ x with regs := x.regs.noteParity 0x10 sec ws } : Tau) :=
    ⟨fun g hg i s => x.regs.noteParity_get hg sec ws i s⟩
  have corrected (y : Tau) (bad : List Nat) : y.SameReads roleFields { y with regs := { y.regs with bad := bad } } := ⟨fun _ _ _ _ => rfl⟩
  have safe (y : Tau) : y.SameReads roleFields { y with regs := y.regs.enterSafe 0x10 sec (spared sec) } :=
    ⟨fun g hg i s => y.regs.enterSafe_get hg sec i s⟩
  have recorded (y : Tau) (plane sev code : Nat) (body : List Byte) : y.SameReads roleFields (y.recordTau plane sev code body) :=
    .of_regs rfl
  have told (bad : List Nat) := (noted.trans (.pageErr (p := 0x10) (by decide) 0 sec)).trans (corrected _ bad)
  unfold Tau.parityFault
  dsimp only
  rw [if_pos rfl]
  split
  · exact told _
  · exact (((told _).trans (Tau.settleRates_sameReads _)).trans (safe _)).trans (recorded ..)

/-! ### The promotion of a standby ROOT -/

theorem Tau.promoteGo_of_standby {x : Tau} (standby : x.isStandby = true) {p : Nat} (named : namedPeriod x.per (x.rd Reg.GEN_PROMOTE_PER) = some p)
    (n : Fin 2) {v : Nat} (go : v.testBit 31 = true) : x.promoteGo (.mgmt n) v =
      ({ x with boot := { x.boot with promote := some p } }).wr Reg.GEN_PROMOTE_STAT_CODE Code.done := by
  simp [Tau.promoteGo, go, isMgmt, standby, named]

theorem Tau.promoteGo_of_other_port {x : Tau} {port : Port} (other : isMgmt port = false) {v : Nat} (go : v.testBit 31 = true) :
    x.promoteGo port v = x.bump Reg.GEN_ACC_ERR_CNT := by
  simp [Tau.promoteGo, go, other]

end Sys2Proof.Machine

open Sys2Proof Sys2Proof.Machine

/-- Settles O23: a write of ROLE_CFG is its command, nothing that follows it writes ROLE_CFG, and the safe state spares it. -/
theorem rolesAct : Obligations.RolesAct := by
  refine ⟨?role, fun x sec ws => (x.parityFault_sameReads sec ws).roles, ?promotion⟩
  case role =>
    intro s t port v on x unlocked
    have up : x.on = true := State.tauAt_on_of_on on
    have runs {y : Tau} (h : x.roleWrite v.toNat = y) : exec (.roleWrite t port v) s = .next (s.withTau y) :=
      exec_of_tauWrite rfl on ((Tau.write_role up unlocked port _ _).trans h)
    refine ⟨fun unset defined => ⟨_, runs rfl, ?_⟩, fun unset reserved => runs (Tau.roleWrite_of_reserved unset reserved),
      fun set => runs (Tau.roleWrite_of_set set _)⟩
    have same := Tau.roleWrite_of_defined unset defined
    obtain ⟨role, set, standby⟩ := same.roles
    obtain ⟨hr, hs, hc, hb⟩ := x.takeRole_reads v.toNat
    have roleSet : (x.takeRole v.toNat).roleSet = true := by rw [Tau.roleSet, hs]; rfl
    refine ⟨role.trans hr, set.trans roleSet, (same.rd _ (by simp [roleFields]) 0 0).trans hc, standby.trans ?_⟩
    rw [Tau.isStandby, roleSet, show (x.takeRole v.toNat).role = _ from hr, hb]
    cases bits v.toNat 0 3 == 3 <;> cases v.toNat.testBit 4 <;> rfl
  case promotion =>
    intro s t port n v p on go x
    have up : x.on = true := State.tauAt_on_of_on on
    exact ⟨fun standby named => exec_of_tauWrite rfl on ((Tau.write_promoteGo up _ _ _).trans (Tau.promoteGo_of_standby standby named n go)),
      fun other => exec_of_tauWrite rfl on ((Tau.write_promoteGo up _ _ _).trans (Tau.promoteGo_of_other_port other go))⟩

end

section
/-! ## What the core, its trace and its emission leave of the die's time (R66, R105 to R115, R348 to R357) -/

namespace Sys2Proof.Machine

/-- The state of the timebase and that of an authorisation. -/
def standFields : List Fld := [Reg.TTIME_TT_STATE_STATE, Reg.TTRC_AUTH_STATE]

/-- FT stands, and of the die's time only the links may differ; the timebase and the authorisation are in the same states. -/
structure Tdu.Stands (d e : Tdu) : Prop where
  ft : e.ft = d.ft
  time : e.time = { d.time with link := e.time.link }
  rd : ∀ g ∈ standFields, ∀ i, e.rd g i = d.rd g i

namespace Tdu.Stands

theorem refl {d : Tdu} : d.Stands d := ⟨rfl, rfl, fun _ _ _ => rfl⟩

theorem trans {d e g : Tdu} (h : d.Stands e) (h' : e.Stands g) : d.Stands g :=
  ⟨h'.ft.trans h.ft, h'.time.trans (by rw [h.time]), fun f hf i => (h'.rd f hf i).trans (h.rd f hf i)⟩

theorem gated {d e : Tdu} (h : d.Stands e) : e.time.gated = d.time.gated := by rw [h.time]

theorem gap {d e : Tdu} (h : d.Stands e) : e.time.gapLast = d.time.gapLast ∧ e.time.gapCause = d.time.gapCause := by
  rw [h.time]
  exact ⟨rfl, rfl⟩

theorem tt {d e : Tdu} (h : d.Stands e) : e.tt = d.tt := h.rd Reg.TTIME_TT_STATE_STATE (by simp [standFields]) 0

theorem auth {d e : Tdu} (h : d.Stands e) : e.rd Reg.TTRC_AUTH_STATE = d.rd Reg.TTRC_AUTH_STATE :=
  h.rd Reg.TTRC_AUTH_STATE (by simp [standFields]) 0

/-- What touches neither FT, nor the time beyond its links, nor a register stands. -/
theorem of_regs {d e : Tdu} (ft : e.ft = d.ft) (time : e.time = { d.time with link := e.time.link }) (regs : e.regs = d.regs) :
    d.Stands e := ⟨ft, time, fun _ _ _ => by rw [Tdu.rd, Tdu.rd, regs]⟩

theorem ite {d e g : Tdu} {c : Prop} [Decidable c] (he : d.Stands e) (hg : d.Stands g) : d.Stands (if c then e else g) := by
  split
  · exact he
  · exact hg

theorem forEach {β : Type} {f : β → Tdu → Tdu} (h : ∀ b (d : Tdu), d.Stands (f b d)) (l : List β) (d : Tdu) :
    d.Stands (forEach l f d) := by
  induction l generalizing d with
  | nil => exact refl
  | cons b l ih => exact (h b d).trans (ih (f b d))

theorem forIdx {n : Nat} {f : Nat → Tdu → Tdu} (h : ∀ i (d : Tdu), d.Stands (f i d)) (d : Tdu) : d.Stands (forIdx n f d) :=
  forEach h _ d

section
variable {d : Tdu}

theorem wr {f : Fld} (h : f.outside standFields = true) (v i : Nat) : d.Stands (d.wr f v i) :=
  ⟨rfl, rfl, fun _ hg _ => Tdu.rd_wr_of_tag (Fld.tag_ne_of_outside h hg) ..⟩

theorem bump {f : Fld} (h : f.outside standFields = true) (i : Nat) : d.Stands (d.bump f i) := wr h _ i

theorem bumpBy {f : Fld} (h : f.outside standFields = true) (n i : Nat) : d.Stands (d.bumpBy f n i) := by
  unfold Tdu.bumpBy
  split
  · exact refl
  · exact wr h _ i

theorem wr64 {lo hi : Fld} (hl : lo.outside standFields = true) (hh : hi.outside standFields = true) (v i : Nat) :
    d.Stands (d.wr64 lo hi v i) := (wr hl ..).trans (wr hh ..)

theorem emit (e : EmitSt) : d.Stands { d with emit := e } := of_regs rfl rfl rfl

theorem cap (c : CaptureSt) : d.Stands { d with cap := c } := of_regs rfl rfl rfl

theorem trc (s : TraceSt) : d.Stands { d with trc := s } := of_regs rfl rfl rfl

theorem setRes (i : Nat) (f : ResSlot → ResSlot) : d.Stands (d.setRes i f) := of_regs rfl rfl rfl

theorem emitOut (o : Output) : d.Stands (d.emitOut o) := of_regs rfl rfl rfl

end

end Tdu.Stands

/-! ### Interrupts -/

theorem Tdu.interrupt_stands (d : Tdu) (mask : Nat) : d.Stands (d.interrupt mask) := by
  unfold Tdu.interrupt
  split
  · exact .refl
  · split
    · exact .of_regs rfl rfl rfl
    · exact (Tdu.Stands.wr (by decide) ..).trans (.bump (by decide) _)

theorem Tdu.drive_stands (d d0 : Tdu) : d.Stands (d.drive d0) := .ite .refl (.emitOut _)

theorem Tdu.raise_stands (d : Tdu) (c : Nat) : d.Stands (d.raise c) := by
  unfold Tdu.raise
  refine Tdu.Stands.trans ?_ (Tdu.drive_stands _ _)
  have stat (v : Nat) : d.Stands (d.wr Reg.TGEN_INTR_STAT v) := .wr (by decide) v 0
  split
  · exact (stat _).trans (Tdu.interrupt_stands _ _)
  · exact stat _

/-! ### The trace -/

theorem Tdu.setTrc_stands (d : Tdu) (s : TraceSt) : d.Stands (d.setTrc s) :=
  ((Tdu.Stands.trc s).trans (.wr (by decide) ..)).trans (.wr64 (by decide) (by decide) ..)

theorem Tdu.putPkt_stands (p : TPkt) (d : Tdu) : d.Stands (d.putPkt p) := by
  have lose : d.Stands ((d.setTrc (d.trc.lose 1)).bump Reg.TTRC_OVF_PKT_CNT) := (d.setTrc_stands _).trans (.bump (by decide) 0)
  exact .ite lose (.ite (d.setTrc_stands _) (.ite lose (.ite ((d.setTrc_stands _).trans (.bumpBy (by decide) ..)) lose)))

theorem Tdu.recover_stands (d : Tdu) : d.Stands d.recover := by
  unfold Tdu.recover
  split
  · exact .ite ((d.setTrc_stands _).trans (.forEach Tdu.putPkt_stands _ _)) .refl
  · exact .refl

theorem Tdu.checkPost_stands (d : Tdu) : d.Stands d.checkPost :=
  .ite ((d.putPkt_stands _).trans (.wr (by decide) ..)) .refl

theorem Tdu.fireTrace_stands (d : Tdu) : d.Stands d.fireTrace := by
  unfold Tdu.fireTrace
  split
  · have triggered (e : Tdu) (t : TraceSt) (v : Nat) :
        e.Stands ((({ e with trc := t } : Tdu).wr64 Reg.TTRC_TRIG_T64_LO Reg.TTRC_TRIG_T64_HI v).wr Reg.TTRC_STATE 3).checkPost :=
      (((Tdu.Stands.trc t).trans (.wr64 (by decide) (by decide) ..)).trans (.wr (by decide) ..)).trans (Tdu.checkPost_stands _)
    exact (((d.recover_stands.trans (Tdu.setTrc_stands _ _)).trans (.forEach Tdu.putPkt_stands _ _)).trans
      (Tdu.putPkt_stands _ _)).trans (triggered _ _ _)
  · exact .bump (by decide) 0
  · exact .bump (by decide) 0
  · exact .refl

theorem Tdu.traceTrigger_stands (d : Tdu) (src arg : Nat) : d.Stands (d.traceTrigger src arg) := .ite d.fireTrace_stands .refl

/-! ### The emission queues -/

theorem Tdu.send_stands (d : Tdu) (r : List Byte) : d.Stands (d.send r) := by
  unfold Tdu.send
  split <;> exact .of_regs rfl rfl rfl

theorem Tdu.serveUnsched_stands (n : Nat) (d : Tdu) : d.Stands (d.serveUnsched n) := by
  induction n generalizing d with
  | zero => exact .refl
  | succ n ih =>
    unfold Tdu.serveUnsched
    split
    · exact .ite (((Tdu.Stands.emit _).trans (Tdu.send_stands _ _)).trans (ih _)) .refl
    · exact .refl

theorem Tdu.serveSched_stands (n : Nat) (d : Tdu) : d.Stands (d.serveSched n) := by
  induction n generalizing d with
  | zero => exact .refl
  | succ n ih =>
    unfold Tdu.serveSched
    split
    · exact .ite (((Tdu.Stands.emit _).trans (Tdu.send_stands _ _)).trans (ih _)) .refl
    · exact .refl

theorem Tdu.serveFirst_stands (d : Tdu) : d.Stands d.serveFirst.1 := by
  have resent : d.Stands d.serveResend := by
    unfold Tdu.serveResend
    split
    · exact .ite ((Tdu.Stands.emit _).trans (Tdu.send_stands _ _)) .refl
    · exact .refl
  rw [Tdu.serveFirst_fst]
  refine resent.trans ?_
  unfold Tdu.serveGap
  split
  · exact .ite ((Tdu.Stands.emit _).trans (Tdu.send_stands _ _)) .refl
  · exact .refl

theorem Tdu.serveAll_stands (d : Tdu) : d.Stands d.serveAll := by
  have first := d.serveFirst_stands
  unfold Tdu.serveAll
  split
  · exact .refl
  · split
    next e served => rwa [served] at first
    next e served =>
      rw [served] at first
      exact (first.trans (Tdu.serveSched_stands _ _)).trans (Tdu.serveUnsched_stands _ _)

theorem Tdu.queueUnsched_stands (d : Tdu) (r : List Byte) : d.Stands (d.queueUnsched r) :=
  .ite .refl (.ite ((Tdu.Stands.emit _).trans (Tdu.serveAll_stands _)) (.bump (by decide) 0))

theorem Tdu.drainSamples_stands (n : Nat) (d : Tdu) : d.Stands (d.drainSamples n) := by
  induction n generalizing d with
  | zero => exact .refl
  | succ n ih =>
    unfold Tdu.drainSamples
    split
    · exact .refl
    · exact .ite (((Tdu.Stands.cap _).trans (Tdu.queueUnsched_stands _ _)).trans (ih _)) .refl

/-! ### The cycles -/

theorem Tdu.CountedTo.stands {d e : Tdu} (h : d.CountedTo e) : d.Stands e := by
  obtain ⟨_, _, rfl⟩ := h
  exact .cap _

theorem Tdu.overflow_stands (d : Tdu) (k : Nat) (tp : TraceCycle) (next : List TraceCycle) : d.Stands (d.overflow k tp next) := by
  have counted : d.Stands (if (d.bump Reg.TPMU_SMP_CNT).rd Reg.TPMU_CFG_OVF_INTR k = 1 then (d.bump Reg.TPMU_SMP_CNT).raise 0
      else d.bump Reg.TPMU_SMP_CNT) :=
    .ite ((Tdu.Stands.bump (by decide) 0).trans (Tdu.raise_stands _ _)) (.bump (by decide) 0)
  exact .ite counted (.ite (counted.trans (.bump (by decide) 0)) ((counted.trans (.cap _)).trans (Tdu.drainSamples_stands _ _)))

theorem Tdu.prgCount_stands (d : Tdu) (k : Nat) (tp : TraceCycle) (next : List TraceCycle) : d.Stands (d.prgCount k tp next) := by
  have counted := (d.countedTo_count (16 + k) 1).stands
  exact .ite ((counted.trans (Tdu.overflow_stands ..)).trans (Tdu.traceTrigger_stands ..)) counted

theorem Tdu.coreCycle_stands (d : Tdu) (c : CoreCycle) (next : List TraceCycle) : d.Stands (d.coreCycle c next) := by
  rw [Tdu.coreCycle_eq]
  refine ((d.countFixed_eq c).1.stands.trans (.forIdx (fun j e => ?_) _)).trans (.cap _)
  split
  · exact e.prgCount_stands j c.tp next
  · exact .refl

theorem Tdu.coreCycles_stands (after : List TraceCycle) (l : List CoreCycle) (d : Tdu) :
    d.Stands (Tdu.coreCycles after l d) := by
  induction l generalizing d with
  | nil => exact .refl
  | cons c l ih => exact (Tdu.coreCycle_stands ..).trans (ih _)

/-- Whatever the core does, FT stands where it stood, and the die's supplies and its timebase with it. -/
theorem Tdu.core_stands (act : CoreAct) (d : Tdu) : d.Stands (d.core act) := .ite (Tdu.coreCycles_stands ..) .refl

end Sys2Proof.Machine

end

section
/-! ## Time, supplies and clocks of the die (R55 to R58, R65, R66, R354, R444, R447, R479, R483, R487) -/

namespace Sys2Proof.Machine

/-! ### Time words, echoes and links -/

/-- A command that leaves the die's inputs alone leaves the die as its effect does. -/
theorem exec_die_eq {c : Instr} {s : State} {t : T64} {f : Tdu → Tdu} {e : Tdu} (hc : exec c s = .next (s.onDie t f))
    (por : s.tdu.time.por = true) (he : f (s.tduAt t) = e)
    (time : e.time.por = (s.tduAt t).time.por ∧ e.time.vdd = (s.tduAt t).time.vdd ∧ e.time.gated = (s.tduAt t).time.gated ∧
      e.time.clock = (s.tduAt t).time.clock) : exec c s = .next { s with tdu := e } := by
  obtain ⟨hp, hv, hg, hk⟩ := time
  rw [hc, State.onDie_eq por he hp hv hg hk]

section
variable {d : Tdu} {l : Nat} {w : List Byte} (clk : d.clocked = true) (up : (d.lnk l).up = true)

section
include clk up

theorem Tdu.timeWord_of_bad (bad : wordOk w = false) : d.timeWord l w = d.bump Reg.TTIME_TW_CRC_CNT := by
  simp [Tdu.timeWord, clk, up, bad]

/-- A good word on the link in use, between echoes, meets FT. -/
theorem Tdu.timeWord_of_good (ok : wordOk w = true) (known : (d.lnk l).fresh = false)
    (off : fieldAt w 0 8 / 4096 % 2 ^ d.rd Reg.TTIME_ECHO_INTV ≠ 0) {d2 : Int} (delay : (d.lnk l).d2 = some d2) (inUse : d.wordLink = l) :
    d.timeWord l w = (({ d with time := { d.time with heard := d.now } } : Tdu).wr Reg.TTIME_TT_STATE_SRC_LINK l).meetWord w
      ((2 * fieldAt w 0 8 : Nat) + d2)
      (((2 * fieldAt w 0 8 : Nat) + d2) - ((2 * d.now + bit d.time.half : Nat) : Int)) := by
  have between : (fieldAt w 0 8 / 4096 % 2 ^ d.rd Reg.TTIME_ECHO_INTV == 0) = false := by simpa using off
  unfold Tdu.timeWord
  simp only [clk, up, ok, known, between, delay, Bool.not_true, Bool.or_false, Bool.false_eq_true, if_false]
  exact if_neg (not_not.mpr inUse)

theorem Tdu.echoReply_of_asked {t1 : Nat} (asked : (d.lnk l).echo = some t1) (t2 t3 : T64) {delay : Int}
    (hd : (((d.now : Int) - t1) - ((t3.toNat : Int) - t2.toNat)) + 2 * d.lnkAsym l = delay) : d.echoReply l t2 t3 =
      (d.setLnk l fun k => { k with d2 := some delay, echo := none }).wr (lnkDelay l) (unsigned 32 (halfEven delay)) := by
  subst hd
  simp [Tdu.echoReply, clk, up, asked]

end

/-- A word that meets FT within TW_TOL, in LOCKED, steers it (R65). -/
theorem Tdu.meetWord_of_locked (locked : d.tt = 1) {v2 diff : Int} (near : diff.natAbs ≤ 2 * d.rd Reg.TTIME_TW_TOL) :
    d.meetWord w v2 diff = (({ d with time := { d.time with steer := diff * 1000000 } } : Tdu).takeWord w).noteBound := by
  unfold Tdu.meetWord
  rw [locked]
  exact if_pos near

include clk in
/-- With no word for TW_LOST intervals the TDU holds over. -/
theorem Tdu.wordsLost_of_overdue (locked : d.tt = 1) (late : d.rd Reg.TTIME_TW_LOST * 4096 ≤ d.now - d.time.heard) :
    d.wordsLost = (d.wr Reg.TTIME_TT_STATE_STATE 2).noteBound := by
  simp [Tdu.wordsLost, clk, locked, late]

end

theorem Tdu.voidDelay_delay (d : Tdu) (l : Nat) : (d.voidDelay l).rd (lnkDelay l) = 0 :=
  (Tdu.rd_wr ..).trans (Nat.zero_mod _)

/-- A link that has trained anew has no delay, and asks for one. -/
theorem Tdu.voidDelay_lnk {d : Tdu} {l : Nat} (h : l < d.time.link.length) :
    ((d.voidDelay l).lnk l).d2 = none ∧ ((d.voidDelay l).lnk l).echo = none ∧ ((d.voidDelay l).lnk l).fresh = true := by
  have set : (d.voidDelay l).lnk l = { d.lnk l with d2 := none, echo := none, fresh := true } := getD_modifyAt_self h _ _
  rw [set]
  exact ⟨rfl, rfl, rfl⟩

/-- A retrained link is counted while the microcode runs, and its delay is void in any case. -/
theorem Tdu.linkRetrain_countedTo (d : Tdu) (l : Nat) : (d.voidDelay l).CountedTo (d.linkRetrain l) := by
  unfold Tdu.linkRetrain
  split
  · exact Tdu.countedTo_count ..
  · exact ⟨_, _, rfl⟩

theorem Tdu.CountedTo.time {d e : Tdu} (h : d.CountedTo e) : e.time = d.time := by
  obtain ⟨_, _, rfl⟩ := h
  rfl

/-! ### What a gap begins with -/

/-- A region that loses its clock or its power with time holds FT, and a gap opens (R66). -/
theorem Tdu.stopTime_of_timed {d : Tdu} (timed : d.tt ≠ 3) (cause : Nat) : d.stopTime cause =
    ({ d with
      time := { d.time with
        gapLast := d.now, gapCause := cause, gapHo := d.ho, gapEb := d.errBound, lostEvt := 0, discards := 0, steer := 0 }
      emit := { d.emit with left := 0 } } : Tdu).wr Reg.TTIME_TT_STATE_STATE 3 := if_neg timed

theorem Tdu.stopTime_gap {d : Tdu} (timed : d.tt ≠ 3) (cause : Nat) :
    (d.stopTime cause).tt = 3 ∧ (d.stopTime cause).time.gapLast = d.now ∧ (d.stopTime cause).time.gapCause = cause ∧
      (d.stopTime cause).fuses = d.fuses := by
  rw [Tdu.stopTime_of_timed timed]
  exact ⟨Tdu.rd_wr .., rfl, rfl, rfl⟩

theorem Tdu.stopTime_auth {d : Tdu} (timed : d.tt ≠ 3) (cause : Nat) :
    (d.stopTime cause).rd Reg.TTRC_AUTH_STATE = d.rd Reg.TTRC_AUTH_STATE := by
  rw [Tdu.stopTime_of_timed timed]
  exact Tdu.rd_wr_of_tag (by decide) ..

theorem Tdu.counted_stands {f : Tdu → Tdu} (h : ∀ d : Tdu, d.Stands (f d)) (d : Tdu) : d.Stands (d.counted f) :=
  .ite (((h d).trans (.trc _)).trans (Tdu.checkPost_stands _)) (h d)

theorem Tdu.putPkts_stands (l : List TPkt) (d : Tdu) : d.Stands (d.putPkts l) :=
  Tdu.Stands.trans (.ite (Tdu.counted_stands Tdu.recover_stands d) .refl)
    (.forEach (fun p _ => .ite (Tdu.counted_stands (Tdu.putPkt_stands p) _) .refl) _ _)

/-- An authorisation ends (R354), or there is none to end: what is marked of it moves nothing else. -/
theorem Tdu.endAuth_cases (d : Tdu) :
    (d.endAuth = d ∧ (d.rd Reg.TTRC_AUTH_STATE = 0 ∨ d.rd Reg.TTRC_AUTH_STATE = 3)) ∨ (d.wr Reg.TTRC_AUTH_STATE 3).Stands d.endAuth := by
  unfold Tdu.endAuth
  split
  next none_ => exact .inl ⟨rfl, none_⟩
  next => exact .inr (.ite (((Tdu.Stands.trc _).trans (Tdu.putPkts_stands _ _)).trans (.bump (by decide) 0)) .refl)

/-- The end of an authorisation moves neither the time nor the state of the timebase. -/
theorem Tdu.endAuth_keeps (d : Tdu) :
    d.endAuth.tt = d.tt ∧ d.endAuth.time.gapLast = d.time.gapLast ∧ d.endAuth.time.gapCause = d.time.gapCause := by
  obtain ⟨same, -⟩ | stands := d.endAuth_cases
  · rw [same]
    exact ⟨rfl, rfl, rfl⟩
  · exact ⟨stands.tt.trans (Tdu.wr_tt (by decide) ..), stands.gap⟩

theorem Tdu.endAuth_state {d : Tdu} (h : d.rd Reg.TTRC_AUTH_STATE = 1 ∨ d.rd Reg.TTRC_AUTH_STATE = 2) :
    d.endAuth.rd Reg.TTRC_AUTH_STATE = 3 := by
  obtain ⟨-, none_⟩ | stands := d.endAuth_cases
  · omega
  · exact stands.auth.trans (Tdu.rd_wr ..)

theorem Tdu.traceGate_stands (d : Tdu) : d.Stands d.traceGate :=
  (Tdu.Stands.ite (d.recover_stands.trans (Tdu.putPkt_stands _ _)) .refl).trans
    ((Tdu.setTrc_stands _ _).trans (.bumpBy (by decide) ..))

theorem Tdu.clearRes_stands (d : Tdu) (p : ResSlot → Bool) : d.Stands (d.clearRes p) := by
  refine .forIdx (fun i e => ?_) d
  split
  · exact .ite ((Tdu.Stands.ite (.bump (by decide) 0) .refl).trans (.setRes _ _)) .refl
  · exact .refl

/-- What a gap and the end of an authorisation leave, of whatever stands after them. -/
theorem Tdu.Stands.of_gap {d e : Tdu} (timed : d.tt ≠ 3) (h : (d.stopTime 3).endAuth.Stands e) :
    e.tt = 3 ∧ e.time.gapLast = d.now ∧ e.time.gapCause = 3 ∧
      (d.rd Reg.TTRC_AUTH_STATE = 1 ∨ d.rd Reg.TTRC_AUTH_STATE = 2 → e.rd Reg.TTRC_AUTH_STATE = 3) := by
  obtain ⟨tt, last, cause, -⟩ := Tdu.stopTime_gap timed 3
  obtain ⟨tt', last', cause'⟩ := (d.stopTime 3).endAuth_keeps
  refine ⟨h.tt.trans (tt'.trans tt), h.gap.1.trans (last'.trans last), h.gap.2.trans (cause'.trans cause), fun opened => ?_⟩
  exact h.auth.trans (Tdu.endAuth_state (by rwa [Tdu.stopTime_auth timed]))

/-- Gating takes the time, the authorisation, the trace and the slots from a region that is not gated yet. -/
theorem Tdu.gate_stands {d : Tdu} (open_ : d.time.gated = false) : (d.stopTime 3).endAuth.Stands d.gate := by
  rw [Tdu.gate, if_neg (by simp [open_])]
  exact (Tdu.traceGate_stands _).trans (Tdu.clearRes_stands _ _)

/-- A loss of VDD_TDU without the gate takes what the region retains as well (R479). -/
theorem Tdu.vddLoss_of_open {d : Tdu} (open_ : d.time.gated = false) : ∃ g : Tdu, d.vddLoss = g.loseRetained ∧
    (d.stopTime 3).endAuth.Stands g :=
  ⟨_, if_neg (by simp [open_]), (Tdu.traceGate_stands _).trans (Tdu.clearRes_stands _ _)⟩

/-- What the region has lost of what it retains. -/
def Tdu.withoutRetained (d : Tdu) : Tdu :=
  { d with cap := { d.cap with
      cnt := CaptureSt.reset.cnt, inc := CaptureSt.reset.inc, snapCnt := CaptureSt.reset.snapCnt, snapInc := CaptureSt.reset.snapInc
      hist := CaptureSt.reset.hist, slots := [], slotSnap := [], tokens := [], det := CaptureSt.reset.det, detSnap := [], flagSnap := 0 } }

/-- The flags of a detector fall. -/
def Tdu.clearFlags (i : Nat) (d : Tdu) : Tdu := (d.wr Reg.TDET_D_FLAG_UPPER 0 i).wr Reg.TDET_D_FLAG_LOWER 0 i

theorem Tdu.clearFlags_cap (d : Tdu) (i : Nat) : (d.clearFlags i).cap = d.cap := rfl

theorem Tdu.loseRetained_eq (d : Tdu) : d.loseRetained = forIdx 32 Tdu.clearFlags d.withoutRetained := rfl

theorem Tdu.loseRetained_stands (d : Tdu) : d.Stands d.loseRetained :=
  Tdu.Stands.trans (e := d.withoutRetained) (.cap _)
    (.forIdx (fun _ _ => (Tdu.Stands.wr (by decide) ..).trans (.wr (by decide) ..)) _)

theorem Tdu.loseRetained_cap (d : Tdu) : d.loseRetained.cap = d.withoutRetained.cap := by
  rw [Tdu.loseRetained_eq]
  exact forIdx_keeps (f := Tdu.clearFlags) (p := Tdu.cap) (fun i e => e.clearFlags_cap i) d.withoutRetained

/-! ### The inputs -/

/-- An event on an input of a die that is out of its power-on reset. -/
theorem State.onDieInput_of_por {s : State} (por : s.tdu.time.por = true) (t : T64) (f : Tdu → Tdu) (level : DieTime → DieTime) :
    s.onDieInput t f level = { s with tdu := { s.tdu.inputsOf (f (s.tduAt t)) with
      time := level (s.tdu.inputsOf (f (s.tduAt t))).time } } := by
  simp only [State.onDieInput, State.onTdu, por, if_true]
  rfl

/-- What an event on an input leaves, of an effect `g` on the die: its registers, its captures and its fuses, and its time but for
the level. -/
theorem exec_of_onDieInput {c : Instr} {s : State} {t : T64} {f : Tdu → Tdu} {level : DieTime → DieTime}
    (hc : exec c s = .next (s.onDieInput t f level)) (por : s.tdu.time.por = true) {g : Tdu} (hg : f (s.tduAt t) = g) :
    ∃ e : Tdu, exec c s = .next { s with tdu := e } ∧ e.tt = g.tt ∧ e.rd Reg.TTRC_AUTH_STATE = g.rd Reg.TTRC_AUTH_STATE ∧
      e.cap = g.cap ∧ e.fuses = g.fuses ∧ e.time = level (s.tdu.inputsOf g).time := by
  subst hg
  exact ⟨_, hc.trans (congrArg Host.Outcome.next (State.onDieInput_of_por por t f level)), rfl, rfl, rfl, rfl, rfl⟩

/-- A level that returns moves nothing but itself. -/
theorem State.onDieInput_level {s : State} (por : s.tdu.time.por = true) (t : T64) (level : DieTime → DieTime) :
    s.onDieInput t id level = { s with tdu := { s.tduAt t with time := level (s.tduAt t).time } } := by
  have same : s.tdu.inputsOf (s.tduAt t) = s.tduAt t :=
    Tdu.inputsOf_eq (by simp [State.tduAt]) (by simp [State.tduAt]) (by simp [State.tduAt]) (by simp [State.tduAt])
  rw [State.onDieInput_of_por por, id_eq, same]

end Sys2Proof.Machine

open Sys2Proof Sys2Proof.Machine

/-- Settles O32: words and echoes case by case; at a gap, all that follows the stop of the time leaves it as it stands. -/
theorem dieTimeAndSupplies : Obligations.DieTimeAndSupplies := by
  refine ⟨?time, ?supplies⟩
  case time =>
    intro s t t2 t3 link w t1 d2 clocked d l diff
    have clk : d.clocked = true := (State.tduAt_clocked s t).trans clocked
    have por := Tdu.por_of_clocked clocked
    refine ⟨fun up bad => ?bad, fun up ok known off delay inUse locked near => ?good, fun up asked => ?echo,
      fun locked late => ?lost, ?retrain⟩
    case bad => exact exec_die_eq rfl por (Tdu.timeWord_of_bad clk up bad) ⟨rfl, rfl, rfl, rfl⟩
    case good =>
      let k : Tdu := ({ d with time := { d.time with heard := d.now } } : Tdu).wr Reg.TTIME_TT_STATE_SRC_LINK l
      have tt : k.tt = 1 := (Tdu.wr_tt (by decide) ..).trans locked
      have tol : k.rd Reg.TTIME_TW_TOL = d.rd Reg.TTIME_TW_TOL := Tdu.rd_wr_of_tag (by decide) ..
      have met := (Tdu.timeWord_of_good clk up ok known off delay inUse).trans (Tdu.meetWord_of_locked (d := k) tt (by rw [tol]; exact near))
      exact ⟨_, exec_die_eq rfl por met ⟨rfl, rfl, rfl, rfl⟩, rfl, rfl, rfl, rfl, rfl, (Tdu.wr_tt (by decide) ..).trans tt⟩
    case echo => exact exec_die_eq rfl por (Tdu.echoReply_of_asked clk up asked t2 t3 rfl) ⟨rfl, rfl, rfl, rfl⟩
    case lost =>
      exact ⟨_, exec_die_eq rfl por (Tdu.wordsLost_of_overdue clk locked late) ⟨rfl, rfl, rfl, rfl⟩, Tdu.rd_wr .., rfl⟩
    case retrain =>
      have counted := d.linkRetrain_countedTo l
      have void : (d.linkRetrain l).time = (d.voidDelay l).time := counted.time
      refine ⟨d.linkRetrain l, exec_die_eq rfl por rfl (by rw [void]; exact ⟨rfl, rfl, rfl, rfl⟩), fun two => ?_,
        (counted.rd _ 0).trans (d.voidDelay_delay l)⟩
      rw [Tdu.lnk, void]
      exact Tdu.voidDelay_lnk (by omega)
  case supplies =>
    intro s t act lc dieId d
    refine ⟨fun por open_ timed => ?gate, fun por open_ timed => ?vdd, fun por timed => ?clock, fun por => ?levels, rfl, rfl⟩
    case gate =>
      have core := Tdu.core_stands act d
      have now : (d.core act).now = d.now := congrArg BitVec.toNat core.ft
      obtain ⟨tt, last, cause, auth⟩ := Tdu.Stands.of_gap timed (Tdu.gate_stands (core.gated.trans open_))
      obtain ⟨e, ran, tt', auth', -, -, time⟩ := exec_of_onDieInput (c := .tduGateAssert t act) rfl por rfl
      refine ⟨e, ran, by rw [time], by rw [time], tt'.trans tt, ?_, ?_, fun opened => auth'.trans (auth opened)⟩ <;> rw [time]
      · exact last.trans now
      · exact cause
    case vdd =>
      obtain ⟨g, lost, gone⟩ := Tdu.vddLoss_of_open open_
      obtain ⟨tt, last, cause, auth⟩ := Tdu.Stands.of_gap timed (gone.trans g.loseRetained_stands)
      obtain ⟨e, ran, tt', auth', cap, -, time⟩ := exec_of_onDieInput (c := .vddTduLoss t) rfl por lost
      have retained : e.cap = g.withoutRetained.cap := cap.trans g.loseRetained_cap
      refine ⟨e, ran, by rw [time], by rw [time], tt'.trans tt, ?_, ?_, by rw [retained]; rfl, by rw [retained]; rfl,
        by rw [retained]; rfl, by rw [retained]; rfl, fun opened => auth'.trans (auth opened)⟩ <;> rw [time]
      · exact last
      · exact cause
    case clock =>
      obtain ⟨tt, last, cause, fuses⟩ := Tdu.stopTime_gap timed 2
      obtain ⟨e, ran, tt', -, -, fuses', time⟩ := exec_of_onDieInput (c := .tduRefinStop t) rfl por rfl
      refine ⟨e, ran, by rw [time], tt'.trans tt, ?_, ?_, fuses'.trans fuses⟩ <;> rw [time]
      · exact last
      · exact cause
    case levels =>
      exact ⟨congrArg Host.Outcome.next (State.onDieInput_level por t _), congrArg Host.Outcome.next (State.onDieInput_level por t _),
        congrArg Host.Outcome.next (State.onDieInput_level por t _)⟩

end

section
/-! ## Attachment at the parent and at the child (R25, R53, R451, R462, R463) -/

namespace Sys2Proof.Machine

/-! ### What a record to the parent leaves alone -/

section
variable (x : Tau)

theorem Tau.sendUpTo_frame (dst : Option Nat) (q : Nat) (yellow : Bool) (r : List Byte) :
    (x.sendUpTo dst q yellow r).1.boot = x.boot ∧ (x.sendUpTo dst q yellow r).1.scb = x.scb := by
  unfold Tau.sendUpTo
  dsimp only
  split
  · exact ⟨rfl, rfl⟩
  · split <;> exact ⟨rfl, rfl⟩

theorem Tau.toParent_frame (yellow : Bool) (r : List Byte) :
    (x.toParent yellow r).boot = x.boot ∧ (x.toParent yellow r).scb = x.scb := by
  unfold Tau.toParent
  split
  · exact x.sendUpTo_frame none _ yellow r
  · exact ⟨rfl, rfl⟩

theorem Tau.requestReplay_frame : x.requestReplay.boot = x.boot ∧ x.requestReplay.scb = x.scb :=
  ⟨forEach_keeps (p := Tau.boot) (fun _ y => (y.toParent_frame ..).1) _ x,
    forEach_keeps (p := Tau.scb) (fun _ y => (y.toParent_frame ..).2) _ x⟩

theorem Tau.interrupt_frame (mask : Nat) : (x.interrupt mask).boot = x.boot ∧ (x.interrupt mask).scb = x.scb := by
  unfold Tau.interrupt
  split
  · exact ⟨rfl, rfl⟩
  · split <;> exact ⟨rfl, rfl⟩

theorem Tau.raise_frame (c : Nat) : (x.raise c).boot = x.boot ∧ (x.raise c).scb = x.scb := by
  unfold Tau.raise
  dsimp only
  split
  · exact Tau.interrupt_frame ..
  · exact ⟨rfl, rfl⟩

theorem Tau.freshParent_frame : x.freshParent.boot = x.boot ∧ x.freshParent.scb = x.scb := ⟨rfl, rfl⟩

end

section
variable {l : List Fld} {x : Tau}

theorem Tau.SameReads.sendUpTo (h : [Reg.SHP_Q_DROP_CNT, Reg.SHP_Q_YDROP_CNT].all (Fld.outside l) = true) (dst : Option Nat) (q : Nat)
    (yellow : Bool) (r : List Byte) : x.SameReads l (x.sendUpTo dst q yellow r).1 := by
  obtain ⟨drop, ydrop⟩ : Reg.SHP_Q_DROP_CNT.outside l = true ∧ Reg.SHP_Q_YDROP_CNT.outside l = true := by simpa using h
  unfold Tau.sendUpTo
  dsimp only
  split
  · exact (Tau.SameReads.eg _).trans (.bump drop ..)
  · split
    · exact (Tau.SameReads.eg _).trans (.bump ydrop ..)
    · exact (Tau.SameReads.eg _).trans (.eg _)

theorem Tau.SameReads.toParent (h : [Reg.SHP_Q_DROP_CNT, Reg.SHP_Q_YDROP_CNT].all (Fld.outside l) = true)
    (yellow : Bool) (r : List Byte) : x.SameReads l (x.toParent yellow r) := by
  unfold Tau.toParent
  split
  · exact .sendUpTo h ..
  · exact .refl

theorem Tau.SameReads.requestReplay (h : [Reg.SHP_Q_DROP_CNT, Reg.SHP_Q_YDROP_CNT].all (Fld.outside l) = true) :
    x.SameReads l x.requestReplay := .forEach (fun _ _ => .toParent h ..) _

theorem Tau.SameReads.freshParent (h : [Reg.SRV_PARENT_STATE, Reg.SRV_PARENT_MISS].all (Fld.outside l) = true) :
    x.SameReads l x.freshParent := by
  obtain ⟨state, miss⟩ : Reg.SRV_PARENT_STATE.outside l = true ∧ Reg.SRV_PARENT_MISS.outside l = true := by simpa using h
  have judged : x.SameReads l ((x.wr Reg.SRV_PARENT_STATE 0).wr Reg.SRV_PARENT_MISS 0) := (Tau.SameReads.wr state ..).trans (.wr miss ..)
  unfold Tau.freshParent
  exact ⟨judged.rd⟩

end

/-! ### At the parent -/

section
variable {x : Tau} {via : Option Nat} {q : AttachReq} {r : List Byte}

/-- A request of a TAU that is no child yet is metered for none. -/
theorem Tau.attachRx_of_unknown (read : AttachReq.parse r = some q) (unknown : x.knownKid q via = none) :
    x.attachRx none via r = x.attachIn none via r := by
  simp [Tau.attachRx, read, unknown]

theorem Tau.attachIn_of_request (read : AttachReq.parse r = some q) (request : q.adopt = false) (up : Option Nat) :
    x.attachIn up via r = x.attachReq via q := by
  simp [Tau.attachIn, read, request]

section
variable (unknown : x.knownKid q via = none)
include unknown

/-- A request that the parent takes: the child at the lowest free index, and the answer. -/
theorem Tau.attachReq_of_taken (set : x.unset = false) (roled : x.roleSet = true) (takes : roleTakes x.role q.role = true)
    (plain : x.role ≠ 4) {c : Nat} (free : x.freeKid = some c) (range : x.rangeOk q = true) (early : q.ready ≤ x.emitOfs) {k : Tau}
    (hk : x.addKid c ⟨q.role, via, q.ready, q.counts, x.per + 1, none, none⟩ q.base q.span false = k) :
    x.attachReq via q = k.sendDown c (k.attachAnswer q.id Code.done c (k.per + 1)) := by
  subst hk
  simp only [Tau.attachReq, roled, unknown, set, takes, free, range, if_true, Bool.not_true, Bool.or_self, Bool.false_eq_true, if_false,
    Nat.not_lt.mpr early, Tau.rangeFor, plain]

theorem Tau.attachReq_of_unset (unset : x.unset = true) : x.attachReq via q = x.refuseAttach q via Code.lifecycle := by
  simp [Tau.attachReq, unknown, unset]

end

/-- An adoption that a child passes on is answered from the ranges of the other children (R198). -/
theorem Tau.attachRx_of_passedOn {z : Tau} {up : Nat} (read : AttachReq.parse r = some q) (adopt : q.adopt = true)
    (attached : (x.kid up).isSome = true) (green : x.meterIn up r.length = (z, 0)) {held : Bool}
    (hh : (z.children.any fun o =>
      o != up && decide (z.kidBase o ≤ q.base) && decide (q.base + q.span ≤ z.kidBase o + z.kidSpan o)) = held) :
    x.attachRx (some up) via r = z.sendDown up (z.attachAnswer q.id (if held then Code.done else Code.fit) 0xFF 0) := by
  subst hh
  rw [Tau.attachRx, Option.some_or]
  refine (Tau.metered_of_passed attached green _ (by decide)).trans ?_
  simp [Tau.attachIn, read, adopt, Tau.adoptConfirm]

/-- A new ATTACH_ID touches nothing but its own sequence and the free choices. -/
theorem Tau.newReqId_frame (x : Tau) : x.newReqId.2.regs = x.regs ∧ x.newReqId.2.scb = x.scb ∧
    x.newReqId.2.boot.adopts = x.boot.adopts := ⟨rfl, rfl, rfl⟩

/-- An exception that its queue takes moves nothing of attachment. -/
theorem Tau.postExc_boot (x : Tau) (s kind job consist info ref : Nat) : (x.postExc s kind job consist info ref).1.boot = x.boot := by
  unfold Tau.postExc
  dsimp only
  split <;> rfl

/-- An orphan's request, posted as an exception, waits, and goes up to the parent (R198). -/
theorem Tau.adoptReq_of_posted {z : Tau} (set : x.unset = false) (roled : x.roleSet = true)
    (takes : roleTakes x.role q.role = true) (attached : x.parent.isSome = true)
    (fan : x.children.length + x.boot.adopts.length < fanIn x.role) (num : x.rd Reg.SCB_ADOPT_NUM + x.boot.adopts.length < 16)
    (early : q.ready ≤ x.emitOfs) (posted : x.newReqId.2.postExc x.anySec 1 0 0 q.base x.newReqId.1 = (z, true)) :
    ∃ (y : Tau) (r : List Byte), x.adoptReq via q = y.toParent false r ∧ y.scb = z.scb ∧ y.boot.adopts = x.boot.adopts ++
      [⟨q.id, x.newReqId.1, false, false, q.role, q.base, q.span, q.ready, q.counts, via⟩] := by
  have set' : x.newReqId.2.unset = false := set
  have roled' : x.newReqId.2.roleSet = true := roled
  have role : x.newReqId.2.role = x.role := rfl
  have attached' : x.newReqId.2.parent.isNone = false := by
    rw [Option.isNone_eq_false_iff]
    exact attached
  have fan' : ¬ fanIn x.role ≤ x.newReqId.2.children.length + x.newReqId.2.boot.adopts.length := Nat.not_le.mpr fan
  have num' : ¬ 16 ≤ x.newReqId.2.rd Reg.SCB_ADOPT_NUM + x.newReqId.2.boot.adopts.length := Nat.not_le.mpr num
  have early' : ¬ x.newReqId.2.emitOfs < q.ready := Nat.not_lt.mpr early
  have posted' : x.newReqId.2.postExc x.newReqId.2.anySec 1 0 0 q.base x.newReqId.1 = (z, true) := posted
  unfold Tau.adoptReq
  simp only [set', roled', role, takes, attached', fan', num', early', posted', Bool.not_true, Bool.or_self,
    Bool.false_eq_true, if_false]
  have kept : z.boot = x.newReqId.2.boot := (congrArg (fun p : Tau × Bool => p.1.boot) posted).symm.trans (Tau.postExc_boot ..)
  exact ⟨{ z with boot := { z.boot with adopts := z.boot.adopts ++ _ } }, _, rfl, rfl, by rw [kept]; rfl⟩

end

/-! ### At the child -/

section
variable {x : Tau}

/-- A GO before the time or the role is set is refused (R451). -/
theorem Tau.attachGo_of_early (early : x.unset = true ∨ x.roleSet = false) {v : Nat} (go : v.testBit 0 = true) :
    x.attachGo v = (x.wr Reg.GEN_ATTACH_STAT_CODE Code.lifecycle).bump Reg.GEN_LOAD_REFUSED_CNT := by
  have refused : (x.unset || !x.roleSet) = true := by simpa using early
  simp [Tau.attachGo, go, refused]

/-- A request of this TAU has its number. -/
def Tau.asking (x : Tau) : Tau := { x.newReqId.2 with boot := { x.newReqId.2.boot with req := some (x.newReqId.1, false) } }

theorem Tau.asking_regs (x : Tau) : x.asking.regs = x.regs := rfl

/-- A request numbered and queued for the primary parent. -/
def Tau.askParent (x : Tau) : Tau :=
  (x.asking.sendUpTo (some (x.rd Reg.GEN_PRI_PARENT)) 1 false (x.asking.attachRecord false x.newReqId.1)).1.wr
    Reg.GEN_ATTACH_STAT_STATE 1

theorem Tau.askParent_eq {x w y : Tau} (hw : x.asking = w) (hy : (w.sendUpTo (some (x.rd Reg.GEN_PRI_PARENT)) 1 false
    (w.attachRecord false x.newReqId.1)).1.wr Reg.GEN_ATTACH_STAT_STATE 1 = y) : x.askParent = y := by
  subst hw hy
  rfl

theorem Tau.ask_eq_askParent (x : Tau) :
    (x.ask false (x.rd Reg.GEN_PRI_PARENT)).wr Reg.GEN_ATTACH_STAT_STATE 1 = x.askParent := rfl

theorem Tau.askParent_role (x : Tau) : x.askParent.role = x.role := by
  have asked : x.SameReads roleFields x.asking := .of_regs x.asking_regs
  unfold Tau.askParent
  exact (asked.trans ((Tau.SameReads.sendUpTo (by decide) ..).trans (.wr (by decide) ..))).roles.1

/-- A TAU that has asked its primary parent goes on under it, and judges it anew. -/
def Tau.underPrimary (x : Tau) : Tau := ({ x with scb := { x.scb with orphanFrom := none } } : Tau).freshParent

theorem Tau.SameReads.underPrimary {l : List Fld} {x : Tau} (h : [Reg.SRV_PARENT_STATE, Reg.SRV_PARENT_MISS].all (Fld.outside l) = true) :
    x.SameReads l x.underPrimary := ⟨(Tau.SameReads.freshParent (x := { x with scb := { x.scb with orphanFrom := none } }) h).rd⟩

/-- A GO of a TRAY or ROW TAU asks its primary parent, and judges it anew (R25, R451). -/
theorem Tau.attachGo_of_detached (set : x.unset = false) (roled : x.roleSet = true) (low : x.role < 2)
    (detached : x.rd Reg.GEN_ATTACH_STAT_STATE = 0) {v : Nat} (go : v.testBit 0 = true) : x.attachGo v = x.askParent.underPrimary := by
  have role : x.askParent.underPrimary.role = x.role :=
    ((Tau.SameReads.underPrimary (by decide)).roles.1).trans x.askParent_role
  have allowed : ¬ (x.role = 4 ∨ (x.role = 3 ∧ x.rd Reg.GEN_PRI_PARENT = rankNone) ∨ 2 ≤ x.rd Reg.GEN_ATTACH_STAT_STATE) := by
    omega
  unfold Tau.attachGo
  rw [go, if_neg (by decide), set, roled, if_neg (by decide), if_neg allowed, Tau.ask_eq_askParent]
  change (if x.askParent.underPrimary.role = 2 ∧ _ then _ else x.askParent.underPrimary) = _
  exact if_neg fun ⟨site, _⟩ => by omega

/-- The code of an answer is noted, and its request is no longer in flight. -/
def Tau.answered (x : Tau) (code : Nat) : Tau :=
  ({ x with boot := { x.boot with req := none } } : Tau).wr Reg.GEN_ATTACH_STAT_CODE code

/-- A cause that is raised shows in GEN.INTR_STAT. -/
theorem Tau.raise_stat (x : Tau) {c : Nat} (h : c < 8) : ((x.raise c).rd Reg.GEN_INTR_STAT).testBit c = true := by
  have shows : ((x.wr Reg.GEN_INTR_STAT (Nat.lor (x.rd Reg.GEN_INTR_STAT) (2 ^ c))).rd Reg.GEN_INTR_STAT).testBit c = true := by
    rw [Tau.rd_wr, Nat.testBit_mod_two_pow, testBit_nat_lor, Nat.testBit_two_pow_self, Bool.or_true, Bool.and_true, decide_eq_true_eq]
    exact h
  have kept (y : Tau) (mask : Nat) : (y.interrupt mask).rd Reg.GEN_INTR_STAT = y.rd Reg.GEN_INTR_STAT :=
    (Tau.SameReads.interrupt (l := [Reg.GEN_INTR_STAT]) (by decide) (by decide) mask).rd _ (by simp) 0 0
  unfold Tau.raise
  dsimp only
  split
  · rwa [kept]
  · exact shows

/-- The registers in which the outcome of a request shows. -/
def attachFields : List Fld := [Reg.GEN_ATTACH_STAT_STATE, Reg.GEN_ATTACH_STAT_CODE]

/-- What a change of parent brings — the parent judged anew, the cause raised, and the notices asked for again — shows in ATTACH, and
leaves attachment as it stands. -/
structure Tau.Told (y z : Tau) : Prop where
  boot : z.boot = y.boot
  scb : z.scb = y.scb
  reads : y.SameReads attachFields z
  raised : (z.rd Reg.GEN_INTR_STAT).testBit 7 = true

theorem Tau.freshParent_told (y : Tau) : y.Told (y.freshParent.raise 7).requestReplay := by
  obtain ⟨boot₁, scb₁⟩ := y.freshParent_frame
  obtain ⟨boot₂, scb₂⟩ := y.freshParent.raise_frame 7
  obtain ⟨boot₃, scb₃⟩ := (y.freshParent.raise 7).requestReplay_frame
  have asked : (y.freshParent.raise 7).SameReads [Reg.GEN_INTR_STAT] (y.freshParent.raise 7).requestReplay := .requestReplay (by decide)
  exact ⟨boot₃.trans (boot₂.trans boot₁), scb₃.trans (scb₂.trans scb₁),
    ((Tau.SameReads.freshParent (by decide)).trans (.raise (by decide) 7)).trans (.requestReplay (by decide)),
    by rw [asked.rd _ (by simp)]; exact y.freshParent.raise_stat (by decide)⟩

/-- ATTACH after an answer of DONE. -/
theorem Tau.answered_reads (x : Tau) (st : Nat) :
    ((x.answered 0).wr Reg.GEN_ATTACH_STAT_STATE st).rd Reg.GEN_ATTACH_STAT_STATE = st % 2 ^ 2 ∧
      ((x.answered 0).wr Reg.GEN_ATTACH_STAT_STATE st).rd Reg.GEN_ATTACH_STAT_CODE = Code.done :=
  ⟨Tau.rd_wr .., (Tau.rd_wr_of_tag (by decide) ..).trans (Tau.rd_wr ..)⟩

section
variable {r : List Byte} {id : Nat} (sound : ctlOk 0xB2 r = true) (len : r.length = 32) (hid : fieldAt r 4 4 = id)
include sound len hid

section
variable (own : x.boot.adopts.find? (·.up == id) = none)
include own

/-- A refusal returns to 0 (R463). -/
theorem Tau.answerIn_of_refused (asked : x.boot.req = some (id, false)) (asking : x.rd Reg.GEN_ATTACH_STAT_STATE = 1)
    (refused : fieldAt r 8 1 ≠ 0) : x.answerIn r = (x.answered (fieldAt r 8 1)).wr Reg.GEN_ATTACH_STAT_STATE 0 := by
  subst hid
  simp only [Tau.answerIn, sound, len, own, asked, asking, refused, bne_self_eq_false, Bool.not_true, Bool.or_self, Bool.false_eq_true,
    if_false, ne_eq, not_true_eq_false, not_false_eq_true, if_true, Bool.not_false, and_self]
  rfl

/-- The primary parent's DONE attaches (R463). -/
theorem Tau.answerIn_of_primary (asked : x.boot.req = some (id, false)) (asking : x.rd Reg.GEN_ATTACH_STAT_STATE = 1)
    (done : fieldAt r 8 1 = 0) : ∃ y : Tau, x.answerIn r = (y.freshParent.raise 7).requestReplay ∧ y.boot.req = none ∧
      y.rd Reg.GEN_ATTACH_STAT_STATE = 2 ∧ y.rd Reg.GEN_ATTACH_STAT_CODE = Code.done := by
  subst hid
  obtain ⟨state, code⟩ := x.answered_reads 2
  refine ⟨{ (x.answered 0).wr Reg.GEN_ATTACH_STAT_STATE 2 with scb := { x.scb with orphanFrom := none } }, ?_, rfl, state, code⟩
  simp [Tau.answerIn, sound, len, own, asked, asking, done]
  rfl

/-- The alternate's DONE leaves the primary parent from the period that it names (R198, R463). -/
theorem Tau.answerIn_of_alternate (asked : x.boot.req = some (id, true)) (attached : x.rd Reg.GEN_ATTACH_STAT_STATE = 2)
    (done : fieldAt r 8 1 = 0) : ∃ y : Tau, x.answerIn r = (y.freshParent.raise 7).requestReplay ∧ y.boot.req = none ∧
      y.rd Reg.GEN_ATTACH_STAT_STATE = 3 ∧ y.scb.orphanFrom = some (fieldAt r 16 8) := by
  subst hid
  obtain ⟨state, -⟩ := x.answered_reads 3
  refine ⟨((x.answered 0).wr Reg.GEN_ATTACH_STAT_STATE 3).leaveParent (fieldAt r 16 8), ?_, rfl, state, rfl⟩
  simp [Tau.answerIn, sound, len, own, asked, attached, done]
  rfl

end

/-- The grandparent's confirmation of the one adoption that waits is noted (R198). -/
theorem Tau.answerIn_of_confirmation {a : Adopt} (waits : x.boot.adopts = [a]) (its : a.up = id) (open_ : a.acked = false)
    (done : fieldAt r 8 1 = 0) :
    x.answerIn r = { x with boot := { x.boot with adopts := [{ a with ok := true }] } } := by
  subst hid
  have found : x.boot.adopts.find? (·.up == fieldAt r 4 4) = some a := by rw [waits]; simp [its]
  simp [Tau.answerIn, sound, len, found, done, Tau.moveAdopt, Tau.commitAdopt, open_]
  exact ⟨a, waits, fun other => absurd its other⟩

end

end

end Sys2Proof.Machine

open Sys2Proof Sys2Proof.Machine

/-- Settles O24: each record and each GO by the lemma of its case; what follows a change of parent leaves attachment as it stands. -/
theorem attachmentRuns : Obligations.AttachmentRuns := by
  refine ⟨?parent, ?child⟩
  case parent =>
    intro s t via up r q c z on x v read roled
    have runs {y : Tau} (h : x.attachRx none v r = y) : exec (.attachRequestRx t via r) s = .next (s.withTau y) :=
      exec_of_onMain rfl on h
    refine ⟨fun request unknown set takes free plain range early => ?taken, fun request unknown unset => ?unset,
      fun adopt unknown set takes attached fan num early posted => ?orphan, fun adopt attached green => ?passed⟩
    case taken =>
      exact runs ((Tau.attachRx_of_unknown read unknown).trans ((Tau.attachIn_of_request read request none).trans
        (Tau.attachReq_of_taken unknown set roled takes plain free range early rfl)))
    case unset =>
      exact runs ((Tau.attachRx_of_unknown read unknown).trans ((Tau.attachIn_of_request read request none).trans
        (Tau.attachReq_of_unset unknown unset)))
    case orphan =>
      obtain ⟨y, w, e, exc, adopts⟩ := Tau.adoptReq_of_posted (via := v) set roled takes attached fan num early posted
      have into : x.attachRx none v r = x.adoptReq v q := (Tau.attachRx_of_unknown read unknown).trans (by simp [Tau.attachIn, read, adopt])
      obtain ⟨boot, scb⟩ := y.toParent_frame false w
      exact ⟨_, exec_of_onMain rfl on (into.trans e), (congrArg BootSt.adopts boot).trans adopts,
        congrArg ScbSt.exc (scb.trans exc)⟩
    case passed => exact exec_of_onMain rfl on (Tau.attachRx_of_passedOn read adopt attached green rfl)
  case child =>
    intro s t port v r a on x id
    have up : x.on = true := State.tauAt_on_of_on on
    have goes {y : Tau} (h : x.attachGo v.toNat = y) : exec (.attachGo t port v) s = .next (s.withTau y) :=
      exec_of_tauWrite rfl on ((Tau.write_attachGo up _ _ _).trans h)
    have answers {y : Tau} (h : x.answerIn r = y) : exec (.attachAnswerRx t r) s = .next (s.withTau y) := exec_of_onMain rfl on h
    refine ⟨fun go early => ?early, fun go set role low detached => ?asks,
      fun sound len own => ⟨fun asked asking done => ?primary, fun asked attached done => ?alternate, fun asked asking refused => ?refused⟩,
      fun sound len waits its open_ done => ?confirmed⟩
    case early => exact goes (Tau.attachGo_of_early early go)
    case asks =>
      intro n w y
      have asked : x.askParent = y := Tau.askParent_eq (w := w) rfl rfl
      exact goes ((Tau.attachGo_of_detached set role low detached go).trans (by rw [asked]; rfl))
    case primary =>
      obtain ⟨y, e, req, state, code⟩ := Tau.answerIn_of_primary sound len rfl own asked asking done
      have told := y.freshParent_told
      generalize (y.freshParent.raise 7).requestReplay = z at e told
      exact ⟨z, answers e, (told.reads.rd _ (by simp [attachFields]) 0 0).trans state,
        (told.reads.rd _ (by simp [attachFields]) 0 0).trans code, (congrArg BootSt.req told.boot).trans req, told.raised⟩
    case alternate =>
      obtain ⟨y, e, req, state, orphan⟩ := Tau.answerIn_of_alternate sound len rfl own asked attached done
      have told := y.freshParent_told
      generalize (y.freshParent.raise 7).requestReplay = z at e told
      exact ⟨z, answers e, (told.reads.rd _ (by simp [attachFields]) 0 0).trans state,
        (congrArg ScbSt.orphanFrom told.scb).trans orphan, (congrArg BootSt.req told.boot).trans req, told.raised⟩
    case refused => exact answers (Tau.answerIn_of_refused sound len rfl own asked asking refused)
    case confirmed => exact exec_of_onMain rfl on (Tau.answerIn_of_confirmation sound len rfl waits its open_ done)

end

section
/-! ## Resets and the main rails (R38, R323, R424, R447, R477, R478) -/

namespace Sys2Proof.Machine

/-! ### What a reset leaves of the registers -/

/-- An entry that a filter of keys lets through is found in what it leaves. -/
theorem Store.find_filter_of_kept {p : Nat × Nat → Bool} {k : Nat} (h : ∀ v, p (k, v) = true) (s : List (Nat × Nat)) :
    Store.find k (s.filter p) = Store.find k s := by
  induction s with
  | nil => rfl
  | cons e r ih =>
    obtain ⟨a, v⟩ := e
    by_cases hk : a = k
    · subst hk
      simp [h v, Store.find]
    · cases hp : p (a, v) <;> simp [hp, Store.find, hk, ih]

/-- One that it does not let through is gone. -/
theorem Store.find_filter_of_dropped {p : Nat × Nat → Bool} {k : Nat} (h : ∀ v, p (k, v) = false) (s : List (Nat × Nat)) :
    Store.find k (s.filter p) = none := by
  induction s with
  | nil => rfl
  | cons e r ih =>
    obtain ⟨a, v⟩ := e
    by_cases hk : a = k
    · subst hk
      simp [h v, ih]
    · cases hp : p (a, v) <;> simp [hp, Store.find, hk, ih]

theorem Fld.key_div (g : Fld) (i s : Nat) : g.key i s / 4096 = g.tag := by
  have section_ : (if g.wide then 0 else s % 4) < 4 := by split <;> omega
  simp only [Fld.key, Fld.tag]
  omega

theorem cellOf_key (l : List Fld) (g : Fld) (i s v : Nat) : cellOf l (g.key i s, v) = !g.outside l := by
  simp only [cellOf, Fld.key_div, Fld.outside, List.not_all_eq_any_not, bne, Bool.not_not]
  rfl

/-- What the island holds of the registers stays. -/
theorem RegFile.mainReset_of_island {g : Fld} (h : g.outside islandFields = false) (r : RegFile) (i s : Nat) :
    r.mainReset.get g i s = r.get g i s ∧ r.mainReset.getShadow g i s = r.getShadow g i s := by
  have kept (v : Nat) : cellOf islandFields (g.key i s, v) = true := by rw [cellOf_key, h]; rfl
  simp only [RegFile.get, RegFile.getShadow, RegFile.mainReset, Store.find_filter_of_kept kept, and_self]

/-- All else is at reset. -/
theorem RegFile.mainReset_of_main {g : Fld} (h : g.outside islandFields = true) (r : RegFile) (i s : Nat) :
    r.mainReset.get g i s = g.resetAt i ∧ r.mainReset.getShadow g i s = g.resetAt i := by
  have gone (v : Nat) : cellOf islandFields (g.key i s, v) = false := by rw [cellOf_key, h]; rfl
  simp only [RegFile.get, RegFile.getShadow, RegFile.mainReset, Store.find_filter_of_dropped gone, Option.getD_none, and_self]

/-- What stands in GEN and in the section pages apart from the main rails: the TAU-wide fields of CIP and the island's guard counter,
which the island holds, and what shows the links. -/
def heldAlone (g : Fld) : Bool :=
  (g.page == 0xB && g.wide) || g.tag == Reg.MNT_ISL_GUARD_CNT.tag || g.tag == Reg.GEN_TDU_STATE_LINKS.tag

/-- The pages that the main rails feed. -/
def mainPages : List Nat := [0x10, 0x2, 0x3, 0x4, 0x5, 0x6, 0x7, 0x8, 0x9, 0xA, 0xB, 0xC, 0xD, 0xE]

/-- What the main rails feed of the registers. -/
def mainFields : List Fld := (mainPages.flatMap Reg.ofPage).filter fun g => !heldAlone g

theorem mem_mainFields {p : Nat} (hp : p ∈ mainPages) {g : Fld} (hg : g ∈ Reg.ofPage p) (h : heldAlone g = false) : g ∈ mainFields :=
  List.mem_filter.mpr ⟨List.mem_flatMap.mpr ⟨p, hp, hg⟩, by rw [h]; rfl⟩

theorem page_of_mem_ofPage : ∀ p ∈ mainPages ++ [0x1, 0xF], ∀ g ∈ Reg.ofPage p, g.page = p := by decide +kernel

/-- Fields of one tag lie on one page. -/
theorem Fld.page_of_tag {f g : Fld} (hf : f.page < 64) (hg : g.page < 64) (h : f.tag = g.tag) : f.page = g.page := by
  simp only [Fld.tag] at h
  omega

/-- Nothing of what the main rails feed is the island's. -/
theorem outside_islandFields_of_main {g : Fld} (hg : g ∈ mainFields) : g.outside islandFields = true := by
  obtain ⟨mem, alone⟩ := List.mem_filter.mp hg
  obtain ⟨p, hp, hgp⟩ := List.mem_flatMap.mp mem
  have page := page_of_mem_ofPage p (List.mem_append_left _ hp) g hgp
  have pageOf {q : Nat} (hq : q ∈ mainPages ++ [0x1, 0xF]) {f : Fld} (hf : f ∈ Reg.ofPage q) (e : f.tag = g.tag) : q = p := by
    have small : ∀ p ∈ mainPages ++ [0x1, 0xF], p < 64 := by decide
    have hf' := page_of_mem_ofPage q hq f hf
    rw [← hf', ← page]
    exact Fld.page_of_tag (hf' ▸ small q hq) (page ▸ small p (List.mem_append_left _ hp)) e
  have apart : ∀ p ∈ mainPages, (0x1 : Nat) ≠ p ∧ (0xF : Nat) ≠ p := by decide
  refine List.all_eq_true.mpr fun f hf => bne_iff_ne.mpr fun e => ?_
  simp only [islandFields, List.mem_append, List.mem_filter, List.mem_singleton] at hf
  obtain ((hf | hf) | ⟨hf, wide⟩) | rfl := hf
  · exact (apart p hp).1 (pageOf (by decide) hf e)
  · exact (apart p hp).2 (pageOf (by decide) hf e)
  · obtain rfl := pageOf (by decide) hf e
    have narrow : g.wide = false := by
      cases hw : g.wide with
      | false => rfl
      | true => simp [heldAlone, page, hw] at alone
    exact (by decide +kernel : ∀ g ∈ Reg.ofPage 0xB, g.wide = false → ∀ f ∈ Reg.ofPage 0xB, f.wide = true → f.tag ≠ g.tag)
      g hgp narrow f hf wide e
  · simp [heldAlone, e] at alone

/-! ### What else a reset clears and keeps -/

/-- What a reset clears or keeps beside the registers, the time and the queues of EXPORT records. -/
def Tau.parts (x : Tau) :=
  (x.scb, x.jobs, x.lib, x.srv, x.tree, x.agr, x.rings.take 4, x.chans, x.cmp, x.ntc, x.mnt, x.ft, x.fuses, x.cip, x.regs.shd)

/-- Neither a part of the TAU nor a shadow nor a register of `l` differs. -/
structure Tau.SameParts (l : List Fld) (x y : Tau) : Prop where
  parts : y.parts = x.parts
  reads : x.SameReads l y

namespace Tau.SameParts

variable {l : List Fld} {x y z : Tau}

theorem refl : x.SameParts l x := ⟨rfl, .refl⟩

theorem trans (h : x.SameParts l y) (h' : y.SameParts l z) : x.SameParts l z := ⟨h'.parts.trans h.parts, h.reads.trans h'.reads⟩

theorem wr {f : Fld} (h : f.outside l = true) (v i s : Nat) : x.SameParts l (x.wr f v i s) := ⟨rfl, .wr h ..⟩

theorem time (t : TimeSt) : x.SameParts l { x with time := t } := ⟨rfl, .of_regs rfl⟩

theorem eg (e : EgressSt) : x.SameParts l { x with eg := e } := ⟨rfl, .of_regs rfl⟩

theorem boot (b : BootSt) : x.SameParts l { x with boot := b } := ⟨rfl, .of_regs rfl⟩

theorem forIdx {n : Nat} {f : Nat → Tau → Tau} (h : ∀ i (y : Tau), y.SameParts l (f i y)) : x.SameParts l (forIdx n f x) :=
  ⟨forIdx_keeps (p := Tau.parts) (fun i y => (h i y).parts) x, .forIdx fun i y => (h i y).reads⟩

end Tau.SameParts

/-- The registers in which a loss of the main rails shows. -/
def lossFields : List Fld := [Reg.TIME_TIME_STATE_SLEWING, Reg.TIME_TIME_STATE_STATE, Reg.TIME_TIME_STATE_SRC, Reg.MGMT_I_FRZ_STAT_ACTIVE]

section
variable {l : List Fld}

theorem Tau.reselect_sameParts (h : lossFields.all (Fld.outside l) = true) (x : Tau) : x.SameParts l x.reselect := by
  obtain ⟨slew, state, src, -⟩ : Reg.TIME_TIME_STATE_SLEWING.outside l = true ∧ Reg.TIME_TIME_STATE_STATE.outside l = true ∧
      Reg.TIME_TIME_STATE_SRC.outside l = true ∧ Reg.MGMT_I_FRZ_STAT_ACTIVE.outside l = true := by simpa [lossFields] using h
  obtain e | e | e := x.reselect_cases <;> rw [e]
  · exact .refl
  · exact (((Tau.SameParts.time _).trans (.wr slew ..)).trans (.wr state ..)).trans (.wr src ..)
  · exact .wr src ..

/-- The ports of the Flistan lose their sources. -/
theorem Tau.loseFlistan_sameParts (h : lossFields.all (Fld.outside l) = true) (x : Tau) : x.SameParts l x.loseFlistan :=
  .forIdx fun i y => Tau.SameParts.trans (y := y.setSource (i + 2) _) (.time _) (Tau.reselect_sameParts h _)

/-- A change at index `n` leaves the entries before it. -/
theorem modifyAt_take {α : Type} (f : α → α) (n : Nat) (l : List α) : (modifyAt f n l).take n = l.take n := by
  induction n generalizing l with
  | zero => rfl
  | succ n ih =>
    cases l with
    | nil => rfl
    | cons a l => exact congrArg (a :: ·) (ih l)

/-- The end of the island ring's FREEZE leaves the rings of the sections alone. -/
theorem Tau.endIslandFreeze_sameParts (h : lossFields.all (Fld.outside l) = true) (x : Tau) : x.SameParts l x.endIslandFreeze := by
  have active : Reg.MGMT_I_FRZ_STAT_ACTIVE.outside l = true := List.all_eq_true.mp h _ (by simp [lossFields])
  unfold Tau.endIslandFreeze
  split
  · have ring (f : Ring → Ring) : x.SameParts l (x.setRing 4 f) := by
      refine ⟨?_, .of_regs rfl⟩
      simp only [Tau.parts, Tau.setRing, modifyAt_take]
    exact (ring _).trans (.wr active ..)
  · exact .refl

end

/-! ### A MAIN reset -/

/-- What a MAIN reset makes of the TAU before GEN shows the links again. -/
def Tau.cleared (x : Tau) : Tau :=
  { Tau.reset with
    ft := x.ft, regs := x.regs.mainReset, fuses := x.fuses, islPg := x.islPg, main := x.main, links := x.links
    time := { x.time with parentEb := 0, parentHo := false, parentPort := none }
    rings := (Tau.reset.rings.take 4) ++ x.rings.drop 4
    cip := x.cip.mainReset, mnt := x.mnt.mainReset
    boot := { BootSt.reset with reqSeq := x.boot.reqSeq }, out := x.out, free := x.free }

theorem Tau.mainReset_eq (x : Tau) : x.mainReset = forIdx 16 (fun d y => y.showLinks d) x.cleared := rfl

theorem Tau.mainReset_sameParts {l : List Fld} (h : Reg.GEN_TDU_STATE_LINKS.outside l = true) (x : Tau) :
    x.cleared.SameParts l x.mainReset := by
  rw [Tau.mainReset_eq]
  exact .forIdx fun _ _ => .wr h ..

theorem Tau.showLinks_frame (x : Tau) (d : Nat) : (x.showLinks d).time = x.time ∧ (x.showLinks d).rings = x.rings ∧
    (x.showLinks d).out = x.out := ⟨rfl, rfl, rfl⟩

theorem Tau.forIdx_showLinks_frame (x : Tau) : (forIdx 16 (fun d y => y.showLinks d) x).time = x.time ∧
    (forIdx 16 (fun d y => y.showLinks d) x).rings = x.rings ∧ (forIdx 16 (fun d y => y.showLinks d) x).out = x.out := by
  have time := forIdx_keeps (n := 16) (f := fun d y => y.showLinks d) (p := Tau.time) (fun d y => (y.showLinks_frame d).1) x
  have rings := forIdx_keeps (n := 16) (f := fun d y => y.showLinks d) (p := Tau.rings) (fun d y => (y.showLinks_frame d).2.1) x
  have out := forIdx_keeps (n := 16) (f := fun d y => y.showLinks d) (p := Tau.out) (fun d y => (y.showLinks_frame d).2.2) x
  exact ⟨time, rings, out⟩

theorem Tau.cleared_frame (x : Tau) : x.cleared.time = { x.time with parentEb := 0, parentHo := false, parentPort := none } ∧
    x.cleared.rings = Tau.reset.rings.take 4 ++ x.rings.drop 4 ∧ x.cleared.out = x.out := ⟨rfl, rfl, rfl⟩

/-- What is kept of the time, the rings and what has been put out. -/
theorem Tau.mainReset_frame (x : Tau) : x.mainReset.time = { x.time with parentEb := 0, parentHo := false, parentPort := none } ∧
    x.mainReset.rings = Tau.reset.rings.take 4 ++ x.rings.drop 4 ∧ x.mainReset.out = x.out := by
  obtain ⟨time, rings, out⟩ := x.cleared_frame
  obtain ⟨time', rings', out'⟩ := x.cleared.forIdx_showLinks_frame
  rw [Tau.mainReset_eq]
  exact ⟨time'.trans time, rings'.trans rings, out'.trans out⟩

/-- The state in which the main rails leave the TAU: everything of theirs at reset. -/
structure Tau.AtMainReset (y : Tau) : Prop where
  regs : ∀ g ∈ mainFields, ∀ i s, y.rd g i s = g.resetAt i ∧ y.regs.getShadow g i s = g.resetAt i
  parts : y.scb = ScbSt.reset ∧ y.jobs = [] ∧ y.lib = Library.reset ∧ y.srv = SrvSt.reset ∧ y.tree = TreeSt.reset ∧ y.agr = AgrSt.reset ∧
    y.rings.take 4 = List.replicate 4 Ring.reset ∧ y.chans = List.replicate 16 TraceCh.reset ∧ y.cmp = List.replicate 4 CmpSt.reset ∧
    y.ntc = NoticeSt.reset ∧ y.mnt.tokens = [] ∧ y.mnt.bankA = [] ∧ y.mnt.bankB = []

theorem Tau.SameParts.atMainReset {x y : Tau} (h : x.cleared.SameParts mainFields y) : y.AtMainReset := by
  have parts := h.parts
  simp only [Tau.parts, Prod.mk.injEq] at parts
  obtain ⟨scb, jobs, lib, srv, tree, agr, rings, chans, cmp, ntc, mnt, -, -, -, shd⟩ := parts
  refine ⟨fun g hg i s => ?_, scb, jobs, lib, srv, tree, agr, ?_, chans, cmp, ntc, ?_⟩
  · obtain ⟨cur, shadow⟩ := RegFile.mainReset_of_main (outside_islandFields_of_main hg) x.regs i s
    refine ⟨(h.reads.rd g hg i s).trans cur, ?_⟩
    rw [RegFile.getShadow, shd]
    exact shadow
  · rw [rings]
    rfl
  · rw [mnt]
    exact ⟨rfl, rfl, rfl⟩

/-- What stays of the key store, the repair map and the island, and where FT stands. -/
theorem Tau.SameParts.kept {l : List Fld} {x y : Tau} (h : x.cleared.SameParts l y) :
    y.ft = x.ft ∧ y.fuses = x.fuses ∧ y.cip.cur = x.cip.cur ∧ y.cip.prev = x.cip.prev ∧ y.cip.staged = x.cip.staged ∧
      y.cip.ctr = x.cip.ctr ∧ y.cip.mgmt = x.cip.mgmt ∧ y.mnt.bist.map (·.rows) = x.mnt.bist.map (·.rows) ∧
      y.mnt.bist.map (·.cols) = x.mnt.bist.map (·.cols) ∧ y.mnt.island = x.mnt.island ∧ y.mnt.islBusy = x.mnt.islBusy := by
  have parts := h.parts
  simp only [Tau.parts, Prod.mk.injEq] at parts
  obtain ⟨-, -, -, -, -, -, -, -, -, -, mnt, ft, fuses, cip, -⟩ := parts
  have rows : x.cleared.mnt.bist.map (·.rows) = x.mnt.bist.map (·.rows) := List.map_map
  have cols : x.cleared.mnt.bist.map (·.cols) = x.mnt.bist.map (·.cols) := List.map_map
  rw [mnt, fuses, cip, ft]
  exact ⟨rfl, rfl, rfl, rfl, rfl, rfl, rfl, rows, cols, rfl, rfl⟩

theorem Fld.outside_of_mem {g : Fld} {l : List Fld} (h : g ∈ l) : g.outside l = false :=
  List.all_eq_false.mpr ⟨g, h, by simp⟩

/-- Nor does a register of the island change. -/
theorem Tau.SameParts.island {l : List Fld} {x y : Tau} (h : x.cleared.SameParts l y) {g : Fld} (hl : g ∈ l) (hg : g ∈ islandFields)
    (i s : Nat) : y.rd g i s = x.rd g i s ∧ y.regs.getShadow g i s = x.regs.getShadow g i s := by
  have parts := h.parts
  simp only [Tau.parts, Prod.mk.injEq] at parts
  obtain ⟨-, -, -, -, -, -, -, -, -, -, -, -, -, -, shd⟩ := parts
  obtain ⟨cur, shadow⟩ := RegFile.mainReset_of_island (Fld.outside_of_mem hg) x.regs i s
  refine ⟨(h.reads.rd g hl i s).trans cur, ?_⟩
  rw [RegFile.getShadow, shd]
  exact shadow

/-- What the island holds and no loss of the main rails writes. -/
def keptFields : List Fld :=
  (Reg.ofPage 0x1 ++ Reg.ofPage 0xF).filter (fun g => g.acc == .rw || g.acc == .rws) ++ (Reg.ofPage 0xB).filter (·.wide) ++
    [Reg.MNT_ISL_GUARD_CNT]

theorem keptFields_island {g : Fld} (h : g ∈ keptFields) : g ∈ islandFields := by
  simp only [keptFields, islandFields, List.mem_append, List.mem_filter] at h ⊢
  tauto

theorem loss_outside_keptFields : (Reg.GEN_TDU_STATE_LINKS :: lossFields).all (Fld.outside keptFields) = true := by decide +kernel

theorem loss_outside_mainFields : lossFields.all (Fld.outside mainFields) = true := by decide +kernel

theorem links_outside_mainFields : Reg.GEN_TDU_STATE_LINKS.outside mainFields = true := by decide +kernel

theorem links_outside_islandFields : Reg.GEN_TDU_STATE_LINKS.outside islandFields = true := by decide +kernel

/-! ### The rails fail, and return -/

/-- The bound and the holdover last received from the parent stand as `t` says. -/
def Tau.boundAs (x : Tau) (t : TimeSt) : Tau :=
  { x with time := { x.time with parentEb := t.parentEb, parentHo := t.parentHo, parentPort := t.parentPort } }

theorem Tau.boundAs_sameParts {l : List Fld} (x : Tau) (t : TimeSt) : x.SameParts l (x.boundAs t) := .time _

theorem Tau.keepExport_sameParts {l : List Fld} (x old : Tau) : x.SameParts l (x.keepExport old) := .eg _

/-- What the loss of the main rails makes of the TAU before it is recorded. -/
def Tau.afterLoss (x : Tau) (report : Option RailsKept) : Tau :=
  let y := x.mainReset.keepExport x
  let z := ((y.boundAs x.time).loseFlistan.boundAs y.time).endIslandFreeze
  { z with boot := { z.boot with kept := report } }

theorem Tau.railsLost_eq (x : Tau) (main : x.main = true) (islPg : x.islPg = true) :
    x.railsLost = ({ x with main := false, links := 0 } : Tau).inputsOf
      ((({ x with main := false, links := 0 } : Tau).afterLoss (some x.islandSays)).record 4 1 6 0x0102
        (x.scb.lastBuilt.flatMap fun p => leBytes 8 p)).flushRecords := by
  simp only [Tau.railsLost, Tau.afterLoss, Tau.boundAs, main, islPg, Bool.not_true, Bool.false_eq_true, if_false]

/-- A MAIN reset that keeps the EXPORT queues. -/
theorem Tau.mainReset_keepExport_sameParts {l : List Fld} (links : Reg.GEN_TDU_STATE_LINKS.outside l = true) (x : Tau) :
    x.cleared.SameParts l (x.mainReset.keepExport x) := by
  have reset := x.mainReset_sameParts links
  have queues := Tau.keepExport_sameParts (l := l) x.mainReset x
  exact reset.trans queues

theorem Tau.afterLoss_sameParts {l : List Fld} (loss : (Reg.GEN_TDU_STATE_LINKS :: lossFields).all (Fld.outside l) = true) (x : Tau)
    (report : Option RailsKept) : x.cleared.SameParts l (x.afterLoss report) := by
  obtain ⟨links, rest⟩ : Reg.GEN_TDU_STATE_LINKS.outside l = true ∧ lossFields.all (Fld.outside l) = true := by simpa using loss
  have kept := x.mainReset_keepExport_sameParts links
  simp only [Tau.afterLoss]
  generalize x.mainReset.keepExport x = y at kept ⊢
  have lost := ((y.boundAs_sameParts (l := l) x.time).trans (Tau.loseFlistan_sameParts rest (y.boundAs x.time))).trans
    ((y.boundAs x.time).loseFlistan.boundAs_sameParts (l := l) y.time)
  generalize (y.boundAs x.time).loseFlistan.boundAs y.time = z at lost ⊢
  have frozen := Tau.endIslandFreeze_sameParts rest z
  generalize z.endIslandFreeze = w at frozen ⊢
  have last := Tau.SameParts.boot (l := l) (x := w) { w.boot with kept := report }
  exact ((kept.trans lost).trans frozen).trans last

/-- The rails return: what is recorded leaves a MAIN reset of the TAU with the rails up. -/
theorem Tau.railsReset_eq (x : Tau) (main : x.main = false) (islPg : x.islPg = true) :
    x.railsReset false = ({ x with main := true } : Tau).inputsOf
      ((({ x with main := true } : Tau).mainReset.keepExport { x with main := true }).record 4 1 6 0x0103 []).flushRecords := by
  simp only [Tau.railsReset, main, islPg, Bool.not_true, Bool.false_eq_true, if_false]

theorem Tau.railsReset_host_eq (x : Tau) (on : x.on = true) : x.railsReset true = x.inputsOf x.mainReset := by
  simp only [Tau.railsReset, on, if_true]

/-- What the island keeps of the TAU through a loss of the main rails. -/
structure Tau.KeptFrom (x y : Tau) : Prop where
  hardware : y.ft = x.ft ∧ y.fuses = x.fuses ∧ y.cip.cur = x.cip.cur ∧ y.cip.prev = x.cip.prev ∧ y.cip.staged = x.cip.staged ∧
    y.cip.ctr = x.cip.ctr ∧ y.cip.mgmt = x.cip.mgmt ∧ y.mnt.bist.map (·.rows) = x.mnt.bist.map (·.rows) ∧
    y.mnt.bist.map (·.cols) = x.mnt.bist.map (·.cols) ∧ y.mnt.island = x.mnt.island ∧ y.mnt.islBusy = x.mnt.islBusy
  regs : ∀ g ∈ keptFields, ∀ i s, y.rd g i s = x.rd g i s ∧ y.regs.getShadow g i s = x.regs.getShadow g i s

/-- And what it keeps beside through a reset. -/
structure Tau.WholeFrom (x y : Tau) : Prop extends Tau.KeptFrom x y where
  time : y.time = { x.time with parentEb := 0, parentHo := false, parentPort := none }
  rings : y.rings.drop 4 = x.rings.drop 4
  island : ∀ g ∈ islandFields, ∀ i s, y.rd g i s = x.rd g i s

theorem Tau.SameParts.keptFrom {x y : Tau} (h : x.cleared.SameParts keptFields y) : x.KeptFrom y :=
  ⟨h.kept, fun _ hg => h.island hg (keptFields_island hg)⟩

theorem Tau.SameParts.of_subset {l k : List Fld} {x y : Tau} (h : x.SameParts l y) (sub : ∀ g ∈ k, g ∈ l) : x.SameParts k y :=
  ⟨h.parts, ⟨fun g hg => h.reads.rd g (sub g hg)⟩⟩

theorem Tau.KeptFrom.of_levels {x y : Tau} {main : Bool} {links : Nat}
    (h : ({ x with main := main, links := links } : Tau).KeptFrom y) : x.KeptFrom y := ⟨h.hardware, h.regs⟩

theorem Tau.WholeFrom.of_main {x y : Tau} {main : Bool} (h : ({ x with main := main } : Tau).WholeFrom y) : x.WholeFrom y :=
  ⟨⟨h.hardware, h.regs⟩, h.time, h.rings, h.island⟩

theorem Tau.SameParts.wholeFrom {x y : Tau} (h : x.cleared.SameParts islandFields y)
    (time : y.time = { x.time with parentEb := 0, parentHo := false, parentPort := none })
    (rings : y.rings = Tau.reset.rings.take 4 ++ x.rings.drop 4) : x.WholeFrom y where
  toKeptFrom := (h.of_subset fun _ => keptFields_island).keptFrom
  time := time
  rings := by rw [rings]; exact List.drop_left' rfl
  island _ hg i s := (h.island hg hg i s).1

theorem Tau.keepExport_frame (x old : Tau) : (x.keepExport old).time = x.time ∧ (x.keepExport old).rings = x.rings := ⟨rfl, rfl⟩

theorem Tau.mainReset_keepExport_wholeFrom (x : Tau) : x.WholeFrom (x.mainReset.keepExport x) := by
  obtain ⟨time, rings⟩ := x.mainReset.keepExport_frame x
  obtain ⟨time', rings', -⟩ := x.mainReset_frame
  exact (Tau.mainReset_keepExport_sameParts links_outside_islandFields x).wholeFrom (time.trans time') (rings.trans rings')

/-- The loss of the rails clears what is theirs, keeps what the island holds, and is recorded. -/
theorem Tau.railsLost_clears (x : Tau) (main : x.main = true) (islPg : x.islPg = true) :
    ∃ y : Tau, y.AtMainReset ∧ x.KeptFrom y ∧ x.railsLost = ({ x with main := false, links := 0 } : Tau).inputsOf
      (y.record 4 1 6 0x0102 (x.scb.lastBuilt.flatMap fun p => leBytes 8 p)).flushRecords := by
  refine ⟨_, ?_, ?_, x.railsLost_eq main islPg⟩
  · exact (Tau.afterLoss_sameParts (by
      simp only [List.all_cons, links_outside_mainFields, loss_outside_mainFields, Bool.and_self]) _ _).atMainReset
  · exact (Tau.afterLoss_sameParts loss_outside_keptFields _ _).keptFrom.of_levels

/-- Their return clears the same, keeps the island whole, and is recorded. -/
theorem Tau.railsReset_clears (x : Tau) (main : x.main = false) (islPg : x.islPg = true) :
    ∃ y : Tau, y.AtMainReset ∧ x.WholeFrom y ∧
      x.railsReset false = ({ x with main := true } : Tau).inputsOf (y.record 4 1 6 0x0103 []).flushRecords := by
  refine ⟨_, ?_, ?_, x.railsReset_eq main islPg⟩
  · exact (Tau.mainReset_keepExport_sameParts links_outside_mainFields _).atMainReset
  · exact (Tau.mainReset_keepExport_wholeFrom _).of_main

/-- And so does a reset of the host endpoint, which puts nothing out. -/
theorem Tau.railsReset_host_clears (x : Tau) (on : x.on = true) :
    ∃ y : Tau, y.AtMainReset ∧ x.WholeFrom y ∧ y.out = x.out ∧ x.railsReset true = x.inputsOf y := by
  obtain ⟨time, rings, out⟩ := x.mainReset_frame
  exact ⟨_, (x.mainReset_sameParts links_outside_mainFields).atMainReset,
    (x.mainReset_sameParts links_outside_islandFields).wholeFrom time rings, out, x.railsReset_host_eq on⟩

theorem mem_keptFields {p : Nat} (hp : p ∈ [0x1, 0xF]) {g : Fld} (hg : g ∈ Reg.ofPage p) (acc : g.acc = .rw ∨ g.acc = .rws) :
    g ∈ keptFields := by
  have page : g ∈ Reg.ofPage 0x1 ++ Reg.ofPage 0xF := by
    obtain rfl | rfl : p = 0x1 ∨ p = 0xF := by simpa using hp
    · exact List.mem_append_left _ hg
    · exact List.mem_append_right _ hg
  exact List.mem_append_left _ (List.mem_append_left _ (List.mem_filter.mpr ⟨page, by simpa using acc⟩))

theorem mem_keptFields_of_wide {g : Fld} (hg : g ∈ Reg.ofPage 0xB) (wide : g.wide = true) : g ∈ keptFields :=
  List.mem_append_left _ (List.mem_append_right _ (List.mem_filter.mpr ⟨hg, wide⟩))

theorem guard_mem_keptFields : Reg.MNT_ISL_GUARD_CNT ∈ keptFields := List.mem_append_right _ (List.mem_singleton.mpr rfl)

theorem mem_islandFields {p : Nat} (hp : p ∈ [0x1, 0xF]) {g : Fld} (hg : g ∈ Reg.ofPage p) : g ∈ islandFields := by
  obtain rfl | rfl : p = 0x1 ∨ p = 0xF := by simpa using hp
  · exact List.mem_append_left _ (List.mem_append_left _ (List.mem_append_left _ hg))
  · exact List.mem_append_left _ (List.mem_append_left _ (List.mem_append_right _ hg))

/-- Of two states only the inputs count. -/
theorem Tau.inputsOf_congr {a b : Tau} (islPg : a.islPg = b.islPg) (main : a.main = b.main) (links : a.links = b.links) (y : Tau) :
    a.inputsOf y = b.inputsOf y := by
  simp only [Tau.inputsOf, islPg, main, links]

end Sys2Proof.Machine

open Sys2Proof Sys2Proof.Machine

/-- Settles O21, through what each of the three resets of the main rails clears and keeps. -/
theorem suppliesAct : Obligations.SuppliesAct := by
  unfold Obligations.SuppliesAct
  refine ⟨fun s t islPg => ?_, fun s t => ⟨rfl, fun islPg => ?_⟩⟩
  · intro x held cleared kept whole
    have islPgX : x.islPg = true := (s.tau.advance_islPg t).trans islPg
    have clearedOf {y : Tau} (h : y.AtMainReset) : cleared y :=
      ⟨fun p hp g hg alone => h.regs g (mem_mainFields hp hg alone), h.parts⟩
    have keptOf {y : Tau} (h : x.KeptFrom y) : kept y := by
      obtain ⟨ft, fuses, cur, prev, staged, ctr, mgmt, rows, cols, island, busy⟩ := h.hardware
      exact ⟨ft, fuses, cur, prev, staged, ctr, mgmt, rows, cols, island, busy,
        fun p hp g hg acc i => h.regs g (mem_keptFields hp hg acc) i 0,
        fun g hg wide i => (h.regs g (mem_keptFields_of_wide hg wide) i 0).1, (h.regs _ guard_mem_keptFields 0 0).1⟩
    have wholeOf {y : Tau} (h : x.WholeFrom y) : whole y :=
      ⟨keptOf h.toKeptFrom, h.time, h.rings, fun p hp g hg i => h.island g (mem_islandFields hp hg) i 0⟩
    have now : (if s.tau.islPg then s.tau.advance t else s.tau) = x := if_pos islPg
    refine ⟨fun main => ?_, fun main => ?_, fun main => ?_⟩
    · obtain ⟨y, hc, hk, e⟩ := x.railsLost_clears ((s.tau.advance_main t).trans main) islPgX
      refine ⟨y, clearedOf hc, keptOf hk, ?_⟩
      show Host.Outcome.next { s with tau := (if s.tau.islPg then s.tau.advance t else s.tau).railsLost } = _
      rw [now, e]
      exact congrArg (fun z => Host.Outcome.next { s with tau := z })
        (Tau.inputsOf_congr (a := { x with main := false, links := 0 }) (b := { s.tau with main := false, links := 0 })
          (s.tau.advance_islPg t) rfl rfl _)
    · obtain ⟨y, hc, hw, e⟩ := x.railsReset_clears ((s.tau.advance_main t).trans main) islPgX
      refine ⟨y, clearedOf hc, wholeOf hw, ?_⟩
      show Host.Outcome.next { s with tau := (if s.tau.islPg then s.tau.advance t else s.tau).railsReset false } = _
      rw [now, e]
      exact congrArg (fun z => Host.Outcome.next { s with tau := z })
        (Tau.inputsOf_congr (a := { x with main := true }) (b := { s.tau with main := true })
          (s.tau.advance_islPg t) rfl (s.tau.advance_links t) _)
    · have mainX : x.main = true := (s.tau.advance_main t).trans main
      have on : x.on = true := by rw [Tau.on, islPgX, mainX]; rfl
      obtain ⟨y, hc, hw, out, e⟩ := x.railsReset_host_clears on
      refine ⟨y, clearedOf hc, wholeOf hw, out, ?_⟩
      show Host.Outcome.next { s with tau := (if s.tau.islPg then s.tau.advance t else s.tau).railsReset true } = _
      rw [now, e, Tau.inputsOf_congr (b := s.tau) (s.tau.advance_islPg t) (s.tau.advance_main t) (s.tau.advance_links t)]
  · show Host.Outcome.next { s with tau := if s.tau.islPg then { s.tau.advance t with islPg := false, links := 0 } else s.tau } = _
    rw [if_pos islPg]

end

section
/-! ## What keeps the reset values of the TAU open (R335; log entry 65) -/

open Sys2Proof Sys2Proof.Machine

/-- PORT_STAT at reset: the links of the two management ports, and the main rails up. -/
theorem readWord_portStat_reset (port : Port) : (State.reset.tau.readWord port 0x2040).1 =
    bit (Config.portUp 0 0) % 2 ^ 1 * 2 ^ 0 + bit (Config.portUp 1 0) % 2 ^ 1 * 2 ^ 1 + 1 * 2 ^ 2 := by
  rw [← Nat.zero_add (bit (Config.portUp 0 0) % 2 ^ 1 * 2 ^ 0)]
  rfl

/-- O16 is left unsettled: it says that PORT_STAT reads 4 at reset, which fixes a value of the opaque `Config.portUp`, so that nothing
proved of the model can decide it. -/
theorem portUp_of_fieldsReadTheirResetValues (h : Obligations.FieldsReadTheirResetValues) :
    Config.portUp 0 0 = false ∧ Config.portUp 1 0 = false := by
  have said : (State.reset.tau.readWord .host 0x2040).1 = 4 :=
    ((h .host 0x2040 0xF 0 0x40 false).1 (by decide) (by decide)).trans (by decide +kernel)
  rw [readWord_portStat_reset] at said
  cases up0 : Config.portUp 0 0 with
  | false =>
    cases up1 : Config.portUp 1 0 with
    | false => exact ⟨rfl, rfl⟩
    | true => simp [up0, up1, bit] at said
  | true => cases up1 : Config.portUp 1 0 <;> simp [up0, up1, bit] at said

end
